-- ==== Sys2Proof/Word.lean ====
section
/-! DEFINITION. The word types of the manual (R3, R4): a byte, the 32-bit register and instruction word, the
64-bit scalar, the 128-bit lane mask, and the 64-bit register of a Granary hart. -/
namespace Sys2Proof

/-- One byte of memory (R4). -/
abbrev Byte := BitVec 8
/-- A 32-bit vector register element, latch or instruction word (R112, R144). -/
abbrev Word := BitVec 32
/-- A scalar register or a management register (R112, R370). -/
abbrev Dword := BitVec 64
/-- A mask over the lanes of a group, bit l for lane l (R38, R86). -/
abbrev Mask := BitVec 128

end Sys2Proof
end

