-- ==== Sys2Proof/Config.lean ====
section
/-! DEFINITION. What one implementation fixes and the manual does not give: constants without a body, so that a claim
holds whatever they are (notes/assumptions/4, 5, 6, 7, 8, 9). -/
namespace Sys2Proof.Config

/-- The approximate functions whose bits the manual leaves open within bounds (R194, R196). -/
inductive Approx where
  | frcp | frsq | fexp2 | flog2 | fsin | fcos | ftanh | fsigm
  deriving DecidableEq, Repr

/-- The result bits of an approximate function of an f32 operand: one value for each operand on every core (R196).
Free (log 4). -/
opaque approx : Approx → Word → Word

/-- The fixed hash that picks a region's table home from its object and base (R89); a die number after mod 16.
Free (log 5). -/
opaque tableHome : Nat → Nat → Nat

/-- What the boot ROM finds in an image: whether the presented key hashes to the fused digest, whether the signature
verifies, the version, the measurement if it can be taken, and whether the firmware starts (R25). The functions are FIPS 205 and SHA-256, which the manual names and
does not describe; the arguments are the fused digest and the image's address and bytes. Free (log 6). -/
structure ImageVerdict where
  keyOk : Bool
  sigOk : Bool
  version : BitVec 16
  measureOk : Bool
  measurement : BitVec 256
  startOk : Bool
  deriving DecidableEq, Repr, Inhabited

opaque verifyImage : BitVec 256 → Nat → List (Nat × Byte) → ImageVerdict

/-- What an attestation report holds (R26, R478): the ordering code, the public identity key, the measurement of each die's
firmware, the rollback counter, the nonce, and the dies that are absent. -/
structure AttestReport where
  code : String
  key : BitVec 256
  measurements : List (BitVec 256)
  rollback : BitVec 16
  nonce : BitVec 256
  absent : BitVec 16
  deriving DecidableEq, Repr

/-- The 32-byte public identity key that a device seed gives (R24). Free (log 6). -/
opaque identityKey : BitVec 256 → BitVec 256

/-- A report as bytes, whose layout the manual does not give (R26, R478). Free (log 6). -/
opaque reportBytes : AttestReport → List Byte

/-- Byte i of the SLH-DSA signature of some bytes under the key pair of a device seed (R24). Free (log 6). -/
opaque signatureByte : BitVec 256 → List Byte → Nat → Byte

/-- Whether, at a count of a die, the owner of a far object has bound this module's context (R381): module and context. The
owner's import table lies outside this module. Free (log 15). -/
opaque farBound : Nat → Nat → Nat → Bool

/-- The size in bytes of a page's compressed image in the press zone (R77, R430). Free (log 7). -/
opaque imageSize : List (Nat × Byte) → Nat

/-- The bytes of the press zone that the driver has reserved (R77, R430); no register holds it. Free (log 7). -/
opaque pressZone : Nat

/-- A value that the manual leaves open at one moment, drawn once for each count of State.drawn (log 8). -/
opaque freeByte : Nat → Byte

/-- A value that a read returns where the manual does not allow it: at a count of State.drawn, an offset (R408; log 8). -/
opaque freeDword : Nat → Nat → Dword

/-- A yes or no that the manual leaves open at one moment, drawn as freeByte: whether a patrol scrub finds a wrong bit
(R431; log 8). -/
opaque freeBool : Nat → Bool

/-- Sheaves of the house account for work whose cost the manual does not state (R338, R450): 0 a scrub of a bond, 1 a
patrol scrub, 2 a ratio change, 3 an in-field test. Free (log 9). -/
opaque houseCost : Nat → Nat

end Sys2Proof.Config
end

