-- ==== Sys2Proof/Syntax/Operands.lean ====
section
/-! DEFINITION. The operand forms of the instructions (R147 to R151, R160): what the fields of a unit hold after
decoding. The constructors of Instr (Sys2Proof/Syntax.lean) carry these records. -/
namespace Sys2Proof

/-- The X prefix of a unit (R160), field by field. A unit without a prefix acts as one with every field zero. -/
structure Prefix where
  g : Bool := false
  n : Bool := false
  gm : Nat := 0
  rnd : Nat := 0
  sat : Bool := false
  ty : Nat := 0
  imm : Nat := 0
  deriving DecidableEq, Repr

/-- The words of a unit around its instruction word: at most one prefix before it, at most one literal after it (R144). -/
structure Hdr where
  px : Option Prefix := none
  lit : Option Word := none
  deriving DecidableEq, Repr

/-- A vector-class source (R149): a register through the window, a scalar, zero, the lane index, one, the literal
word, or a latch. -/
inductive Src where
  | v (n : Nat)
  | s (i : Nat)
  | zero
  | lane
  | one
  | lit
  | y (j : Nat)
  deriving DecidableEq, Repr

/-- A vector-class destination (R149, R155): v(n), with W = 1 when only its latch is written, or a latch (W = 1). -/
inductive Dst where
  | v (n : Nat) (w : Bool)
  | y (j : Nat)
  deriving DecidableEq, Repr

/-- A scalar operand (R151, R230): s(i), 0, 1 or the literal. -/
inductive SSrc where
  | s (i : Nat)
  | zero
  | one
  | lit
  deriving DecidableEq, Repr

/-- A mask position read as a source (R151): k(n), or the all-zero mask (code 112). -/
inductive MSrc where
  | k (n : Nat)
  | none
  deriving DecidableEq, Repr

/-- The ten integer conditions (R184). -/
inductive ICond where
  | eq | ne | lt | le | gt | ge | ltn | len | gtn | gen
  deriving DecidableEq, Repr

/-- The fourteen float conditions (R197). -/
inductive FCond where
  | eq | ne | lt | le | gt | ge | uneq | unne | unlt | unle | ungt | unge | anynan | bothnum
  deriving DecidableEq, Repr

/-- The eleven operations of REDUX and SCAN (R212). -/
inductive RedOp where
  | add | min | max | nmin | nmax | and | or | xor | fadd | fmin | fmax
  deriving DecidableEq, Repr

/-- The thirteen atomic operations (R220). -/
inductive AtomOp where
  | add | min | max | nmin | nmax | and | or | xor | exch | cas | fadd | inc | dec
  deriving DecidableEq, Repr

/-- The types that CVT numbers (R200). -/
inductive CvtTy where
  | f32 | f16 | bf16 | i32 | n32 | i64 | n64
  deriving DecidableEq, Repr

/-- The operation of DSIG and MSIG on a mailbox word (R252, R297). -/
inductive SigOp where
  | add | or | max | set
  deriving DecidableEq, Repr

/-- The condition of DWAIT (R252). -/
inductive WaitCond where
  | ge | eq | ne | any
  deriving DecidableEq, Repr

/-- V3, three operands. -/
structure V3 where
  h : Hdr
  d : Dst
  a : Src
  b : Src
  deriving DecidableEq, Repr

/-- V3, B unread. -/
structure V2 where
  h : Hdr
  d : Dst
  a : Src
  deriving DecidableEq, Repr

/-- ICMP (R184). -/
structure ICmpU where
  h : Hdr
  k : Nat
  a : Src
  b : Src
  c : ICond
  deriving DecidableEq, Repr

/-- FCMP (R197). -/
structure FCmpU where
  h : Hdr
  k : Nat
  a : Src
  b : Src
  c : FCond
  deriving DecidableEq, Repr

/-- SEL (R185). -/
structure SelU where
  h : Hdr
  d : Dst
  a : Src
  k : MSrc
  deriving DecidableEq, Repr

/-- MOVK (R185). -/
structure MovkU where
  h : Hdr
  d : Dst
  k : MSrc
  deriving DecidableEq, Repr

/-- KMOV (R185). -/
structure KmovU where
  h : Hdr
  k : Nat
  a : Src
  deriving DecidableEq, Repr

/-- V2I with an 11-bit immediate (R186). -/
structure ImmU where
  h : Hdr
  d : Dst
  a : Src
  imm : BitVec 11
  deriving DecidableEq, Repr

/-- V2I of major 0x0A: a shift amount (R148, R186). -/
structure ShU where
  h : Hdr
  d : Dst
  a : Src
  n : Nat
  deriving DecidableEq, Repr

/-- MOVI (R186). -/
structure MoviU where
  h : Hdr
  d : Dst
  imm : BitVec 11
  deriving DecidableEq, Repr

/-- Scalar, three operands (R187). -/
structure SU where
  h : Hdr
  d : Nat
  a : SSrc
  b : SSrc
  deriving DecidableEq, Repr

/-- SADDI (R187). -/
structure SImmU where
  h : Hdr
  d : Nat
  a : SSrc
  imm : BitVec 11
  deriving DecidableEq, Repr

/-- SCMP (R187). -/
structure SCmpU where
  h : Hdr
  d : Nat
  a : SSrc
  b : SSrc
  c : ICond
  deriving DecidableEq, Repr

/-- SMOV (R188). -/
structure SMovU where
  h : Hdr
  d : Nat
  a : SSrc
  deriving DecidableEq, Repr

/-- SRDK (R188). -/
structure SrdkU where
  h : Hdr
  d : Nat
  k : Nat
  hi : Bool
  deriving DecidableEq, Repr

/-- SWRK (R188). -/
structure SwrkU where
  h : Hdr
  k : Nat
  a : SSrc
  hi : Bool
  deriving DecidableEq, Repr

/-- A scalar destination and a mask source: SPOPK, VALL, VANY (R188, R214). -/
structure KRdU where
  h : Hdr
  d : Nat
  k : MSrc
  deriving DecidableEq, Repr

/-- CVT (R200): the source type stands in the prefix's TYPE. -/
structure CvtU where
  h : Hdr
  d : Dst
  a : Src
  hsel : Bool
  t : CvtTy
  deriving DecidableEq, Repr

/-- BCAST: B uniform (R210). -/
structure BcastU where
  h : Hdr
  d : Dst
  a : Src
  b : SSrc
  deriving DecidableEq, Repr

/-- RDLANE (R210). -/
structure RdlaneU where
  h : Hdr
  d : Nat
  a : Src
  b : SSrc
  deriving DecidableEq, Repr

/-- WRLANE (R210). -/
structure WrlaneU where
  h : Hdr
  d : Dst
  a : SSrc
  b : SSrc
  deriving DecidableEq, Repr

/-- The destination of REDUX: vector class, or a scalar (R212). -/
inductive RDst where
  | vec (d : Dst)
  | sc (i : Nat)
  deriving DecidableEq, Repr

/-- REDUX (R212). -/
structure ReduxU where
  h : Hdr
  d : RDst
  a : Src
  op : RedOp
  deriving DecidableEq, Repr

/-- SCAN (R212). -/
structure ScanU where
  h : Hdr
  d : Dst
  a : Src
  op : RedOp
  deriving DecidableEq, Repr

/-- VBALLOT (R214). -/
structure BallotU where
  h : Hdr
  d : Nat
  a : Src
  hi : Bool
  deriving DecidableEq, Repr

/-- KAND, KOR, KXOR, KANDN (R214). -/
structure K3U where
  h : Hdr
  k : Nat
  a : MSrc
  b : MSrc
  deriving DecidableEq, Repr

/-- KNOT, KFIRST (R214). -/
structure K2U where
  h : Hdr
  k : Nat
  a : MSrc
  deriving DecidableEq, Repr

/-- WBASE (R215): sel is SEL8; a is a scalar or zero. -/
structure WbaseU where
  h : Hdr
  sel : Nat
  a : SSrc
  deriving DecidableEq, Repr

/-- LD (R216): d is the register number. -/
structure LdU where
  h : Hdr
  c : Nat
  sz : Nat
  o40 : Bool
  d : Nat
  a : Src
  res : Nat
  nt : Bool
  deriving DecidableEq, Repr

/-- ST (R216): d is the data source. -/
structure StU where
  h : Hdr
  c : Nat
  sz : Nat
  o40 : Bool
  d : Src
  a : Src
  res : Nat
  nt : Bool
  deriving DecidableEq, Repr

/-- LDL (R216). -/
structure LdlU where
  h : Hdr
  sz : Nat
  d : Nat
  a : Src
  deriving DecidableEq, Repr

/-- STL (R216). -/
structure StlU where
  h : Hdr
  sz : Nat
  d : Src
  a : Src
  deriving DecidableEq, Repr

/-- LDU (R216): d is a scalar number. -/
structure LduU where
  h : Hdr
  c : Nat
  sz : Nat
  o40 : Bool
  d : Nat
  a : SSrc
  res : Nat
  deriving DecidableEq, Repr

/-- STU (R216). -/
structure StuU where
  h : Hdr
  c : Nat
  sz : Nat
  o40 : Bool
  d : SSrc
  a : SSrc
  res : Nat
  deriving DecidableEq, Repr

/-- ATOM (R220). -/
structure AtomU where
  h : Hdr
  c : Nat
  sz : Nat
  o40 : Bool
  d : Nat
  a : Src
  op : AtomOp
  deriving DecidableEq, Repr

/-- RED (R220). -/
structure RedU where
  h : Hdr
  c : Nat
  sz : Nat
  o40 : Bool
  d : Src
  a : Src
  op : AtomOp
  deriving DecidableEq, Repr

/-- A unit with no operand beside its prefix: FENCE, RET, JOIN, EXIT, YIELD, NOP, DBAR. -/
structure NoneU where
  h : Hdr
  deriving DecidableEq, Repr

/-- PREF (R223). -/
structure PrefU where
  h : Hdr
  c : Nat
  o40 : Bool
  lvl : Nat
  a : Src
  deriving DecidableEq, Repr

/-- PAGEIN (R224). -/
structure PageinU where
  h : Hdr
  c : Nat
  o40 : Bool
  a : Src
  r : Nat
  deriving DecidableEq, Repr

/-- CDERIVE (R225). -/
structure CderiveU where
  h : Hdr
  ct : Nat
  cf : Nat
  a : SSrc
  b : SSrc
  deriving DecidableEq, Repr

/-- CRIGHTS (R225). -/
structure CrightsU where
  h : Hdr
  ct : Nat
  cf : Nat
  a : SSrc
  deriving DecidableEq, Repr

/-- CGETB, CGETL, CGETR, CTEST (R225). -/
structure CgetU where
  h : Hdr
  cf : Nat
  d : Nat
  deriving DecidableEq, Repr

/-- CLDC, CSTC (R226). -/
structure CmemU where
  h : Hdr
  ct : Nat
  cf : Nat
  a : SSrc
  loc : Bool
  deriving DecidableEq, Repr

/-- CNULL, CMOV (R225). CNULL has cf = 0. -/
structure CmovU where
  h : Hdr
  ct : Nat
  cf : Nat
  deriving DecidableEq, Repr

/-- An ownership operation (R227): capability, team bit, offset scalar, status scalar. -/
structure DopU where
  h : Hdr
  c : Nat
  team : Bool
  a : SSrc
  r : Nat
  deriving DecidableEq, Repr

/-- DQUERY.self (R229). -/
structure DselfU where
  h : Hdr
  team : Bool
  d : Nat
  deriving DecidableEq, Repr

/-- NMRED, NMSCAT (R233). -/
structure NmU where
  h : Hdr
  j : Nat
  w : Bool
  a : Nat
  r : Nat
  deriving DecidableEq, Repr

/-- CPY, CPYC (R237). -/
structure CpyU where
  h : Hdr
  a : SSrc
  r : Nat
  deriving DecidableEq, Repr

/-- A single scalar register named: BLEASE, BFREE, BSTAT, ENRG. -/
structure RegU where
  h : Hdr
  d : Nat
  deriving DecidableEq, Repr

/-- BFORK (R244). -/
structure BforkU where
  h : Hdr
  c : Nat
  a : SSrc
  r : Nat
  deriving DecidableEq, Repr

/-- BRDV, BARV (R244). -/
structure BrdvU where
  h : Hdr
  n : Nat
  a : SSrc
  deriving DecidableEq, Repr

/-- BRA, CALL (R248). -/
structure BraU where
  h : Hdr
  k : Nat
  n : Bool
  disp : BitVec 22
  deriving DecidableEq, Repr

/-- JMP (R248). -/
structure JmpU where
  h : Hdr
  disp : BitVec 22
  deriving DecidableEq, Repr

/-- BRX, CALLX (R249). -/
structure BrxU where
  h : Hdr
  a : Src
  deriving DecidableEq, Repr

/-- A unit with one scalar operand: SLEEP, SWRITE. -/
structure SargU where
  h : Hdr
  a : SSrc
  deriving DecidableEq, Repr

/-- BAR, BARA, BARW (R252). -/
structure BarU where
  h : Hdr
  b : Nat
  deriving DecidableEq, Repr

/-- DSIG (R252). -/
structure DsigU where
  h : Hdr
  op : SigOp
  w : Nat
  a : SSrc
  b : SSrc
  deriving DecidableEq, Repr

/-- DWAIT (R252): r holds the deadline and receives the status. -/
structure DwaitU where
  h : Hdr
  cond : WaitCond
  w : Nat
  a : SSrc
  r : Nat
  deriving DecidableEq, Repr

/-- RTEST (R252). -/
structure RtestU where
  h : Hdr
  a : Nat
  d : Nat
  deriving DecidableEq, Repr

/-- CONT (R258). -/
structure ContU where
  h : Hdr
  a : Nat
  deriving DecidableEq, Repr

/-- STEP.SEND (R258). -/
structure SendU where
  h : Hdr
  s : Nat
  k : Nat
  a : Src
  b : Nat
  deriving DecidableEq, Repr

/-- STEP.TAKE (R258). -/
structure TakeU where
  h : Hdr
  r : Nat
  hd : Bool
  a : Src
  b : Nat
  deriving DecidableEq, Repr

/-- TRAP (R262): a is the vector of local addresses, or zero (code 112) for no argument block. -/
structure TrapU where
  h : Hdr
  n : Nat
  a : Src
  r : Nat
  deriving DecidableEq, Repr

/-- BRK (R262). -/
structure BrkU where
  h : Hdr
  code : Nat
  deriving DecidableEq, Repr

/-- The destination of SREAD: a vector register or a scalar (R262). -/
inductive RegDst where
  | v (n : Nat)
  | s (i : Nat)
  deriving DecidableEq, Repr

/-- SREAD (R262). -/
structure SreadU where
  h : Hdr
  reg : Nat
  d : RegDst
  deriving DecidableEq, Repr

/-- EVT (R262). -/
structure EvtU where
  h : Hdr
  n : Nat
  a : SSrc
  deriving DecidableEq, Repr

/-- RV64 integer operations of OP and OP-32 with Zba and Zbb (R345; the RISC-V standard names them). -/
inductive RvOp where
  | add | sub | sll | slt | sltu | xor | srl | sra | or | and
  | mul | mulh | mulhsu | mulhu | div | divu | rem | remu
  | sh1add | sh2add | sh3add | adduw | sh1adduw | sh2adduw | sh3adduw
  | andn | orn | xnor | max | maxu | min | minu | rol | ror | slliuw
  deriving DecidableEq, Repr

/-- RV64 one-source operations of Zbb (R345). -/
inductive RvOp1 where
  | clz | ctz | cpop | sextb | sexth | zexth | orcb | rev8
  deriving DecidableEq, Repr

/-- RV64 branch conditions. -/
inductive RvCond where
  | eq | ne | lt | ge | ltu | geu
  deriving DecidableEq, Repr

/-- RV64A memory operations. -/
inductive RvAmo where
  | swap | add | xor | and | or | min | max | minu | maxu
  deriving DecidableEq, Repr

/-- Zicsr operations. -/
inductive RvCsr where
  | rw | rs | rc
  deriving DecidableEq, Repr

/-- The ordinary instructions of a Granary hart, RV64IMAC with Zicsr, Zifencei, Zba and Zbb (R345). Immediates and
offsets are already sign-extended. -/
inductive Rv where
  | lui (rd : Nat) (imm : Int)
  | auipc (rd : Nat) (imm : Int)
  | jal (rd : Nat) (off : Int)
  | jalr (rd rs1 : Nat) (off : Int)
  | branch (c : RvCond) (rs1 rs2 : Nat) (off : Int)
  | load (rd rs1 : Nat) (off : Int) (bytes : Nat) (signed : Bool)
  | store (rs1 rs2 : Nat) (off : Int) (bytes : Nat)
  | opImm (o : RvOp) (w32 : Bool) (rd rs1 : Nat) (imm : Int)
  | op (o : RvOp) (w32 : Bool) (rd rs1 rs2 : Nat)
  | op1 (o : RvOp1) (w32 : Bool) (rd rs1 : Nat)
  | lr (rd rs1 bytes : Nat)
  | sc (rd rs1 rs2 bytes : Nat)
  | amo (o : RvAmo) (rd rs1 rs2 bytes : Nat)
  | csr (o : RvCsr) (rd : Nat) (src : Nat) (imm : Bool) (num : Nat)
  | fence
  | fenceI
  | ecall
  | ebreak
  deriving DecidableEq, Repr

/-- A host write to the update registers (R387): MUSEL, MUIDX, MUNEW. -/
structure MuArgs where
  sel : Dword
  idx : Dword
  new : Nat
  deriving DecidableEq, Repr

/-- A debug command of R403: the die whose DCMD was written, context, team handle, group number, split index. -/
structure DbgArgs where
  die : Nat
  ctx : Nat
  handle : Nat
  grp : Nat
  idx : Nat
  deriving DecidableEq, Repr

/-- What a PAGEIN page action comes to (R76, R224, R429): done, a failed host copy, a damaged pressed image. -/
inductive PageOutcome where
  | done
  | hostFail
  | damaged
  deriving DecidableEq, Repr

/-- What a far access asks of the owner (R381, R390). -/
inductive FarKind where
  | read (n : Nat)
  | write (bytes : List Byte)
  | atom (op : AtomOp) (n : Nat) (v cmp : Nat)
  deriving DecidableEq, Repr

/-- The ownership messages of R382. -/
inductive FarMsg where
  | lendIn (oid base len : Nat)
  | returnIn (oid base : Nat)
  deriving DecidableEq, Repr

/-- What an uncorrectable error of R432 and R468 strikes: a team's local store, or Granary window SRAM. -/
inductive LocalTarget where
  | team (die handle rank off len : Nat)
  | sram (die addr len : Nat)
  deriving DecidableEq, Repr

/-- The arguments of a step that no encoding carries: which die, context, team, group, object, slot or mailbox it acts
on, and the values the other agent or the host brings. A step reads the fields its rule names; the state latches them
(State.arg) before the step runs. -/
structure StepArgs where
  /-- A die of the module. -/
  die : Nat := 0
  /-- A context. -/
  ctx : Nat := 0
  /-- A team handle of the die. -/
  handle : Nat := 0
  /-- A group of the team. -/
  grp : Nat := 0
  /-- An index: a split, a queue position, a hold-list or cache entry. -/
  idx : Nat := 0
  /-- A record's number: an ownership operation, engine operation, grid, page-in, far access. -/
  id : Nat := 0
  /-- A cluster of the die. -/
  cl : Nat := 0
  /-- A queue. -/
  q : Nat := 0
  /-- A ring stop, island or port. -/
  p : Nat := 0
  /-- A mailbox. -/
  mbox : Nat := 0
  /-- A hart. -/
  hart : Nat := 0
  /-- A core. -/
  core : Nat := 0
  /-- A silo, a twin, a collective slot, a module. -/
  unit : Nat := 0
  /-- An object. -/
  oid : Nat := 0
  /-- An offset, address or page. -/
  off : Nat := 0
  /-- A length, size, code, cause, temperature or sequence number. -/
  num : Nat := 0
  /-- The value of a register write. -/
  v : Dword := 0
  /-- A second value. -/
  w : Dword := 0
  /-- A choice between the two forms of a step. -/
  flag : Bool := false
  /-- Bytes written, or an image. -/
  bytes : List Byte := []
  /-- The elements of a collective's contribution. -/
  elems : List Nat := []
  /-- The data of an access that may be a read. -/
  data : Option (List Byte) := none
  /-- What a PAGEIN page action comes to. -/
  outcome : PageOutcome := .done
  /-- What a far access asks. -/
  far : FarKind := .read 0
  /-- An ownership message. -/
  msg : FarMsg := .returnIn 0 0
  /-- A management update. -/
  mu : MuArgs := { sel := 0, idx := 0, new := 0 }
  /-- What an uncorrectable error strikes. -/
  target : LocalTarget := .sram 0 0 0
  /-- The instruction of a hart. -/
  rv : Rv := .fence
  deriving DecidableEq, Repr

end Sys2Proof
end

