-- ==== Sys2Proof/Syntax.lean ====
section
/-! DEFINITION. The instructions and steps of the module: one constructor for each row of spec/opcode_table.json, in
the table's order. The first 219 are Ubivo units (R144 to R164) with the operands of Sys2Proof/Syntax/Operands.lean;
then the 13 Q words of the bond stream (R287), the five custom words of a Granary hart (R363), and the steps of the
module's other agents and of the host; what such a step acts on stands in the state's latched StepArgs. -/
namespace Sys2Proof

/-- The steps of the module (spec/opcode_table.json; spec/95_what_each_step_holds.md). -/
inductive Instr where
  /-- R176: Adds the integer elements of A and B in each active lane, wrapping modulo 2^w. -/
  | iadd (x : V3)
  /-- R176: Subtracts the integer elements of B from those of A in each active lane, wrapping modulo 2^w. -/
  | isub (x : V3)
  /-- R176: Adds signed elements with saturation to the element range. -/
  | iadds (x : V3)
  /-- R176: Subtracts signed elements with saturation to the element range. -/
  | isubs (x : V3)
  /-- R176: Writes the signed minimum of A and B per element. -/
  | imin (x : V3)
  /-- R176: Writes the signed maximum of A and B per element. -/
  | imax (x : V3)
  /-- R176: Writes the unsigned minimum of A and B per element. -/
  | nmin (x : V3)
  /-- R176: Writes the unsigned maximum of A and B per element. -/
  | nmax (x : V3)
  /-- R176: Writes the absolute value of each signed element of A. -/
  | iabs (x : V2)
  /-- R176: Writes the negation of each element of A modulo 2^w. -/
  | ineg (x : V2)
  /-- R176: Writes the rounded-up signed average of A and B per element. -/
  | iavg (x : V3)
  /-- R176: Writes the absolute signed difference of A and B as an unsigned value. -/
  | idiff (x : V3)
  /-- R177: Adds A, B and the carry in k7, writing the carry out back to k7. -/
  | iaddc (x : V3)
  /-- R177: Subtracts B and the borrow in k7 from A, writing the borrow out to k7. -/
  | isubb (x : V3)
  /-- R178: Writes the low w bits of the product of A and B. -/
  | imul (x : V3)
  /-- R178: Writes the high part of the signed product of A and B. -/
  | imulh (x : V3)
  /-- R178: Writes the high part of the unsigned product of A and B. -/
  | nmulh (x : V3)
  /-- R178: Writes A times B plus the destination's prior value, modulo 2^w. -/
  | imad (x : V3)
  /-- R178: Writes the high part of the signed A times B plus the prior destination. -/
  | imadh (x : V3)
  /-- R178: Adds the four signed byte products of A and B to the destination. -/
  | idot4 (x : V3)
  /-- R178: Adds the two signed halfword products of A and B to the destination. -/
  | idot2 (x : V3)
  /-- R179: Writes the signed quotient of A by B, truncated toward zero. -/
  | idiv (x : V3)
  /-- R179: Writes the signed remainder of A by B. -/
  | irem (x : V3)
  /-- R179: Writes the unsigned quotient of A by B. -/
  | ndiv (x : V3)
  /-- R179: Writes the unsigned remainder of A by B. -/
  | nrem (x : V3)
  /-- R180: Writes the bitwise AND of A and B. -/
  | and (x : V3)
  /-- R180: Writes the bitwise OR of A and B. -/
  | or (x : V3)
  /-- R180: Writes the bitwise XOR of A and B. -/
  | xor (x : V3)
  /-- R180: Writes A AND NOT B. -/
  | andn (x : V3)
  /-- R180: Writes A OR NOT B. -/
  | orn (x : V3)
  /-- R180: Writes the complement of A XOR B. -/
  | xnor (x : V3)
  /-- R180: Writes the bitwise complement of A. -/
  | not (x : V2)
  /-- R180: Combines A, B and the prior destination in two stages under the prefix's control word. -/
  | lcomb (x : V3)
  /-- R180: Shifts A left by B modulo w. -/
  | shl (x : V3)
  /-- R180: Shifts A right logically by B modulo w. -/
  | shr (x : V3)
  /-- R180: Shifts A right arithmetically by B modulo w. -/
  | sra (x : V3)
  /-- R180: Rotates A left by B modulo w. -/
  | rol (x : V3)
  /-- R180: Rotates A right by B modulo w. -/
  | ror (x : V3)
  /-- R181: Shifts the concatenation of A and B left by the prior destination's low five bits and keeps the high word. -/
  | fshl (x : V3)
  /-- R181: Shifts the concatenation of A and B right by the prior destination's low five bits and keeps the low word. -/
  | fshr (x : V3)
  /-- R182: Writes the number of one bits of A. -/
  | popc (x : V2)
  /-- R182: Writes the number of leading zero bits of A. -/
  | clz (x : V2)
  /-- R182: Writes the number of trailing zero bits of A. -/
  | ctz (x : V2)
  /-- R182: Writes A with its bit order reversed. -/
  | brev (x : V2)
  /-- R183: Extracts a sign-extended bit field of A at the position and length in B. -/
  | bfx (x : V3)
  /-- R183: Extracts a zero-extended bit field of A at the position and length in B. -/
  | bfxn (x : V3)
  /-- R183: Inserts a bit field of A into the prior destination. -/
  | bfi (x : V3)
  /-- R183: Writes a mask of the length in B at the position in A. -/
  | bmsk (x : V3)
  /-- R183: Selects four bytes of A and B under the selectors in the prior destination. -/
  | permb (x : V3)
  /-- R182: Sign-extends A from the width in B. -/
  | sext (x : V3)
  /-- R182: Zero-extends A from the width in B. -/
  | zext (x : V3)
  /-- R184: Sets each active lane's bit of mask k(D) to the integer comparison of A and B selected by the condition. -/
  | icmp (x : ICmpU)
  /-- R185: Writes A in lanes whose bit of mask k(B) is set and keeps the destination elsewhere. -/
  | sel (x : SelU)
  /-- R185: Copies A bit for bit into the destination. -/
  | mov (x : V2)
  /-- R185: Writes each lane's bit of mask k(A) as 0 or 1. -/
  | movk (x : MovkU)
  /-- R185: Sets each active lane's bit of mask k(D) when A is nonzero. -/
  | kmov (x : KmovU)
  /-- R186: Adds the sign-extended 11-bit immediate to A. -/
  | iaddi (x : ImmU)
  /-- R186: ANDs A with the sign-extended immediate. -/
  | andi (x : ImmU)
  /-- R186: ORs A with the sign-extended immediate. -/
  | ori (x : ImmU)
  /-- R186: XORs A with the sign-extended immediate. -/
  | xori (x : ImmU)
  /-- R186: Shifts A left by the immediate amount. -/
  | shli (x : ShU)
  /-- R186: Shifts A right logically by the immediate amount. -/
  | shri (x : ShU)
  /-- R186: Shifts A right arithmetically by the immediate amount. -/
  | srai (x : ShU)
  /-- R186: Rotates A left by the immediate amount. -/
  | roli (x : ShU)
  /-- R186: Writes the sign-extended immediate. -/
  | movi (x : MoviU)
  /-- R187: Adds two 64-bit scalars once for the group. -/
  | sadd (x : SU)
  /-- R187: Subtracts two 64-bit scalars. -/
  | ssub (x : SU)
  /-- R187: Writes the low 64 bits of a scalar product. -/
  | smul (x : SU)
  /-- R187: Writes the high 64 bits of a signed scalar product. -/
  | smulh (x : SU)
  /-- R187: Writes the bitwise AND of two scalars. -/
  | sand (x : SU)
  /-- R187: Writes the bitwise OR of two scalars. -/
  | sor (x : SU)
  /-- R187: Writes the bitwise XOR of two scalars. -/
  | sxor (x : SU)
  /-- R187: Shifts a scalar left modulo 64. -/
  | sshl (x : SU)
  /-- R187: Shifts a scalar right logically modulo 64. -/
  | sshr (x : SU)
  /-- R187: Shifts a scalar right arithmetically modulo 64. -/
  | ssra (x : SU)
  /-- R187: Writes the signed minimum of two scalars. -/
  | smin (x : SU)
  /-- R187: Writes the signed maximum of two scalars. -/
  | smax (x : SU)
  /-- R187: Writes the unsigned minimum of two scalars. -/
  | snmin (x : SU)
  /-- R187: Writes the unsigned maximum of two scalars. -/
  | snmax (x : SU)
  /-- R187: Adds a sign-extended immediate to a scalar. -/
  | saddi (x : SImmU)
  /-- R187: Writes 1 to the scalar destination when the 64-bit condition holds, else 0. -/
  | scmp (x : SCmpU)
  /-- R188: Copies a scalar source to a scalar. -/
  | smov (x : SMovU)
  /-- R188: Reads one 64-bit half of a mask into a scalar. -/
  | srdk (x : SrdkU)
  /-- R188: Writes one 64-bit half of a mask from a scalar for every lane of the group. -/
  | swrk (x : SwrkU)
  /-- R188: Writes the number of one bits of a mask into a scalar. -/
  | spopk (x : KRdU)
  /-- R190: Adds float elements with one rounding. -/
  | fadd (x : V3)
  /-- R190: Subtracts float elements with one rounding. -/
  | fsub (x : V3)
  /-- R190: Multiplies float elements with one rounding. -/
  | fmul (x : V3)
  /-- R191: Writes the lesser float, or the canonical NaN if any operand is NaN. -/
  | fmin (x : V3)
  /-- R191: Writes the greater float, or the canonical NaN if any operand is NaN. -/
  | fmax (x : V3)
  /-- R191: Writes the lesser float, preferring a number over a NaN. -/
  | fminn (x : V3)
  /-- R191: Writes the greater float, preferring a number over a NaN. -/
  | fmaxn (x : V3)
  /-- R190: Clears the sign bit of A. -/
  | fabs (x : V2)
  /-- R190: Inverts the sign bit of A. -/
  | fneg (x : V2)
  /-- R190: Writes A's bits with B's sign bit. -/
  | fcpys (x : V3)
  /-- R192: Multiplies A by two to the integer power in B with one rounding. -/
  | fscale (x : V3)
  /-- R192: Writes A minus its floor. -/
  | ffrac (x : V2)
  /-- R192: Rounds A down to an integral value. -/
  | ffloor (x : V2)
  /-- R192: Rounds A up to an integral value. -/
  | fceil (x : V2)
  /-- R192: Rounds A toward zero to an integral value. -/
  | ftrunc (x : V2)
  /-- R192: Rounds A to an integral value in the selected mode. -/
  | frint (x : V2)
  /-- R193: Writes A times B plus the prior destination with one rounding. -/
  | ffma (x : V3)
  /-- R193: Writes A times B minus the prior destination with one rounding. -/
  | ffms (x : V3)
  /-- R193: Writes minus A times B minus the prior destination with one rounding. -/
  | ffnma (x : V3)
  /-- R193: Writes minus A times B plus the prior destination with one rounding. -/
  | ffnms (x : V3)
  /-- R194: Writes an approximate reciprocal of A. -/
  | frcp (x : V2)
  /-- R194: Writes an approximate reciprocal square root of A. -/
  | frsq (x : V2)
  /-- R194: Writes the correctly rounded square root of A. -/
  | fsqrt (x : V2)
  /-- R194: Writes the correctly rounded quotient of A by B. -/
  | fdiv (x : V3)
  /-- R194: Writes an approximation of two to the power A. -/
  | fexp2 (x : V2)
  /-- R194: Writes an approximation of the base-2 logarithm of A. -/
  | flog2 (x : V2)
  /-- R194: Writes an approximation of the sine of A. -/
  | fsin (x : V2)
  /-- R194: Writes an approximation of the cosine of A. -/
  | fcos (x : V2)
  /-- R194: Writes an approximation of the hyperbolic tangent of A. -/
  | ftanh (x : V2)
  /-- R194: Writes an approximation of the logistic sigmoid of A. -/
  | fsigm (x : V2)
  /-- R197: Sets each active lane's bit of mask k(D) to the float comparison selected by the condition. -/
  | fcmp (x : FCmpU)
  /-- R198: Writes the class bits of each float element of A. -/
  | fclass (x : V2)
  /-- R199: Adds the two half-precision products of A and B to the f32 destination with one rounding. -/
  | fdot2 (x : V3)
  /-- R199: Adds the four binary8 products of A and B to the f32 destination with one rounding. -/
  | fdot4 (x : V3)
  /-- R202: Converts A from the source type in TYPE to the destination type in F. -/
  | cvt (x : CvtU)
  /-- R205: Converts f32 A into byte j of the destination in a binary8 format. -/
  | cvt8 (x : V2)
  /-- R205: Expands byte j of A from a binary8 format to f32. -/
  | cvt8x (x : V2)
  /-- R205: Converts f32 A into nibble j of the destination in fp4. -/
  | cvt4 (x : V2)
  /-- R205: Expands nibble j of A from fp4 to f32. -/
  | cvt4x (x : V2)
  /-- R205: Converts f32 A and B into two adjacent binary8 bytes of the destination. -/
  | pack8 (x : V3)
  /-- R205: Expands two binary8 bytes of A into two bf16 halves. -/
  | unpk8 (x : V2)
  /-- R208: Chooses one E8M0 scale for each 32-lane block from the block maximum. -/
  | bscan (x : V2)
  /-- R207: Quantises f32 A under scale byte B into byte j of the destination. -/
  | qnt8 (x : V3)
  /-- R207: Dequantises byte j of A under scale byte B to f32. -/
  | dqnt8 (x : V3)
  /-- R207: Quantises f32 A under scale byte B into fp4 nibble j of the destination. -/
  | qnt4 (x : V3)
  /-- R207: Dequantises fp4 nibble j of A under scale byte B to f32. -/
  | dqnt4 (x : V3)
  /-- R210: Writes in each lane the value of A from the lane indexed by B. -/
  | shfli (x : V3)
  /-- R210: Writes in each lane the value of A from B lanes below. -/
  | shflu (x : V3)
  /-- R210: Writes in each lane the value of A from B lanes above. -/
  | shfld (x : V3)
  /-- R210: Writes in each lane the value of A from the lane XORed with B. -/
  | shflx (x : V3)
  /-- R210: Broadcasts A from one uniformly named lane to every active lane. -/
  | bcast (x : BcastU)
  /-- R210: Reads A from one named lane into a scalar. -/
  | rdlane (x : RdlaneU)
  /-- R210: Writes a uniform value into one named lane of the destination. -/
  | wrlane (x : WrlaneU)
  /-- R213: Reduces A over the active lanes with the selected operation. -/
  | redux (x : ReduxU)
  /-- R213: Writes the inclusive or exclusive prefix of A over the active lanes. -/
  | scan (x : ScanU)
  /-- R214: Writes 1 when the mask bit is set for every active lane. -/
  | vall (x : KRdU)
  /-- R214: Writes 1 when the mask bit is set for some active lane. -/
  | vany (x : KRdU)
  /-- R214: Writes half of the mask of active lanes where A is nonzero. -/
  | vballot (x : BallotU)
  /-- R214: ANDs two masks in the active lanes. -/
  | kand (x : K3U)
  /-- R214: ORs two masks in the active lanes. -/
  | kor (x : K3U)
  /-- R214: XORs two masks in the active lanes. -/
  | kxor (x : K3U)
  /-- R214: Writes k(A) AND NOT k(B) in the active lanes. -/
  | kandn (x : K3U)
  /-- R214: Complements a mask in the active lanes. -/
  | knot (x : K2U)
  /-- R214: Keeps only the lowest active lane whose mask bit is set. -/
  | kfirst (x : K2U)
  /-- R215: Moves the group's vector window base. -/
  | wbase (x : WbaseU)
  /-- R217: Loads n bytes per active lane through a capability after the capability, residency and cover checks. -/
  | ld (x : LdU)
  /-- R217: Stores n bytes per active lane through a capability after the capability, residency and cover checks. -/
  | st (x : StU)
  /-- R218: Loads from the team's local store at a local address. -/
  | ldl (x : LdlU)
  /-- R218: Stores to the team's local store at a local address. -/
  | stl (x : StlU)
  /-- R219: Makes one group-uniform load into a scalar. -/
  | ldu (x : LduU)
  /-- R219: Makes one group-uniform store from a scalar source. -/
  | stu (x : StuU)
  /-- R220: Performs an atomic read-modify-write per active lane at the home LLC and returns the old value. -/
  | atom (x : AtomU)
  /-- R220: Performs an atomic reduction per active lane at the home LLC without a result. -/
  | red (x : RedU)
  /-- R222: Performs a release, acquire or both at the scope in its prefix. -/
  | fence (x : NoneU)
  /-- R223: Prefetches the lines of the active lanes into a cache level, dropping failing lanes. -/
  | pref (x : PrefU)
  /-- R224: Requests residency of the pages touched by the active lanes and makes its receipt pending. -/
  | pagein (x : PageinU)
  /-- R225: Derives a narrowed capability, clearing the tag if the narrowing fails. -/
  | cderive (x : CderiveU)
  /-- R225: Derives a capability with its rights ANDed with a mask. -/
  | crights (x : CrightsU)
  /-- R225: Writes a capability's BASE to a scalar. -/
  | cgetb (x : CgetU)
  /-- R225: Writes a capability's LEN to a scalar. -/
  | cgetl (x : CgetU)
  /-- R225: Writes a capability's OID, GEN, tag and rights to a scalar. -/
  | cgetr (x : CgetU)
  /-- R225: Writes the tag, validity and nonempty bits of a capability after looking up its entry. -/
  | ctest (x : CgetU)
  /-- R226: Loads 16 bytes and a tag into a capability register. -/
  | cldc (x : CmemU)
  /-- R226: Stores a capability register and its tag to 16 bytes. -/
  | cstc (x : CmemU)
  /-- R225: Clears a capability register and its tag. -/
  | cnull (x : CmovU)
  /-- R225: Copies a capability register with its tag. -/
  | cmov (x : CmovU)
  /-- R94: Requests a hold on a parked range for the group or team. -/
  | dclaim (x : DopU)
  /-- R94: Releases a held region to PARKED. -/
  | dpark (x : DopU)
  /-- R94: Lends a held region to the party named in the status scalar. -/
  | dlend (x : DopU)
  /-- R94: Returns a lent region to its last lender. -/
  | dreturn (x : DopU)
  /-- R94: Splits a held region at a 256-byte boundary. -/
  | dsplit (x : DopU)
  /-- R94: Joins two adjacent held regions. -/
  | djoin (x : DopU)
  /-- R94: Requests a read share of a region. -/
  | dshare (x : DopU)
  /-- R94: Lowers the party's share of a region. -/
  | dunshare (x : DopU)
  /-- R94: Turns a held region ATOMIC, or an unshared ATOMIC region back to HELD. -/
  | datom (x : DopU)
  /-- R94: Writes the state of the region containing an offset without changing it. -/
  | dquery (x : DopU)
  /-- R229: Writes the acting party's id. -/
  | dquerySelf (x : DselfU)
  /-- R235: Checks, lends and sends weighted bag-sum entries of the active lanes to the silo units. -/
  | nmred (x : NmU)
  /-- R235: Checks, lends and sends weighted scatter-add entries of the active lanes to the silo units. -/
  | nmscat (x : NmU)
  /-- R241: Checks a stream pattern record, lends destinations and hands the copy to the copy engine. -/
  | cpy (x : CpyU)
  /-- R243: Checks a collective descriptor and contributes to a collective in a configured slot. -/
  | cpyc (x : CpyU)
  /-- R245: Requests the bond lease on the team's cluster or twin clusters. -/
  | blease (x : RegU)
  /-- R245: Releases the team's bond lease when the sequencer is idle. -/
  | bfree (x : RegU)
  /-- R246: Checks the code capability and asks the sequencer to start a bond stream. -/
  | bfork (x : BforkU)
  /-- R247: Arrives at a rendezvous with a count and waits for its phase. -/
  | brdv (x : BrdvU)
  /-- R247: Arrives at a rendezvous with a count without waiting. -/
  | barv (x : BrdvU)
  /-- R244: Writes the bond status word as it stands. -/
  | bstat (x : RegU)
  /-- R248: Branches the taking lanes to the target, splitting a divergent split. -/
  | bra (x : BraU)
  /-- R248: Pushes a return entry and branches the taking lanes. -/
  | call (x : BraU)
  /-- R248: Moves every active lane to the target. -/
  | jmp (x : JmpU)
  /-- R44: Returns the split through its top return-stack entry. -/
  | ret (x : NoneU)
  /-- R43: Makes an arriving split wait at its family's join, or acts as NOP. -/
  | join (x : NoneU)
  /-- R250: Retires the active lanes of the split. -/
  | exit (x : NoneU)
  /-- R250: Branches each active lane by its own offset, grouping lanes by target. -/
  | brx (x : BrxU)
  /-- R250: Calls each active lane at its own offset with a return entry. -/
  | callx (x : BrxU)
  /-- R251: Gives up the PC slot and yields the scheduler. -/
  | yield (x : NoneU)
  /-- R249: Does nothing. -/
  | nop (x : NoneU)
  /-- R251: Makes the split not runnable for a number of cycle counts. -/
  | sleep (x : SargU)
  /-- R254: Arrives at a team barrier and waits for its phase. -/
  | bar (x : BarU)
  /-- R254: Arrives at a team barrier without waiting. -/
  | bara (x : BarU)
  /-- R254: Waits for the phase of the group's latest arrival at a barrier. -/
  | barw (x : BarU)
  /-- R254: Arrives at the grid's die barrier and waits. -/
  | dbar (x : NoneU)
  /-- R255: Completes its release and sends a mailbox operation to a die of the grid. -/
  | dsig (x : DsigU)
  /-- R256: Arrives at a team-wide wait on a mailbox condition and parks the team. -/
  | dwait (x : DwaitU)
  /-- R257: Writes 1 when a receipt scalar is no longer pending. -/
  | rtest (x : RtestU)
  /-- R259: Emits a continuation record per active lane to the die's Gleaner. -/
  | cont (x : ContU)
  /-- R260: Offers each active lane's action to its step mailbox and records refusals in a mask. -/
  | stepSend (x : SendU)
  /-- R261: Requests the next observation of each lane's mailbox into pending registers. -/
  | stepTake (x : TakeU)
  /-- R263: Checks argument blocks and parks the group for a host service call. -/
  | trap (x : TrapU)
  /-- R264: Stops the split for an attached debugger, or acts as NOP. -/
  | brk (x : BrkU)
  /-- R264: Reads a special register into a scalar or vector. -/
  | sread (x : SreadU)
  /-- R264: Writes %fflags from a scalar. -/
  | swrite (x : SargU)
  /-- R265: Adds to a program event counter of the context and core. -/
  | evt (x : EvtU)
  /-- R265: Waits until earlier issues are charged and writes %energy. -/
  | enrg (x : RegU)
  /-- R289: Reads and accepts a format block and sets the scale cursors. -/
  | mfmt (laddr : Nat)
  /-- R290: Zeros a tile in every south-row core. -/
  | mzero (t : Nat)
  /-- R291: Fills a stationary plane of every bond core from feed B. -/
  | mloadb (p : Nat)
  /-- R292: Streams m rows of A through the array and accumulates into a tile. -/
  | mmac (t : Nat) (p : Nat) (m : Nat)
  /-- R292: Accumulates into a tile with A read transposed from feed A. -/
  | mmact (t : Nat) (p : Nat) (m : Nat)
  /-- R293: Converts tile rows to the output format into local store and zeros the tile. -/
  | mdrain (t : Nat) (off : Nat) (m : Nat)
  /-- R294: Repeats a body of the bond stream under a loop counter. -/
  | mloop (l : Nat) (n : Nat) (d : Nat)
  /-- R295: Waits for earlier operations, ends the stream and writes the BFORK receipt. -/
  | mend
  /-- R296: Records the sequencer's arrival at a rendezvous and waits for the phase. -/
  | mbar (n : Nat)
  /-- R296: Records the sequencer's arrival at a rendezvous and continues. -/
  | marv (n : Nat)
  /-- R297: Performs a DSIG operation on a die mailbox word from the bond stream. -/
  | msig (op : SigOp) (w : Nat) (pos : Nat) (v : Nat)
  /-- R298: Takes one issue cycle. -/
  | mnop
  /-- R299: Waits until the named feed queues hold an amount of bytes. -/
  | mwaitf (b : Bool) (mask : Nat) (amt : Nat)
  /-- R364: Takes a pending action into the step buffer or waits for one with a timeout. -/
  | gmbWait (rd : Nat) (rs : Nat)
  /-- R365: Reads a doubleword of the step buffer. -/
  | gmbRead (rd : Nat) (rs : Nat)
  /-- R366: Posts the observation of the owed step when the slot is empty. -/
  | gmbPost (rd : Nat) (rs : Nat)
  /-- R368: Ends or restarts the episode. -/
  | gepEnd (rs : Nat)
  /-- R367: Returns the old pin state and sets a new one. -/
  | gepVer (rd : Nat) (rs : Nat)
  /-- R23: Powers the module with all volatile state cleared and starts bring-up. -/
  | powerUp
  /-- R23: Unpowers the module, losing all state except the fuses. -/
  | powerDown
  /-- R25: Presents a firmware image to a die and runs the verification steps. -/
  | bootcmd
  /-- R478: Has firmware write and sign an attestation report over a nonce. -/
  | attestReport
  /-- R477: Raises the fused rollback counter if every die runs a new enough image. -/
  | attestRaise
  /-- R371: Sets a queue's tail count, or raises an OVERRUN queue error. -/
  | doorbellWrite
  /-- R304: A die scheduler fetches, validates and checks one launch record from a queue. -/
  | queueFetch
  /-- R372: After 256 counts a record that failed validation is fetched again, up to STALE. -/
  | recordRefetch
  /-- R311: Once mailbox words are allocated on every die of its set, a READY grid becomes RUNNING. -/
  | gridStart
  /-- R313: The die scheduler places the teams of its placement list that fit. -/
  | teamPlacement
  /-- R323: Once every group is at a run boundary, the estimator chooses drain, save or discard. -/
  | preemptDecide
  /-- R324: A save finishes, freeing the team's resources and returning it to the placement list. -/
  | saveComplete
  /-- R324: A discard finishes and the team re-enters the list to restart. -/
  | discardComplete
  /-- R324: A restore finishes and the team becomes RESIDENT again. -/
  | restoreComplete
  /-- R324: The deadline of a draining team passes and the estimator decides again. -/
  | preemptDeadline
  /-- R318: A team's residency timer reaches the quantum and the placement list is tried. -/
  | quantumSpent
  /-- R311: A grid's DEADLINE passes before completion and an event is logged. -/
  | gridDeadlineMiss
  /-- R49: A record's gleaning deadline expires and its partly full group is launched. -/
  | gleanDeadline
  /-- R327: A mailbox message arrives at a die and is performed on the word. -/
  | dsigMessage
  /-- R256: A DWAIT deadline passes and the team is released with TIMEOUT. -/
  | dwaitTimeout
  /-- R251: A sleeping split's count elapses and it becomes runnable. -/
  | sleepExpiry
  /-- R81: L1 or L2 writes dirty bytes back to the next level on its own. -/
  | earlyWriteBack
  /-- R91: A held-region cache miss refills from the party's hold list. -/
  | holdListRefill
  /-- R90: The table home performs an ownership operation in the region's deckle order. -/
  | deckleOperation
  /-- R95: After flushes are acknowledged, the region is installed and the status scalar written. -/
  | deckleStatusWrite
  /-- R76: Management harts make a touched page resident and finally write the receipt. -/
  | pageinPageAction
  /-- R77: The sweep ages one page entry and presses it if eligible. -/
  | pressSweepVisit
  /-- R239: The copy engine reads and writes the enumerated elements of a copy. -/
  | copyEngineTransfer
  /-- R237: An engine takes a sheaf from the purse before writing a KiB. -/
  | engineInstallment
  /-- R273: A feed CPY appends a 64-byte unit once every target has room. -/
  | feedUnitAppend
  /-- R272: The seam link copies a feed A unit into the partner's seam queue. -/
  | seamUnitCopy
  /-- R233: The memory port takes the silo installment and sends the bursts. -/
  | memoryPortInstallment
  /-- R393: A silo unit applies a burst of entries to its rows. -/
  | siloBurstApply
  /-- R99: An engine returns its destinations and writes its receipt. -/
  | engineReceipt
  /-- R138: A contribution enters the exact accumulator of a switch. -/
  | collectiveContribution
  /-- R139: The root rounds the accumulated result and delivers it to members. -/
  | collectiveRootResult
  /-- R246: Once the sequencer is idle, it starts the bond stream of a waiting BFORK. -/
  | bondStreamStart
  /-- R280: When every pair holds its full charge, a waiting MMAC or MMACT starts. -/
  | sequencerCharge
  /-- R376: Firmware copies argument blocks to a free slot and writes the request record. -/
  | serviceRequestPost
  /-- R377: The host's answer for a slot is copied back and the slot freed. -/
  | scdone
  /-- R263: A parked group is restored on a core and continues after its TRAP. -/
  | trapGroupRestore
  /-- R261: A posted observation lands in a taker's registers and the receipt is written. -/
  | stepTakeDelivery
  /-- R329: The ring computes the budget, share and reserve and sets claims. -/
  | lapStart
  /-- R329: The ring count passes a stop and moves sheaves into its purse. -/
  | ringStopVisit
  /-- R336: Each core apportions its static sheaves among contexts and the house account. -/
  | lapEndStaticCharge
  /-- R337: The driver reads and clears an energy counter entry in one operation. -/
  | energyReadClear
  /-- R339: Writes the die's energy plan, effective at the next lap start. -/
  | eplanWrite
  /-- R340: Writes an island's planned ratio and step or clears CANARY. -/
  | islctlWrite
  /-- R341: After 512 counts the island resumes issue at its new ratio. -/
  | ratioChangeComplete
  /-- R342: An island's droop detector fires and its clock is halved. -/
  | droopDetect
  /-- R342: After 4096 clear counts the island's clock returns to full. -/
  | droopRecover
  /-- R343: A canary warning sets CANARY for action at the next lap start. -/
  | canaryWarning
  /-- R343: After 2^20 counts without warning the island steps back toward its plan. -/
  | canaryRelax
  /-- R344: The hottest sensor is sampled and the throttle level updated. -/
  | thermalSample
  /-- R349: The driver starts an episode from a descriptor and reads the status in GSTS. -/
  | gstart
  /-- R361: A GSTOP write with bit 8 set ends a mailbox's episode. -/
  | gstopNow
  /-- R361: A GSTOP write with bit 8 clear forbids the episode's next restart. -/
  | gstopForbidRestart
  /-- R359: An episode's cycle counter passes CBUD and it is killed as runaway. -/
  | cycleBudgetExpiry
  /-- R359: An instruction that would exceed IBUD does not retire and the episode is killed. -/
  | instructionBudgetRunaway
  /-- R364: A blocked GMB.WAIT reaches its timeout and returns TIMEOUT. -/
  | gmbWaitTimeout
  /-- R467: A U-mode exception kills the episode and writes EPFAULT. -/
  | hartException
  /-- R468: An uncorrectable hart error kills its episodes and retires the hart. -/
  | hartFailure
  /-- R468: An uncorrectable mailbox error kills its episode and scrubs the mailbox. -/
  | mailboxError
  /-- R374: A host access through the aperture is performed at the home LLC without checks. -/
  | apertureAccess
  /-- R379: A connection-table write with V = 1 starts setting up a circuit or fails it. -/
  | circuitSet
  /-- R379: A connection-table write with V = 0 stops new traffic on a circuit. -/
  | circuitClear
  /-- R379: A circuit being set up reaches UP. -/
  | circuitUp
  /-- R379: A cleared circuit delivers its last flit and reaches DOWN. -/
  | circuitDown
  /-- R473: An access waits 2^20 counts with no UP circuit and fails. -/
  | pathTimeout
  /-- R473: A circuit loses a wavelength, failing at its last one. -/
  | wavelengthLoss
  /-- R472: A seam over its error limit retrains to a lower width or goes down. -/
  | seamRetrain
  /-- R381: A far access arrives at the owner and is performed in the bound context. -/
  | farAccessArrival
  /-- R382: A lend or return of a region crosses the fabric between owner and peer. -/
  | farOwnershipMessage
  /-- R390: An unacknowledged flit is replayed after 4096 counts. -/
  | flitReplay
  /-- R474: A fabric port goes down and far traffic moves to other ports. -/
  | fabricLinkDown
  /-- R453: A host link failure stops staging-window copies with LINK. -/
  | hostLinkFailure
  /-- R474: The driver declares a peer module lost and its regions are poisoned. -/
  | peercmd
  /-- R391: Sets the module's domain number once at bring-up. -/
  | modnumWrite
  /-- R72: A management update of an object directory entry. -/
  | muObjectEntry
  /-- R72: A management update of a page entry. -/
  | muPageEntry
  /-- R301: A management update of a context descriptor, refused where R301 forbids it. -/
  | muContextDescriptor
  /-- R303: A management update of a queue descriptor. -/
  | muQueueDescriptor
  /-- R302: Appends one frame entry to a context's frame list. -/
  | muFrameAppend
  /-- R305: A DSHARE of a region by a host-queue party. -/
  | muHostShare
  /-- R387: A DUNSHARE of a region by a host-queue party. -/
  | muHostUnshare
  /-- R391: Writes a domain import table or map entry and invalidates cached lookups. -/
  | muDomainImport
  /-- R387: Returns an entry's current value in MUOLD without change. -/
  | muReadOnly
  /-- R388: A DEOFF write looks up the deckle entry of a region for the driver. -/
  | deckleLookup
  /-- R428: Reclaims a POISONED region to PARKED keeping its bytes and marks. -/
  | drclKeep
  /-- R428: Reclaims a POISONED region to PARKED with its bytes zeroed. -/
  | drclZero
  /-- R455: Clears a queue's ERR bit. -/
  | qerrWrite
  /-- R385: Writes a collective slot entry; clearing V breaks its collectives. -/
  | collectiveSlotWrite
  /-- R402: Sets a context's debugger attach and catch bits. -/
  | dbgctlWrite
  /-- R404: Debug command that stops every split of a group at its run end. -/
  | gstop
  /-- R404: Debug command that stops every group of a team. -/
  | tstop
  /-- R409: Debug command that validates edited state and resumes a group. -/
  | resume
  /-- R406: Debug command that issues one run of a stopped split. -/
  | step
  /-- R407: Debug command that maps a group into the divergence-state window. -/
  | select
  /-- R409: Debug command that validates and resumes every group of a team. -/
  | tresume
  /-- R408: Edits the selected group's state while every live split is stopped. -/
  | divergenceWindowWrite
  /-- R395: Firmware logs a trap record and stops the split or aborts the grid. -/
  | trapReport
  /-- R412: A group's idle counter reaches GWLIM and it traps. -/
  | gwatch
  /-- R413: A team's residency reaches TWLIM and it traps. -/
  | twatch
  /-- R410: A team waits 2^20 counts for spill areas and an event is logged. -/
  | spillwait
  /-- R423: An ownership operation waits 2^20 counts for hold-list room and an event is logged. -/
  | holdfull
  /-- R466: The driver declares a core failed. -/
  | cfence
  /-- R465: An island's converter faults and both cores of the pair fail. -/
  | converterFault
  /-- R470: A die's management harts send a heartbeat to every other die. -/
  | heartbeat
  /-- R470: A die is declared failed, broadcast and fenced. -/
  | diefail
  /-- R470: The driver declares a die failed. -/
  | dfence
  /-- R457: A broken grid is aborted when its released teams retire or 2^20 counts pass. -/
  | brokenGridAbort
  /-- R432: An uncorrectable error in a cache line discards clean bytes and marks dirty ones. -/
  | cacheLineUe
  /-- R432: An uncorrectable HBM error marks the 32 bytes of the word. -/
  | hbmWordUe
  /-- R432: An uncorrectable error in a deckle entry poisons the region. -/
  | deckleEntryUe
  /-- R462: An uncorrectable error zeros a purse or sequencer hold. -/
  | purseUe
  /-- R462: An uncorrectable error saturates an energy counter. -/
  | energyCounterUe
  /-- R431: Patrol scrubbing corrects LLC and HBM words. -/
  | patrolScrub
  /-- R388: A write to a management register with no behaviour of its own stores the value. -/
  | registerWrite
  /-- R352: An episode retires an ordinary RV64 instruction in U-mode, including loads and stores to its SRAM window and uncached accesses to its HBM window, and advances instret and its step counters. -/
  | hartInstruction
  /-- R319: The driver asks, through the management window, for a resident team to be pre-empted, with a deadline of its own. -/
  | driverPreemptionRequest
  /-- R279: An MMAC, MMACT, MLOADB or MDRAIN that the sequencer started finishes in the array: the tile lands, BV and BB are set, or the drained bytes are written. -/
  | bondOperationComplete
  /-- R472: A seam finishes retraining at its new width, and the traffic held during the retrain moves again. -/
  | seamRetrainComplete
  /-- R466: An uncorrectable error in a core's issue, scoreboard or split-table control state, or in both copies of a held-region cache entry, makes firmware declare the core failed. -/
  | coreStateUe
  /-- R454: A silo unit takes an uncorrectable error in its own state, poisons the rows it still owed and ends its instruction with LINK. -/
  | siloUnitUe
  /-- R432: An uncorrectable error in local store or Granary window SRAM sets the poison marks of the bytes concerned. -/
  | localStoreUe
  deriving DecidableEq, Repr

end Sys2Proof
end

