-- ==== Sys2Proof/Machine/State/Group.lean ====
section
/-! DEFINITION. The state of a group: splits, families, return stack, registers, latches and runs (02, 06, 17). -/
namespace Sys2Proof.Machine

/-- A table by number: keys strictly rising, no entry equal to what an unlisted key reads as (Sparse.lean). -/
abbrev Table (α : Type) := List (Nat × α)

/-- A capability and its hidden tag (R61, R63). -/
structure Cap where
  oid : BitVec 28 := 0
  rights : BitVec 8 := 0
  base : BitVec 40 := 0
  len : BitVec 40 := 0
  gen : BitVec 12 := 0
  tag : Bool := false
  deriving DecidableEq, Repr

/-- Why a split is not runnable, or that it is (R40, R43, R247, R251, R253, R254, R256). -/
inductive Wait where
  /-- Runnable. -/
  | none
  /-- Waits at its family's join (R43). -/
  | join
  /-- Waits for the phase of the group's n-th arrival at team barrier b (R254). -/
  | bar (b n : Nat)
  /-- Stands at BAR (true) or BARA (false) of b until the phase of the group's latest arrival completes (R254). -/
  | barHold (b : Nat) (bar : Bool)
  /-- Waits for the n-th phase of the die barrier (R254). -/
  | dbar (n : Nat)
  /-- Stands at a DBAR until the phase of the group's latest arrival completes. -/
  | dbarHold
  /-- Waits for the n-th phase of rendezvous b; with n 0, for the phase in which its group will arrive (R247). -/
  | rdv (b n : Nat)
  /-- Stands at BRDV (true) or BARV (false) of rendezvous b with count c until the earlier phase completes (R247). -/
  | rdvHold (b c : Nat) (brdv : Bool)
  /-- Waits at a DWAIT (R54). -/
  | dwait
  /-- Sleeps until this count of the die's %cycle (R251). -/
  | sleep (till : Nat)
  /-- Sleeps with this remaining count while its group is saved or parked (R251). -/
  | sleepSaved (left : Nat)
  /-- Parked with its group by TRAP (R263). -/
  | service
  deriving DecidableEq, Repr

/-- A split (R36, R38). -/
structure Split where
  mask : Mask := 0
  pc : Nat := 0
  /-- JPC when JV is 1. -/
  jpc : Option Nat := none
  fam : Nat := 0
  depth : Nat := 0
  /-- RSP; none is 0x1FF. -/
  rsp : Option Nat := none
  wait : Wait := .none
  /-- Stopped by the debugger (R404). -/
  stopped : Bool := false
  /-- Stop cause: a trap code, or 0 (R407). -/
  cause : Nat := 0
  /-- Issues since it entered its PC slot (R40). -/
  issued : Nat := 0
  /-- It must give up its PC slot at the end of the current run (R40). -/
  rotate : Bool := false
  /-- The address of the last unit issued for its lanes, none before the first (R398). -/
  last : Option Nat := none
  /-- It issues one run for a debugger's STEP (R406). -/
  stepping : Bool := false
  /-- It stops at the end of its open run (R404). -/
  stopping : Bool := false
  /-- No split: a place of the off-slot queue whose record a debugger holds at V = 0 (R407, R409). -/
  void : Bool := false
  /-- The order in which the group's splits were formed, for the oldest of R412. -/
  born : Nat := 0
  /-- It trapped and issues nothing more until the disposition of R395 (R394). -/
  trapped : Bool := false
  deriving DecidableEq, Repr

/-- A family link (R42). -/
structure Fam where
  id : Nat := 0
  pfam : Nat := 0
  pjpc : Option Nat := none
  fdepth : Nat := 0
  deriving DecidableEq, Repr

/-- A return-stack entry in use (R44). -/
structure RetEntry where
  rpc : Nat := 0
  link : Option Nat := none
  deriving DecidableEq, Repr

/-- An open run: the PC slot of its split, the address of its first unit, the units issued (R156, R158), and the other groups of
its packed issue (R35). -/
structure Run where
  slot : Nat := 0
  start : Nat := 0
  count : Nat := 0
  pack : List Nat := []
  deriving DecidableEq, Repr

/-- Why a group is off its core, or that it is on it (R33, R54, R263, R324). -/
inductive Residence where
  | resident
  /-- Parked by TRAP; its positions are held back (R263, R480). -/
  | trapParked
  /-- Off-core with its whole team. -/
  | away
  deriving DecidableEq, Repr

/-- What stands in state that a soft error struck, as SOFTERR names it (R434). -/
structure Damage where
  structure_ : Nat := 0
  number : Nat := 0
  deriving DecidableEq, Repr

/-- A DWAIT that a group, or its whole team, has reached (R54, R256): word, condition, value, deadline, and the status
scalar. -/
structure DwaitSt where
  word : Nat := 0
  cond : WaitCond := .ge
  value : Dword := 0
  deadline : Nat := 0
  reg : Nat := 0
  /-- The status to write once the team is placed again; none while it waits. -/
  status : Option Nat := none
  deriving DecidableEq, Repr

/-- A group (R27, R36, R308). -/
structure Group where
  /-- Group number within the team (R87). -/
  num : Nat := 0
  /-- %group: for a gleaned group, its launch count (R52). -/
  index : Nat := 0
  width : Nat := 32
  /-- The die and the core within it that hold the group. -/
  die : Nat := 0
  core : Nat := 0
  /-- Issue slot, and half or quarter within it (R31). -/
  slot : Nat := 0
  part : Nat := 0
  residence : Residence := .resident
  /-- Lanes that have not exited. -/
  live : Mask := 0
  s0 : Option Split := none
  s1 : Option Split := none
  /-- The off-slot queue, oldest first (R37). -/
  queue : List Split := []
  /-- Where its spill area begins in the context's spill pool (R39). -/
  spill : Nat := 0
  /-- The number of the next split to be formed. -/
  splitNext : Nat := 1
  /-- Records that a debugger has written at indices without a split, by index, and the last units of the lanes, plus 1, as they
  stood when it began (R398, R407). -/
  recs : Table (BitVec 256) := []
  lasts : Table Nat := []
  /-- The PC slot that had the last turn (R36). -/
  turn : Nat := 1
  fams : List Fam := []
  famNext : Nat := 1
  /-- Return-stack entries in use, by index (R44). -/
  rets : Table RetEntry := []
  /-- Register r of the allocation, lane l, at 128 r + l. -/
  vregs : Table Word := []
  scalars : Table Dword := []
  /-- k1 to k7 (R38, R151). -/
  masks : Table Mask := []
  caps : Table Cap := []
  wb : Nat := 0
  /-- %fflags: NV DZ OF UF NX from bit 4 down (R118). -/
  fflags : BitVec 5 := 0
  /-- Latch j at lane l, at 128 j + l (R157). -/
  latches : Table Word := []
  latchValid : BitVec 8 := 0
  run : Option Run := none
  /-- Scalars whose write by the device is outstanding (R204). -/
  pendScalars : BitVec 16 := 0
  /-- Pending allocation registers (R443). -/
  pendRegs : List Nat := []
  /-- Arrivals at team barrier b, and the lanes that have executed an arriving instruction since (R253). -/
  barCount : Table Nat := []
  barMask : Table Mask := []
  dbarCount : Nat := 0
  dbarMask : Mask := 0
  /-- The phase of the group's latest arrival at rendezvous b, and the lanes since (R247). -/
  rdvCount : Table Nat := []
  rdvMask : Table Mask := []
  /-- The count that its latest BRDV or BARV at rendezvous b brought. -/
  rdvWant : Table Nat := []
  dwaitMask : Mask := 0
  /-- The operands of the DWAIT that the group executed last. -/
  dwaitOp : Option DwaitSt := none
  /-- %cycle at the group's last issue (R412), and the watchdog's running count. -/
  lastIssue : Nat := 0
  idle : Nat := 0
  /-- Sequence of the last issue, for the choice of R315. -/
  issueSeq : Nat := 0
  /-- Since when a unit of the group awaits sheaves without a break (R331), with its PC slot and price, and at how many lap
  starts. -/
  awaits : Option Nat := none
  awaitLaps : Nat := 0
  awaitPrice : Nat := 0
  awaitSlot : Nat := 0
  /-- Damaged register state (R434). -/
  damage : List Damage := []
  /-- The group asked the host for a service: number, lanes, status scalar, argument addresses (R263). -/
  service : Option (Nat × Mask × Nat × List (Nat × Nat)) := none
  /-- The host's answer for the restore (R377). -/
  serviceStatus : Option Nat := none
  /-- A debug command recorded while the group was saved or parked (R403). -/
  debugPending : Option Nat := none
  /-- The group waits under R47 with every lane exited. -/
  exited : Bool := false
  /-- %cycle of its last YIELD: the next cycle passes it over (R251). -/
  yielded : Option Nat := none
  deriving DecidableEq, Repr

end Sys2Proof.Machine
end

