-- ==== Sys2Proof/Machine/State/Die.lean ====
section
/-! DEFINITION. The state of teams, grids, bonds, engines, the Granary, islands and dies (04, 09 to 14). -/
namespace Sys2Proof.Machine

/-- The states of a team under scheduling and pre-emption (R324). -/
inductive TeamState where
  | resident | deciding | draining | saving | saved | discarding | discarded | restoring
  /-- Parked whole by DWAIT (R54). -/
  | parked
  deriving DecidableEq, Repr

/-- A pre-emption request (R319, R324). -/
structure Preempt where
  deadline : Nat := 0
  /-- The pre-empting context; none for a request of the driver (R338). -/
  by_ : Option Nat := none
  /-- The option chosen: 0 drain, 1 save, 2 discard. -/
  choice : Option Nat := none
  missed : Bool := false
  deriving DecidableEq, Repr

/-- A launched team, or the Gleaner team of a kernel and context on a die (R29, R52, R87). -/
structure Team where
  ctx : Nat := 0
  /-- The grid's number, or for a Gleaner team the number of an emitting grid. -/
  grid : Nat := 0
  /-- %team. -/
  index : Nat := 0
  /-- The die of the team's level: the lower die of a twin. -/
  die : Nat := 0
  handle : Nat := 0
  /-- %die. -/
  pos : Nat := 0
  /-- 0 core, 1 pair, 2 cluster, 3 twin (R306). -/
  span : Nat := 0
  /-- The core, pair or cluster number of the span. -/
  place : Nat := 0
  ngroups : Nat := 0
  width : Nat := 32
  vregs : Nat := 32
  /-- Local store allocation in bytes on each core. -/
  localBytes : Nat := 0
  bond : Nat := 0
  /-- The entry capability, through which its words are fetched (R248, R308). -/
  code : Cap := {}
  /-- The entry of a Gleaner team (R52). -/
  gleaner : Option Nat := none
  state : TeamState := .resident
  groups : Table Group := []
  retired : List Nat := []
  /-- Local store: byte OFFSET of core RANK at 2^20 RANK + OFFSET (for a gleaned group, RANK is its number). -/
  loc : Table Byte := []
  /-- Tagged granules and poisoned bytes of local store, by the same address (R63, R432). -/
  locTags : List Nat := []
  locPoison : List Nat := []
  /-- Entry order in the placement list (R313). -/
  order : Nat := 0
  /-- Residency timer: %cycle at placement or restore, and the quantum already reported (R318). -/
  since : Nat := 0
  quantumSpent : Bool := false
  residency : Nat := 0
  /-- IR, its values at the counts where it changed within the last 4096, newest first, MC and CB of R321; RN is
  residency. -/
  ir : Nat := 0
  irHist : List (Nat × Nat) := []
  mc : Nat := 0
  cb : Nat := 0
  /-- Kills and relaunches so far (R450, R466). -/
  kills : Nat := 0
  relaunches : Nat := 0
  preempt : Option Preempt := none
  dwait : Option DwaitSt := none
  /-- The bond state is saved with the team (R286). -/
  bondSaved : Bool := false
  /-- Counts of residency while no group was stopped (R413), and the TWLIM at which the watchdog fired last. -/
  watched : Nat := 0
  twatchAt : Nat := 0
  deriving DecidableEq, Repr

/-- The states of a grid (R311). -/
inductive GridState where
  | pending | ready | running | complete | broken
  deriving DecidableEq, Repr

/-- A grid: its launch record and its progress (R306, R311). -/
structure Grid where
  ctx : Nat := 0
  queue : Nat := 0
  /-- The launch record as fetched. -/
  record : BitVec 512 := 0
  raddr : Nat := 0
  index : Nat := 0
  fetchDie : Nat := 0
  order : Nat := 0
  prio : Nat := 0
  state : GridState := .ready
  dies : List Nat := []
  /-- The deadline instant on the fetching die. -/
  deadline : Option Nat := none
  missed : Bool := false
  /-- Next team not yet placed, by die position; teams of a position end where the next begins (R312). -/
  next : Table Nat := []
  retired : Nat := 0
  /-- Retired teams and their total IR by die, for Ī (R322). -/
  retiredOn : Table Nat := []
  retiredIr : Table Nat := []
  /-- Mailbox word w of die position d, at 64 d + w (R255). -/
  words : Table Dword := []
  wordsHeld : Bool := false
  /-- When it was marked broken, and the teams then released from DWAIT (R457). -/
  brokenAt : Option Nat := none
  brokenOn : Nat := 0
  released : List (Nat × Nat) := []
  aborted : Bool := false
  /-- A team of it waits for spill areas: die and the count since when, and whether it is logged (R410). -/
  spillSince : Option (Nat × Nat) := none
  spillLogged : Bool := false
  deriving DecidableEq, Repr

/-- A deckle entry (R89). -/
structure Deckle where
  ctx : Nat := 0
  oid : Nat := 0
  base : Nat := 0
  len : Nat := 0
  /-- 1 HELD, 2 SHARED, 3 ATOMIC, 4 IN-FLIGHT, 5 POISONED. -/
  state : Nat := 0
  shares : Nat := 0
  holder : Nat := 0
  /-- LEND0 upward. -/
  lend : List Nat := []
  former : Nat := 0
  deriving DecidableEq, Repr

/-- A hold or share that a party's held-region caches or hold list record (R91). -/
structure Hold where
  ctx : Nat := 0
  party : Nat := 0
  oid : Nat := 0
  base : Nat := 0
  len : Nat := 0
  /-- 0 hold, 1 share of a SHARED region, 2 holder of ATOMIC, 3 share of ATOMIC. -/
  kind : Nat := 0
  /-- The module cores whose held-region caches have it; where one of the party's cores lacks it, it stands in the hold list. -/
  cached : List Nat := []
  /-- The count of its last use, for the choice of the entry that is written to the hold list. -/
  used : Nat := 0
  deriving DecidableEq, Repr

/-- The ten ownership operations (R94). -/
inductive OwnKind where
  | claim | park | lend | dreturn | split | join | share | unshare | atom | query
  deriving DecidableEq, Repr

/-- An ownership operation between issue and the write of its status (R90, R92, R95). -/
structure OwnOp where
  id : Nat := 0
  kind : OwnKind := .claim
  ctx : Nat := 0
  party : Nat := 0
  die : Nat := 0
  handle : Nat := 0
  grp : Nat := 0
  oid : Nat := 0
  /-- The named range; for a split or join, base is the boundary. -/
  base : Nat := 0
  len : Nat := 0
  target : Nat := 0
  reg : Nat := 0
  /-- Set when the table home has performed it: the status or result, and the region to install: party, kind, base,
  length. -/
  result : Option Dword := none
  install : Option (Nat × Nat × Nat × Nat) := none
  scope : Nat := 5
  /-- The count of its die at its issue, plus 1, for the order of R90. -/
  at_ : Nat := 0
  /-- When it first met a full hold list (R423). -/
  holdSince : Option Nat := none
  /-- It writes no scalar: an installation of R95 left over from a return that no instruction made. -/
  quiet : Bool := false
  deriving DecidableEq, Repr

/-- The instructions an engine runs (R237, R233, R243). -/
inductive EngKind where
  | cpy | cpyc | nmred | nmscat
  deriving DecidableEq, Repr

/-- One entry of NMRED or NMSCAT: lane, row, bag, weight (R233). -/
structure NmEntry where
  lane : Nat
  row : Nat
  bag : Nat
  weight : Word
  deriving DecidableEq, Repr

/-- An engine operation between issue and receipt (R231). -/
structure EngOp where
  id : Nat := 0
  kind : EngKind := .cpy
  ctx : Nat := 0
  die : Nat := 0
  handle : Nat := 0
  grp : Nat := 0
  core : Nat := 0
  reg : Nat := 0
  /-- The engine's party (R97). -/
  party : Nat := 0
  /-- The record or descriptor, and the capabilities it named, as read at issue. -/
  record : BitVec 512 := 0
  src : Cap := {}
  dst : Cap := {}
  /-- Destination regions lent to the engine: object and base (R97). -/
  lends : List (Nat × Nat) := []
  /-- NMRED, NMSCAT: the issue whose groups share one installment (R233), entries at issue, and rows begun. CPY, CPYC:
  count is COUNT so far (R231). -/
  key : Nat := 0
  count : Nat := 0
  begun : List Nat := []
  entries : List NmEntry := []
  /-- Next element (NMRED, NMSCAT: 1 once the installment is taken), and bytes written over all targets. -/
  next : Nat := 0
  done : Nat := 0
  /-- CPY: elements past the next that are written already (R242, R452). -/
  ahead : List Nat := []
  /-- Sheaves paid (CPY: KiB), and the installment still wanted. -/
  paid : Nat := 0
  want : Nat := 0
  waitLaps : Nat := 0
  /-- The order in which it began to wait on its pair (R330). -/
  ticket : Nat := 0
  /-- Bytes of a feed unit being formed (R273), with their marks. -/
  unit : List (Byte × Bool) := []
  /-- The result of a collective has come back: bytes, marks, and NAN OVF INX (R140). -/
  result : Option (List Nat × List Bool × Nat) := none
  /-- Set when the engine has stopped or finished: STATUS. -/
  status : Option Nat := none
  dstat : Nat := 0
  /-- A feed CPY stopped by pre-emption (R57). -/
  frozen : Bool := false
  /-- When its return first met a full hold list (R423). -/
  holdSince : Option Nat := none
  deriving DecidableEq, Repr

/-- A PAGEIN between issue and receipt: pages still to act on (R76, R224). -/
structure PageinOp where
  id : Nat := 0
  ctx : Nat := 0
  oid : Nat := 0
  die : Nat := 0
  handle : Nat := 0
  grp : Nat := 0
  reg : Nat := 0
  pages : List Nat := []
  worst : Nat := 0
  deriving DecidableEq, Repr

/-- A STEP.TAKE between issue and receipt (R261): lane and mailbox pairs still waiting. -/
structure TakeOp where
  id : Nat := 0
  die : Nat := 0
  handle : Nat := 0
  grp : Nat := 0
  reg : Nat := 0
  /-- First allocation register, and whether the header is taken. -/
  base : Nat := 0
  header : Bool := false
  lanes : List (Nat × Nat) := []
  missing : Bool := false
  /-- The count of the group's die at its issue, plus 1 (R356). -/
  at_ : Nat := 0
  deriving DecidableEq, Repr

/-- A feed queue (R272, R449). -/
structure FeedQueue where
  bytes : List Byte := []
  rpos : Nat := 0
  wpos : Nat := 0
  /-- FAILED position, and the STATUS of the stopped CPY (0: poisoned unit). -/
  failed : Option (Nat × Nat) := none
  deriving DecidableEq, Repr

/-- A Q operation that the sequencer has begun (R279, R280). -/
structure BondOp where
  instr : Instr := .mend
  /-- The word's offset. -/
  addr : Nat := 0
  /-- MMAC, MMACT: sheaves per core still to be taken before the start. -/
  charge : Nat := 0
  started : Bool := false
  /-- Bytes taken from each queue so far (R272, R291). -/
  taken : Table (List Byte) := []
  /-- The scale bytes read at the start (R281). -/
  scales : List Byte := []
  /-- It waits for queue data. -/
  starved : Bool := false
  /-- Every operand is in: the array is at work. -/
  ready : Bool := false
  waitLaps : Nat := 0
  /-- The order in which its charge began to wait (R330). -/
  ticket : Nat := 0
  deriving DecidableEq, Repr

/-- A phase of a rendezvous (R247): completed phases, the count of the open one, its group and sequencer arrivals. -/
structure Rdv where
  done : Nat := 0
  count : Option Nat := none
  groups : Nat := 0
  seqs : Nat := 0
  deriving DecidableEq, Repr

/-- The descriptors that MFMT loaded (R275): FMT, BK, BIAS, SADDR, SLEN of A, B and output. -/
structure FmtBlock where
  a : BitVec 128 := 0
  b : BitVec 128 := 0
  o : BitVec 128 := 0
  deriving DecidableEq, Repr

/-- A bond lease and the array, feeds and sequencer it drives (10). -/
structure Bond where
  die : Nat := 0
  handle : Nat := 0
  cluster : Nat := 0
  shape : Nat := 0
  twin : Bool := false
  /-- 0 IDLE, 1 RUNNING, 2 ENDED, 3 FAULTED (R282). -/
  state : Nat := 0
  qpc : Nat := 0
  /-- QPC as the bond status word shows it. -/
  qlast : Nat := 0
  events : BitVec 4 := 0
  fault : Nat := 0
  /-- Tile element (mm, n) of tile t at bond column j, at ((8 j + t) 128 + mm) 128 + n. -/
  tiles : Table Word := []
  /-- BB of tile t of column j at 8 j + t, biased by 1024; absent when BV is 0 (R278). -/
  bias : Table Nat := []
  /-- Plane element (kk, n) of plane p of core (i, j): code and scale byte, at (((8 i + j) 2 + p) 128 + kk) 128 + n. -/
  planes : Table Nat := []
  /-- Format of a loaded plane, and PB biased by 1024 (R291). -/
  planeFmt : Table Nat := []
  planeBias : Table Nat := []
  fmt : Option FmtBlock := none
  curA : Nat := 0
  curB : Nat := 0
  feedA : Table FeedQueue := []
  feedB : Table FeedQueue := []
  /-- Seam queues of a twin bond: bytes of queue i that have crossed (R272). -/
  seam : Table FeedQueue := []
  /-- Active loop counters and their remaining counts (R294). -/
  loops : Table Nat := []
  rdvs : Table Rdv := []
  broken : Bool := false
  /-- The BFORK's group and receipt (R246). -/
  receipt : Option (Nat × Nat) := none
  /-- A BFORK has been taken, and the sequencer has yet to start its stream. -/
  starting : Bool := false
  code : Cap := {}
  op : Option BondOp := none
  /-- Sheaves held for the waiting operation, by pair (R330). -/
  holds : Table Nat := []
  /-- The sequencer waits for this phase of a rendezvous; true at an MBAR, false at a MARV that waits for the earlier one (R285, R296). -/
  barWait : Option (Nat × Nat × Bool) := none
  /-- Damaged tile or plane elements: rank and 0 to 7 or 8 + plane (R434). -/
  damage : List (Nat × Nat) := []
  /-- The lease is broken and its state saved with the team (R286). -/
  saved : Bool := false
  deriving DecidableEq, Repr

/-- The states of a mailbox (R355). -/
inductive MboxState where
  | free
  | owe (s : Nat)
  | idle (s : Nat)
  | pending (s : Nat)
  | ending
  deriving DecidableEq, Repr

/-- A step mailbox (R353, R355). -/
structure Mbox where
  state : MboxState := .free
  action : List Byte := []
  actionHdr : BitVec 128 := 0
  /-- The untaken observation: header and 128 bytes. -/
  obs : Option (BitVec 128 × List Byte) := none
  /-- Synthetic observations still to be placed (R361). -/
  owed : List (BitVec 128) := []
  /-- The count, plus 1, and the party of the last operation of a group there (R356). -/
  usedAt : Nat := 0
  usedBy : Nat := 0
  deriving DecidableEq, Repr

/-- Why an episode is blocked, or that it runs (R364, R366). -/
inductive EpWait where
  | run
  | ready
  | wait (rd : Nat) (till : Option Nat)
  | post (rd : Nat) (addr : Nat)
  deriving DecidableEq, Repr

/-- An episode on a Granary hart (13). -/
structure Episode where
  mbox : Nat := 0
  ctx : Nat := 0
  hart : Nat := 0
  party : Nat := 0
  desc : BitVec 512 := 0
  /-- First window unit and units. -/
  win : Nat := 0
  size : Nat := 0
  hbmCap : Cap := {}
  pc : Nat := 0
  regs : Table Dword := []
  /-- LR reservation: address and size. -/
  reserve : Option (Nat × Nat) := none
  /-- The 80-byte step buffer (R365). -/
  buffer : List Byte := []
  /-- Pin state: mode and P (R358). -/
  pin : Bool := false
  pver : Nat := 0
  lastVer : Option Nat := none
  mayRestart : Bool := false
  state : EpWait := .ready
  /-- Order in which its action was accepted (R350). -/
  since : Nat := 0
  stepInstr : Nat := 0
  stepCycles : Nat := 0
  instret : Nat := 0
  cycles : Nat := 0
  steps : Nat := 0
  /-- VER of the action being answered. -/
  ver : Nat := 0
  deriving DecidableEq, Repr

/-- A PMP entry of a hart: what U-mode may do in a range (R345, R346). -/
structure PmpEntry where
  base : Nat := 0
  len : Nat := 0
  r : Bool := false
  w : Bool := false
  x : Bool := false
  deriving DecidableEq, Repr

/-- A Granary hart (R345, R350, R468). It is in U-mode while an episode runs on it, and otherwise in M-mode, whose signed firmware
acts in the steps that start, switch and end episodes (log 25). -/
structure Hart where
  /-- The PMP entries in use, of 16. -/
  pmp : List PmpEntry := []
  counter : Nat := 0
  retired : Bool := false
  /-- The mailbox of the running episode. -/
  running : Option Nat := none
  deriving DecidableEq, Repr

/-- A continuation record on its way (R48, R49): the instant of its gleaning deadline, its bits, its emitting grid, and
whether it stands in the overflow area. -/
structure GleanRec where
  due : Nat := 0
  bits : BitVec 512 := 0
  grid : Nat := 0
  spilled : Bool := false
  deriving DecidableEq, Repr

/-- An open group of the Gleaner (R49): context, entry, and the records in arrival order. -/
structure Glean where
  ctx : Nat := 0
  entry : Nat := 0
  recs : List GleanRec := []
  deriving DecidableEq, Repr

/-- A launched gleaned group waiting in the placement list (R317): its kernel parameter record as read at the launch (R51) and
its number among the launches (R52). It takes the place of its first record's grid. -/
structure GleanReady where
  ctx : Nat := 0
  entry : Nat := 0
  kern : BitVec 128 := 0
  index : Nat := 0
  recs : List GleanRec := []
  deriving DecidableEq, Repr

/-- An island (R340 to R343, R463, R465). -/
structure Island where
  ratio : Nat := 0
  step : Nat := 0
  aratio : Nat := 0
  astep : Nat := 0
  half : Bool := false
  canary : Bool := false
  /-- A change in progress: its end and the new ratio and step (R341). -/
  change : Option (Nat × Nat × Nat) := none
  /-- The droop detector's last firing (R342). -/
  droopAt : Option Nat := none
  /-- A canary warning to act on at the next lap start, and the last warning (R343). -/
  warned : Bool := false
  warnAt : Nat := 0
  held : Bool := false
  /-- Canary warnings have moved the island from its plan (R343). -/
  off : Bool := false
  halvings : BitVec 32 := 0
  warnings : BitVec 32 := 0
  stopped : Bool := false
  deriving DecidableEq, Repr

/-- A group named for its next unit, with the PC slot that issues. -/
structure Issuer where
  die : Nat := 0
  handle : Nat := 0
  grp : Nat := 0
  slot : Nat := 0
  deriving DecidableEq, Repr

/-- A core pair's purse and claim (R329, R331), and how far its eight schedulers have been served in a count (R315, R316). -/
structure Pair where
  purse : Nat := 0
  returned : Nat := 0
  claim : Bool := false
  need : Nat := 0
  q : Nat := 0
  /-- The count, plus 1, whose cycle is being served. -/
  servedAt : Nat := 0
  /-- Schedulers that have been served in it. -/
  served : Nat := 0
  /-- What the next scheduler has tried in it. -/
  tried : List Issuer := []
  /-- That scheduler's first choice awaits sheaves (R331). -/
  first : Bool := false
  deriving DecidableEq, Repr

/-- The ring of one lap (R329, R461). -/
structure Ring where
  b : Nat := 0
  c : Nat := 0
  rsv : Nat := 0
  taken : Nat := 0
  back : Nat := 0
  /-- The first stop of the lap that found an error. -/
  bad : Option Nat := none
  /-- What the next lap injects less (R461). -/
  short : Nat := 0
  /-- The count, plus 1, of the last lap start, stop visit and lap end. -/
  lapAt : Nat := 0
  stopAt : Nat := 0
  endAt : Nat := 0
  deriving DecidableEq, Repr

/-- A message of DSIG or MSIG on its way to a die, with the party that sent it (R327). -/
structure Dsig where
  grid : Nat := 0
  pos : Nat := 0
  word : Nat := 0
  op : SigOp := .add
  value : Dword := 0
  from_ : Nat := 0
  deriving DecidableEq, Repr

/-- A trap on its way to firmware (R395): the group by its team's die and handle, the team's grid, the split's number, and whether
a debugger catches it, as DBGCTL stood when it was taken (R402). -/
structure Trap where
  ctx : Nat := 0
  grid : Nat := 0
  born : Nat := 0
  caught : Bool := false
  tdie : Nat := 0
  handle : Nat := 0
  grp : Nat := 0
  code : Nat := 0
  slot : Nat := 0
  mask : Mask := 0
  detail : BitVec 128 := 0
  cycle : Nat := 0
  pc : Nat := 0
  rpc : Nat := 0
  depth : Nat := 0
  /-- UNOWNED: the region as the report found it, for the REGION record (R418). -/
  region : Option Deckle := none
  deriving DecidableEq, Repr

/-- A service slot of a die (R375 to R377): busy, and the group it belongs to if that still waits. -/
structure SvcSlot where
  slot : Nat := 0
  tdie : Nat := 0
  handle : Nat := 0
  grp : Nat := 0
  orphan : Bool := false
  deriving DecidableEq, Repr

/-- EPLAN after power-up (R339): BUDGET 4096, STATH 94, STATM 70, STATL 52, BALLAST 0, TTHR 95, TCRIT 110. -/
def eplanReset : Dword :=
  BitVec.ofNat 64 (4096 * 2 ^ 47 + 94 * 2 ^ 39 + 70 * 2 ^ 31 + 52 * 2 ^ 23 + 95 * 2 ^ 14 + 110 * 2 ^ 6)

/-- One compute die (R13 to R15). -/
structure Die where
  cycle : Nat := 0
  /-- 0 BRINGUP, 1 RUNNING, 2 REJECTED, 3 FAILED (R476). -/
  boot : Nat := 0
  bootStep : Nat := 0
  tries : Nat := 0
  version : BitVec 16 := 0
  measurement : BitVec 256 := 0
  absentLogged : Bool := false
  failedCores : List Nat := []
  pairs : Table Pair := []
  islands : Table Island := []
  ring : Ring := {}
  house : Dword := 0
  /-- EPLAN as written, and as it takes effect at the next lap start (R339). -/
  eplan : Dword := eplanReset
  eplanNow : Dword := eplanReset
  /-- ESTAT: last sample and TLEVEL; D and X; samples at or above TCRIT in a row (R344, R464). -/
  temp : Nat := 0
  tlevel : Nat := 0
  tD : Nat := 16
  tX : Nat := 0
  tCrit : Nat := 0
  /-- The count, plus 1, of the last sample. -/
  sampleAt : Nat := 0
  teams : Table Team := []
  /-- Re-entry order of the placement list and fetch order (R313). -/
  order : Nat := 0
  lastFetch : Nat := 0
  /-- Round-robin position by priority (R304). -/
  robin : Table Nat := []
  bonds : Table Bond := []
  gleans : List Glean := []
  gleanReady : List GleanReady := []
  /-- Launches so far of a kernel's gleaned groups, by 4096 entry + context (R52). -/
  gleanCount : Table Nat := []
  /-- Last report and drops since, by context, entry and kind (R455). -/
  gleanDrops : Table (Nat × Nat) := []
  dsigs : List Dsig := []
  traps : List Trap := []
  mboxes : Table Mbox := []
  episodes : Table Episode := []
  harts : Table Hart := []
  /-- Granary SRAM, by window byte, and its poison marks (R346, R432). -/
  sram : Table Byte := []
  sramPoison : List Nat := []
  gstart : Table Dword := []
  gsts : Dword := 0
  gerBase : Dword := 0
  gerSize : Dword := 0
  gerTail : Dword := 0
  gerHead : Dword := 0
  scring : Dword := 0
  scTail : Nat := 0
  scHead : Dword := 0
  slots : List SvcSlot := []
  /-- Groups parked by TRAP whose request is not yet posted, in order: the team's die and handle, and the group
(R376). -/
  svcQueue : List (Nat × Nat × Nat) := []
  evtSel : Dword := 0
  pcSel : Dword := 0
  cslots : Table Dword := []
  dsts : Dword := 0
  /-- The group in the divergence-state window (R407): handle and group. -/
  selected : Option (Nat × Nat) := none
  ceCount : Dword := 0
  ueCount : Dword := 0
  /-- Last heartbeat heard from each other die (R470). -/
  heard : Table Nat := []
  pressReport : Table (Nat × Nat) := []
  /-- Where the sweep of R77 stands: the key of the entry visited last, plus 1. -/
  sweep : Nat := 0
  xfer : Nat := 0
  /-- Contributions made since a slot was configured (R243): 65536 slot + sequence number. -/
  contributed : List Nat := []
  deriving DecidableEq, Repr

end Sys2Proof.Machine
end

