-- ==== Sys2Proof/Machine/State.lean ====
section
/-! DEFINITION. The state of the module: everything the manual gives it, as plain data; faults, refusals and reset. -/
namespace Sys2Proof.Machine

/-- A line of an L1 or L2 (R80): L1 of a module core, or L2 of a module cluster (16 die + cluster). -/
structure CLine where
  l2 : Bool := false
  unit : Nat := 0
  /-- Line number: address / 128, HBM physical or far (FarAddr of Ops). -/
  line : Nat := 0
  data : Table Byte := []
  dirty : Mask := 0
  /-- The bytes of the words whose valid bit is set. -/
  known : Mask := 0
  poison : Mask := 0
  /-- Tags of the line's eight granules, and which of them this line has written (R63). -/
  tags : BitVec 8 := 0
  tagDirty : BitVec 8 := 0
  deriving DecidableEq, Repr

/-- A queue's tail, its re-fetch count and instant, its error word and whether a fetch is due (R371, R372, R455). -/
structure QueueSt where
  tail : Nat := 0
  refetch : Nat := 0
  refetchAt : Nat := 0
  err : Dword := 0
  deriving DecidableEq, Repr

/-- An access that waits for a path (R379, R473). -/
structure PathWait where
  id : Nat := 0
  die : Nat := 0
  handle : Nat := 0
  grp : Nat := 0
  /-- An engine operation, or none for the group's next unit. -/
  engine : Option Nat := none
  /-- The ownership operation whose write-back waits (R473). -/
  own : Option Nat := none
  endpoint : Nat := 0
  since : Nat := 0
  cap : Nat := 0
  acc : Nat := 0
  off : Nat := 0
  mask : Mask := 0
  slot : Nat := 0
  deriving DecidableEq, Repr

/-- A seam (R380, R472): losses so far, 3 is down; the end of a retrain. -/
structure Seam where
  losses : Nat := 0
  till : Option Nat := none
  deriving DecidableEq, Repr

/-- A collective in progress (R138, R243): slot, sequence number, members' contributions so far, and the accumulators by
element with their sticky bits and marks. -/
structure Collective where
  slot : Nat := 0
  seq : Nat := 0
  n : Nat := 0
  fmt : Nat := 0
  ranks : List Nat := []
  /-- 256-bit two's complement accumulators. -/
  acc : List (BitVec 256) := []
  posInf : List Bool := []
  negInf : List Bool := []
  nan : List Bool := []
  poison : List Bool := []
  inexact : Bool := false
  /-- All-gather: contributions by rank. -/
  gathered : Table (List Nat) := []
  broken : Bool := false
  deriving DecidableEq, Repr

/-- An answer to a peer's access (R381): the bytes with their marks, or none for a generation fault. -/
structure FarReply where
  module : Nat := 0
  ctx : Nat := 0
  data : Option (List Byte) := none
  marks : List Bool := []
  deriving DecidableEq, Repr

/-- Which agent acts next (log 2): a group issues, every scheduler that has a choice in this count issues, a sequencer or a hart
takes its next instruction, another step of the table is taken with its arguments, the host writes memory, or time passes. -/
inductive Act where
  | issue (i : Issuer)
  | serve
  | seq (die cl : Nat)
  | hart (die mbox : Nat)
  | event (i : Instr) (a : StepArgs)
  | hostWrite (addr : Nat) (bytes : List Byte)
  | tick (n : Nat)
  deriving DecidableEq, Repr

/-- The state of the module. -/
structure State where
  /-- Powered (R23). -/
  powered : Bool := true
  /-- One-time fuses: key digest, device seed, rollback counter (R24). -/
  fuseDigest : BitVec 256 := 0
  fuseSeed : BitVec 256 := 0
  rollback : BitVec 16 := 0
  /-- HBM as its home LLC slices hold it (R81), by physical address; tagged granules (R63) and poisoned bytes (R432). -/
  hbm : List Host.Cell := []
  hbmTags : List Nat := []
  hbmPoison : List Nat := []
  /-- Host memory (R303, R375, R383). -/
  host : List Host.Cell := []
  /-- The bytes of peer modules' objects, at (2^28 module + ROID) 2^40 + offset (R381). -/
  far : List Host.Cell := []
  lines : List CLine := []
  dies : Table Die := []
  grids : Table Grid := []
  deckles : List Deckle := []
  holds : List Hold := []
  ownOps : List OwnOp := []
  engines : List EngOp := []
  pageins : List PageinOp := []
  takes : List TakeOp := []
  collectives : List Collective := []
  /-- Imported far regions: context, object, base, length (R382). -/
  imports : List (Nat × Nat × Nat × Nat) := []
  farReplies : List FarReply := []
  /-- Messages sent to peers (R382): module, and the lend or return. -/
  farOut : List (Nat × FarMsg) := []
  lostPeers : List Nat := []
  queues : Table QueueSt := []
  /-- Registers of the module block, by offset (R388). -/
  mreg : Table Dword := []
  /-- A management update that waits (R425); MUNEW, MUOLD and MUSTS stand in mreg. -/
  muWait : Option MuArgs := none
  /-- The report of R478 last written; its nonce, command and status stand in mreg, and its signature follows from it. -/
  report : Option Config.AttestReport := none
  /-- Connection table entries by index (R378). -/
  circuits : Table Dword := []
  /-- Circuits cleared, with traffic still on them: their entries before the write (R379). -/
  circDrain : Table Dword := []
  /-- Wavelengths that a circuit has lost since it was set up (R473). -/
  circLost : Table Nat := []
  seams : Table Seam := []
  /-- Wavelengths lost at fabric port p; 4 is down (R390). -/
  ports : Table Nat := []
  /-- Replays so far of an unacknowledged flit, by 2^32 port + sequence number (R390). -/
  replays : Table Nat := []
  /-- The host link counts as failed (R453), and the functions whose links have stayed out of L0. -/
  hostLinkDown : Bool := false
  hostOut : List Nat := []
  paths : List PathWait := []
  /-- Pressed images by press-zone record: the page's bytes, marks and tags (R70, R77). -/
  pressed : Table (List Host.Cell × List Nat × List Nat) := []
  pressVisits : Table Nat := []
  /-- Energy and event counters held by cores (R337, R389), at 2048 context + module core, and 16 times that + n. -/
  coreHeld : List Nat := []
  coreEnergy : Table Dword := []
  /-- What the driver's last read of an energy counter returned (R337). -/
  energyRead : Dword := 0
  coreEvents : Table Dword := []
  /-- MSI-X signals by vector (R369). -/
  msix : Table Nat := []
  nextId : Nat := 1
  nextGrid : Nat := 1
  issues : Nat := 0
  /-- The MODEL's own fields (log 2, 8): free values drawn, who acts next, the issuer and arguments latched for exec. -/
  drawn : Nat := 0
  agenda : List Act := []
  cur : Option Issuer := none
  curSeq : Option (Nat × Nat) := none
  curHart : Option (Nat × Nat) := none
  arg : StepArgs := {}
  deriving DecidableEq, Repr

/-- Why a step has no next state. Each is a case that the machine itself never meets. -/
inductive Fault where
  /-- A unit was executed with no group named to issue it (raised by the unit meanings; safe). -/
  | noIssuer
  /-- A Q word was executed with no sequencer named (raised by the Q meanings; safe). -/
  | noSequencer
  /-- A hart's instruction was executed with no episode named (raised by the Granary meanings; safe). -/
  | noEpisode
  deriving DecidableEq, Repr

/-- Why the model gives no meaning. -/
inductive Refusal where
  /-- The instruction has no meaning in this model yet (raised by Dispatch; safe). -/
  | notModelled (mnemonic : String)
  deriving DecidableEq, Repr

/-- The module right after power-up (R23, R25, R476): every die in bring-up, every memory, table and register as the
manual resets it or as log entry 3 names it, and nothing placed. -/
def State.reset : State := {}

end Sys2Proof.Machine
end

