-- ==== Sys2Proof/Machine/Sparse.lean ====
section
/-! DEFINITION. Tables by number in one canonical form, sets of numbers, bytes, and memory as cells (R4). -/
namespace Sys2Proof.Machine

variable {α β : Type}

/-- The entry of key k, if listed. -/
def tfind : Table α → Nat → Option α
  | [], _ => none
  | (k', v) :: r, k => if k' = k then some v else tfind r k

/-- The entry of key k, or what an unlisted key reads as. -/
def tget (t : Table α) (k : Nat) (d : α) : α := (tfind t k).getD d

/-- The table without key k. -/
def tdel : Table α → Nat → Table α
  | [], _ => []
  | (k', v) :: r, k => if k' = k then tdel r k else (k', v) :: tdel r k

/-- The table with entry v at key k, keys rising. -/
def tput : Table α → Nat → α → Table α
  | [], k, v => [(k, v)]
  | (k', v') :: r, k, v =>
    if k < k' then (k, v) :: (k', v') :: r else if k' = k then (k, v) :: r else (k', v') :: tput r k v

/-- The table that reads v at key k and lists no entry equal to the default d. -/
def tset [DecidableEq α] (t : Table α) (k : Nat) (v d : α) : Table α := if v = d then tdel t k else tput t k v

/-- The numbers below n of the records of a size, from a base, in which some byte is listed: those not all zero. -/
def keysIn (m : Table α) (base size n : Nat) : List Nat :=
  (m.foldl (fun (r : List Nat) e =>
    if e.1 < base ∨ base + size * n ≤ e.1 then r
    else if r.head? = some ((e.1 - base) / size) then r else (e.1 - base) / size :: r) []).reverse

/-- Every entry changed. -/
def tmap (f : α → α) (t : Table α) : Table α := t.map (fun e => (e.1, f e.2))

/-- Keys strictly rising, the first above the bound b when there is one. -/
def risingFrom : Option Nat → Table α → Bool
  | _, [] => true
  | b, (k, _) :: r => (match b with | none => true | some j => decide (j < k)) && risingFrom (some k) r

/-- No entry equal to the default. -/
def noDefault [DecidableEq α] (d : α) (t : Table α) : Bool := t.all (fun e => e.2 ≠ d)

/-- The canonical form of a table. -/
def tableWf [DecidableEq α] (d : α) (t : Table α) : Bool := risingFrom none t && noDefault d t

/-- The canonical form of memory: addresses strictly rising, no entry equal to what an unlisted byte reads as. -/
def Memory.wf (m : List Host.Cell) : Bool := tableWf (0 : Byte) m

/-- What a byte that nothing has written reads as (log 1). -/
def unwritten : Byte := 0

/-- One byte of memory. -/
def rdByte (m : List Host.Cell) (a : Nat) : Byte := tget m a unwritten

/-- Memory with one byte written. -/
def wrByte (m : List Host.Cell) (a : Nat) (b : Byte) : List Host.Cell := tset m a b unwritten

/-- n bytes from a. -/
def rdBytes (m : List Host.Cell) (a : Nat) : Nat → List Byte
  | 0 => []
  | n + 1 => rdByte m a :: rdBytes m (a + 1) n

def wrBytes (m : List Host.Cell) (a : Nat) : List Byte → List Host.Cell
  | [] => m
  | b :: r => wrBytes (wrByte m a b) (a + 1) r

/-- The number whose bytes stand in increasing address order (R4). -/
def leNat : List Byte → Nat
  | [] => 0
  | b :: r => b.toNat + 256 * leNat r

/-- The n bytes of a number, least significant first (R4). -/
def leBytes : Nat → Nat → List Byte
  | 0, _ => []
  | n + 1, v => BitVec.ofNat 8 v :: leBytes n (v / 256)

def rdNat (m : List Host.Cell) (a n : Nat) : Nat := leNat (rdBytes m a n)
def wrNat (m : List Host.Cell) (a n v : Nat) : List Host.Cell := wrBytes m a (leBytes n v)

/-- Bits [hi:lo] of a number (R4, R143). -/
def bits (x hi lo : Nat) : Nat := x / 2 ^ lo % 2 ^ (hi + 1 - lo)

/-- The low w bits read as two's complement (R143). -/
def sextN (x w : Nat) : Int :=
  let y := x % 2 ^ w
  if 2 * y < 2 ^ w then (y : Int) else (y : Int) - (2 ^ w : Nat)

/-- An integer modulo 2^w. -/
def wrapN (x : Int) (w : Nat) : Nat := (x % ((2 ^ w : Nat) : Int)).toNat

/-- A field of a word built at a position. -/
def at_ (v lo w : Nat) : Nat := v % 2 ^ w * 2 ^ lo

/-- A set of numbers as a rising list. -/
def sIns : List Nat → Nat → List Nat
  | [], k => [k]
  | j :: r, k => if k < j then k :: j :: r else if j = k then j :: r else j :: sIns r k

def sDel (l : List Nat) (k : Nat) : List Nat := l.filter (· ≠ k)

/-- Numbers without repeats, in order of first appearance. -/
def dedup : List Nat → List Nat
  | [] => []
  | k :: r => k :: (dedup r).filter (· ≠ k)

/-- The numbers from a, n of them. -/
def upto (n : Nat) : List Nat := List.range n

def btn (b : Bool) : Nat := if b then 1 else 0

/-- The least element by a measure, the first of equals. -/
def minBy (f : α → Nat) : List α → Option α
  | [] => none
  | x :: r =>
    match minBy f r with
    | none => some x
    | some y => if f x ≤ f y then some x else some y

/-- Replace the elements of a list that satisfy p. -/
def updWhere (p : α → Bool) (f : α → α) (l : List α) : List α := l.map (fun x => if p x then f x else x)

/-- Number of one bits among the low n. -/
def popN (x : Nat) : Nat → Nat
  | 0 => 0
  | n + 1 => x % 2 + popN (x / 2) n

/-- Number of trailing zero bits among the low n. -/
def ctzN (x : Nat) : Nat → Nat
  | 0 => 0
  | n + 1 => if x % 2 = 1 then 0 else 1 + ctzN (x / 2) n

/-- Number of leading zero bits of a w-bit number. -/
def clzN (x w : Nat) : Nat := if x % 2 ^ w = 0 then w else w - 1 - Nat.log2 (x % 2 ^ w)

/-- A w-bit number with its bits reversed. -/
def revN (x : Nat) : Nat → Nat
  | 0 => 0
  | n + 1 => x % 2 * 2 ^ n + revN (x / 2) n

end Sys2Proof.Machine
end

