-- ==== Sys2Proof/Machine/Formats.lean ====
section
/-! DEFINITION. Number formats, rounding and conversion (05), computed exactly on dyadic and rational numbers. -/
namespace Sys2Proof.Machine

/-- The float formats of R115, R119, R120, R123. -/
inductive Fmt where
  | f32 | f16 | bf16
  | b8 (p : Nat) (uns ext : Bool)
  | fp4
  deriving DecidableEq, Repr

/-- Rounding modes, numbered as RND (R131). -/
inductive Rnd where
  | ne | tz | dn | up
  deriving DecidableEq, Repr

def rndOf (n : Nat) : Rnd := [Rnd.ne, .tz, .dn, .up].getD n .ne

/-- A decoded value: ± m × 2^e, an infinity, or NaN. -/
inductive FVal where
  | nan
  | inf (neg : Bool)
  | fin (neg : Bool) (m : Nat) (e : Int)
  deriving DecidableEq, Repr

/-- Arithmetic flags NV DZ OF UF NX from bit 4 down (R118). -/
abbrev FFlags := BitVec 5
def fNV : FFlags := 16
def fDZ : FFlags := 8
def fOF : FFlags := 4
def fUF : FFlags := 2
def fNX : FFlags := 1

namespace Fmt

/-- Significand bits. -/
def prec : Fmt → Nat
  | f32 => 24 | f16 => 11 | bf16 => 8 | b8 p _ _ => p | fp4 => 2

/-- Exponent bias. -/
def bias : Fmt → Nat
  | f32 => 127 | f16 => 15 | bf16 => 127
  | b8 p uns _ => if uns then 2 ^ (8 - p) else 2 ^ (7 - p)
  | fp4 => 1

/-- The exponent of the spacing near zero. -/
def qmin (f : Fmt) : Int := 1 - (f.bias : Int) - ((f.prec : Int) - 1)

def width : Fmt → Nat
  | f32 => 32 | f16 => 16 | bf16 => 16 | b8 _ _ _ => 8 | fp4 => 4

def hasInf : Fmt → Bool
  | f32 | f16 | bf16 => true
  | b8 _ _ ext => ext
  | fp4 => false

def isUnsigned : Fmt → Bool
  | b8 _ uns _ => uns
  | _ => false

def isB8 : Fmt → Bool
  | b8 _ _ _ => true
  | _ => false

/-- The code of the largest finite value (R121, R122). -/
def maxCode : Fmt → Nat
  | f32 => 0x7F7FFFFF | f16 => 0x7BFF | bf16 => 0x7F7F
  | b8 _ uns ext => if uns then (if ext then 0xFD else 0xFE) else (if ext then 0x7E else 0x7F)
  | fp4 => 0x7

def nanCode : Fmt → Nat
  | f32 => 0x7FC00000 | f16 => 0x7E00 | bf16 => 0x7FC0
  | b8 _ uns _ => if uns then 0xFF else 0x80
  | fp4 => 0

def signBit (f : Fmt) : Nat := 2 ^ (f.width - 1)

/-- The magnitude of a magnitude field: biased exponent above fraction (R119, R120, R123). -/
def magOf (f : Fmt) (m : Nat) : Nat × Int :=
  let ex := m / 2 ^ (f.prec - 1)
  let fr := m % 2 ^ (f.prec - 1)
  if ex = 0 then (fr, f.qmin) else (2 ^ (f.prec - 1) + fr, f.qmin + (ex : Int) - 1)

/-- dec of R143. -/
def dec (f : Fmt) (c : Nat) : FVal :=
  match f with
  | f32 | f16 | bf16 =>
    let c := c % 2 ^ f.width
    let neg := decide (f.signBit ≤ c)
    let m := c % f.signBit
    let top := (2 ^ (f.width - f.prec) - 1) * 2 ^ (f.prec - 1)
    if m < top then .fin neg (f.magOf m).1 (f.magOf m).2 else if m = top then .inf neg else .nan
  | b8 _ uns ext =>
    let c := c % 256
    if uns then
      if c = 0xFF then .nan else if ext ∧ c = 0xFE then .inf false else .fin false (f.magOf c).1 (f.magOf c).2
    else
      if c = 0x80 then .nan
      else if ext ∧ c % 128 = 0x7F then .inf (decide (128 ≤ c))
      else .fin (decide (128 ≤ c)) (f.magOf (c % 128)).1 (f.magOf (c % 128)).2
  | fp4 =>
    let c := c % 16
    .fin (decide (8 ≤ c)) (f.magOf (c % 8)).1 (f.magOf (c % 8)).2

def infCode (f : Fmt) (neg : Bool) : Nat :=
  match f with
  | b8 _ uns _ => if uns then 0xFE else if neg then 0xFF else 0x7F
  | _ => (2 ^ (f.width - f.prec) - 1) * 2 ^ (f.prec - 1) + (if neg then f.signBit else 0)

/-- A shift by an integer exponent, towards minus infinity. -/
def shiftNat (m : Nat) (k : Int) : Nat := if 0 ≤ k then m * 2 ^ k.toNat else m / 2 ^ (-k).toNat

/-- The code of a finite value m × 2^e of the format (R143). -/
def encFin (f : Fmt) (neg : Bool) (m : Nat) (e : Int) : Nat :=
  let sgn := if neg then f.signBit else 0
  if m = 0 then (if f.isB8 then 0 else sgn)
  else
    let top := (Nat.log2 m : Int) + e
    let q := max (top - (f.prec : Int) + 1) f.qmin
    let k := shiftNat m (e - q)
    let ex := if k < 2 ^ (f.prec - 1) then 0 else (q - f.qmin + 1).toNat
    (if f.isUnsigned then 0 else sgn) +
      (if ex = 0 then k else ex * 2 ^ (f.prec - 1) + (k - 2 ^ (f.prec - 1)))

end Fmt

/-- What rounding of ± n/d × 2^e gives: the rounded magnitude k × 2^q, and whether it differs. -/
structure Rounded where
  k : Nat
  q : Int
  inexact : Bool

/-- The increment decision: half is the comparison of the remainder with one half (0 zero, 1 below, 2 tie, 3 above). -/
def roundUp (md : Rnd) (neg : Bool) (half : Nat) (tieUp : Bool) : Bool :=
  match md with
  | .ne => decide (half = 3) || (decide (half = 2) && tieUp)
  | .tz => false
  | .dn => neg && decide (half ≠ 0)
  | .up => !neg && decide (half ≠ 0)

/-- floor(log2 (n/d)) + e for positive n and d. -/
def ilog (n d : Nat) (e : Int) : Int :=
  let l : Int := (Nat.log2 n : Int) - (Nat.log2 d : Int)
  let ge : Bool := if 0 ≤ l then decide (d * 2 ^ l.toNat ≤ n) else decide (d ≤ n * 2 ^ (-l).toNat)
  (if ge then l else l - 1) + e

/-- Round n/d × 2^e on the grid of spacing 2^q (R141); an exponent far below the grid needs no shift. -/
def roundAt (md : Rnd) (neg : Bool) (n d : Nat) (e q : Int) (tieUp : Nat → Bool) : Rounded :=
  if n = 0 then { k := 0, q := q, inexact := false }
  else if ilog n d e + 2 < q then
    { k := if roundUp md neg 1 false then 1 else 0, q := q, inexact := true }
  else
    let num := if 0 ≤ e - q then n * 2 ^ (e - q).toNat else n
    let den := if 0 ≤ e - q then d else d * 2 ^ (q - e).toNat
    let k := num / den
    let r := num % den
    let half := if r = 0 then 0 else if 2 * r < den then 1 else if 2 * r = den then 2 else 3
    { k := if roundUp md neg half (tieUp k) then k + 1 else k, q := q, inexact := decide (r ≠ 0) }

/-- rnd(md, x, f) of R141 for x = ± n/d × 2^e. -/
def roundFmt (f : Fmt) (md : Rnd) (neg : Bool) (n d : Nat) (e : Int) : Rounded :=
  if n = 0 then { k := 0, q := 0, inexact := false }
  else
    let l := ilog n d e
    let q := max (l - (f.prec : Int) + 1) f.qmin
    let tie := fun k : Nat =>
      if f.prec = 1 ∧ k ≠ 0 then decide ((q + f.bias) % 2 ≠ 0) else decide (k % 2 = 1)
    if 4096 < l then { k := 1, q := l, inexact := true } else roundAt md neg n d e q tie

/-- The direction is toward zero for the sign (R132). -/
def towardZero (md : Rnd) (neg : Bool) : Bool :=
  match md with
  | .ne => false
  | .tz => true
  | .dn => !neg
  | .up => neg

/-- k × 2^q exceeds the largest finite value of f. -/
def exceeds (f : Fmt) (k : Nat) (q : Int) : Bool :=
  let mx := f.magOf f.maxCode
  if k = 0 then false
  else
    let a := (Nat.log2 k : Int) + q
    let b := (Nat.log2 mx.1 : Int) + mx.2
    if b < a then true else if a < b then false
    else if 0 ≤ q - mx.2 then decide (mx.1 < k * 2 ^ (q - mx.2).toNat)
    else decide (mx.1 * 2 ^ (mx.2 - q).toNat < k)

/-- The largest finite code with a sign. -/
def maxFinite (f : Fmt) (neg : Bool) : Nat := f.maxCode + (if neg && !f.isUnsigned then f.signBit else 0)

/-- convert of R135 for a finite x = ± n/d × 2^e: the code and the flags. -/
def convQ (f : Fmt) (md : Rnd) (sb : Bool) (neg : Bool) (n d : Nat) (e : Int) : Nat × FFlags :=
  let r := roundFmt f md neg n d e
  if f.isUnsigned && neg && decide (n ≠ 0) && decide (r.k ≠ 0) then (f.nanCode, fNV)
  else if exceeds f r.k r.q then
    (if f.hasInf && !sb && !towardZero md neg then f.infCode neg else maxFinite f neg, fOF ||| fNX)
  else
    let c := f.encFin neg r.k r.q
    let tiny := decide (r.k ≠ 0) && decide ((Nat.log2 r.k : Int) + r.q < f.qmin + (f.prec : Int) - 1)
    (c, (if r.inexact then fNX else 0) ||| (if tiny && r.inexact then fUF else 0))

/-- convert of R135. An infinity into a format without infinities sets OF, an unsigned one too (R118, R134), where the text of
R135 returns with NV alone (log 53). -/
def convert (x : FVal) (f : Fmt) (md : Rnd) (sb : Bool) : Nat × FFlags :=
  match x with
  | .nan => if f = .fp4 then (0, fNV) else (f.nanCode, 0)
  | .inf neg =>
    if f.isUnsigned && neg then (f.nanCode, if f.hasInf then fNV else fNV ||| fOF)
    else if f.hasInf then (if sb then maxFinite f neg else f.infCode neg, 0)
    else (maxFinite f neg, fOF)
  | .fin neg m e => convQ f md sb neg m 1 e

/-- A signed dyadic number as an integer over a power of two. -/
def signedAt (neg : Bool) (m : Nat) (e low : Int) : Int :=
  let v : Int := ((m * 2 ^ (e - low).toNat : Nat) : Int)
  if neg then -v else v

/-- The exact sum of finite terms, or the infinity or NaN that R193 gives; a zero's sign follows IEEE 754 (R116). -/
def fsum (md : Rnd) (ts : List FVal) : FVal × FFlags :=
  if ts.any (fun t => t = .nan) then (.nan, 0)
  else
    let pos := ts.any (fun t => t = .inf false)
    let neg := ts.any (fun t => t = .inf true)
    if pos && neg then (.nan, fNV)
    else if pos then (.inf false, 0)
    else if neg then (.inf true, 0)
    else
      let fs : List (Bool × Nat × Int) := ts.filterMap (fun t => match t with | .fin s m e => some (s, m, e) | _ => none)
      let low := fs.foldl (fun a t => if t.2.1 = 0 then a else min a t.2.2) (1024 : Int)
      let v := fs.foldl (fun a t => if t.2.1 = 0 then a else a + signedAt t.1 t.2.1 t.2.2 low) 0
      if v ≠ 0 then (.fin (decide (v < 0)) v.natAbs low, 0)
      else if fs.all (fun t => t.2.1 = 0 && t.1) then (.fin true 0 0, 0)
      else if fs.all (fun t => t.2.1 = 0 && !t.1) then (.fin false 0 0, 0)
      else (.fin (decide (md = .dn)) 0 0, 0)

/-- The exact product; 0 × ∞ gives NaN and NV. -/
def fprod (a b : FVal) : FVal × FFlags :=
  match a, b with
  | .inf s, .fin t m _ => if m = 0 then (.nan, fNV) else (.inf (s != t), 0)
  | .fin s m _, .inf t => if m = 0 then (.nan, fNV) else (.inf (s != t), 0)
  | .inf s, .inf t => (.inf (s != t), 0)
  | .fin s m e, .fin t n g => (.fin (s != t) (m * n) (e + g), 0)
  | _, _ => (.nan, 0)

def FVal.neg : FVal → FVal
  | .nan => .nan
  | .inf s => .inf (!s)
  | .fin s m e => .fin (!s) m e

/-- x × 2^n. -/
def FVal.scale (x : FVal) (n : Int) : FVal :=
  match x with
  | .fin s m e => .fin s m (e + n)
  | x => x

def FVal.isZero : FVal → Bool
  | .fin _ m _ => m = 0
  | _ => false

/-- An infinite exact result is delivered as that infinity whatever SAT is (R189); a finite one converts. -/
def deliver (x : FVal) (f : Fmt) (md : Rnd) (sb : Bool) : Nat × FFlags :=
  match x with
  | .inf s => (f.infCode s, 0)
  | x => convert x f md sb

/-- Products and terms summed exactly and rounded once, with the cases of R193. -/
def fdotf (f : Fmt) (md : Rnd) (sb : Bool) (ps : List (FVal × FVal)) (ts : List FVal) : Nat × FFlags :=
  let prods := ps.map (fun p => fprod p.1 p.2)
  if prods.any (fun p => p.2 ≠ 0) then (f.nanCode, fNV)
  else
    let s := fsum md (prods.map (·.1) ++ ts)
    let r := deliver s.1 f md sb
    (r.1, s.2 ||| r.2)

/-- Integer value of a number as a dyadic. -/
def ofIntF (x : Int) : FVal := .fin (decide (x < 0)) x.natAbs 0

/-- rnd(md, x, integer): the rounded magnitude and whether it differs. -/
def roundInt (md : Rnd) (neg : Bool) (m : Nat) (e : Int) : Rounded :=
  if 0 ≤ e then { k := m, q := e, inexact := false } else roundAt md neg m 1 e 0 (fun k => decide (k % 2 = 1))

/-- a < b of finite or infinite values; zeros equal. -/
def fcmpLt (a b : FVal) : Bool :=
  match a, b with
  | .inf true, .inf true => false
  | .inf true, _ => true
  | _, .inf true => false
  | .inf false, _ => false
  | _, .inf false => true
  | .fin s m e, .fin t n g =>
    let low := min e g
    decide (signedAt s m e low < signedAt t n g low)
  | _, _ => false

/-- The format of a code of R129. -/
def fmtOfCode (c : Nat) : Option Fmt :=
  if c = 0x01 then some .f32 else if c = 0x02 then some .f16 else if c = 0x03 then some .bf16
  else if c = 0x50 then some .fp4
  else
    let p := c % 16
    let v := c / 16
    if 1 ≤ p ∧ p ≤ 7 ∧ 1 ≤ v ∧ v ≤ 4 then some (.b8 p (decide (3 ≤ v)) (decide (v % 2 = 0))) else none

/-- e8m0 (R124) as a power of two, none for NaN. -/
def e8m0 (s : Nat) : Option Int := if s % 256 = 255 then none else some ((s % 256 : Nat) - 127)

/-- The value of a code under a scale byte (R126). -/
def scaled (f : Fmt) (code scale : Nat) : FVal :=
  match e8m0 scale with
  | none => .nan
  | some k => (f.dec code).scale k

end Sys2Proof.Machine
end

