-- ==== Sys2Proof/Machine/Access.lean ====
section
/-! DEFINITION. Named reads and updates of State, and the driver's tables as they stand in HBM (R69, R70, R300 to R303). -/
namespace Sys2Proof.Machine

def State.die (s : State) (d : Nat) : Die := tget s.dies d {}
def State.setDie (s : State) (d : Nat) (x : Die) : State := { s with dies := tset s.dies d x {} }
def State.updDie (s : State) (d : Nat) (f : Die → Die) : State := s.setDie d (f (s.die d))

def State.team? (s : State) (d h : Nat) : Option Team := tfind (s.die d).teams h
def State.setTeam (s : State) (d h : Nat) (t : Team) : State :=
  s.updDie d (fun x => { x with teams := tput x.teams h t })
def State.delTeam (s : State) (d h : Nat) : State := s.updDie d (fun x => { x with teams := tdel x.teams h })
def State.updTeam (s : State) (d h : Nat) (f : Team → Team) : State :=
  match s.team? d h with
  | none => s
  | some t => s.setTeam d h (f t)

def Team.group? (t : Team) (g : Nat) : Option Group := tfind t.groups g
def Team.setGroup (t : Team) (g : Nat) (x : Group) : Team := { t with groups := tput t.groups g x }
/-- Every group of a team changed. -/
def Team.mapGroups (f : Group → Group) (t : Team) : Team := { t with groups := tmap f t.groups }
def Team.groupList (t : Team) : List Group := t.groups.map (·.2)

def State.group? (s : State) (d h g : Nat) : Option Group := (s.team? d h).bind (·.group? g)
def State.setGroup (s : State) (d h g : Nat) (x : Group) : State := s.updTeam d h (·.setGroup g x)
def State.updGroup (s : State) (d h g : Nat) (f : Group → Group) : State :=
  match s.group? d h g with
  | none => s
  | some x => s.setGroup d h g (f x)

def State.grid? (s : State) (n : Nat) : Option Grid := tfind s.grids n
def State.setGrid (s : State) (n : Nat) (g : Grid) : State := { s with grids := tput s.grids n g }
def State.updGrid (s : State) (n : Nat) (f : Grid → Grid) : State :=
  match s.grid? n with
  | none => s
  | some g => s.setGrid n (f g)

/-- The team that holds the issuer's unit. -/
def State.teams (s : State) : List Team := s.dies.flatMap (fun d => d.2.teams.map (·.2))

def State.reg (s : State) (off : Nat) : Dword := tget s.mreg off 0
def State.setReg (s : State) (off : Nat) (v : Dword) : State := { s with mreg := tset s.mreg off v 0 }

def State.pair (s : State) (d p : Nat) : Pair := tget (s.die d).pairs p {}
def State.setPair (s : State) (d p : Nat) (x : Pair) : State :=
  s.updDie d (fun y => { y with pairs := tset y.pairs p x {} })
def Die.island (x : Die) (p : Nat) : Island := tget x.islands p {}
def State.setIsland (s : State) (d p : Nat) (i : Island) : State :=
  s.updDie d (fun y => { y with islands := tset y.islands p i {} })

def State.fresh (s : State) : Nat × State := (s.nextId, { s with nextId := s.nextId + 1 })

/-- A free value (log 8). -/
def State.drawBool (s : State) : Bool × State := (Config.freeBool s.drawn, { s with drawn := s.drawn + 1 })
def State.drawByte (s : State) : Byte × State := (Config.freeByte s.drawn, { s with drawn := s.drawn + 1 })

/-- A die is RUNNING and not failed (R476). -/
def State.running (s : State) (d : Nat) : Bool := decide ((s.die d).boot = 1)

/-- An MSI-X signal (R369). -/
def State.signal (s : State) (v : Nat) : State := { s with msix := tset s.msix v (tget s.msix v 0 + 1) 0 }

/-! Party ids (R86). -/
def groupParty (die handle grp : Nat) : Nat := 0x1 * 2 ^ 28 + die * 2 ^ 24 + handle * 2 ^ 11 + grp
def teamParty (die handle : Nat) : Nat := 0x2 * 2 ^ 28 + die * 2 ^ 24 + handle * 2 ^ 11
def bondParty (die cl : Nat) : Nat := 0x3 * 2 ^ 28 + die * 2 ^ 24 + cl * 2 ^ 20
def copyParty (die n : Nat) : Nat := 0x4 * 2 ^ 28 + die * 2 ^ 24 + n % 2 ^ 24
def siloParty (stack : Nat) : Nat := 0x5 * 2 ^ 28 + stack * 2 ^ 24
def episodeParty (die hart n : Nat) : Nat := 0x6 * 2 ^ 28 + die * 2 ^ 24 + hart * 2 ^ 19 + n % 2 ^ 19
def queueParty (q : Nat) : Nat := 0x7 * 2 ^ 28 + q
def peerParty (m : Nat) : Nat := 0x8 * 2 ^ 28 + m
def mgmtParty (die hart : Nat) : Nat := 0x9 * 2 ^ 28 + die * 2 ^ 24 + hart
def partyKind (p : Nat) : Nat := p / 2 ^ 28
def partyDie (p : Nat) : Nat := bits p 27 24
def partyHandle (p : Nat) : Nat := bits p 23 11
def partyGroup (p : Nat) : Nat := bits p 10 0

/-! Contexts (R300): the descriptor is read where CTXTAB says it stands. -/
def ctxAddr (s : State) (c : Nat) : Nat := (s.reg 0x108).toNat + 128 * c
def ctxDesc (s : State) (c : Nat) : Nat := rdNat s.hbm (ctxAddr s c) 128

/-- The fields of a context descriptor that the device reads. -/
structure CtxDesc where
  odbase : Nat
  odlen : Nat
  hlsize : Nat
  spbase : Nat
  spsize : Nat
  svbase : Nat
  svsize : Nat
  cobase : Nat
  cosize : Nat
  ecbase : Nat
  eclen : Nat
  fpbase : Nat
  elbase : Nat
  elsize : Nat
  quantum : Nat
  pdead : Nat
  press : Nat
  priomax : Nat
  valid : Bool
  kpbase : Nat

def readCtx (s : State) (c : Nat) : CtxDesc :=
  let d := ctxDesc s c
  let qn := bits d 507 476
  let pd := bits d 475 444
  { odbase := bits d 1023 984, odlen := bits d 983 956, hlsize := bits d 851 836, spbase := bits d 835 796, spsize := bits d 795 780,
    svbase := bits d 779 740, svsize := bits d 739 716, cobase := bits d 715 676, cosize := bits d 675 660,
    ecbase := bits d 659 620, eclen := bits d 619 604, fpbase := bits d 603 564, elbase := bits d 563 524,
    elsize := bits d 523 508, quantum := max qn 40000, pdead := if pd = 0 then 40000 else pd,
    press := bits d 443 440, priomax := bits d 439 437, valid := decide (bits d 424 424 = 1),
    kpbase := bits d 423 384 }

/-- A capability from its 128 bits and tag (R61). -/
def capOf (v : Nat) (tag : Bool) : Cap :=
  { oid := BitVec.ofNat 28 (bits v 127 100), rights := BitVec.ofNat 8 (bits v 99 92),
    base := BitVec.ofNat 40 (bits v 91 52), len := BitVec.ofNat 40 (bits v 51 12),
    gen := BitVec.ofNat 12 v, tag := tag }

def capBits (c : Cap) : Nat :=
  c.oid.toNat * 2 ^ 100 + c.rights.toNat * 2 ^ 92 + c.base.toNat * 2 ^ 52 + c.len.toNat * 2 ^ 12 + c.gen.toNat

/-- The tag of the granule at a physical address (R63). -/
def hbmTag (s : State) (a : Nat) : Bool := s.hbmTags.contains (a / 16)

/-- Entry i of a context's entry capability table (R300). -/
def entryCap (s : State) (c : CtxDesc) (i : Nat) : Cap :=
  let a := c.ecbase + 16 * i
  capOf (rdNat s.hbm a 16) (hbmTag s a)

/-! Rights (R61). -/
def rR : Nat := 1
def rW : Nat := 2
def rX : Nat := 4
def rC : Nat := 8
def rL : Nat := 16
def rS : Nat := 32
def rG : Nat := 64
def rA : Nat := 128

/-- An object directory entry (R69). An id at or beyond the directory length, or a reserved KIND, reads as invalid. -/
structure ObjEntry where
  valid : Bool := false
  far : Bool := false
  imm : Bool := false
  nopress : Bool := false
  gen : Nat := 0
  kind : Nat := 0
  size : Nat := 0
  plist : Nat := 0
  hstk : Nat := 0
  deriving DecidableEq, Repr

def objAddr (c : CtxDesc) (oid : Nat) : Nat := c.odbase + 32 * oid

def readObj (s : State) (ctx oid : Nat) : ObjEntry :=
  let c := readCtx s ctx
  if c.odlen ≤ oid then {}
  else
    let e := rdNat s.hbm (objAddr c oid) 32
    let k := bits e 99 96
    { valid := decide (k = 1 ∨ k = 2), far := decide (k = 2), imm := decide (bits e 95 95 = 1),
      nopress := decide (bits e 94 94 = 1), gen := bits e 111 100, kind := if k ≤ 2 then k else 0,
      size := bits e 159 120, plist := bits e 199 160, hstk := bits e 203 200 }

/-- Page entries (R70). -/
def pageAddr (o : ObjEntry) (p : Nat) : Nat := o.plist + 8 * p
def readPage (s : State) (o : ObjEntry) (p : Nat) : Nat := rdNat s.hbm (pageAddr o p) 8
def pageState (e : Nat) : Nat := bits e 19 18
def pageFrame (e : Nat) : Nat := bits e 63 20

/-- A byte's place: an HBM physical address, or beyond 2^40 a byte of a peer's object (R81, R381). -/
def farBase (o : ObjEntry) : Nat := 2 ^ 40 + (bits o.plist 39 30 * 2 ^ 28 + bits o.plist 29 2) * 2 ^ 40

/-- The place of an object offset, if its page is RESIDENT (R70); a far object's bytes are at its owner (R381). A far object
has no page entries here, and loads, stores and atomics take every page of it as RESIDENT; a copy meets the owner's answer
(R384). The first is the model's choice (log 53). -/
def placeOf (s : State) (o : ObjEntry) (off : Nat) : Option Nat :=
  if o.far then some (farBase o + off)
  else
    let e := readPage s o (off / 65536)
    if pageState e = 1 then some (bits (pageFrame e) 23 0 * 65536 + off % 65536) else none

/-- The endpoint of R378 that a place lies behind: its stack, or a fabric port for a far byte. -/
def stackOf (place : Nat) : Nat := place / 2 ^ 36 % 16
def isFar (place : Nat) : Bool := decide (2 ^ 40 ≤ place)

/-- Bytes at their home LLC, or at the owner of a far object. -/
def homeByte (s : State) (a : Nat) : Byte := if isFar a then rdByte s.far (a - 2 ^ 40) else rdByte s.hbm a
def homePoison (s : State) (a : Nat) : Bool := s.hbmPoison.contains a

/-- A write of one byte at its home: it clears the byte's mark (R432) and its granule's tag (R63). -/
def wrHome (s : State) (a : Nat) (b : Byte) : State :=
  if isFar a then { s with far := wrByte s.far (a - 2 ^ 40) b, hbmTags := sDel s.hbmTags (a / 16), hbmPoison := sDel s.hbmPoison a }
  else { s with hbm := wrByte s.hbm a b, hbmTags := sDel s.hbmTags (a / 16), hbmPoison := sDel s.hbmPoison a }

def wrHomes (s : State) (a : Nat) : List Byte → State
  | [] => s
  | b :: r => wrHomes (wrHome s a b) (a + 1) r

/-- A write of a byte that carries its poison mark. -/
def wrMarked (s : State) (a : Nat) (b : Byte) (mark : Bool) : State :=
  let t := wrHome s a b
  if mark then { t with hbmPoison := sIns t.hbmPoison a } else t

/-- A number written at its home. -/
def wrHomeNat (s : State) (a n v : Nat) : State := wrHomes s a (leBytes n v)

/-! The context's error log and the module's (R399, R460). -/

/-- One record into a ring of 64-byte records: base, size in records, the register of its tail (records written, records
lost) and of its head. -/
def logRecord (s : State) (base size tailReg headReg : Nat) (rec : Nat) : State :=
  let t := (s.reg tailReg).toNat
  let w := t % 2 ^ 32
  let h := (s.reg headReg).toNat % 2 ^ 32
  let lost := t / 2 ^ 32
  if size ≤ (w + 2 ^ 32 - h) % 2 ^ 32 then s.setReg tailReg (BitVec.ofNat 64 (w + (lost + 1) % 2 ^ 32 * 2 ^ 32))
  else
    (wrHomeNat s (base + 64 * (w % size)) 64 rec).setReg tailReg
      (BitVec.ofNat 64 ((w + 1) % 2 ^ 32 + lost * 2 ^ 32))

/-- The free records of a ring. -/
def logRoom (s : State) (size tailReg headReg : Nat) : Nat :=
  size - ((s.reg tailReg).toNat % 2 ^ 32 + 2 ^ 32 - (s.reg headReg).toNat % 2 ^ 32) % 2 ^ 32

def logCtx (s : State) (ctx rec : Nat) : State :=
  let c := readCtx s ctx
  (logRecord s c.elbase (64 * c.elsize) (0x320000 + 16 * ctx) (0x320000 + 16 * ctx + 8) rec).signal 0

def logMod (s : State) (rec : Nat) : State :=
  (logRecord s (s.reg 0x3A0000).toNat (64 * (s.reg 0x3A0008).toNat) 0x3A0010 0x3A0018 rec).signal 0

/-- An event record of R448. -/
structure Event where
  code : Nat
  cause : Nat := 0
  value : Nat := 0
  raddr : Nat := 0
  queue : Nat := 0
  team : Nat := 0xFFFFFFFF
  party : Nat := 0
  ctx : Nat := 0
  cycle : Nat := 0

def Event.bits (e : Event) : Nat :=
  at_ e.raddr 448 64 + at_ e.queue 434 14 + at_ e.team 384 32 + at_ e.value 320 64 + at_ e.cycle 192 64 +
    at_ e.party 160 32 + at_ e.ctx 148 12 + at_ e.code 48 8 + at_ e.cause 40 8

/-- An event in a context's log, written by a die (R447, R459). -/
def eventCtx (s : State) (die : Nat) (e : Event) : State :=
  logCtx s e.ctx { e with cycle := (s.die die).cycle }.bits

/-- An event in the module log; PARTY is the die's management party where the rule gives none (R460). -/
def eventMod (s : State) (die : Nat) (e : Event) : State :=
  logMod s { e with cycle := (s.die die).cycle,
                    party := if e.party = 0 then mgmtParty die 0 else e.party }.bits

/-- The region event record of R419. -/
structure RegionEvent where
  code : Nat
  cause : Nat := 0
  ctx : Nat
  oid : Nat := 0
  base : Nat := 0
  len : Nat := 0
  state : Nat := 0
  shares : Nat := 0
  holder : Nat := 0
  former : Nat := 0
  ldepth : Nat := 0
  party : Nat := 0

def RegionEvent.bits (e : RegionEvent) (cycle : Nat) : Nat :=
  at_ e.oid 484 28 + at_ e.base 444 40 + at_ e.len 404 40 + at_ e.state 400 4 + at_ e.shares 384 16 +
    at_ e.holder 352 32 + at_ e.former 320 32 + at_ e.ldepth 316 4 + at_ cycle 192 64 + at_ e.party 160 32 +
    at_ e.ctx 148 12 + at_ e.code 48 8 + at_ e.cause 40 8

def regionEvent (s : State) (die : Nat) (e : RegionEvent) : State := logCtx s e.ctx (e.bits (s.die die).cycle)

/-! Energy counters (R335, R337). -/

/-- A counter with n sheaves more: bits [47:0] and OVF in [48]. -/
def chargeCounter (w n : Nat) : Nat :=
  let e := w % 2 ^ 48 + n
  if 2 ^ 48 ≤ e then 2 ^ 49 - 1 else e + bits w 48 48 * 2 ^ 48

/-- The counter of a context and module core, where it is held. -/
def readEnergy (s : State) (ctx core : Nat) : Nat :=
  if s.coreHeld.contains (2048 * ctx + core) then (tget s.coreEnergy (2048 * ctx + core) 0).toNat
  else rdNat s.hbm ((readCtx s ctx).svbase + 8 * core) 8 % 2 ^ 49

def writeEnergy (s : State) (ctx core v : Nat) : State :=
  if s.coreHeld.contains (2048 * ctx + core) then
    { s with coreEnergy := tset s.coreEnergy (2048 * ctx + core) (BitVec.ofNat 64 v) 0 }
  else wrHomeNat s ((readCtx s ctx).svbase + 8 * core) 8 v

/-- n sheaves charged to a context and module core (R335). -/
def charge (s : State) (ctx core n : Nat) : State :=
  if n = 0 then s else writeEnergy s ctx core (chargeCounter (readEnergy s ctx core) n)

def chargeHouse (s : State) (d n : Nat) : State :=
  s.updDie d (fun x => { x with house := x.house + BitVec.ofNat 64 n })

/-- Program event counter n of a context and core, where it is held (R265, R389). -/
def readEvent (s : State) (ctx core n : Nat) : Nat :=
  if s.coreHeld.contains (2048 * ctx + core) then (tget s.coreEvents ((2048 * ctx + core) * 16 + n) 0).toNat
  else rdNat s.hbm ((readCtx s ctx).svbase + 0x4000 + 128 * core + 8 * n) 8

def addEvent (s : State) (ctx core n v : Nat) : State :=
  let w := (readEvent s ctx core n + v) % 2 ^ 64
  if s.coreHeld.contains (2048 * ctx + core) then
    { s with coreEvents := tset s.coreEvents ((2048 * ctx + core) * 16 + n) (BitVec.ofNat 64 w) 0 }
  else wrHomeNat s ((readCtx s ctx).svbase + 0x4000 + 128 * core + 8 * n) 8 w

/-- A core takes a context's counters at its first placement there (R337, R389). -/
def holdCounters (s : State) (ctx core : Nat) : State :=
  let k := 2048 * ctx + core
  if s.coreHeld.contains k then s
  else
    let e := readEnergy s ctx core
    let ev := (upto 16).map (fun n => (n, readEvent s ctx core n))
    let t := { s with coreHeld := sIns s.coreHeld k }
    { t with coreEnergy := tset t.coreEnergy k (BitVec.ofNat 64 e) 0,
             coreEvents := ev.foldl (fun m p => tset m (k * 16 + p.1) (BitVec.ofNat 64 p.2) 0) t.coreEvents }

/-- The last slot of a context leaves a core: its counters go back to the save pool. -/
def dropCounters (s : State) (ctx core : Nat) : State :=
  let k := 2048 * ctx + core
  if s.coreHeld.contains k then
    let e := readEnergy s ctx core
    let ev := (upto 16).map (fun n => (n, readEvent s ctx core n))
    let t := { s with coreHeld := sDel s.coreHeld k, coreEnergy := tdel s.coreEnergy k,
                      coreEvents := ev.foldl (fun m p => tdel m (k * 16 + p.1)) s.coreEvents }
    ev.foldl (fun u p => wrHomeNat u ((readCtx s ctx).svbase + 0x4000 + 128 * core + 8 * p.1) 8 p.2)
      (wrHomeNat t ((readCtx s ctx).svbase + 8 * core) 8 e)
  else s

/-- Groups that hold a slot of a die's core: with the team that owns them. -/
def groupsOnCore (s : State) (d core : Nat) : List (Team × Group) :=
  s.teams.flatMap (fun t => (t.groupList.filter (fun g => g.die = d ∧ g.core = core ∧ g.residence = .resident)).map
    (fun g => (t, g)))

/-- Give back the counters of a context that has no resident slot left on a core. -/
def settleCounters (s : State) (ctx d core : Nat) : State :=
  if (groupsOnCore s d core).any (fun p => p.1.ctx = ctx) then s else dropCounters s ctx (128 * d + core)

end Sys2Proof.Machine
end

