-- ==== Sys2Proof/Machine/Caches.lean ====
section
/-! DEFINITION. L1, L2 and the home LLC (R80 to R83), parties' locations (R86, R93), and the reach of one die to another's
memory (R379, R471). -/
namespace Sys2Proof.Machine

/-- The L2 of a module core: 16 per die (R14). -/
def l2Of (core : Nat) : Nat := core / 8

def lineIs (l2 : Bool) (unit line : Nat) (c : CLine) : Bool := c.l2 = l2 && c.unit = unit && c.line = line

def findLine (s : State) (l2 : Bool) (unit line : Nat) : Option CLine := s.lines.find? (lineIs l2 unit line)

def dropLine (s : State) (l2 : Bool) (unit line : Nat) : State :=
  { s with lines := s.lines.filter (fun c => !lineIs l2 unit line c) }

/-- The line in its cache; one that knows nothing and has nothing dirty is not kept. -/
def keepLine (s : State) (c : CLine) : State :=
  let t := dropLine s c.l2 c.unit c.line
  if c.known = 0 ∧ c.dirty = 0 ∧ c.tagDirty = 0 then t else { t with lines := c :: t.lines }

/-- Bit i of a mask. -/
def mbit (m : Mask) (i : Nat) : Bool := m.getLsbD i

def mset (m : Mask) (i : Nat) (b : Bool) : Mask :=
  if b then m ||| ((1 : Mask) <<< i) else m &&& ~~~((1 : Mask) <<< i)

def allOnes128 : Mask := BitVec.allOnes 128

/-- The bytes of the words that a mask holds entirely (R80: one valid bit for each word). -/
def wholeWords (m : Mask) : Mask :=
  (upto 32).foldl (fun k w => if (upto 4).all (fun i => mbit m (4 * w + i)) then (upto 4).foldl (fun k i => mset k (4 * w + i) true) k else k) 0

/-- One byte with its mark as the next level answers a fill. -/
structure FillByte where
  b : Byte
  mark : Bool

/-- A merging fill (R80): every byte that is not dirty is taken from the next level; every word becomes valid. -/
def fillFrom (c : CLine) (src : Nat → FillByte) (tag : Nat → Bool) : CLine :=
  let idx := (upto 128).filter (fun i => !mbit c.dirty i)
  { c with
    data := idx.foldl (fun d i => tset d i (src i).b 0) c.data
    poison := idx.foldl (fun p i => mset p i (src i).mark) c.poison
    tags := (upto 8).foldl (fun t g => if c.tagDirty.getLsbD g then t
      else if tag g then t ||| ((1 : BitVec 8) <<< g) else t &&& ~~~((1 : BitVec 8) <<< g)) c.tags
    known := allOnes128 }

def homeFill (s : State) (line : Nat) (i : Nat) : FillByte :=
  { b := homeByte s (128 * line + i), mark := homePoison s (128 * line + i) }

def homeTag (s : State) (line : Nat) (g : Nat) : Bool := s.hbmTags.contains (8 * line + g)

def newLine (l2 : Bool) (unit place : Nat) : CLine := { l2 := l2, unit := unit, line := place / 128 }

/-! Circuits and paths (R378 to R381, R473). -/
def circState (w : Dword) : Nat := bits w.toNat 62 61
def circEpa (w : Dword) : Nat := bits w.toNat 60 54
def circEpb (w : Dword) : Nat := bits w.toNat 53 47
def circNw (w : Dword) : Nat := bits w.toNat 46 43

/-- Some UP circuit, wanted, joins the two endpoints. -/
def circuitUp (s : State) (a b : Nat) : Bool :=
  s.circuits.any (fun e =>
    decide (circState e.2 = 2) && e.2.getLsbD 63 &&
      ((circEpa e.2 = a && circEpb e.2 = b) || (circEpa e.2 = b && circEpb e.2 = a)))

/-- Whether a die reaches a place. -/
inductive Reach where
  | ok
  /-- Never: a failed die's stack, or no domain number (R391, R471, R476). -/
  | never (endpoint : Nat)
  /-- No path now (R379). -/
  | noPath (endpoint : Nat)
  deriving DecidableEq, Repr

def reach (s : State) (die place : Nat) : Reach :=
  if isFar place then
    if !(s.reg 0x118).getLsbD 63 then .never 32
    else if s.lostPeers.contains ((place - 2 ^ 40) / 2 ^ 68) then .never 32
    else if (upto 36).any (fun p => decide (tget s.ports p 0 < 4) && circuitUp s die (32 + p)) then .ok
    else .noPath 32
  else
    let k := stackOf place
    if !s.running k then .never (16 + k)
    else if k = die ∨ circuitUp s die k ∨ circuitUp s die (16 + k) then .ok
    else .noPath (16 + k)

/-- A line's dirty bytes into its home, marks and tags with them (R80, R432). -/
def toHome (s : State) (c : CLine) : State :=
  let s := ((upto 128).filter (fun i => mbit c.dirty i)).foldl
    (fun s i => wrMarked s (128 * c.line + i) (tget c.data i 0) (mbit c.poison i)) s
  { s with
    hbmTags := ((upto 8).filter (fun g => c.tagDirty.getLsbD g)).foldl
      (fun ts g => if c.tags.getLsbD g then sIns ts (8 * c.line + g) else sDel ts (8 * c.line + g)) s.hbmTags }

/-- Lines that an L1 of 256 KiB and an L2 of 4 MiB hold (R15, R78). -/
def lineCap (l2 : Bool) : Nat := if l2 then 32768 else 2048

/-- The line that leaves a full cache for another: the one filled or written longest ago that can leave (log 13). -/
def outgoing (s : State) (c : CLine) (can : CLine → Bool) : Option CLine :=
  if (findLine s c.l2 c.unit c.line).isSome then none
  else
    let ls := s.lines.filter (fun x => decide (x.l2 = c.l2) && decide (x.unit = c.unit))
    if ls.length < lineCap c.l2 then none else ls.reverse.find? can

/-- A clean line may leave; a dirty one when the path to its home stands. -/
def canLeave (s : State) (x : CLine) : Bool :=
  (decide (x.dirty = 0) && decide (x.tagDirty = 0)) || decide (reach s (x.unit / 16) (128 * x.line) = .ok)

/-- A line into its L2, which has room or makes it. -/
def putL2 (s : State) (c : CLine) : State :=
  match outgoing s c (canLeave s) with
  | none => keepLine s c
  | some x => keepLine (dropLine (toHome s x) true x.unit x.line) c

/-- An L1 line's dirty bytes into L2, byte-masked (R80). -/
def toL2 (s : State) (c : CLine) : State :=
  let d := (findLine s true (l2Of c.unit) c.line).getD
    (newLine true (l2Of c.unit) (128 * c.line))
  let idx := (upto 128).filter (fun i => mbit c.dirty i)
  putL2 s { d with
    data := idx.foldl (fun x i => tset x i (tget c.data i 0) 0) d.data
    dirty := d.dirty ||| c.dirty
    known := d.known ||| wholeWords c.dirty
    poison := idx.foldl (fun m i => mset m i (mbit c.poison i)) d.poison
    tagDirty := d.tagDirty ||| c.tagDirty
    tags := (d.tags &&& ~~~c.tagDirty) ||| (c.tags &&& c.tagDirty) }

/-- A line into its cache, which has room or makes it. -/
def putLine (s : State) (c : CLine) : State :=
  if c.l2 then putL2 s c
  else
    match outgoing s c (fun _ => true) with
    | none => keepLine s c
    | some x => keepLine (dropLine (if x.dirty = 0 ∧ x.tagDirty = 0 then s else toL2 s x) false x.unit x.line) c

/-- The line of a place in L2, filled. -/
def l2Line (s : State) (core place : Nat) : CLine × State :=
  let u := l2Of core
  let line := place / 128
  let c := (findLine s true u line).getD (newLine true u place)
  if c.known = allOnes128 then (c, s)
  else
    let c := fillFrom c (homeFill s line) (homeTag s line)
    (c, putLine s c)

/-- The line of a place in L1, filled through L2. -/
def l1Line (s : State) (core place : Nat) : CLine × State :=
  let line := place / 128
  let c := (findLine s false core line).getD (newLine false core place)
  if c.known = allOnes128 then (c, s)
  else
    let (d, s) := l2Line s core place
    let c := fillFrom c (fun i => { b := tget d.data i 0, mark := mbit d.poison i }) (fun g => d.tags.getLsbD g)
    (c, putLine s c)

/-- A load of n bytes: bytes with their marks, and the state with the lines filled (R80). A line whose touched words are
valid is read as it stands. -/
def loadCached (s : State) (core place n : Nat) : List (Byte × Bool) × State :=
  let line := place / 128
  let o := place % 128
  let c0 := (findLine s false core line).getD (newLine false core place)
  let hit := (upto n).all (fun i => mbit c0.known (o + i))
  let (c, s) := if hit then (c0, s) else l1Line s core place
  ((upto n).map (fun i => (tget c.data (o + i) 0, mbit c.poison (o + i))), s)

/-- A line's own tag of granule g: written there, or filled with the whole line. -/
def CLine.tag? (c : CLine) (g : Nat) : Option Bool :=
  if c.tagDirty.getLsbD g || c.known = allOnes128 then some (c.tags.getLsbD g) else none

/-- The tag of a place's granule as the core's caches hold it. -/
def tagCached (s : State) (core place : Nat) : Bool :=
  let g := place % 128 / 16
  let at1 := (findLine s false core (place / 128)).bind (fun c => c.tag? g)
  let at2 := (findLine s true (l2Of core) (place / 128)).bind (fun c => c.tag? g)
  at1.getD (at2.getD (hbmTag s place))

/-- Bytes written into a line at offset o: dirty, unmarked, whole words valid (R80); touched granules' tags clear, or set
to the tag a CSTC carries (R63). -/
def lineWrite (c : CLine) (o : Nat) (bs : List Byte) (tag : Bool) : CLine :=
  let n := bs.length
  let idx := (upto n).map (fun i => (o + i, bs.getD i 0))
  let whole := (upto 32).filter (fun wd => decide (o ≤ 4 * wd ∧ 4 * wd + 4 ≤ o + n))
  let gr := (upto 8).filter (fun g => decide (o < 16 * g + 16 ∧ 16 * g < o + n))
  { c with
    data := idx.foldl (fun d p => tset d p.1 p.2 0) c.data
    dirty := idx.foldl (fun m p => mset m p.1 true) c.dirty
    poison := idx.foldl (fun m p => mset m p.1 false) c.poison
    known := whole.foldl (fun m wd => (upto 4).foldl (fun m i => mset m (4 * wd + i) true) m) c.known
    tagDirty := gr.foldl (fun t g => t ||| ((1 : BitVec 8) <<< g)) c.tagDirty
    tags := gr.foldl (fun t g => if tag then t ||| ((1 : BitVec 8) <<< g) else t &&& ~~~((1 : BitVec 8) <<< g)) c.tags }

/-- A store into the core's L1 (R80). -/
def storeCached (s : State) (core place : Nat) (bs : List Byte) (tag : Bool) : State :=
  let c := (findLine s false core (place / 128)).getD (newLine false core place)
  putLine s (lineWrite c (place % 128) bs tag)

/-- One line written back to the next level; what is valid of it stays, clean. -/
def writeBack (s : State) (c : CLine) : State :=
  if c.dirty = 0 ∧ c.tagDirty = 0 then s
  else
    let s := if c.l2 then toHome s c else toL2 s c
    putLine s { c with dirty := 0, tagDirty := 0 }

/-- How far below the endpoint a scope reaches (R82): 0 nothing, 1 L1, 2 L1 and L2. -/
def scopeDepth (scope span : Nat) : Nat :=
  if scope = 1 then (if span = 0 then 0 else if span = 3 then 2 else 1)
  else if scope = 0 ∨ scope = 2 then 0 else if scope = 3 ∨ scope = 4 then 1 else 2

/-- A release at a depth for the lines that p selects, on the paths of some cores (R82). -/
def releaseLines (s : State) (cores : List Nat) (depth : Nat) (p : CLine → Bool) : State :=
  if depth = 0 then s
  else
    let s := (s.lines.filter (fun c => !c.l2 && cores.contains c.unit && p c)).foldl writeBack s
    if depth = 1 then s
    else (s.lines.filter (fun c => c.l2 && (cores.map l2Of).contains c.unit && p c)).foldl writeBack s

/-- An acquire: clean copies of the lines that p selects are discarded (R82). -/
def acquireLines (s : State) (cores : List Nat) (depth : Nat) (p : CLine → Bool) : State :=
  if depth = 0 then s
  else
    let hit := fun c : CLine =>
      p c && (if c.l2 then decide (depth = 2) && (cores.map l2Of).contains c.unit else cores.contains c.unit)
    { s with
      lines := (s.lines.map (fun c => if hit c then { c with known := wholeWords c.dirty } else c)).filter (fun c => !(c.known = 0 && c.dirty = 0 && c.tagDirty = 0)) }

/-- Where the resident bytes of a range of an object stand: addresses with lengths. -/
def placesOf (s : State) (o : ObjEntry) (base len : Nat) : List (Nat × Nat) :=
  if s.lines.isEmpty || decide (len = 0) then []
  else if o.far then [(farBase o + base, len)]
  else
    let first := base / 65536
    (keysIn s.hbm (pageAddr o first) 8 ((base + len - 1) / 65536 + 1 - first)).filterMap (fun i =>
      let p := first + i
      let lo := max base (65536 * p)
      (placeOf s o lo).map (fun a => (a, min (base + len) (65536 * (p + 1)) - lo)))

/-- A line that holds bytes of one of the places. -/
def inPlaces (ps : List (Nat × Nat)) (c : CLine) : Bool :=
  ps.any (fun r => decide (r.1 < 128 * c.line + 128) && decide (128 * c.line < r.1 + r.2))

/-- The lines of a region: those of the addresses that its object's pages give it now. -/
def inRegion (s : State) (ctx oid base len : Nat) : CLine → Bool := inPlaces (placesOf s (readObj s ctx oid) base len)

/-- Every line of the places goes home and leaves the caches. -/
def flushPlaces (s : State) (ps : List (Nat × Nat)) : State :=
  let s := (s.lines.filter (fun c => !c.l2 && inPlaces ps c)).foldl writeBack s
  let s := (s.lines.filter (fun c => c.l2 && inPlaces ps c)).foldl writeBack s
  { s with lines := s.lines.filter (fun c => !inPlaces ps c) }

/-- The lines of every byte of an object. -/
def objectPlaces (s : State) (ctx oid : Nat) : List (Nat × Nat) := let o := readObj s ctx oid; placesOf s o 0 o.size

/-- The module cores of a team's span, by rank (R29). -/
def spanCores (die span place : Nat) : List Nat :=
  if span = 0 then [128 * die + place]
  else if span = 1 then [128 * die + 2 * place, 128 * die + 2 * place + 1]
  else if span = 2 then (upto 8).map (fun i => 128 * die + 8 * place + i)
  else (upto 8).map (fun i => 128 * die + 8 * place + i) ++ (upto 8).map (fun i => 128 * (die + 1) + 8 * place + i)

def Team.cores (t : Team) : List Nat :=
  if t.gleaner.isSome then dedup (t.groupList.map (fun g => 128 * g.die + g.core)) else spanCores t.die t.span t.place

/-- The bond leased on a cluster, with the die that keeps it: a twin bond also leases the facing cluster (R56). -/
def bondAt (s : State) (d cl : Nat) : Option (Bond × Nat) :=
  match tfind (s.die d).bonds cl with
  | some b => some (b, d)
  | none =>
    if d % 2 = 1 then
      match tfind (s.die (d - 1)).bonds cl with
      | some b => if b.twin then some (b, d - 1) else none
      | none => none
    else none

/-- The cores on whose paths a party's copies lie (R86). -/
def partyCores (s : State) (p : Nat) : List Nat :=
  let d := partyDie p
  match partyKind p with
  | 1 => match s.group? d (partyHandle p) (partyGroup p) with
    | some g => [128 * g.die + g.core]
    | none => []
  | 2 => match s.team? d (partyHandle p) with
    | some t => t.cores
    | none => []
  | 3 =>
    let cl := bits p 23 20
    let here := (upto 8).map (fun i => 128 * d + 8 * cl + i)
    match bondAt s d cl with
    | some (b, _) => if b.twin then spanCores b.die 3 cl else here
    | none => here
  | _ => []

/-- A party's location as the levels of R93 see it: cores if it has them, else a die, the module, the domain or the
system. -/
inductive Loc where
  | cores (cs : List Nat)
  | die (d : Nat)
  | module
  | domain
  | system
  deriving DecidableEq, Repr

def partyLoc (s : State) (p : Nat) : Loc :=
  match partyKind p with
  | 1 | 2 | 3 => .cores (partyCores s p)
  | 4 | 6 => .die (partyDie p)
  | 8 => .domain
  | 7 => .system
  | _ => .module

/-- Every number of the list has the same quotient by n. -/
def sameBy (n : Nat) (cs : List Nat) : Bool :=
  match cs with
  | [] => true
  | c :: r => r.all (fun x => x / n = c / n)

/-- The scope of a transfer (R93); at least 8 for a far object. -/
def transferScope (s : State) (p q : Nat) (far : Bool) : Nat :=
  let sc :=
    match partyLoc s p, partyLoc s q with
    | .system, _ | _, .system => 9
    | .domain, _ | _, .domain => 8
    | .module, _ | _, .module => 7
    | a, b =>
      let cs := fun l : Loc => match l with | .cores c => c | .die d => [128 * d, 128 * d + 127] | _ => []
      let all := cs a ++ cs b
      if sameBy 1 all then 2 else if sameBy 2 all then 3 else if sameBy 8 all then 4 else if sameBy 128 all then 5
      else if sameBy 256 all then 6 else 7
  if far then max sc 8 else sc

end Sys2Proof.Machine
end

