-- ==== Sys2Proof/Machine/Own.lean ====
section
/-! DEFINITION. Deckles: the table, held-region caches and hold lists, the ten ownership operations, lends to engines and
returns, and what a retiring party leaves (04, R47, R420 to R423, R484). -/
namespace Sys2Proof.Machine

def overlaps (a la b lb : Nat) : Bool := decide (a < b + lb) && decide (b < a + la)

/-- Entries with a unit in a range. -/
def regionsIn (s : State) (ctx oid base len : Nat) : List Deckle :=
  s.deckles.filter (fun d => decide (d.ctx = ctx) && decide (d.oid = oid) && overlaps d.base d.len base len)

/-- The entry that contains an offset. -/
def regionAt (s : State) (ctx oid off : Nat) : Option Deckle := (regionsIn s ctx oid off 1).head?

/-- The entry whose range is exactly the named one (R228). -/
def regionExact (s : State) (ctx oid base len : Nat) : Option Deckle :=
  s.deckles.find? (fun d => decide (d.ctx = ctx) && decide (d.oid = oid) && decide (d.base = base) && decide (d.len = len))

def sameEntry (d e : Deckle) : Bool := decide (d.ctx = e.ctx) && decide (d.oid = e.oid) && decide (d.base = e.base)

def putDeckle (s : State) (d : Deckle) : State :=
  if s.deckles.any (sameEntry d) then { s with deckles := updWhere (sameEntry d) (fun _ => d) s.deckles }
  else { s with deckles := s.deckles ++ [d] }

def delDeckle (s : State) (d : Deckle) : State := { s with deckles := s.deckles.filter (fun e => !sameEntry d e) }

/-! Holds and shares of a party (R91). -/

/-- The entry of a party for a region: its hold (sh 0) or its share (sh 1). -/
def isHold (ctx party oid base sh : Nat) (h : Hold) : Bool :=
  decide (h.ctx = ctx) && decide (h.party = party) && decide (h.oid = oid) && decide (h.base = base) &&
    decide (h.kind % 2 = sh)

def sameHold (h x : Hold) : Bool := isHold h.ctx h.party h.oid h.base (h.kind % 2) x

/-- The hold of a party leaves its caches and lists. -/
def dropHold (s : State) (ctx party oid base : Nat) : State :=
  { s with holds := s.holds.filter (fun h => !isHold ctx party oid base 0 h) }

def dropShare (s : State) (ctx party oid base : Nat) : State :=
  { s with holds := s.holds.filter (fun h => !isHold ctx party oid base 1 h) }

/-- The cores whose held-region caches keep a party's entries (R91): none while it is off its cores (R324). -/
def holdCores (s : State) (p : Nat) : List Nat :=
  match partyKind p with
  | 1 => match s.group? (partyDie p) (partyHandle p) (partyGroup p) with
    | some g => if g.residence = .resident then [128 * g.die + g.core] else []
    | none => []
  | 2 => match s.team? (partyDie p) (partyHandle p) with
    | some t => match t.state with | .saved | .discarded | .parked => [] | _ => t.cores
    | none => []
  | _ => partyCores s p

/-- The party has held-region caches. -/
def onCores (p : Nat) : Bool := decide (partyKind p ≤ 3)

/-- Some core of the party lacks the entry, which then stands in the party's hold list (R91). -/
def listed (s : State) (h : Hold) : Bool :=
  onCores h.party && ((holdCores s h.party).isEmpty || (holdCores s h.party).any (fun c => !h.cached.contains c))

/-- Entries in the hold lists of a context, and how many its pool takes: 32 bytes each (R91, R322). -/
def listedHolds (s : State) (ctx : Nat) : Nat := (s.holds.filter (fun h => decide (h.ctx = ctx) && listed s h)).length
def holdRoom (s : State) (ctx : Nat) : Nat := (readCtx s ctx).hlsize * 2048

/-- Entries of one core's held-region cache. -/
def cachedOn (s : State) (core : Nat) : List Hold :=
  s.holds.filter (fun h => h.cached.contains core)

/-- The cores of a party whose cache is full (R91: 256 entries). -/
def fullCores (s : State) (party : Nat) : List Nat :=
  (holdCores s party).filter (fun c => decide (256 ≤ (cachedOn s c).length))

/-- Room for one more entry in a core's cache: a full one writes its least recently used entry to the hold list; none when
the pool has no room (R91, R423). -/
def spillOn (s : State) (core : Nat) : Option State :=
  if (cachedOn s core).length < 256 then some s
  else
    match minBy (·.used) (cachedOn s core) with
    | none => some s
    | some h =>
      if listed s h = true ∨ listedHolds s h.ctx < holdRoom s h.ctx then
        some { s with holds := updWhere (sameHold h) (fun x => { x with cached := x.cached.filter (fun c => decide (c ≠ core)) }) s.holds }
      else none

/-- Room for one more entry of a party, in the caches of every core of its span, or in its hold list while it is off them. -/
def spillFor (s : State) (ctx party : Nat) : Option State :=
  if onCores party && (holdCores s party).isEmpty then (if listedHolds s ctx < holdRoom s ctx then some s else none)
  else (holdCores s party).foldl (fun o c => o.bind (fun s => spillOn s c)) (some s)

/-- A hold or share entered for a party (R95 step 4), after room is made in its caches. -/
def enterHold (s : State) (ctx party oid base len kind : Nat) : State :=
  let s := if kind % 2 = 0 then dropHold s ctx party oid base else dropShare s ctx party oid base
  { s with holds := s.holds ++ [({ ctx := ctx, party := party, oid := oid, base := base, len := len, kind := kind,
                                   cached := holdCores s party, used := s.issues } : Hold)] }

/-- A miss on a core refills an entry from the hold list (R91). -/
def refillHold (s : State) (core : Nat) (h : Hold) : State :=
  match spillOn s core with
  | none => s
  | some t => { t with holds := updWhere (sameHold h) (fun x => { x with cached := sIns x.cached core, used := t.issues }) t.holds }

/-- The hold or share that covers bytes for one of some parties, with an accepted kind (R100). -/
def findCover (s : State) (ctx : Nat) (parties : List Nat) (oid off n : Nat) (kinds : List Nat) : Option Hold :=
  s.holds.find? (fun h => decide (h.ctx = ctx) && parties.contains h.party && decide (h.oid = oid) &&
    kinds.contains h.kind && decide (h.base ≤ off) && decide (off + n ≤ h.base + h.len))

/-- Kinds that cover a load, a store and an atomic (R100). -/
def loadKinds : List Nat := [0, 1]
def storeKinds : List Nat := [0]
def atomKinds : List Nat := [2, 3]

/-- A use of a covering entry, for the least recently used choice. -/
def touchHold (s : State) (h : Hold) : State :=
  { s with holds := updWhere (sameHold h) (fun x => { x with used := s.issues }) s.holds }

/-! Live parties (R484). -/

def queueCtx (s : State) (q : Nat) : Nat := bits (rdNat s.hbm ((s.reg 0x110).toNat + 32 * q) 32) 191 180

def dieUp (s : State) (d : Nat) : Bool := s.running d

/-- Live parties; an id with a bit set that R86 has zero names none. -/
def partyLive (s : State) (ctx p : Nat) : Bool :=
  let d := partyDie p
  match partyKind p with
  | 1 =>
    match s.team? d (partyHandle p) with
    | some t => decide (t.ctx = ctx) && (t.group? (partyGroup p)).isSome
    | none => false
  | 2 =>
    match s.team? d (partyHandle p) with
    | some t => decide (t.ctx = ctx) && decide (bits p 10 0 = 0) && (t.gleaner.isNone || !t.groups.isEmpty)
    | none => false
  | 3 =>
    match bondAt s d (bits p 23 20) with
    | some (b, bd) => decide (bits p 19 0 = 0) && !b.saved && (match s.team? bd b.handle with | some t => decide (t.ctx = ctx) | none => false)
    | none => false
  | 4 => s.engines.any (fun e => decide (e.party = p) && decide (e.ctx = ctx))
  | 5 => decide (bits p 23 0 = 0) && dieUp s d
  | 6 => (s.die d).episodes.any (fun e => decide (e.2.party = p) && decide (e.2.ctx = ctx))
  | 7 => decide (bits p 27 14 = 0) && decide (queueCtx s (bits p 13 0) = ctx)
  | 8 =>
    (s.reg 0x118).getLsbD 63 && decide (bits p 27 0 < 576) && decide (bits p 27 0 ≠ bits (s.reg 0x118).toNat 9 0) &&
      !s.lostPeers.contains (bits p 27 0)
  | 9 => decide (bits p 23 1 = 0) && dieUp s d
  | _ => false

/-! Transfers. -/

def isFarObj (s : State) (ctx oid : Nat) : Bool := (readObj s ctx oid).far

/-- A release of a region's lines by a party at a scope (R82). -/
def releaseRegion (s : State) (party scope ctx oid base len : Nat) : State :=
  releaseLines s (partyCores s party) (scopeDepth scope 0) (inRegion s ctx oid base len)

/-- An acquire of a region's lines by a party at a scope (R82). -/
def acquireRegion (s : State) (party scope ctx oid base len : Nat) : State :=
  acquireLines s (partyCores s party) (scopeDepth scope 0) (inRegion s ctx oid base len)

/-- A lender that a core failure struck is marked by an id beyond 32 bits: a return that reaches it parks (R426). -/
def struck (p : Nat) : Bool := decide (2 ^ 32 ≤ p)

/-- The party that a return reaches, with what remains of the stack below it: retired lenders are passed over (R47), and so
is the party that is just retiring. The stack is given top first. -/
def nextLender (s : State) (ctx : Nat) (retiring : Option Nat) : List Nat → Option (Nat × List Nat)
  | [] => none
  | l :: r =>
    if struck l then none
    else if partyLive s ctx l && decide (retiring ≠ some l) then some (l, r)
    else nextLender s ctx retiring r

/-- A return of a region by its holder or engine (R94, R99, R47): the write-back, the changed table, and the party that
receives the region; none when it is parked. gone tells that the holder is retiring. -/
def returnRegion (s : State) (d : Deckle) (p : Nat) (gone : Bool := false) : State × Option Nat :=
  let far := isFarObj s d.ctx d.oid
  match nextLender s d.ctx (if gone then some p else none) d.lend.reverse with
  | none =>
    let s := releaseRegion s p (if far then 8 else 5) d.ctx d.oid d.base d.len
    (delDeckle (dropHold s d.ctx p d.oid d.base) d, none)
  | some (l, rest) =>
    let s := releaseRegion s p (transferScope s p l far) d.ctx d.oid d.base d.len
    let s := dropHold s d.ctx p d.oid d.base
    (putDeckle s { d with state := 1, holder := l, lend := rest.reverse }, some l)

/-- The receiver's acquire and installation (R95 steps 3 and 4); without room in its hold lists the installation waits as an
operation of its own (R423). -/
def installRegion (s : State) (p q ctx oid base len kind : Nat) : State :=
  let sc := transferScope s p q (isFarObj s ctx oid)
  match spillFor s ctx q with
  | some s => enterHold (acquireRegion s q sc ctx oid base len) ctx q oid base len kind
  | none =>
    let (id, s) := s.fresh
    { s with ownOps := s.ownOps ++ [{ id := id, kind := .dreturn, ctx := ctx, party := p, die := partyDie q, handle := partyHandle q
                                      oid := oid, base := base, len := len, result := some 0, install := some (q, kind, base, len)
                                      scope := sc, holdSince := some (s.die (partyDie q)).cycle, quiet := true }] }

/-- A return and its installation as one operation. -/
def returnNow (s : State) (d : Deckle) (p : Nat) (gone : Bool := false) : State × Option Nat :=
  match returnRegion s d p gone with
  | (s, none) => (s, none)
  | (s, some q) => (installRegion s p q d.ctx d.oid d.base d.len 0, some q)

/-- The lend of a destination to an engine (R97): HELD by the issuer's party becomes IN-FLIGHT. The status of R94. -/
def lendEngine (s : State) (ctx : Nat) (parties : List Nat) (d : Deckle) (engine : Nat) : Nat × State :=
  if d.state = 5 then (7, s)
  else if !(decide (d.state = 1) && parties.contains d.holder) then (2, s)
  else if 4 ≤ d.lend.length then (4, s)
  else
    let far := isFarObj s ctx d.oid
    let sc := if far then 8 else if partyKind engine = 5 then 7 else 5
    let p := d.holder
    let s := releaseRegion s p sc ctx d.oid d.base d.len
    let s := dropHold s ctx p d.oid d.base
    (0, putDeckle s { d with state := 4, holder := engine, lend := d.lend ++ [p] })

/-! The operations of R94, performed at the table home. -/

/-- What an operation comes to: its status or result, and the region to install. -/
structure Perf where
  s : State
  result : Nat
  install : Option (Nat × Nat × Nat × Nat) := none
  scope : Nat := 5

def ownAnswer (s : State) (r : Nat) : Perf := { s := s, result := r }

/-- A range's imported regions, when it holds every one that it meets whole (R382). -/
def importsIn (s : State) (ctx oid base len : Nat) : Option (List (Nat × Nat × Nat × Nat)) :=
  let is := s.imports.filter (fun i => decide (i.1 = ctx) && decide (i.2.1 = oid) && overlaps i.2.2.1 i.2.2.2 base len)
  if !is.isEmpty && is.all (fun i => decide (base ≤ i.2.2.1) && decide (i.2.2.1 + i.2.2.2 ≤ base + len)) then some is else none

/-- Far regions exist at a peer only while imported (R382). -/
def importedIn (s : State) (ctx oid base len : Nat) : Bool :=
  s.imports.any (fun i => decide (i.1 = ctx) && decide (i.2.1 = oid) && decide (i.2.2.1 ≤ base) &&
    decide (base + len ≤ i.2.2.1 + i.2.2.2))

def heldBy (p : Nat) (d : Deckle) : Bool := decide (d.state = 1) && decide (d.holder = p)

def sharesOf (s : State) (ctx p oid base : Nat) : Option Hold :=
  s.holds.find? (isHold ctx p oid base 1)

def ownClaim (s : State) (o : OwnOp) (far : Bool) : Perf :=
  let rs := regionsIn s o.ctx o.oid o.base o.len
  if rs.any (fun d => decide (d.state = 5)) then ownAnswer s 7
  else if rs.any (fun d => heldBy o.party d && decide (d.base = o.base) && decide (d.len = o.len)) then ownAnswer s 3
  else if !rs.isEmpty ∨ (far ∧ !importedIn s o.ctx o.oid o.base o.len) then ownAnswer s 1
  else
    { s := putDeckle s { ctx := o.ctx, oid := o.oid, base := o.base, len := o.len, state := 1, holder := o.party }
      result := 0, install := some (o.party, 0, o.base, o.len), scope := if far then 8 else 5 }

def ownPark (s : State) (o : OwnOp) (far : Bool) : Perf :=
  match regionExact s o.ctx o.oid o.base o.len with
  | none => ownAnswer s 2
  | some d =>
    if !heldBy o.party d then ownAnswer s 2
    else if !d.lend.isEmpty then ownAnswer s 9
    else
      let s := releaseRegion s o.party (if far then 8 else 5) o.ctx o.oid o.base o.len
      ownAnswer (delDeckle (dropHold s o.ctx o.party o.oid o.base) d) 0

def ownLend (s : State) (o : OwnOp) (far : Bool) : Perf :=
  if (regionsIn s o.ctx o.oid o.base o.len).any (fun d => decide (d.state = 5)) then ownAnswer s 7
  else
    match regionExact s o.ctx o.oid o.base o.len with
    | none => ownAnswer s 2
    | some d =>
      if !heldBy o.party d then ownAnswer s 2
      else if o.target = o.party then ownAnswer s 3
      else if !partyLive s o.ctx o.target then ownAnswer s 6
      else if 4 ≤ d.lend.length then ownAnswer s 4
      else
        let sc := transferScope s o.party o.target far
        let s := releaseRegion s o.party sc o.ctx o.oid o.base o.len
        let s := dropHold s o.ctx o.party o.oid o.base
        let s := if partyKind o.target = 8 then
            { s with farOut := s.farOut ++ [(bits o.target 27 0, .lendIn o.oid o.base o.len)] }
          else s
        { s := putDeckle s { d with holder := o.target, lend := d.lend ++ [o.party] }
          result := 0, install := some (o.target, 0, o.base, o.len), scope := sc }

/-- A DRETURN. With an empty stack the region of a far object goes back to its owner, if it is whole: a part of an imported
region alone, which the manual does not speak of, is answered like any other region without a lender (log 53). -/
def ownReturn (s : State) (o : OwnOp) (far : Bool) : Perf :=
  match regionExact s o.ctx o.oid o.base o.len with
  | none => ownAnswer s 2
  | some d =>
    if !heldBy o.party d then ownAnswer s 2
    else if d.lend.isEmpty then
      match if far then importsIn s o.ctx o.oid o.base o.len else none with
      | none => ownAnswer s 2
      | some is =>
        let s := releaseRegion s o.party 8 o.ctx o.oid o.base o.len
        let s := delDeckle (dropHold s o.ctx o.party o.oid o.base) d
        let ob := readObj s o.ctx o.oid
        ownAnswer { s with imports := s.imports.filter (fun i => !is.contains i)
                           farOut := s.farOut ++ is.map (fun i => (bits ob.plist 39 30, .returnIn (bits ob.plist 29 2) i.2.2.1)) } 0
    else
      match returnRegion s d o.party with
      | (s, none) => ownAnswer s 0
      | (s, some q) =>
        { s := s, result := 0, install := some (q, 0, d.base, d.len), scope := transferScope s o.party q far }

def ownSplit (s : State) (o : OwnOp) : Perf :=
  match regionAt s o.ctx o.oid o.base with
  | none => ownAnswer s 2
  | some d =>
    if !heldBy o.party d || decide (d.base = o.base) then ownAnswer s 2
    else
      let a := { d with len := o.base - d.base }
      let b := { d with base := o.base, len := d.base + d.len - o.base }
      let cut := fun h : Hold =>
        if isHold o.ctx o.party o.oid d.base 0 h then [{ h with len := a.len }] else [h]
      let t := putDeckle (putDeckle s a) b
      { s := { t with holds := t.holds.flatMap cut }, result := 0, install := some (o.party, 0, b.base, b.len), scope := 2 }

def ownJoin (s : State) (o : OwnOp) : Perf :=
  match (s.deckles.find? (fun d => decide (d.ctx = o.ctx) && decide (d.oid = o.oid) && decide (d.base + d.len = o.base))),
      (s.deckles.find? (fun d => decide (d.ctx = o.ctx) && decide (d.oid = o.oid) && decide (d.base = o.base))) with
  | some a, some b =>
    if !(heldBy o.party a && heldBy o.party b) then ownAnswer s 2
    else if a.lend ≠ b.lend then ownAnswer s 1
    else
      let s := putDeckle (delDeckle s b) { a with len := a.len + b.len }
      let grow := fun h : Hold => if isHold o.ctx o.party o.oid a.base 0 h then [{ h with len := a.len + b.len }]
        else if isHold o.ctx o.party o.oid b.base 0 h then [] else [h]
      ownAnswer { s with holds := s.holds.flatMap grow } 0
  | _, _ => ownAnswer s 2

def ownShare (s : State) (o : OwnOp) (far : Bool) : Perf :=
  let rs := regionsIn s o.ctx o.oid o.base o.len
  let sc := if partyKind o.party = 7 then 9 else if far then 8 else 5
  if rs.any (fun d => decide (d.state = 5)) then ownAnswer s 7
  else if rs.any (fun d => decide (d.base = o.base) && decide (d.len = o.len) &&
      (sharesOf s o.ctx o.party o.oid d.base).isSome) then ownAnswer s 3
  else
    match rs with
    | [] =>
      if far ∧ !importedIn s o.ctx o.oid o.base o.len then ownAnswer s 1
      else
        { s := putDeckle s { ctx := o.ctx, oid := o.oid, base := o.base, len := o.len, state := 2, shares := 1 }
          result := 0, install := some (o.party, 1, o.base, o.len), scope := sc }
    | d :: _ =>
      if !((decide (d.state = 2) || decide (d.state = 3)) && decide (d.base = o.base) && decide (d.len = o.len)) then
        ownAnswer s 1
      else if 65535 ≤ d.shares then ownAnswer s 5
      else
        { s := putDeckle s { d with shares := d.shares + 1 }
          result := 0, install := some (o.party, if d.state = 2 then 1 else 3, o.base, o.len), scope := sc }

/-- One share lowered at the table (R94, R426). -/
def lowerShare (s : State) (d : Deckle) : State :=
  let n := d.shares - 1
  if n = 0 ∧ (d.state = 2 ∨ (d.state = 3 ∧ partyKind d.holder = 9)) then delDeckle s d
  else putDeckle s { d with shares := n }

def ownUnshare (s : State) (o : OwnOp) : Perf :=
  match regionExact s o.ctx o.oid o.base o.len with
  | none => ownAnswer s 8
  | some d =>
    match sharesOf s o.ctx o.party o.oid d.base with
    | none => ownAnswer s 8
    | some _ =>
      ownAnswer (lowerShare (dropShare s o.ctx o.party o.oid d.base) d) 0

def ownAtom (s : State) (o : OwnOp) (far : Bool) : Perf :=
  let sc := if far then 8 else 5
  match regionExact s o.ctx o.oid o.base o.len with
  | none => ownAnswer s 2
  | some d =>
    if !((decide (d.state = 1) || decide (d.state = 3)) && decide (d.holder = o.party)) then ownAnswer s 2
    else if !d.lend.isEmpty then ownAnswer s 9
    else if d.state = 1 then
      let s := releaseRegion s o.party sc o.ctx o.oid o.base o.len
      let s := acquireRegion s o.party sc o.ctx o.oid o.base o.len
      { s := putDeckle (dropHold s o.ctx o.party o.oid o.base) { d with state := 3, shares := 0 }
        result := 0, install := some (o.party, 2, o.base, o.len), scope := sc }
    else if d.shares ≠ 0 then ownAnswer s 1
    else
      { s := putDeckle (dropHold s o.ctx o.party o.oid o.base) { d with state := 1 }
        result := 0, install := some (o.party, 0, o.base, o.len), scope := sc }

/-- The DQUERY value of R94; 0 for an immutable object (R228). -/
def queryValue (s : State) (ctx oid off : Nat) : Nat :=
  if (readObj s ctx oid).imm then 0
  else
  match regionAt s ctx oid off with
  | none => 0
  | some d => at_ d.lend.length 52 4 + at_ d.state 48 4 + at_ d.shares 32 16 + at_ d.holder 0 32

def performOwn (s : State) (o : OwnOp) : Perf :=
  let far := isFarObj s o.ctx o.oid
  match o.kind with
  | .claim => ownClaim s o far
  | .park => ownPark s o far
  | .lend => ownLend s o far
  | .dreturn => ownReturn s o far
  | .split => ownSplit s o
  | .join => ownJoin s o
  | .share => ownShare s o far
  | .unshare => ownUnshare s o
  | .atom => ownAtom s o far
  | .query => ownAnswer s (queryValue s o.ctx o.oid o.base)

/-- Two operations touch a common unit; a split or join touches the units on both sides of its boundary. -/
def OwnOp.range (o : OwnOp) : Nat × Nat :=
  match o.kind with
  | .split | .join => (o.base - 256, 512)
  | .query => (o.base, 256)
  | _ => (o.base, o.len)

def OwnOp.meets (o p : OwnOp) : Bool :=
  decide (o.ctx = p.ctx) && decide (o.oid = p.oid) && overlaps o.range.1 o.range.2 p.range.1 p.range.2

/-- An operation goes before another on common units (R90): the same party's in issue order, and of those issued in one count
the lower party's first. -/
def OwnOp.before (p o : OwnOp) : Bool :=
  if p.party = o.party then decide (p.id < o.id) else decide (p.at_ = o.at_) && decide (p.party < o.party)

/-- The table home may perform the operation now: no transfer on its units awaits installation (R95), and no operation that
goes before it on them is unperformed (R90). -/
def ownReady (s : State) (o : OwnOp) : Bool :=
  s.ownOps.all (fun p => decide (p.id = o.id) || !p.meets o || (p.install.isNone && !(p.before o && p.result.isNone)))

/-! Retirement (R47). -/

/-- One RETHOLD record (R423). -/
def rethold (s : State) (die cause p : Nat) (d : Deckle) (after : Option Deckle) : State :=
  let a := after.getD { d with state := 0, shares := 0, holder := 0, lend := [] }
  regionEvent s die { code := 0x2B, cause := cause, ctx := d.ctx, oid := d.oid, base := d.base, len := d.len,
                      state := a.state, shares := a.shares, holder := a.holder % 2 ^ 32, former := p,
                      ldepth := a.lend.length, party := p }

/-- The table home die of a region (R89). -/
def tableHome (d : Deckle) : Nat := Config.tableHome d.oid d.base % 16

/-- Step 2 of R47 for one region of the retiring party: the cause of its record, and the state. -/
def disposeHeld (s : State) (p : Nat) (d : Deckle) : Nat × State :=
  if d.state = 3 then
    (4, putDeckle (dropHold s d.ctx p d.oid d.base) { d with holder := mgmtParty (tableHome d) 0 })
  else
    match returnNow s d p true with
    | (s, none) => (0, s)
    | (s, some _) => (3, s)

/-- Step 3 of R47: a share of the party lowered. -/
def disposeShare (s : State) (p : Nat) (h : Hold) : State :=
  match regionExact s h.ctx h.oid h.base h.len with
  | none => dropShare s h.ctx p h.oid h.base
  | some d => lowerShare (dropShare s h.ctx p h.oid h.base) d

/-- Steps 2 and 3 of R47 for a party, and step 4 where log says that the party retires (R423). -/
def retireParty (s : State) (ctx die p : Nat) (log : Bool) : State :=
  let note := fun (s : State) (cause : Nat) (d : Deckle) =>
    if log then rethold s die cause p d (regionExact s d.ctx d.oid d.base d.len) else s
  let held := s.deckles.filter (fun d =>
    decide (d.ctx = ctx) && decide (d.holder = p) && (decide (d.state = 1) || decide (d.state = 3)))
  let s := held.foldl (fun s d => let (c, s) := disposeHeld s p d; note s c d) s
  let sh := s.holds.filter (fun h =>
    decide (h.ctx = ctx) && decide (h.party = p) && (decide (h.kind = 1) || decide (h.kind = 3)))
  sh.foldl (fun s h => note (disposeShare s p h) 1 { ctx := ctx, oid := h.oid, base := h.base, len := h.len }) s

/-- Step 1 of R47: an engine holds a deckle that the party lent (R97). -/
def lentToEngine (s : State) (ctx p : Nat) : Bool :=
  s.deckles.any (fun d => decide (d.ctx = ctx) && decide (d.state = 4) && d.lend.contains p)

end Sys2Proof.Machine
end

