-- ==== Sys2Proof/Machine/Checks.lean ====
section
/-! DEFINITION. The gates of a memory access: capability checks, residency, cover, poison and paths, with the reports of
their traps (R67, R74, R79, R100, R415 to R418, R433, R473). -/
namespace Sys2Proof.Machine

/-- A trap and what its record says (R396). -/
structure TrapInfo where
  code : Nat
  mask : Mask := 0
  detail : Nat := 0
  /-- UNOWNED: the region as the table home shows it, for the REGION record (R418, R420). -/
  region : Option Deckle := none
  deriving DecidableEq, Repr

/-- What the gates of a unit come to in one group. -/
inductive Gate where
  | go
  /-- The unit waits at issue. -/
  | wait
  /-- The access waits while a held-region cache refills this entry (R91). -/
  | refill (h : Hold)
  /-- No path to an endpoint now (R379): CAP, ACC, object offset and lanes for the record. -/
  | noPath (endpoint cap acc off : Nat) (mask : Mask)
  | trap (t : TrapInfo)
  deriving DecidableEq, Repr

/-- The first gate that does not let the unit pass. -/
def Gate.both (a : Gate) (b : Unit → Gate) : Gate := match a with | .go => b () | a => a

def maskOf (ls : List Nat) : Mask := ls.foldl (fun m l => mset m l true) 0

/-! Capability checks. -/

/-- One checked access: capability register and content, rights needed, size, ACC of R416, and lanes with their
offsets. either: DQUERY needs R or W (R62). -/
structure Access where
  cap : Nat := 0
  c : Cap := {}
  need : Nat := 0
  either : Bool := false
  n : Nat := 4
  /-- The alignment, when it is not the size: BFORK's first word. -/
  acc : Nat := 0
  offs : List (Nat × Nat) := []

/-- The object offset BASE + off, in the 40 bits of an offset. -/
def Access.objOff (a : Access) (off : Nat) : Nat := (a.c.base.toNat + off) % 2 ^ 40

/-- Rights that an immutable object never gives (R73). -/
def immRights : Nat := rW ||| rL ||| rS ||| rA

def rightsOk (a : Access) (imm : Bool) : Bool :=
  let have_ := a.c.rights.toNat
  (if a.either then decide (have_ &&& a.need ≠ 0) else decide (have_ &&& a.need = a.need)) &&
    !(imm && !a.either && decide (a.need &&& immRights ≠ 0))

/-- The first check of R67 that one lane's offset fails, 1 to 5. An entry that is not valid gives its IMM bit to check 2 all
the same, which is the model's choice (log 53). -/
def capCheck (o : ObjEntry) (a : Access) (off : Nat) : Option Nat :=
  let end_ := a.c.base.toNat + off + a.n
  if !a.c.tag then some 1
  else if !rightsOk a o.imm then some 2
  else if a.c.len.toNat < off + a.n ∨ (o.valid ∧ o.size < end_) then some 3
  else if (a.c.base.toNat + off) % a.n ≠ 0 then some 4
  else if !o.valid ∨ a.c.gen.toNat ≠ o.gen then some 5
  else none

/-- The lowest number among the results of the lanes, with the lanes that gave it. -/
def firstRow (rs : List (Nat × Option Nat)) : Option (Nat × List Nat) :=
  match minBy id (rs.filterMap (·.2)) with
  | none => none
  | some k => some (k, (rs.filter (fun r => decide (r.2 = some k))).map (·.1))

def offOfLane (offs : List (Nat × Nat)) (ls : List Nat) : Nat :=
  match ls with
  | [] => 0
  | l :: _ => ((offs.find? (fun p => decide (p.1 = l))).map (·.2)).getD 0

/-- LSIZE (R416). -/
def logSize (n : Nat) : Nat := Nat.log2 n

/-- DETAIL of codes 0x20 to 0x25 for a global access (R416). -/
def capDetail (a : Access) (o : ObjEntry) (code egen off : Nat) : Nat :=
  at_ a.cap 124 4 + at_ a.acc 120 3 + at_ (logSize a.n) 116 4 + at_ a.need 108 8 + at_ a.c.rights.toNat 100 8 +
    at_ a.c.gen.toNat 88 12 + (if code = 0x24 then at_ o.gen 76 12 + at_ o.kind 72 4 else at_ egen 76 12) +
    at_ (a.objOff off) 32 40

/-- A waiting management update retires the object's GEN: operations issued meanwhile fail check 5 (R425). -/
def retiring (s : State) (ctx oid : Nat) : Bool :=
  match s.muWait with
  | some u => decide (bits u.sel.toNat 63 60 = 0) && decide (bits u.sel.toNat 59 48 = ctx) && decide (bits u.sel.toNat 47 20 = oid)
  | none => false

/-- The gate of R67 over every lane (R68, R415). -/
def capGate (s : State) (ctx : Nat) (a : Access) : Gate :=
  let o := readObj s ctx a.c.oid.toNat
  match firstRow (a.offs.map (fun p => (p.1, capCheck o a p.2))) with
  | none => .go
  | some (k, ls) =>
    let code := 0x1F + k
    .trap { code := code, mask := maskOf ls, detail := capDetail a o code 0 (offOfLane a.offs ls) }

/-! Residency. -/

def residentAt (s : State) (o : ObjEntry) (off : Nat) : Bool := (placeOf s o off).isSome

/-- The walker sets ACC, and DIRTY for a store, in the entry of an accessed page (R71). -/
def markPage (s : State) (o : ObjEntry) (store : Bool) (off : Nat) : State :=
  if o.far then s
  else
    let e := readPage s o (off / 65536)
    let want := e ||| 2 ^ 17 ||| (if store then 2 ^ 16 else 0)
    if e = want then s else wrHomeNat s (pageAddr o (off / 65536)) 8 want

/-- The same for a byte of a capability. -/
def markCap (s : State) (ctx : Nat) (k : Cap) (store : Bool) (off : Nat) : State :=
  markPage s (readObj s ctx k.oid.toNat) store (k.base.toNat + off)

/-- The lanes whose page is not RESIDENT. -/
def absentLanes (s : State) (ctx : Nat) (a : Access) : List Nat :=
  let o := readObj s ctx a.c.oid.toNat
  (a.offs.filter (fun p => !residentAt s o (a.objOff p.2))).map (·.1)

/-- RESIDENCY (R74 with RES = 0). -/
def residencyGate (s : State) (ctx : Nat) (a : Access) : Gate :=
  match absentLanes s ctx a with
  | [] => .go
  | l :: r =>
    let o := readObj s ctx a.c.oid.toNat
    let off := offOfLane a.offs (l :: r)
    let st := pageState (readPage s o (a.objOff off / 65536))
    .trap { code := 0x25, mask := maskOf (l :: r), detail := capDetail a o 0x25 st off }

/-! Cover. -/

/-- The table home of the region that holds an offset stands on a failed die (R471). -/
def homeLost (s : State) (ctx oid off : Nat) : Bool :=
  match regionAt s ctx oid off with
  | some d => decide ((s.die (tableHome d)).boot = 3)
  | none => false

/-- Why one lane's access passes, waits or is not covered. -/
inductive Cover where
  | free
  | by_ (h : Hold)
  | none
  deriving DecidableEq, Repr

/-- The cover of R100 for the bytes of one lane; an immutable object's loads need none (R73). -/
def coverOf (s : State) (ctx : Nat) (parties : List Nat) (o : ObjEntry) (oid off n : Nat) (kinds : List Nat) : Cover :=
  if o.imm then .free
  else if homeLost s ctx oid off then .none
  else
    match findCover s ctx parties oid off n kinds with
    | some h => .by_ h
    | none => .none

/-- The region of an offset as a report shows it (R418, R471): a unit in no region stands alone with state 0. -/
def regionSeen (s : State) (ctx oid off : Nat) : Deckle :=
  match regionAt s ctx oid off with
  | some d => if homeLost s ctx oid off then { ctx := ctx, oid := oid, base := d.base, len := d.len, state := 5 } else d
  | none => { ctx := ctx, oid := oid, base := off / 256 * 256, len := 256 }

/-- DETAIL of UNOWNED (R418). -/
def unownedDetail (s : State) (ctx : Nat) (a : Access) (off : Nat) : Nat :=
  let oid := a.c.oid.toNat
  let oo := a.objOff off
  let d := regionSeen s ctx oid oo
  at_ a.cap 124 4 + at_ a.acc 120 3 + at_ (logSize a.n) 116 4 + at_ oid 88 28 + at_ d.state 84 4 + at_ (d.holder % 2 ^ 32) 52 32 +
    at_ oo 12 40

/-- The trap of an uncovered access (R101, R418). -/
def unowned (s : State) (ctx : Nat) (a : Access) (m : Mask) (off : Nat) : TrapInfo :=
  { code := 0x26, mask := m, detail := unownedDetail s ctx a off, region := some (regionSeen s ctx a.c.oid.toNat (a.objOff off)) }

/-- A transfer on a unit awaits its installation, which the report of an uncovered access waits for (R95, R420). -/
def installing (s : State) (ctx oid off : Nat) : Bool :=
  s.ownOps.any (fun o => o.install.isSome && decide (o.ctx = ctx) && decide (o.oid = oid) && overlaps o.range.1 o.range.2 off 1)

/-- The gate of an uncovered access. -/
def unownedGate (s : State) (ctx : Nat) (a : Access) (m : Mask) (off : Nat) : Gate :=
  if installing s ctx a.c.oid.toNat (a.objOff off) then .wait else .trap (unowned s ctx a m off)

/-- UNOWNED over the lanes whose page is resident; a covering entry that the core's cache lacks is refilled first. -/
def coverGate (s : State) (ctx core : Nat) (parties : List Nat) (a : Access) (kinds : List Nat) : Gate :=
  let oid := a.c.oid.toNat
  let o := readObj s ctx oid
  let here := a.offs.filter (fun p => residentAt s o (a.objOff p.2))
  let cs := here.map (fun p => (p, coverOf s ctx parties o oid (a.objOff p.2) a.n kinds))
  match cs.filter (fun c => decide (c.2 = .none)) with
  | [] =>
    match cs.findSome? (fun c => match c.2 with | .by_ h => if h.cached.contains core then none else some h | _ => none) with
    | some h => .refill h
    | none => .go
  | bad =>
    let ls := bad.map (·.1.1)
    unownedGate s ctx a (maskOf ls) (offOfLane a.offs ls)

/-- The covering entries an access used (R91). -/
def touchCover (s : State) (ctx : Nat) (parties : List Nat) (oid : Nat) (offs : List Nat) (n : Nat) (kinds : List Nat) :
    State :=
  let hs := dedup ((offs.filterMap (fun off => (findCover s ctx parties oid off n kinds).map (·.base))))
  { s with holds := updWhere (fun h => decide (h.ctx = ctx) && parties.contains h.party && decide (h.oid = oid) &&
      kinds.contains h.kind && hs.contains h.base) (fun h => { h with used := s.issues }) s.holds }

/-- An ownership operation of the parties is outstanding on bytes of the access: it waits (R96). -/
def ownBusy (s : State) (ctx : Nat) (parties : List Nat) (oid off n : Nat) : Bool :=
  s.ownOps.any (fun o => decide (o.ctx = ctx) && parties.contains o.party && decide (o.oid = oid) &&
    decide (o.kind ≠ .query) && overlaps o.range.1 o.range.2 off n)

def ownGate (s : State) (ctx : Nat) (parties : List Nat) (a : Access) : Gate :=
  if a.offs.any (fun p => ownBusy s ctx parties a.c.oid.toNat (a.objOff p.2) a.n) then .wait else .go

/-! Paths (R379, R391, R471, R473). -/

def pathDetail (cap acc endpoint off : Nat) : Nat := at_ cap 124 4 + at_ acc 120 3 + at_ endpoint 105 7 + at_ off 32 40

/-- The owner of a far place answers with a generation fault: the pair is not bound there (R381). -/
def farRefused (s : State) (die ctx place : Nat) : Bool :=
  isFar place && !Config.farBound (s.die die).cycle (bits (s.reg 0x118).toNat 9 0) ctx

/-- The path from a die to every resident lane's place, and the answer of a far object's owner. -/
def pathGate (s : State) (ctx die : Nat) (a : Access) : Gate :=
  let o := readObj s ctx a.c.oid.toNat
  let rs := a.offs.filterMap (fun p => (placeOf s o (a.objOff p.2)).map (fun q => (p, reach s die q)))
  match rs.filter (fun r => match r.2 with | .never _ => true | _ => false) with
  | (p, .never e) :: r =>
    .trap { code := 0x80, mask := maskOf (p.1 :: r.map (·.1.1)), detail := pathDetail a.cap a.acc e (a.objOff p.2) }
  | _ =>
    match rs.filter (fun r => match r.2 with | .noPath _ => true | _ => false) with
    | (p, .noPath e) :: r => .noPath e a.cap a.acc (a.objOff p.2) (maskOf (p.1 :: r.map (·.1.1)))
    | _ =>
      match a.offs.filter (fun p => (placeOf s o (a.objOff p.2)).any (farRefused s die ctx)) with
      | [] => .go
      | p :: r => .trap { code := 0x24, mask := maskOf (p.1 :: r.map (·.1)), detail := capDetail a o 0x24 0 p.2 }

/-! Local addresses (R79). -/

/-- The failing row of a local access: BOUNDS (0x22), or MISALIGN (0x23) when only alignment fails (R415). -/
def localCheck (t : Team) (la n : Nat) : Option Nat :=
  let rank := bits la 23 20
  let ranks := if t.gleaner.isSome then 1 else (spanCores t.die t.span t.place).length
  if bits la 31 24 ≠ 0 ∨ ranks ≤ rank ∨ t.localBytes < la % 2 ^ 20 + n then some 0x22
  else if la % n ≠ 0 then some 0x23 else none

def localDetail (acc n la : Nat) : Nat := 2 ^ 123 + at_ acc 120 3 + at_ (logSize n) 116 4 + at_ la 0 32

def localGate (t : Team) (acc n : Nat) (las : List (Nat × Nat)) : Gate :=
  match firstRow (las.map (fun p => (p.1, localCheck t (p.2 % 2 ^ 32) n))) with
  | none => .go
  | some (k, ls) => .trap { code := k, mask := maskOf ls, detail := localDetail acc n (offOfLane las ls % 2 ^ 32) }

/-- The index of a local byte in Team.loc: a gleaned group's rank is its own number (R52). -/
def locIndex (t : Team) (grp la : Nat) : Nat :=
  (if t.gleaner.isSome then grp else bits la 23 20) * 2 ^ 20 + la % 2 ^ 20

def readLocal (t : Team) (i n : Nat) : List Byte := (upto n).map (fun k => tget t.loc (i + k) 0)

/-- A local store write clears the tag of every granule it touches and the marks of its bytes (R63, R432). -/
def writeLocal (t : Team) (i : Nat) (bs : List Byte) : Team :=
  let n := bs.length
  { t with
    loc := ((upto n).zip bs).foldl (fun m p => tset m (i + p.1) p.2 0) t.loc
    locTags := t.locTags.filter (fun g => !overlaps (16 * g) 16 i n)
    locPoison := t.locPoison.filter (fun b => !(decide (i ≤ b) && decide (b < i + n))) }

/-! POISONDATA (R433). -/

/-- Bit i set for each marked byte. -/
def markBits (ms : List Bool) : Nat := ((upto ms.length).zip ms).foldl (fun v p => v + (if p.2 then 2 ^ p.1 else 0)) 0

/-- The gate over lanes that carry their bytes' marks: bad lanes in the record, and the lowest lane's bytes. -/
def poisonGate (loc : Bool) (cap acc : Nat) (rs : List (Nat × Nat × List Bool)) : Gate :=
  match rs.filter (fun r => r.2.2.any id) with
  | [] => .go
  | (l, off, ms) :: r =>
    .trap { code := 0x27, mask := maskOf (l :: r.map (·.1)),
            detail := at_ cap 124 4 + (if loc then 2 ^ 123 else 0) + at_ acc 120 3 + at_ off 32 40 + at_ (markBits ms) 0 16 }

end Sys2Proof.Machine
end

