-- ==== Sys2Proof/Machine/Grids.lean ====
section
/-! DEFINITION. The launch record, dependence counters and completion tokens, and what a grid's record fixes (R306, R309,
R310, R312, R422). -/
namespace Sys2Proof.Machine

/-- A field of a launch record. -/
def rfield (r : BitVec 512) (hi lo : Nat) : Nat := bits r.toNat hi lo

/-- The fields of a launch record (R306). -/
structure Launch where
  teams : Nat
  ngroups : Nat
  entry : Nat
  capix : Nat
  ncaps : Nat
  span : Nat
  width : Nat
  vregs8 : Nat
  loc : Nat
  bond : Nat
  diemask : Nat
  cohort : Bool
  restart : Bool
  depv : Bool
  tokv : Bool
  depix : Nat
  depoff : Nat
  tokix : Nat
  tokoff : Nat
  deadline : Nat
  args : Nat

def launchOf (r : BitVec 512) : Launch :=
  { teams := rfield r 511 480, ngroups := rfield r 479 468, entry := rfield r 467 452, capix := rfield r 451 436,
    ncaps := rfield r 435 431, span := rfield r 430 429, width := rfield r 428 427, vregs8 := rfield r 426 421,
    loc := rfield r 420 409, bond := rfield r 408 406, diemask := rfield r 405 390,
    cohort := decide (rfield r 389 389 = 1), restart := decide (rfield r 388 388 = 1),
    depv := decide (rfield r 387 387 = 1), tokv := decide (rfield r 386 386 = 1), depix := rfield r 383 368,
    depoff := rfield r 367 328, tokix := rfield r 327 312, tokoff := rfield r 311 272, deadline := rfield r 271 240,
    args := rfield r 191 0 }

/-- Group width, registers, local bytes of a record. -/
def widthOf (code : Nat) : Nat := if code = 0 then 32 else if code = 1 then 64 else 128
def vregsOf (v8 : Nat) : Nat := if v8 = 0 then 32 else 8 * v8
def Launch.dies (l : Launch) : Nat := if l.diemask = 0 then 0xFFFF else l.diemask

/-- The dies a mask and span admit, in increasing order: for a twin span the lower dies of whole twins (R312). -/
def admitted (mask span : Nat) : List Nat :=
  (upto 16).filter (fun d =>
    if span = 3 then decide (d % 2 = 0) && mask.testBit d && mask.testBit (d + 1) else mask.testBit d)

/-- The first team of die position d among n positions (R312). -/
def firstTeam (teams n d : Nat) : Nat := d * teams / n

/-- Whether a team carries the COHORT flag, a BOND or RESTART. -/
def Grid.launch (g : Grid) : Launch := launchOf g.record

def teamLaunch (s : State) (t : Team) : Option Launch := if t.gleaner.isSome then none else (s.grid? t.grid).map Grid.launch

/-! Words in ATOMIC regions that the device touches (R422). -/

/-- How a device's word stands: readable at a place, or why not. -/
inductive WordAt where
  | at_ (place : Nat)
  | notAtomic
  | notResident
  deriving DecidableEq, Repr

/-- The word at an offset of an entry capability's object. -/
def deviceWord (s : State) (ctx ix off : Nat) : WordAt :=
  let c := entryCap s (readCtx s ctx) ix
  let oid := c.oid.toNat
  let o := readObj s ctx oid
  let oo := (c.base.toNat + off) % 2 ^ 40
  match regionAt s ctx oid oo with
  | some d =>
    if d.state ≠ 3 then .notAtomic
    else match placeOf s o oo with
      | some a => .at_ a
      | none => .notResident
  | none => .notAtomic

/-- Eight bytes at their home. -/
def homeNat (s : State) (a n : Nat) : Nat := leNat ((upto n).map (fun i => homeByte s (a + i)))

/-- A PENDING grid whose counter reads 0 becomes READY; an unreadable counter leaves it PENDING (R309, R422). -/
def releaseDep (s : State) (n : Nat) : State :=
  s.updGrid n (fun g =>
    if g.state = .pending then
      match deviceWord s g.ctx g.launch.depix g.launch.depoff with
      | .at_ a => if homeNat s a 8 = 0 then { g with state := .ready } else g
      | _ => g
    else g)

/-- Every PENDING grid's counter read again (R309). -/
def releaseDeps (s : State) : State :=
  if s.grids.any (fun g => decide (g.2.state = .pending)) then s.grids.foldl (fun s g => releaseDep s g.1) s else s

/-- A TOKSTATE record about a word: the region that holds it, as it stands (R419, R422). -/
def tokState (s : State) (die cause ctx ix off party : Nat) : State :=
  let c := entryCap s (readCtx s ctx) ix
  let oid := c.oid.toNat
  let oo := (c.base.toNat + off) % 2 ^ 40
  match regionAt s ctx oid oo with
  | some d => regionEvent s die { code := 0x2A, cause := cause, ctx := ctx, oid := oid, base := d.base, len := d.len,
                                  state := d.state, shares := d.shares, holder := d.holder % 2 ^ 32,
                                  ldepth := d.lend.length, party := party }
  | none => regionEvent s die { code := 0x2A, cause := cause, ctx := ctx, oid := oid, base := oo / 256 * 256, len := 256,
                                party := party }

/-- The token decrement of R310, with its events (R422, R448). -/
def decrementToken (s : State) (die : Nat) (g : Grid) : State :=
  let l := g.launch
  if !l.tokv then s
  else
    let party := queueParty g.queue
    match deviceWord s g.ctx l.tokix l.tokoff with
    | .at_ a =>
      let m := homeNat s a 8
      if m = 0 then
        eventCtx s die { code := 0x6A, value := l.tokoff, raddr := g.raddr, queue := g.queue, party := party, ctx := g.ctx }
      else releaseDeps (wrHomeNat s a 8 (m - 1))
    | .notAtomic => tokState s die 0 g.ctx l.tokix l.tokoff party
    | .notResident => tokState s die 2 g.ctx l.tokix l.tokoff party

end Sys2Proof.Machine
end

