-- ==== Sys2Proof/WellFormed.lean ====
section
/-! DEFINITION. Which instructions are assigned encodings (R146, R161, R162, R438 to R441): the first check that an
instruction fails, by name. An instruction that fails none is well-formed. The steps that have no encoding are well-formed. -/
namespace Sys2Proof

/-- The checks of an assigned encoding, by name (R146, R439 to R441). -/
inductive Check where
  /-- A prefix field wider than its bits (R160). -/
  | prefixRange
  /-- G = 0 with N or GM nonzero (R160). -/
  | guardFields
  /-- A guard where R161 gives No. -/
  | guard
  /-- RND or SAT where R161 gives 0. -/
  | rounding
  /-- A TYPE that the description does not accept (R162). -/
  | elemType
  /-- IMM15 that the description does not accept (R161). -/
  | imm15
  /-- A destination code outside its class (R151, R155). -/
  | dest
  /-- A source code outside its class (R151). -/
  | source
  /-- An odd code in a 64-bit position, or a 16-byte group not at a multiple of 4 (R150). -/
  | pair
  /-- A literal word present without a literal operand, or missing with one (R144). -/
  | literal
  /-- A mask number outside its position (R151). -/
  | mask
  /-- A scalar number outside s0 to s15. -/
  | scalar
  /-- A capability number outside c0 to c15. -/
  | cap
  /-- An access size that the instruction does not accept (R216, R220). -/
  | size
  /-- A 40-bit offset from an operand that R65 leaves unassigned. -/
  | offset40
  /-- A selector or immediate field outside its range. -/
  | field
  deriving DecidableEq, Repr

namespace Check

/-- The first failing check of a list of named tests. -/
def first : List (Bool × Check) → Option Check
  | [] => none
  | (ok, c) :: rest => if ok then first rest else some c

end Check

/-- What an instruction accepts of its prefix (one row of R161). -/
structure PxRule where
  guard : Bool := true
  rnd : Bool := false
  sat : Bool := false
  tys : List Nat := [0]
  imm : Nat → Bool := fun n => n == 0

/-- The prefix of a unit; a unit without one acts as the prefix of zeros (R160). -/
def Hdr.pfx (h : Hdr) : Prefix := h.px.getD {}

/-- The prefix checks of R160 and R161. -/
def Hdr.checks (h : Hdr) (r : PxRule) : List (Bool × Check) :=
  let p := h.pfx
  [(decide (p.gm < 8 ∧ p.rnd < 4 ∧ p.ty < 8 ∧ p.imm < 2 ^ 15), .prefixRange),
   (p.g || (!p.n && p.gm == 0), .guardFields),
   (r.guard || !p.g, .guard),
   ((r.rnd || p.rnd == 0) && (r.sat || !p.sat), .rounding),
   (r.tys.contains p.ty, .elemType),
   (r.imm p.imm, .imm15)]

/-- A source code of the vector class (R151). -/
def Src.ok : Src → Bool
  | .v n => decide (n < 96)
  | .s i => decide (i < 16)
  | .y j => decide (j < 8)
  | _ => true

def Src.isLit : Src → Bool
  | .lit => true
  | _ => false

/-- The code is even where it names a register or latch in a 64-bit position (R150). -/
def Src.even : Src → Bool
  | .v n => n % 2 == 0
  | .y j => j % 2 == 0
  | _ => true

def Dst.ok : Dst → Bool
  | .v n _ => decide (n < 96)
  | .y j => decide (j < 8)

def Dst.even : Dst → Bool
  | .v n _ => n % 2 == 0
  | .y j => j % 2 == 0

def SSrc.ok : SSrc → Bool
  | .s i => decide (i < 16)
  | _ => true

def SSrc.isLit : SSrc → Bool
  | .lit => true
  | _ => false

def MSrc.ok : MSrc → Bool
  | .k n => decide (n < 8)
  | .none => true

/-- The literal word stands exactly when an operand names it (R144). -/
def Hdr.litOk (h : Hdr) (used : Bool) : Bool × Check := (h.lit.isSome == used, .literal)

/-- A binary8 format code (R129, R199). -/
def isBinary8 (f : Nat) : Bool :=
  decide (1 ≤ f % 16 ∧ f % 16 ≤ 7 ∧ 1 ≤ f / 16 ∧ f / 16 ≤ 4)

/-- V3, all three operands read; wide when the element type is 64 bits (R150). -/
def V3.checks (x : V3) (r : PxRule) (wide : Bool) : List (Bool × Check) :=
  x.h.checks r ++
  [(x.d.ok, .dest), (x.a.ok && x.b.ok, .source),
   (!wide || (x.d.even && x.a.even && x.b.even), .pair),
   x.h.litOk (x.a.isLit || x.b.isLit)]

def V2.checks (x : V2) (r : PxRule) (wide : Bool) : List (Bool × Check) :=
  x.h.checks r ++
  [(x.d.ok, .dest), (x.a.ok, .source), (!wide || (x.d.even && x.a.even), .pair), x.h.litOk x.a.isLit]

/-- V3 of the integer majors: TYPE 1 is the 64-bit type (R162). -/
def V3.intChecks (x : V3) (tys : List Nat) : List (Bool × Check) :=
  x.checks { tys := tys } (x.h.pfx.ty == 1)

def V2.intChecks (x : V2) (tys : List Nat) : List (Bool × Check) :=
  x.checks { tys := tys } (x.h.pfx.ty == 1)

def SU.checks (x : SU) : List (Bool × Check) :=
  x.h.checks {} ++
  [(decide (x.d < 16), .scalar), (x.a.ok && x.b.ok, .source), x.h.litOk (x.a.isLit || x.b.isLit)]

def ImmU.checks (x : ImmU) : List (Bool × Check) :=
  let wide := x.h.pfx.ty == 1
  x.h.checks { tys := [0, 1] } ++
  [(x.d.ok, .dest), (x.a.ok, .source), (!wide || (x.d.even && x.a.even), .pair), x.h.litOk x.a.isLit]

def ShU.checks (x : ShU) : List (Bool × Check) :=
  let wide := x.h.pfx.ty == 1
  x.h.checks { tys := [0, 1, 2, 3] } ++
  [(x.d.ok, .dest), (x.a.ok, .source), (decide (x.n < 64), .field),
   (!wide || (x.d.even && x.a.even), .pair), x.h.litOk x.a.isLit]

def KRdU.checks (x : KRdU) : List (Bool × Check) :=
  x.h.checks {} ++ [(decide (x.d < 16), .scalar), (x.k.ok, .mask), x.h.litOk false]

def K3U.checks (x : K3U) : List (Bool × Check) :=
  x.h.checks {} ++
  [(decide (1 ≤ x.k ∧ x.k < 8), .mask), (x.a.ok && x.b.ok, .mask), x.h.litOk false]

def K2U.checks (x : K2U) : List (Bool × Check) :=
  x.h.checks {} ++ [(decide (1 ≤ x.k ∧ x.k < 8), .mask), (x.a.ok, .mask), x.h.litOk false]

/-- The offset source of R65. -/
def Src.offOk (a : Src) (o40 : Bool) : List (Bool × Check) :=
  [(a.ok, .source),
   (!o40 || (match a with | .v n => n % 2 == 0 | .s _ => true | _ => false), .offset40)]

def SSrc.offOk (a : SSrc) (o40 : Bool) : List (Bool × Check) :=
  [(a.ok, .source), (!o40 || (match a with | .s _ => true | _ => false), .offset40)]

/-- A vector register that holds a value of 2^sz bytes (R216). -/
def regAlign (d sz : Nat) : Bool :=
  if sz == 4 then d % 4 == 0 else if sz == 3 then d % 2 == 0 else true

/-- The data source of ST, STL and RED (R216). -/
def storeSrcOk (d : Src) (sz : Nat) : List (Bool × Check) :=
  [(d.ok && (match d with
      | .v _ => true
      | .zero => true
      | .lane => false
      | _ => decide (sz ≤ 3)), .source),
   ((match d with
      | .v n => regAlign n sz
      | .y j => if sz == 3 then j % 2 == 0 else true
      | _ => true), .pair)]

/-- The ordering and scope of R106 in IMM15, for ATOM and RED. -/
def orderingOk (imm : Nat) : Bool :=
  decide (imm / 2 ^ 12 < 4 ∧ imm / 2 ^ 8 % 16 < 10 ∧ imm % 2 ^ 8 = 0)

def DopU.checks (x : DopU) : List (Bool × Check) :=
  x.h.checks {} ++
  [(decide (x.c < 16), .cap), (x.a.ok && x.a != .one, .source), (decide (x.r < 16), .scalar),
   x.h.litOk x.a.isLit]

def CgetU.checks (x : CgetU) : List (Bool × Check) :=
  x.h.checks {} ++ [(decide (x.cf < 16), .cap), (decide (x.d < 16), .scalar), x.h.litOk false]

def NoneU.checks (x : NoneU) (guard : Bool) : List (Bool × Check) :=
  x.h.checks { guard := guard } ++ [x.h.litOk false]

def RegU.checks (x : RegU) : List (Bool × Check) :=
  x.h.checks { guard := false } ++ [(decide (x.d < 16), .scalar), x.h.litOk false]

def BarU.checks (x : BarU) : List (Bool × Check) :=
  x.h.checks { guard := false } ++ [(decide (x.b < 16), .field), x.h.litOk false]

def NmU.checks (x : NmU) : List (Bool × Check) :=
  x.h.checks {} ++
  [(decide (x.j < 16), .field), (decide (x.a ≤ (if x.w then 93 else 94)), .source),
   (decide (x.r < 16), .scalar), x.h.litOk false]

def CpyU.checks (x : CpyU) : List (Bool × Check) :=
  x.h.checks {} ++ [(x.a.ok, .source), (decide (x.r < 16), .scalar), x.h.litOk x.a.isLit]

def BrdvU.checks (x : BrdvU) : List (Bool × Check) :=
  x.h.checks { guard := false } ++ [(decide (x.n < 8), .field), (x.a.ok, .source), x.h.litOk x.a.isLit]

/-- The element types of the float majors (R162). -/
def floatTys : List Nat := [0, 1, 2]

/-- The checks of each instruction, in the order of its description (R146, R441). Steps without an encoding have none. -/
def Instr.checks : Instr → List (Bool × Check)
  | .iadd x | .isub x | .imin x | .imax x | .nmin x | .nmax x => x.intChecks [0, 1, 2, 3]
  | .iadds x | .isubs x | .iavg x | .idiff x => x.intChecks [0, 2, 3]
  | .iabs x | .ineg x => x.intChecks [0, 1, 2, 3]
  | .iaddc x | .isubb x => x.intChecks [0]
  | .imul x | .imad x => x.intChecks [0, 1, 2, 3]
  | .imulh x | .nmulh x => x.intChecks [0, 1, 2]
  | .imadh x => x.intChecks [0, 1]
  | .idot4 x | .idot2 x => x.intChecks [0]
  | .idiv x | .irem x | .ndiv x | .nrem x => x.intChecks [0, 1]
  | .and x | .or x | .xor x | .andn x | .orn x | .xnor x => x.intChecks [0, 1]
  | .not x => x.intChecks [0, 1]
  | .lcomb x => x.checks { tys := [0, 1], imm := fun n => decide (n < 2 ^ 9) } (x.h.pfx.ty == 1)
  | .shl x | .shr x | .sra x | .rol x | .ror x => x.intChecks [0, 1, 2, 3]
  | .fshl x | .fshr x => x.intChecks [0]
  | .popc x | .clz x | .ctz x | .brev x => x.intChecks [0, 1]
  | .bfx x | .bfxn x | .bfi x | .bmsk x | .permb x | .sext x | .zext x => x.intChecks [0]
  | .icmp x =>
    x.h.checks { tys := [0, 1] } ++
    [(decide (1 ≤ x.k ∧ x.k < 8), .mask), (x.a.ok && x.b.ok, .source),
     (!(x.h.pfx.ty == 1) || (x.a.even && x.b.even), .pair), x.h.litOk (x.a.isLit || x.b.isLit)]
  | .sel x =>
    x.h.checks { tys := [0, 1] } ++
    [(x.d.ok, .dest), (x.a.ok, .source), (x.k.ok, .mask),
     (!(x.h.pfx.ty == 1) || (x.d.even && x.a.even), .pair), x.h.litOk x.a.isLit]
  | .mov x => x.intChecks [0, 1]
  | .movk x => x.h.checks {} ++ [(x.d.ok, .dest), (x.k.ok, .mask), x.h.litOk false]
  | .kmov x =>
    x.h.checks {} ++ [(decide (1 ≤ x.k ∧ x.k < 8), .mask), (x.a.ok, .source), x.h.litOk x.a.isLit]
  | .iaddi x | .andi x | .ori x | .xori x => x.checks
  | .shli x | .shri x | .srai x | .roli x => x.checks
  | .movi x =>
    x.h.checks { tys := [0, 1] } ++
    [(x.d.ok, .dest), (!(x.h.pfx.ty == 1) || x.d.even, .pair), x.h.litOk false]
  | .sadd x | .ssub x | .smul x | .smulh x | .sand x | .sor x | .sxor x | .sshl x | .sshr x | .ssra x
  | .smin x | .smax x | .snmin x | .snmax x => x.checks
  | .saddi x =>
    x.h.checks {} ++ [(decide (x.d < 16), .scalar), (x.a.ok, .source), x.h.litOk x.a.isLit]
  | .scmp x =>
    x.h.checks {} ++
    [(decide (x.d < 16), .scalar), (x.a.ok && x.b.ok, .source), x.h.litOk (x.a.isLit || x.b.isLit)]
  | .smov x => x.h.checks {} ++ [(decide (x.d < 16), .scalar), (x.a.ok, .source), x.h.litOk x.a.isLit]
  | .srdk x => x.h.checks {} ++ [(decide (x.d < 16), .scalar), (decide (x.k < 8), .mask), x.h.litOk false]
  | .swrk x =>
    x.h.checks {} ++ [(decide (1 ≤ x.k ∧ x.k < 8), .mask), (x.a.ok, .source), x.h.litOk x.a.isLit]
  | .spopk x => x.checks
  | .fadd x | .fsub x | .fmul x | .fscale x => x.checks { rnd := true, sat := true, tys := floatTys } false
  | .fmin x | .fmax x | .fminn x | .fmaxn x | .fcpys x => x.checks { tys := floatTys } false
  | .fabs x | .fneg x | .ffrac x | .ffloor x | .fceil x | .ftrunc x => x.checks { tys := floatTys } false
  | .frint x => x.checks { rnd := true, sat := true, tys := floatTys } false
  | .ffma x | .ffms x | .ffnma x | .ffnms x => x.checks { rnd := true, sat := true, tys := floatTys } false
  | .frcp x | .frsq x | .fexp2 x | .flog2 x | .fsin x | .fcos x | .ftanh x | .fsigm x => x.checks {} false
  | .fsqrt x => x.checks { rnd := true, sat := true } false
  | .fdiv x => x.checks { rnd := true, sat := true } false
  | .fcmp x =>
    x.h.checks {} ++
    [(decide (1 ≤ x.k ∧ x.k < 8), .mask), (x.a.ok && x.b.ok, .source), x.h.litOk (x.a.isLit || x.b.isLit)]
  | .fclass x => x.checks { tys := floatTys } false
  | .fdot2 x => x.checks { rnd := true, sat := true, tys := [1, 2] } false
  | .fdot4 x => x.checks { rnd := true, sat := true, imm := isBinary8 } false
  | .cvt x =>
    let s := x.h.pfx.ty
    let t := match x.t with
      | .f32 => 0 | .f16 => 1 | .bf16 => 2 | .i32 => 3 | .n32 => 4 | .i64 => 5 | .n64 => 6
    x.h.checks { rnd := true, sat := true, tys := [0, 1, 2, 3, 4, 5, 6] } ++
    [(s != t, .elemType), (!x.hsel || (s == 1 || s == 2 || t == 1 || t == 2), .field),
     (x.d.ok, .dest), (x.a.ok, .source),
     ((!(s == 5 || s == 6) || x.a.even) && (!(t == 5 || t == 6) || x.d.even), .pair), x.h.litOk x.a.isLit]
  | .cvt8 x => x.checks { rnd := true, sat := true, imm := fun n => isBinary8 (n % 2 ^ 8) && decide (n < 2 ^ 10) } false
  | .cvt8x x => x.checks { imm := fun n => isBinary8 (n % 2 ^ 8) && decide (n < 2 ^ 10) } false
  | .cvt4 x => x.checks { rnd := true, sat := true, imm := fun n => n % 2 ^ 8 == 0 && decide (n < 2 ^ 11) } false
  | .cvt4x x => x.checks { imm := fun n => n % 2 ^ 8 == 0 && decide (n < 2 ^ 11) } false
  | .pack8 x => x.checks { rnd := true, sat := true, imm := fun n => isBinary8 (n % 2 ^ 8) && decide (n < 2 ^ 9) } false
  | .unpk8 x => x.checks { imm := fun n => isBinary8 (n % 2 ^ 8) && decide (n < 2 ^ 9) } false
  | .bscan x => x.checks { imm := fun n => isBinary8 n || n == 0x50 } false
  | .qnt8 x | .dqnt8 x =>
    x.checks { rnd := true, sat := true, imm := fun n => isBinary8 (n % 2 ^ 8) && decide (n < 2 ^ 10) } false
  | .qnt4 x | .dqnt4 x =>
    x.checks { rnd := true, sat := true, imm := fun n => n % 2 ^ 8 == 0 && decide (n < 2 ^ 11) } false
  | .shfli x | .shflu x | .shfld x | .shflx x => x.intChecks [0, 1]
  | .bcast x =>
    x.h.checks { tys := [0, 1] } ++
    [(x.d.ok, .dest), (x.a.ok && x.b.ok, .source),
     (!(x.h.pfx.ty == 1) || (x.d.even && x.a.even), .pair), x.h.litOk (x.a.isLit || x.b.isLit)]
  | .rdlane x =>
    x.h.checks { tys := [0, 1] } ++
    [(decide (x.d < 16), .scalar), (x.a.ok && x.b.ok, .source),
     (!(x.h.pfx.ty == 1) || x.a.even, .pair), x.h.litOk (x.a.isLit || x.b.isLit)]
  | .wrlane x =>
    x.h.checks { tys := [0, 1] } ++
    [(x.d.ok, .dest), (x.a.ok && x.b.ok, .source),
     (!(x.h.pfx.ty == 1) || x.d.even, .pair), x.h.litOk (x.a.isLit || x.b.isLit)]
  | .redux x =>
    let fl := match x.op with | .fadd => true | .fmin => true | .fmax => true | _ => false
    x.h.checks { rnd := x.op == .fadd, tys := if fl then [0] else [0, 1] } ++
    [(match x.d with | .vec d => d.ok | .sc i => decide (i < 16), .dest), (x.a.ok, .source),
     (!(x.h.pfx.ty == 1) || (x.a.even && (match x.d with | .vec d => d.even | .sc _ => true)), .pair),
     x.h.litOk x.a.isLit]
  | .scan x =>
    let fl := match x.op with | .fadd => true | .fmin => true | .fmax => true | _ => false
    x.h.checks { rnd := x.op == .fadd, tys := if fl then [0] else [0, 1], imm := fun n => decide (n < 2) } ++
    [(x.d.ok, .dest), (x.a.ok, .source), (!(x.h.pfx.ty == 1) || (x.a.even && x.d.even), .pair),
     x.h.litOk x.a.isLit]
  | .vall x | .vany x => x.checks
  | .vballot x => x.h.checks {} ++ [(decide (x.d < 16), .scalar), (x.a.ok, .source), x.h.litOk x.a.isLit]
  | .kand x | .kor x | .kxor x | .kandn x => x.checks
  | .knot x | .kfirst x => x.checks
  | .wbase x =>
    x.h.checks { guard := false } ++
    [(decide (x.sel < 256), .field), (match x.a with | .s i => decide (i < 16) | .zero => true | _ => false, .source),
     x.h.litOk false]
  | .ld x =>
    x.h.checks {} ++ [(decide (x.c < 16), .cap), (decide (x.sz ≤ 4), .size), (decide (x.d < 96), .dest)] ++
    x.a.offOk x.o40 ++ [(regAlign x.d x.sz, .pair), (decide (x.res < 8), .field), x.h.litOk x.a.isLit]
  | .st x =>
    x.h.checks {} ++ [(decide (x.c < 16), .cap), (decide (x.sz ≤ 4), .size)] ++ storeSrcOk x.d x.sz ++
    x.a.offOk x.o40 ++ [(decide (x.res < 8), .field), x.h.litOk (x.a.isLit || x.d.isLit)]
  | .ldl x =>
    x.h.checks {} ++ [(decide (x.sz ≤ 4), .size), (decide (x.d < 96), .dest)] ++
    x.a.offOk false ++ [(regAlign x.d x.sz, .pair), x.h.litOk x.a.isLit]
  | .stl x =>
    x.h.checks {} ++ [(decide (x.sz ≤ 4), .size)] ++ storeSrcOk x.d x.sz ++ x.a.offOk false ++
    [x.h.litOk (x.a.isLit || x.d.isLit)]
  | .ldu x =>
    x.h.checks {} ++ [(decide (x.c < 16), .cap), (decide (x.sz ≤ 3), .size), (decide (x.d < 16), .scalar)] ++
    x.a.offOk x.o40 ++ [(decide (x.res < 8), .field), x.h.litOk x.a.isLit]
  | .stu x =>
    x.h.checks {} ++ [(decide (x.c < 16), .cap), (decide (x.sz ≤ 3), .size), (x.d.ok, .source)] ++
    x.a.offOk x.o40 ++ [(decide (x.res < 8), .field), x.h.litOk (x.a.isLit || x.d.isLit)]
  | .atom x =>
    x.h.checks { imm := orderingOk } ++
    [(decide (x.c < 16), .cap), (x.sz == 2 || x.sz == 3, .size), (decide (x.d < 96), .dest),
     (!(x.op == .fadd && x.sz == 3), .size)] ++ x.a.offOk x.o40 ++
    [(if x.op == .cas then (if x.sz == 3 then x.d % 4 == 0 else x.d % 2 == 0) else regAlign x.d x.sz, .pair),
     x.h.litOk x.a.isLit]
  | .red x =>
    x.h.checks { imm := orderingOk } ++
    [(decide (x.c < 16), .cap), (x.sz == 2 || x.sz == 3, .size), (!(x.op == .fadd && x.sz == 3), .size),
     (x.op != .exch && x.op != .cas, .field)] ++ storeSrcOk x.d x.sz ++ x.a.offOk x.o40 ++
    [x.h.litOk (x.a.isLit || x.d.isLit)]
  | .fence x =>
    x.h.checks { guard := false, imm := fun n => orderingOk n && decide (1 ≤ n / 2 ^ 12) } ++ [x.h.litOk false]
  | .pref x =>
    x.h.checks {} ++ [(decide (x.c < 16), .cap), (decide (x.lvl < 3), .field)] ++ x.a.offOk x.o40 ++
    [x.h.litOk x.a.isLit]
  | .pagein x =>
    x.h.checks {} ++ [(decide (x.c < 16), .cap), (decide (x.r < 16), .scalar)] ++ x.a.offOk x.o40 ++
    [x.h.litOk x.a.isLit]
  | .cderive x =>
    x.h.checks {} ++ [(decide (x.ct < 16 ∧ x.cf < 16), .cap), (x.a.ok && x.b.ok, .source),
      x.h.litOk (x.a.isLit || x.b.isLit)]
  | .crights x =>
    x.h.checks {} ++ [(decide (x.ct < 16 ∧ x.cf < 16), .cap), (x.a.ok, .source), x.h.litOk x.a.isLit]
  | .cgetb x | .cgetl x | .cgetr x | .ctest x => x.checks
  | .cldc x | .cstc x =>
    x.h.checks {} ++ [(decide (x.ct < 16 ∧ x.cf < 16) && (!x.loc || x.cf == 0), .cap), (x.a.ok, .source), x.h.litOk x.a.isLit]
  | .cnull x => x.h.checks {} ++ [(decide (x.ct < 16) && x.cf == 0, .cap), x.h.litOk false]
  | .cmov x => x.h.checks {} ++ [(decide (x.ct < 16 ∧ x.cf < 16), .cap), x.h.litOk false]
  | .dclaim x | .dpark x | .dlend x | .dreturn x | .dsplit x | .djoin x | .dshare x | .dunshare x | .datom x
  | .dquery x => x.checks
  | .dquerySelf x => x.h.checks {} ++ [(decide (x.d < 16), .scalar), x.h.litOk false]
  | .nmred x | .nmscat x => x.checks
  | .cpy x | .cpyc x => x.checks
  | .blease x | .bfree x | .bstat x | .enrg x => x.checks
  | .bfork x =>
    x.h.checks { guard := false } ++
    [(decide (x.c < 16), .cap), (x.a.ok, .source), (decide (x.r < 16), .scalar), x.h.litOk x.a.isLit]
  | .brdv x | .barv x => x.checks
  | .bra x =>
    x.h.checks { guard := false, imm := fun _ => true } ++ [(decide (x.k < 8), .mask), x.h.litOk false]
  | .call x => x.h.checks { guard := false } ++ [(decide (x.k < 8), .mask), x.h.litOk false]
  | .jmp x => x.h.checks { guard := false } ++ [x.h.litOk false]
  | .ret x | .join x | .yield x | .nop x | .dbar x => x.checks false
  | .exit x => x.checks true
  | .brx x | .callx x => x.h.checks {} ++ [(x.a.ok, .source), x.h.litOk x.a.isLit]
  | .sleep x =>
    x.h.checks { guard := false } ++ [(x.a.ok && x.a != .one, .source), x.h.litOk x.a.isLit]
  | .bar x | .bara x | .barw x => x.checks
  | .dsig x =>
    x.h.checks { guard := false } ++
    [(decide (x.w < 64), .field), (x.a.ok && x.b.ok, .source), x.h.litOk (x.a.isLit || x.b.isLit)]
  | .dwait x =>
    x.h.checks { guard := false } ++
    [(decide (x.w < 64), .field), (x.a.ok, .source), (decide (x.r < 16), .scalar), x.h.litOk x.a.isLit]
  | .rtest x =>
    x.h.checks { guard := false } ++
    [(decide (x.a < 16 ∧ x.d < 16), .scalar), (x.a != x.d, .field), x.h.litOk false]
  | .cont x => x.h.checks {} ++ [(decide (x.a ≤ 80), .source), x.h.litOk false]
  | .stepSend x =>
    x.h.checks {} ++
    [(decide (x.s < 16), .scalar), (decide (1 ≤ x.k ∧ x.k < 8), .mask), (x.a.ok && decide (x.b ≤ 80), .source),
     x.h.litOk x.a.isLit]
  | .stepTake x =>
    x.h.checks {} ++
    [(decide (x.r < 16), .scalar), (x.a.ok && decide (x.b ≤ (if x.hd then 60 else 64)), .source),
     x.h.litOk x.a.isLit]
  | .trap x =>
    x.h.checks {} ++
    [(decide (x.n < 256), .field), (x.a.ok, .source), (decide (x.r < 16), .scalar),
     x.h.litOk x.a.isLit]
  | .brk x => x.h.checks { guard := false } ++ [(decide (x.code < 256), .field), x.h.litOk false]
  | .sread x =>
    x.h.checks { guard := false } ++
    [(decide (x.reg ≤ 16), .field),
     (match x.d with | .v n => decide (n < 96) | .s i => decide (i < 16), .dest), x.h.litOk false]
  | .swrite x => x.h.checks { guard := false } ++ [(x.a.ok, .source), x.h.litOk x.a.isLit]
  | .evt x =>
    x.h.checks {} ++
    [(decide (x.n < 16), .field), (x.a.ok && x.a != .one, .source), x.h.litOk x.a.isLit]
  | .mfmt l => [(decide (l < 2 ^ 24) && l % 64 == 0, .field)]
  | .mzero t => [(decide (t < 8), .field)]
  | .mloadb p => [(decide (p < 2), .field)]
  | .mmac t p m | .mmact t p m => [(decide (t < 8 ∧ p < 2 ∧ 1 ≤ m ∧ m ≤ 128), .field)]
  | .mdrain t o m => [(decide (t < 8 ∧ o < 2 ^ 20 ∧ 1 ≤ m ∧ m ≤ 128) && o % 256 == 0, .field)]
  | .mloop l n d => [(decide (l < 4 ∧ 1 ≤ n ∧ n ≤ 1024 ∧ d < 4096), .field)]
  | .mbar n | .marv n => [(decide (n < 8), .field)]
  | .msig _ w p v => [(decide (w < 64 ∧ p < 16 ∧ v < 4096), .field)]
  | .mwaitf _ m a => [(decide (m < 256 ∧ a < 2 ^ 21) && a % 64 == 0, .field)]
  | .gmbWait rd rs | .gmbRead rd rs | .gmbPost rd rs | .gepVer rd rs => [(decide (rd < 32 ∧ rs < 32), .field)]
  | .gepEnd rs => [(decide (rs < 32), .field)]
  | _ => []

/-- The first check that the instruction fails, if any. -/
def Instr.illFormed (i : Instr) : Option Check := Check.first i.checks

/-- The instruction is an assigned encoding (R146), or a step without one. -/
def Instr.WellFormed (i : Instr) : Bool := i.illFormed.isNone

end Sys2Proof
end

