-- ==== Sys2Proof/Decode.lean ====
section
/-! DEFINITION. The decoders: Ubivo units (R144 to R164), Q words of the bond stream (R287), the custom words (R363) and
the ordinary instructions of a Granary hart (R345); and the encoder of the encodings the manual gives. -/
namespace Sys2Proof

/-- Why words are no assigned encoding. -/
inductive DecodeError where
  /-- The words of the unit end before it does. -/
  | needWord
  /-- An X word after an X word (R146). -/
  | doublePrefix
  /-- An unassigned major (R164) or Q opcode (R287). -/
  | major
  /-- An unassigned function code, selector or operand code (R163, R440). -/
  | selector
  /-- A check of the assigned encodings (WellFormed). -/
  | check (c : Check)
  deriving DecidableEq, Repr

/-- Bits [hi:lo] of a word (R4). -/
def fld (w hi lo : Nat) : Nat := w / 2 ^ lo % 2 ^ (hi - lo + 1)

def bit (w i : Nat) : Bool := w / 2 ^ i % 2 == 1

/-- The fields of an X word (R160). -/
def decodePrefix (w : Nat) : Prefix :=
  { g := bit w 25, n := bit w 24, gm := fld w 23 21, rnd := fld w 20 19, sat := bit w 18, ty := fld w 17 15,
    imm := fld w 14 0 }

/-- A vector-class source code (R149). -/
def decodeSrc (c : Nat) : Option Src :=
  if c < 96 then some (.v c) else if c < 112 then some (.s (c - 96))
  else if c = 112 then some .zero else if c = 113 then some .lane else if c = 114 then some .one
  else if c = 115 then some .lit else if c < 120 then none else some (.y (c - 120))

/-- A vector-class destination code with its W bit (R149, R155). -/
def decodeDst (c : Nat) (w : Bool) : Option Dst :=
  if c < 96 then some (.v c w) else if 120 ≤ c ∧ w = true then some (.y (c - 120)) else none

/-- A scalar operand code (R151). -/
def decodeSSrc (c : Nat) : Option SSrc :=
  if 96 ≤ c ∧ c < 112 then some (.s (c - 96)) else if c = 112 then some .zero
  else if c = 114 then some .one else if c = 115 then some .lit else none

/-- A mask position read as a source (R151). -/
def decodeMSrc (c : Nat) : Option MSrc :=
  if c < 8 then some (.k c) else if c = 112 then some .none else none

/-- A scalar destination code. -/
def decodeSDst (c : Nat) : Option Nat := if 96 ≤ c ∧ c < 112 then some (c - 96) else none

def decodeICond (f : Nat) : Option ICond :=
  [ICond.eq, .ne, .lt, .le, .gt, .ge, .ltn, .len, .gtn, .gen][f]?

def decodeFCond (f : Nat) : Option FCond :=
  [FCond.eq, .ne, .lt, .le, .gt, .ge, .uneq, .unne, .unlt, .unle, .ungt, .unge, .anynan, .bothnum][f]?

def decodeRedOp (f : Nat) : Option RedOp :=
  [RedOp.add, .min, .max, .nmin, .nmax, .and, .or, .xor, .fadd, .fmin, .fmax][f]?

def decodeAtomOp (f : Nat) : Option AtomOp :=
  [AtomOp.add, .min, .max, .nmin, .nmax, .and, .or, .xor, .exch, .cas, .fadd, .inc, .dec][f]?

def decodeCvtTy (f : Nat) : Option CvtTy :=
  [CvtTy.f32, .f16, .bf16, .i32, .n32, .i64, .n64][f]?

/-- The field codes that the format of a major reads as literal fields (R144). -/
def literalCodes (w : Nat) : List Nat :=
  let op := fld w 31 26
  if op ≤ 0x05 ∨ (0x0C ≤ op ∧ op ≠ 0x0D ∧ op ≤ 0x17) ∨ (0x20 ≤ op ∧ op ≤ 0x23) then
    [fld w 24 18, fld w 17 11, fld w 10 4]
  else if op ≤ 0x0D then [fld w 24 18, fld w 17 11]
  else if 0x28 ≤ op ∧ op ≤ 0x2E then [fld w 17 11, fld w 10 4]
  else if (0x38 ≤ op ∧ op ≤ 0x3A) ∨ op = 0x3F then []
  else [fld w 17 11, fld w 10 4]

/-- The assigned majors (R163, R164). -/
def majorAssigned (op : Nat) : Bool :=
  decide (op ≤ 0x17 ∨ (0x20 ≤ op ∧ op ≤ 0x24) ∨ (0x28 ≤ op ∧ op ≤ 0x32) ∨ op = 0x34 ∨ op = 0x35 ∨
    (0x38 ≤ op ∧ op ≤ 0x3F))

/-- The instruction word takes a literal word (R144, R438). -/
def takesLiteral (w : Nat) : Bool := majorAssigned (fld w 31 26) && (literalCodes w).contains 115

/-- The words of a unit: the prefix word if any, the instruction word, the literal word if any (R144). -/
structure UnitWords where
  px : Option Nat
  w : Nat
  lit : Option Nat
  deriving DecidableEq, Repr

/-- The bytes of the unit (R144): 4, 8 or 12. -/
def UnitWords.len (u : UnitWords) : Nat :=
  4 + (if u.px.isSome then 4 else 0) + (if u.lit.isSome then 4 else 0)

def Hdr.len (h : Hdr) : Nat := 4 + (if h.px.isSome then 4 else 0) + (if h.lit.isSome then 4 else 0)

def UnitWords.hdr (u : UnitWords) : Hdr :=
  { px := u.px.map decodePrefix, lit := u.lit.map (BitVec.ofNat 32) }

/-- V3 with all three operands. -/
def asV3 (u : UnitWords) (k : V3 → Instr) : Option Instr := do
  let d ← decodeDst (fld u.w 24 18) (bit u.w 25)
  let a ← decodeSrc (fld u.w 17 11)
  let b ← decodeSrc (fld u.w 10 4)
  pure (k { h := u.hdr, d := d, a := a, b := b })

/-- V3 with B unread: B holds 112 (R148). -/
def asV2 (u : UnitWords) (k : V2 → Instr) : Option Instr := do
  let d ← decodeDst (fld u.w 24 18) (bit u.w 25)
  let a ← decodeSrc (fld u.w 17 11)
  guard (fld u.w 10 4 = 112)
  pure (k { h := u.hdr, d := d, a := a })

/-- A condition that must hold of the raw fields. -/
def need (p : Bool) (i : Option Instr) : Option Instr := if p then i else none

def asSU (u : UnitWords) (k : SU → Instr) : Option Instr := do
  let d ← decodeSDst (fld u.w 24 18)
  let a ← decodeSSrc (fld u.w 17 11)
  let b ← decodeSSrc (fld u.w 10 4)
  guard (bit u.w 25 = false)
  pure (k { h := u.hdr, d := d, a := a, b := b })

def asImm (u : UnitWords) (k : ImmU → Instr) : Option Instr := do
  let d ← decodeDst (fld u.w 24 18) (bit u.w 25)
  let a ← decodeSrc (fld u.w 17 11)
  pure (k { h := u.hdr, d := d, a := a, imm := BitVec.ofNat 11 u.w })

def asSh (u : UnitWords) (k : ShU → Instr) : Option Instr := do
  let d ← decodeDst (fld u.w 24 18) (bit u.w 25)
  let a ← decodeSrc (fld u.w 17 11)
  guard (fld u.w 8 6 = 0)
  pure (k { h := u.hdr, d := d, a := a, n := fld u.w 5 0 })

def asK3 (u : UnitWords) (k : K3U → Instr) : Option Instr := do
  let a ← decodeMSrc (fld u.w 17 11)
  let b ← decodeMSrc (fld u.w 10 4)
  guard (bit u.w 25 = false)
  pure (k { h := u.hdr, k := fld u.w 24 18, a := a, b := b })

def asK2 (u : UnitWords) (k : K2U → Instr) : Option Instr := do
  let a ← decodeMSrc (fld u.w 17 11)
  guard (bit u.w 25 = false ∧ fld u.w 10 4 = 112)
  pure (k { h := u.hdr, k := fld u.w 24 18, a := a })

def asKRd (u : UnitWords) (k : KRdU → Instr) : Option Instr := do
  let d ← decodeSDst (fld u.w 24 18)
  let a ← decodeMSrc (fld u.w 17 11)
  guard (bit u.w 25 = false ∧ fld u.w 10 4 = 112)
  pure (k { h := u.hdr, d := d, k := a })

/-- The half selector of SRDK, SWRK and VBALLOT: 112 or 114. -/
def decodeHalf (c : Nat) : Option Bool := if c = 112 then some false else if c = 114 then some true else none

/-- Majors 0x00 to 0x0B (R176 to R186). -/
def decodeInt (u : UnitWords) : Option Instr :=
  let f := fld u.w 3 0
  match fld u.w 31 26 with
  | 0x00 =>
    match f with
    | 0 => asV3 u .iadd | 1 => asV3 u .isub | 2 => asV3 u .iadds | 3 => asV3 u .isubs | 4 => asV3 u .imin
    | 5 => asV3 u .imax | 6 => asV3 u .nmin | 7 => asV3 u .nmax | 8 => asV2 u .iabs | 9 => asV2 u .ineg
    | 10 => asV3 u .iavg | 11 => asV3 u .idiff | 12 => asV3 u .iaddc | 13 => asV3 u .isubb | _ => none
  | 0x01 =>
    match f with
    | 0 => asV3 u .imul | 1 => asV3 u .imulh | 2 => asV3 u .nmulh | 3 => asV3 u .imad | 4 => asV3 u .imadh
    | 5 => asV3 u .idot4 | 6 => asV3 u .idot2 | 7 => asV3 u .idiv | 8 => asV3 u .irem | 9 => asV3 u .ndiv
    | 10 => asV3 u .nrem | _ => none
  | 0x02 =>
    match f with
    | 0 => asV3 u .and | 1 => asV3 u .or | 2 => asV3 u .xor | 3 => asV3 u .andn | 4 => asV3 u .orn
    | 5 => asV3 u .xnor | 6 => asV2 u .not | 7 => asV3 u .lcomb | 8 => asV3 u .shl | 9 => asV3 u .shr
    | 10 => asV3 u .sra | 11 => asV3 u .rol | 12 => asV3 u .ror | 13 => asV3 u .fshl | 14 => asV3 u .fshr
    | _ => none
  | 0x03 =>
    match f with
    | 0 => asV2 u .popc | 1 => asV2 u .clz | 2 => asV2 u .ctz | 3 => asV2 u .brev | 4 => asV3 u .bfx
    | 5 => asV3 u .bfxn | 6 => asV3 u .bfi | 7 => asV3 u .bmsk | 8 => asV3 u .permb | 9 => asV3 u .sext
    | 10 => asV3 u .zext | _ => none
  | 0x04 => do
    let c ← decodeICond f
    let a ← decodeSrc (fld u.w 17 11)
    let b ← decodeSrc (fld u.w 10 4)
    guard (bit u.w 25 = false)
    pure (.icmp { h := u.hdr, k := fld u.w 24 18, a := a, b := b, c := c })
  | 0x05 =>
    match f with
    | 0 => do
      let d ← decodeDst (fld u.w 24 18) (bit u.w 25)
      let a ← decodeSrc (fld u.w 17 11)
      let k ← decodeMSrc (fld u.w 10 4)
      pure (.sel { h := u.hdr, d := d, a := a, k := k })
    | 1 => asV2 u .mov
    | 2 => do
      let d ← decodeDst (fld u.w 24 18) (bit u.w 25)
      let k ← decodeMSrc (fld u.w 17 11)
      guard (fld u.w 10 4 = 112)
      pure (.movk { h := u.hdr, d := d, k := k })
    | 3 => do
      let a ← decodeSrc (fld u.w 17 11)
      guard (bit u.w 25 = false ∧ fld u.w 10 4 = 112)
      pure (.kmov { h := u.hdr, k := fld u.w 24 18, a := a })
    | _ => none
  | 0x06 => asImm u .iaddi
  | 0x07 => asImm u .andi
  | 0x08 => asImm u .ori
  | 0x09 => asImm u .xori
  | 0x0A =>
    match fld u.w 10 9 with
    | 0 => asSh u .shli | 1 => asSh u .shri | 2 => asSh u .srai | _ => asSh u .roli
  | 0x0B => do
    let d ← decodeDst (fld u.w 24 18) (bit u.w 25)
    guard (fld u.w 17 11 = 112)
    pure (.movi { h := u.hdr, d := d, imm := BitVec.ofNat 11 u.w })
  | _ => none

/-- Majors 0x0C to 0x0F (R187, R188). -/
def decodeScalar (u : UnitWords) : Option Instr :=
  let f := fld u.w 3 0
  match fld u.w 31 26 with
  | 0x0C =>
    match f with
    | 0 => asSU u .sadd | 1 => asSU u .ssub | 2 => asSU u .smul | 3 => asSU u .smulh | 4 => asSU u .sand
    | 5 => asSU u .sor | 6 => asSU u .sxor | 7 => asSU u .sshl | 8 => asSU u .sshr | 9 => asSU u .ssra
    | 10 => asSU u .smin | 11 => asSU u .smax | 12 => asSU u .snmin | 13 => asSU u .snmax | _ => none
  | 0x0D => do
    let d ← decodeSDst (fld u.w 24 18)
    let a ← decodeSSrc (fld u.w 17 11)
    guard (bit u.w 25 = false)
    pure (.saddi { h := u.hdr, d := d, a := a, imm := BitVec.ofNat 11 u.w })
  | 0x0E => do
    let c ← decodeICond f
    let d ← decodeSDst (fld u.w 24 18)
    let a ← decodeSSrc (fld u.w 17 11)
    let b ← decodeSSrc (fld u.w 10 4)
    guard (bit u.w 25 = false)
    pure (.scmp { h := u.hdr, d := d, a := a, b := b, c := c })
  | 0x0F =>
    match f with
    | 0 => do
      let d ← decodeSDst (fld u.w 24 18)
      let a ← decodeSSrc (fld u.w 17 11)
      guard (bit u.w 25 = false ∧ fld u.w 10 4 = 112)
      pure (.smov { h := u.hdr, d := d, a := a })
    | 1 => do
      let d ← decodeSDst (fld u.w 24 18)
      let hi ← decodeHalf (fld u.w 10 4)
      guard (bit u.w 25 = false)
      pure (.srdk { h := u.hdr, d := d, k := fld u.w 17 11, hi := hi })
    | 2 => do
      let a ← decodeSSrc (fld u.w 17 11)
      let hi ← decodeHalf (fld u.w 10 4)
      guard (bit u.w 25 = false)
      pure (.swrk { h := u.hdr, k := fld u.w 24 18, a := a, hi := hi })
    | 3 => asKRd u .spopk
    | _ => none
  | _ => none

/-- Majors 0x10 to 0x17 (R189 to R209). -/
def decodeFloat (u : UnitWords) : Option Instr :=
  let f := fld u.w 3 0
  match fld u.w 31 26 with
  | 0x10 =>
    match f with
    | 0 => asV3 u .fadd | 1 => asV3 u .fsub | 2 => asV3 u .fmul | 3 => asV3 u .fmin | 4 => asV3 u .fmax
    | 5 => asV3 u .fminn | 6 => asV3 u .fmaxn | 7 => asV2 u .fabs | 8 => asV2 u .fneg | 9 => asV3 u .fcpys
    | 10 => asV3 u .fscale | 11 => asV2 u .ffrac | 12 => asV2 u .ffloor | 13 => asV2 u .fceil
    | 14 => asV2 u .ftrunc | _ => asV2 u .frint
  | 0x11 =>
    match f with
    | 0 => asV3 u .ffma | 1 => asV3 u .ffms | 2 => asV3 u .ffnma | 3 => asV3 u .ffnms | _ => none
  | 0x12 =>
    match f with
    | 0 => asV2 u .frcp | 1 => asV2 u .frsq | 2 => asV2 u .fsqrt | 3 => asV3 u .fdiv | 4 => asV2 u .fexp2
    | 5 => asV2 u .flog2 | 6 => asV2 u .fsin | 7 => asV2 u .fcos | 8 => asV2 u .ftanh | 9 => asV2 u .fsigm
    | _ => none
  | 0x13 => do
    let c ← decodeFCond f
    let a ← decodeSrc (fld u.w 17 11)
    let b ← decodeSrc (fld u.w 10 4)
    guard (bit u.w 25 = false)
    pure (.fcmp { h := u.hdr, k := fld u.w 24 18, a := a, b := b, c := c })
  | 0x14 =>
    match f with
    | 0 => asV2 u .fclass | 1 => asV3 u .fdot2 | 2 => asV3 u .fdot4 | _ => none
  | 0x15 => do
    let t ← decodeCvtTy (fld u.w 2 0)
    let d ← decodeDst (fld u.w 24 18) (bit u.w 25)
    let a ← decodeSrc (fld u.w 17 11)
    guard (fld u.w 10 4 = 112)
    pure (.cvt { h := u.hdr, d := d, a := a, hsel := bit u.w 3, t := t })
  | 0x16 =>
    match f with
    | 0 => asV2 u .cvt8 | 1 => asV2 u .cvt8x | 2 => asV2 u .cvt4 | 3 => asV2 u .cvt4x | 4 => asV3 u .pack8
    | 5 => asV2 u .unpk8 | _ => none
  | 0x17 =>
    match f with
    | 0 => asV2 u .bscan | 1 => asV3 u .qnt8 | 2 => asV3 u .dqnt8 | 3 => asV3 u .qnt4 | 4 => asV3 u .dqnt4
    | _ => none
  | _ => none

/-- Majors 0x20 to 0x24 (R210 to R215). -/
def decodeLanes (u : UnitWords) : Option Instr :=
  let f := fld u.w 3 0
  match fld u.w 31 26 with
  | 0x20 =>
    match f with
    | 0 => asV3 u .shfli | 1 => asV3 u .shflu | 2 => asV3 u .shfld | 3 => asV3 u .shflx
    | 4 => do
      let d ← decodeDst (fld u.w 24 18) (bit u.w 25)
      let a ← decodeSrc (fld u.w 17 11)
      let b ← decodeSSrc (fld u.w 10 4)
      pure (.bcast { h := u.hdr, d := d, a := a, b := b })
    | 5 => do
      let d ← decodeSDst (fld u.w 24 18)
      let a ← decodeSrc (fld u.w 17 11)
      let b ← decodeSSrc (fld u.w 10 4)
      guard (bit u.w 25 = false)
      pure (.rdlane { h := u.hdr, d := d, a := a, b := b })
    | 6 => do
      let d ← decodeDst (fld u.w 24 18) (bit u.w 25)
      let a ← decodeSSrc (fld u.w 17 11)
      let b ← decodeSSrc (fld u.w 10 4)
      pure (.wrlane { h := u.hdr, d := d, a := a, b := b })
    | _ => none
  | 0x21 => do
    let op ← decodeRedOp f
    let a ← decodeSrc (fld u.w 17 11)
    guard (fld u.w 10 4 = 112)
    match decodeSDst (fld u.w 24 18) with
    | some i => need (!bit u.w 25) (some (.redux { h := u.hdr, d := .sc i, a := a, op := op }))
    | none => do
      let d ← decodeDst (fld u.w 24 18) (bit u.w 25)
      pure (.redux { h := u.hdr, d := .vec d, a := a, op := op })
  | 0x22 => do
    let op ← decodeRedOp f
    let d ← decodeDst (fld u.w 24 18) (bit u.w 25)
    let a ← decodeSrc (fld u.w 17 11)
    guard (fld u.w 10 4 = 112)
    pure (.scan { h := u.hdr, d := d, a := a, op := op })
  | 0x23 =>
    match f with
    | 0 => asKRd u .vall
    | 1 => asKRd u .vany
    | 2 => do
      let d ← decodeSDst (fld u.w 24 18)
      let a ← decodeSrc (fld u.w 17 11)
      let hi ← decodeHalf (fld u.w 10 4)
      guard (bit u.w 25 = false)
      pure (.vballot { h := u.hdr, d := d, a := a, hi := hi })
    | 3 => asK3 u .kand | 4 => asK3 u .kor | 5 => asK3 u .kxor | 6 => asK3 u .kandn
    | 7 => asK2 u .knot | 8 => asK2 u .kfirst | _ => none
  | 0x24 => do
    let a ← decodeSSrc (fld u.w 17 11)
    guard (f = 0 ∧ fld u.w 10 4 = 0)
    pure (.wbase { h := u.hdr, sel := fld u.w 25 18, a := a })
  | _ => none

/-- Majors 0x28 to 0x2F (R216 to R224). -/
def decodeMem (u : UnitWords) : Option Instr :=
  let c := fld u.w 25 22
  let sz := fld u.w 20 18
  let o40 := bit u.w 21
  let d := fld u.w 17 11
  let a := decodeSrc (fld u.w 10 4)
  let res := fld u.w 3 1
  let nt := bit u.w 0
  match fld u.w 31 26 with
  | 0x28 => do pure (.ld { h := u.hdr, c := c, sz := sz, o40 := o40, d := d, a := ← a, res := res, nt := nt })
  | 0x29 => do
    pure (.st { h := u.hdr, c := c, sz := sz, o40 := o40, d := ← decodeSrc d, a := ← a, res := res, nt := nt })
  | 0x2A => do
    guard (c = 0 ∧ o40 = false ∧ res = 0 ∧ nt = false)
    pure (.ldl { h := u.hdr, sz := sz, d := d, a := ← a })
  | 0x2B => do
    guard (c = 0 ∧ o40 = false ∧ res = 0 ∧ nt = false)
    pure (.stl { h := u.hdr, sz := sz, d := ← decodeSrc d, a := ← a })
  | 0x2C => do
    let sa ← decodeSSrc (fld u.w 10 4)
    if nt then
      pure (.stu { h := u.hdr, c := c, sz := sz, o40 := o40, d := ← decodeSSrc d, a := sa, res := res })
    else
      pure (.ldu { h := u.hdr, c := c, sz := sz, o40 := o40, d := ← decodeSDst d, a := sa, res := res })
  | 0x2D => do
    let op ← decodeAtomOp (fld u.w 3 0)
    pure (.atom { h := u.hdr, c := c, sz := sz, o40 := o40, d := d, a := ← a, op := op })
  | 0x2E => do
    let op ← decodeAtomOp (fld u.w 3 0)
    pure (.red { h := u.hdr, c := c, sz := sz, o40 := o40, d := ← decodeSrc d, a := ← a, op := op })
  | 0x2F => do
    let sa ← decodeSrc (fld u.w 17 11)
    match fld u.w 3 0 with
    | 0 => need (fld u.w 25 4 == 0) (some (.fence { h := u.hdr }))
    | 1 => need (fld u.w 10 4 == 0) (some (.pref { h := u.hdr, c := c, o40 := o40, lvl := sz, a := sa }))
    | 2 => do
      let r ← decodeSDst (fld u.w 10 4)
      guard (sz = 0)
      pure (.pagein { h := u.hdr, c := c, o40 := o40, a := sa, r := r })
    | _ => none
  | _ => none

/-- Majors 0x30 to 0x35 (R225 to R247). -/
def decodeUnits (u : UnitWords) : Option Instr :=
  let f := fld u.w 3 0
  let hi := fld u.w 25 22
  let lo := fld u.w 21 18
  let a := fld u.w 17 11
  let b := fld u.w 10 4
  match fld u.w 31 26 with
  | 0x30 =>
    let cget (k : CgetU → Instr) : Option Instr := do
      guard (hi = 0 ∧ b = 0)
      pure (k { h := u.hdr, cf := lo, d := ← decodeSDst a })
    match f with
    | 0 => do pure (.cderive { h := u.hdr, ct := hi, cf := lo, a := ← decodeSSrc a, b := ← decodeSSrc b })
    | 1 => do
      guard (b = 0)
      pure (.crights { h := u.hdr, ct := hi, cf := lo, a := ← decodeSSrc a })
    | 2 => cget .cgetb
    | 3 => cget .cgetl
    | 4 => cget .cgetr
    | 5 => cget .ctest
    | 6 => do
      let l ← decodeHalf b
      guard (l = false ∨ lo = 0)
      pure (.cldc { h := u.hdr, ct := hi, cf := lo, a := ← decodeSSrc a, loc := l })
    | 7 => do
      let l ← decodeHalf b
      guard (l = false ∨ lo = 0)
      pure (.cstc { h := u.hdr, ct := hi, cf := lo, a := ← decodeSSrc a, loc := l })
    | 8 => need (a == 0 && b == 0) (some (.cnull { h := u.hdr, ct := hi, cf := lo }))
    | 9 => need (a == 0 && b == 0) (some (.cmov { h := u.hdr, ct := hi, cf := lo }))
    | _ => none
  | 0x31 =>
    let dop (k : DopU → Instr) : Option Instr := do
      guard (lo % 8 = 0)
      pure (k { h := u.hdr, c := hi, team := lo / 8 == 1, a := ← decodeSSrc a, r := ← decodeSDst b })
    match f with
    | 0 => dop .dclaim | 1 => dop .dpark | 2 => dop .dlend | 3 => dop .dreturn | 4 => dop .dsplit
    | 5 => dop .djoin | 6 => dop .dshare | 7 => dop .dunshare | 8 => dop .datom
    | 9 =>
      if lo % 8 = 1 then do
        guard (hi = 0 ∧ a = 0)
        pure (.dquerySelf { h := u.hdr, team := lo / 8 == 1, d := ← decodeSDst b })
      else dop .dquery
    | _ => none
  | 0x32 =>
    let nm (k : NmU → Instr) : Option Instr := do
      guard (lo % 8 = 0)
      pure (k { h := u.hdr, j := hi, w := lo / 8 == 1, a := a, r := ← decodeSDst b })
    match f with
    | 0 => nm .nmred | 1 => nm .nmscat | _ => none
  | 0x34 =>
    let cp (k : CpyU → Instr) : Option Instr := do
      guard (hi = 0 ∧ lo = 0)
      pure (k { h := u.hdr, a := ← decodeSSrc a, r := ← decodeSDst b })
    match f with
    | 0 => cp .cpy | 1 => cp .cpyc | _ => none
  | 0x35 =>
    let rg (k : RegU → Instr) : Option Instr := do
      guard (hi = 0 ∧ lo = 0 ∧ a = 0)
      pure (k { h := u.hdr, d := ← decodeSDst b })
    let rv (k : BrdvU → Instr) : Option Instr := do
      guard (hi = 0 ∧ lo < 8 ∧ b = 0)
      pure (k { h := u.hdr, n := lo, a := ← decodeSSrc a })
    match f with
    | 0 => rg .blease
    | 1 => rg .bfree
    | 2 => do
      guard (lo = 0)
      pure (.bfork { h := u.hdr, c := hi, a := ← decodeSSrc a, r := ← decodeSDst b })
    | 3 => rv .brdv
    | 4 => rv .barv
    | 5 => rg .bstat
    | _ => none
  | _ => none

/-- Majors 0x38 to 0x3E (R248 to R265). -/
def decodeControl (u : UnitWords) : Option Instr :=
  let f := fld u.w 3 0
  let sel := fld u.w 25 18
  let a := fld u.w 17 11
  let b := fld u.w 10 4
  let k := fld u.w 25 23
  let n := bit u.w 22
  let disp := BitVec.ofNat 22 u.w
  match fld u.w 31 26 with
  | 0x38 => some (.bra { h := u.hdr, k := k, n := n, disp := disp })
  | 0x39 => some (.call { h := u.hdr, k := k, n := n, disp := disp })
  | 0x3A => need (k == 0 && !n) (some (.jmp { h := u.hdr, disp := disp }))
  | 0x3B =>
    need (sel == 0 && b == 0) <|
    match f with
    | 0 => need (a == 0) (some (.ret { h := u.hdr }))
    | 1 => need (a == 0) (some (.join { h := u.hdr }))
    | 2 => need (a == 0) (some (.exit { h := u.hdr }))
    | 3 => do pure (.brx { h := u.hdr, a := ← decodeSrc a })
    | 4 => do pure (.callx { h := u.hdr, a := ← decodeSrc a })
    | 5 => need (a == 0) (some (.yield { h := u.hdr }))
    | 6 => need (a == 0) (some (.nop { h := u.hdr }))
    | 7 => do pure (.sleep { h := u.hdr, a := ← decodeSSrc a })
    | _ => none
  | 0x3C =>
    match f with
    | 0 => need (sel < 16 && a == 0 && b == 0) (some (.bar { h := u.hdr, b := sel }))
    | 1 => need (sel < 16 && a == 0 && b == 0) (some (.bara { h := u.hdr, b := sel }))
    | 2 => need (sel < 16 && a == 0 && b == 0) (some (.barw { h := u.hdr, b := sel }))
    | 3 => need (sel == 0 && a == 0 && b == 0) (some (.dbar { h := u.hdr }))
    | 4 => do
      let op ← [SigOp.add, .or, .max, .set][sel / 64]?
      pure (.dsig { h := u.hdr, op := op, w := sel % 64, a := ← decodeSSrc a, b := ← decodeSSrc b })
    | 5 => do
      let c ← [WaitCond.ge, .eq, .ne, .any][sel / 64]?
      pure (.dwait { h := u.hdr, cond := c, w := sel % 64, a := ← decodeSSrc a, r := ← decodeSDst b })
    | 6 => do
      guard (sel = 0)
      pure (.rtest { h := u.hdr, a := ← decodeSDst a, d := ← decodeSDst b })
    | _ => none
  | 0x3D =>
    match f with
    | 0 => need (sel == 0 && b == 0) (some (.cont { h := u.hdr, a := a }))
    | 1 => do
      guard (sel / 8 % 2 = 0)
      pure (.stepSend { h := u.hdr, s := sel / 16, k := sel % 8, a := ← decodeSrc a, b := b })
    | 2 => do
      guard (sel / 2 % 8 = 0)
      pure (.stepTake { h := u.hdr, r := sel / 16, hd := sel % 2 == 1, a := ← decodeSrc a, b := b })
    | _ => none
  | 0x3E =>
    match f with
    | 0 => do pure (.trap { h := u.hdr, n := sel, a := ← decodeSrc a, r := ← decodeSDst b })
    | 1 => need (a == 0 && b == 0) (some (.brk { h := u.hdr, code := sel }))
    | 2 => do
      guard (a = 0)
      match decodeSDst b with
      | some i => pure (.sread { h := u.hdr, reg := sel, d := .s i })
      | none => pure (.sread { h := u.hdr, reg := sel, d := .v b })
    | 3 => do
      guard (sel = 16 ∧ b = 0)
      pure (.swrite { h := u.hdr, a := ← decodeSSrc a })
    | 4 => do
      guard (sel < 16 ∧ b = 0)
      pure (.evt { h := u.hdr, n := sel, a := ← decodeSSrc a })
    | 5 => do
      guard (sel = 0 ∧ a = 0)
      pure (.enrg { h := u.hdr, d := ← decodeSDst b })
    | _ => none
  | _ => none

/-- The fields of a unit, by major. -/
def decodeFields (u : UnitWords) : Option Instr :=
  let op := fld u.w 31 26
  if op ≤ 0x0B then decodeInt u
  else if op ≤ 0x0F then decodeScalar u
  else if op ≤ 0x17 then decodeFloat u
  else if op ≤ 0x24 then decodeLanes u
  else if op ≤ 0x2F then decodeMem u
  else if op ≤ 0x35 then decodeUnits u
  else decodeControl u

/-- The instruction of a unit, or the reason it is unassigned (R146). -/
def decodeUnit (u : UnitWords) : Except DecodeError Instr :=
  if majorAssigned (fld u.w 31 26) = false then .error .major
  else
    match decodeFields u with
    | none => .error .selector
    | some i =>
      match i.illFormed with
      | some c => .error (.check c)
      | none => .ok i

/-- The words of the unit that stands at the head of a list of words (R144). Two X words make the first unassigned;
the unit is then those two words. -/
def splitUnit : List Nat → Except DecodeError UnitWords
  | [] => .error .needWord
  | w :: rest =>
    if fld w 31 26 = 0x3F then
      match rest with
      | [] => .error .needWord
      | w2 :: rest2 =>
        if fld w2 31 26 = 0x3F then .ok { px := some w, w := w2, lit := none }
        else if takesLiteral w2 then
          match rest2 with
          | [] => .error .needWord
          | l :: _ => .ok { px := some w, w := w2, lit := some l }
        else .ok { px := some w, w := w2, lit := none }
    else if takesLiteral w then
      match rest with
      | [] => .error .needWord
      | l :: _ => .ok { px := none, w := w, lit := some l }
    else .ok { px := none, w := w, lit := none }

/-- The decoder of Ubivo code. -/
def decode (ws : List Nat) : Except DecodeError Instr :=
  match splitUnit ws with
  | .error e => .error e
  | .ok u => if fld u.w 31 26 = 0x3F then .error .doublePrefix else decodeUnit u

/-- The decoder of the bond stream (R287). -/
def decodeQ (w : Nat) : Except DecodeError Instr :=
  let t := fld w 26 24
  let p := if bit w 7 then 1 else 0
  let r : Option Instr :=
    match fld w 31 27 with
    | 0 => need (t == 0) (some (.mfmt (fld w 23 0)))
    | 1 => need (fld w 23 0 == 0) (some (.mzero t))
    | 2 => need (t == 0 && fld w 23 1 == 0) (some (.mloadb (fld w 0 0)))
    | 3 => need (fld w 23 8 == 0) (some (.mmac t p (fld w 6 0 + 1)))
    | 4 => need (fld w 23 8 == 0) (some (.mmact t p (fld w 6 0 + 1)))
    | 5 => need (fld w 23 20 == 0 && !bit w 7) (some (.mdrain t (fld w 19 8 * 256) (fld w 6 0 + 1)))
    | 6 => need (t == 0) (some (.mloop (fld w 23 22) (fld w 21 12 + 1) (fld w 11 0)))
    | 7 => need (fld w 26 0 == 0) (some .mend)
    | 8 => need (fld w 26 3 == 0) (some (.mbar (fld w 2 0)))
    | 9 => need (fld w 26 3 == 0) (some (.marv (fld w 2 0)))
    | 10 => do
      let op ← [SigOp.add, .or, .max, .set][fld w 23 22]?
      guard (t = 0)
      pure (.msig op (fld w 21 16) (fld w 15 12) (fld w 11 0))
    | 11 => need (fld w 26 0 == 0) (some .mnop)
    | 12 => need (t == 0) (some (.mwaitf (bit w 23) (fld w 22 15) (fld w 14 0 * 64)))
    | _ => none
  match r with
  | none => .error .selector
  | some i =>
    match i.illFormed with
    | some c => .error (.check c)
    | none => .ok i

/-- The decoder of the Granary's custom-0 words (R363, R446). -/
def decodeCustom (w : Nat) : Except DecodeError Instr :=
  let rd := fld w 11 7
  let rs := fld w 19 15
  if fld w 6 0 ≠ 0x0B then .error .major
  else if fld w 31 25 ≠ 0 ∨ fld w 24 20 ≠ 0 then .error .selector
  else
    match fld w 14 12 with
    | 0 => .ok (.gmbWait rd rs)
    | 1 => .ok (.gmbRead rd rs)
    | 2 => .ok (.gmbPost rd rs)
    | 3 => if rd = 0 then .ok (.gepEnd rs) else .error .selector
    | 4 => .ok (.gepVer rd rs)
    | _ => .error .selector

/-- The low n bits of w as a two's-complement integer. -/
def sgn (w n : Nat) : Int := let x := w % 2 ^ n; if 2 ^ n ≤ 2 * x then (x : Int) - 2 ^ n else x

/-- The R-type operations of OP and OP-32 by funct7 and funct3 (RISC-V I, M, Zba, Zbb). -/
def rvOpOf (w32 : Bool) (f7 f3 : Nat) : Option RvOp :=
  match f7, f3 with
  | 0x00, 0 => some .add
  | 0x20, 0 => some .sub
  | 0x00, 1 => some .sll
  | 0x00, 5 => some .srl
  | 0x20, 5 => some .sra
  | 0x01, 0 => some .mul
  | 0x01, 4 => some .div
  | 0x01, 5 => some .divu
  | 0x01, 6 => some .rem
  | 0x01, 7 => some .remu
  | 0x30, 1 => some .rol
  | 0x30, 5 => some .ror
  | 0x10, 2 => some (if w32 then .sh1adduw else .sh1add)
  | 0x10, 4 => some (if w32 then .sh2adduw else .sh2add)
  | 0x10, 6 => some (if w32 then .sh3adduw else .sh3add)
  | 0x04, 0 => if w32 then some .adduw else none
  | _, _ =>
    if w32 then none
    else
      match f7, f3 with
      | 0x00, 2 => some .slt
      | 0x00, 3 => some .sltu
      | 0x00, 4 => some .xor
      | 0x00, 6 => some .or
      | 0x00, 7 => some .and
      | 0x01, 1 => some .mulh
      | 0x01, 2 => some .mulhsu
      | 0x01, 3 => some .mulhu
      | 0x20, 7 => some .andn
      | 0x20, 6 => some .orn
      | 0x20, 4 => some .xnor
      | 0x05, 4 => some .min
      | 0x05, 5 => some .minu
      | 0x05, 6 => some .max
      | 0x05, 7 => some .maxu
      | _, _ => none

/-- OP-IMM and OP-IMM-32. -/
def rvImm (w32 : Bool) (w : Nat) : Option Rv :=
  let rd := fld w 11 7
  let rs := fld w 19 15
  let f3 := fld w 14 12
  let imm := sgn (fld w 31 20) 12
  let top := fld w 31 20
  let sh6 := fld w 25 20
  let sh5 := fld w 24 20
  let f6 := fld w 31 26
  let f7 := fld w 31 25
  let shOk := if w32 then f7 % 2 == 0 else true
  let sh : Int := if w32 then sh5 else sh6
  match f3 with
  | 0 => some (.opImm .add w32 rd rs imm)
  | 1 =>
    if f6 = 0 ∧ shOk = true then some (.opImm .sll w32 rd rs sh)
    else if w32 = true ∧ f6 = 2 then some (.opImm .slliuw false rd rs sh6)
    else if top = 0x600 then some (.op1 .clz w32 rd rs)
    else if top = 0x601 then some (.op1 .ctz w32 rd rs)
    else if top = 0x602 then some (.op1 .cpop w32 rd rs)
    else if w32 = false ∧ top = 0x604 then some (.op1 .sextb false rd rs)
    else if w32 = false ∧ top = 0x605 then some (.op1 .sexth false rd rs)
    else none
  | 5 =>
    if f6 = 0 ∧ shOk = true then some (.opImm .srl w32 rd rs sh)
    else if f6 = 0x10 ∧ shOk = true then some (.opImm .sra w32 rd rs sh)
    else if f6 = 0x18 ∧ shOk = true then some (.opImm .ror w32 rd rs sh)
    else if w32 = false ∧ top = 0x287 then some (.op1 .orcb false rd rs)
    else if w32 = false ∧ top = 0x6B8 then some (.op1 .rev8 false rd rs)
    else none
  | 2 => if w32 then none else some (.opImm .slt false rd rs imm)
  | 3 => if w32 then none else some (.opImm .sltu false rd rs imm)
  | 4 => if w32 then none else some (.opImm .xor false rd rs imm)
  | 6 => if w32 then none else some (.opImm .or false rd rs imm)
  | _ => if w32 then none else some (.opImm .and false rd rs imm)

/-- A 32-bit RV64IMA instruction with Zicsr, Zifencei, Zba and Zbb (R345). -/
def decodeRv32 (w : Nat) : Option Rv :=
  let rd := fld w 11 7
  let rs1 := fld w 19 15
  let rs2 := fld w 24 20
  let f3 := fld w 14 12
  let f7 := fld w 31 25
  match fld w 6 0 with
  | 0x37 => some (.lui rd (sgn (fld w 31 12) 20 * 4096))
  | 0x17 => some (.auipc rd (sgn (fld w 31 12) 20 * 4096))
  | 0x6F =>
    some (.jal rd (sgn (fld w 31 31 * 2 ^ 20 + fld w 19 12 * 2 ^ 12 + fld w 20 20 * 2 ^ 11 + fld w 30 21 * 2) 21))
  | 0x67 => if f3 = 0 then some (.jalr rd rs1 (sgn (fld w 31 20) 12)) else none
  | 0x63 =>
    let off := sgn (fld w 31 31 * 2 ^ 12 + fld w 7 7 * 2 ^ 11 + fld w 30 25 * 2 ^ 5 + fld w 11 8 * 2) 13
    match f3 with
    | 0 => some (.branch .eq rs1 rs2 off)
    | 1 => some (.branch .ne rs1 rs2 off)
    | 4 => some (.branch .lt rs1 rs2 off)
    | 5 => some (.branch .ge rs1 rs2 off)
    | 6 => some (.branch .ltu rs1 rs2 off)
    | 7 => some (.branch .geu rs1 rs2 off)
    | _ => none
  | 0x03 =>
    let off := sgn (fld w 31 20) 12
    if f3 = 7 then none else some (.load rd rs1 off (2 ^ (f3 % 4)) (decide (f3 < 4)))
  | 0x23 =>
    if f3 < 4 then some (.store rs1 rs2 (sgn (fld w 31 25 * 32 + fld w 11 7) 12) (2 ^ f3)) else none
  | 0x13 => rvImm false w
  | 0x1B => rvImm true w
  | 0x33 => (rvOpOf false f7 f3).map fun o => .op o false rd rs1 rs2
  | 0x3B =>
    if f7 = 0x04 ∧ f3 = 4 ∧ rs2 = 0 then some (.op1 .zexth false rd rs1)
    else (rvOpOf true f7 f3).map fun o =>
      match o with
      | .sh1adduw | .sh2adduw | .sh3adduw | .adduw => .op o false rd rs1 rs2
      | _ => .op o true rd rs1 rs2
  | 0x2F =>
    let n := if f3 = 2 then 4 else 8
    if f3 ≠ 2 ∧ f3 ≠ 3 then none
    else
      match fld w 31 27 with
      | 0x02 => if rs2 = 0 then some (.lr rd rs1 n) else none
      | 0x03 => some (.sc rd rs1 rs2 n)
      | 0x01 => some (.amo .swap rd rs1 rs2 n)
      | 0x00 => some (.amo .add rd rs1 rs2 n)
      | 0x04 => some (.amo .xor rd rs1 rs2 n)
      | 0x0C => some (.amo .and rd rs1 rs2 n)
      | 0x08 => some (.amo .or rd rs1 rs2 n)
      | 0x10 => some (.amo .min rd rs1 rs2 n)
      | 0x14 => some (.amo .max rd rs1 rs2 n)
      | 0x18 => some (.amo .minu rd rs1 rs2 n)
      | 0x1C => some (.amo .maxu rd rs1 rs2 n)
      | _ => none
  | 0x0F => if f3 = 0 then some .fence else if f3 = 1 then some .fenceI else none
  | 0x73 =>
    match f3 with
    | 0 => if w = 0x73 then some .ecall else if w = 0x100073 then some .ebreak else none
    | 1 => some (.csr .rw rd rs1 false (fld w 31 20))
    | 2 => some (.csr .rs rd rs1 false (fld w 31 20))
    | 3 => some (.csr .rc rd rs1 false (fld w 31 20))
    | 5 => some (.csr .rw rd rs1 true (fld w 31 20))
    | 6 => some (.csr .rs rd rs1 true (fld w 31 20))
    | 7 => some (.csr .rc rd rs1 true (fld w 31 20))
    | _ => none
  | _ => none

/-- A 16-bit instruction of the C extension for RV64, without floating point (R345). -/
def decodeRv16 (w : Nat) : Option Rv :=
  let rd := fld w 11 7
  let rs2 := fld w 6 2
  let rdp := 8 + fld w 4 2
  let rsp := 8 + fld w 9 7
  let imm6 := sgn (fld w 12 12 * 32 + fld w 6 2) 6
  let offW : Int := fld w 12 10 * 8 + fld w 6 6 * 4 + fld w 5 5 * 64
  let offD : Int := fld w 12 10 * 8 + fld w 6 5 * 64
  let jOff := sgn (fld w 12 12 * 2 ^ 11 + fld w 8 8 * 2 ^ 10 + fld w 10 9 * 2 ^ 8 + fld w 6 6 * 2 ^ 7 +
    fld w 7 7 * 2 ^ 6 + fld w 2 2 * 2 ^ 5 + fld w 11 11 * 2 ^ 4 + fld w 5 3 * 2) 12
  let bOff := sgn (fld w 12 12 * 2 ^ 8 + fld w 6 5 * 2 ^ 6 + fld w 2 2 * 2 ^ 5 + fld w 11 10 * 2 ^ 3 +
    fld w 4 3 * 2) 9
  let shamt : Int := fld w 12 12 * 32 + fld w 6 2
  match fld w 1 0, fld w 15 13 with
  | 0, 0 =>
    let i := fld w 12 11 * 16 + fld w 10 7 * 64 + fld w 6 6 * 4 + fld w 5 5 * 8
    if i = 0 then none else some (.opImm .add false rdp 2 i)
  | 0, 2 => some (.load rdp rsp offW 4 true)
  | 0, 3 => some (.load rdp rsp offD 8 true)
  | 0, 6 => some (.store rsp rdp offW 4)
  | 0, 7 => some (.store rsp rdp offD 8)
  | 1, 0 => some (.opImm .add false rd rd imm6)
  | 1, 1 => if rd = 0 then none else some (.opImm .add true rd rd imm6)
  | 1, 2 => some (.opImm .add false rd 0 imm6)
  | 1, 3 =>
    if rd = 2 then
      let i := sgn (fld w 12 12 * 512 + fld w 6 6 * 16 + fld w 5 5 * 64 + fld w 4 3 * 128 + fld w 2 2 * 32) 10
      if i = 0 then none else some (.opImm .add false 2 2 i)
    else if imm6 = 0 then none else some (.lui rd (imm6 * 4096))
  | 1, 4 =>
    match fld w 11 10 with
    | 0 => some (.opImm .srl false rsp rsp shamt)
    | 1 => some (.opImm .sra false rsp rsp shamt)
    | 2 => some (.opImm .and false rsp rsp imm6)
    | _ =>
      match bit w 12, fld w 6 5 with
      | false, 0 => some (.op .sub false rsp rsp rdp)
      | false, 1 => some (.op .xor false rsp rsp rdp)
      | false, 2 => some (.op .or false rsp rsp rdp)
      | false, _ => some (.op .and false rsp rsp rdp)
      | true, 0 => some (.op .sub true rsp rsp rdp)
      | true, 1 => some (.op .add true rsp rsp rdp)
      | _, _ => none
  | 1, 5 => some (.jal 0 jOff)
  | 1, 6 => some (.branch .eq rsp 0 bOff)
  | 1, 7 => some (.branch .ne rsp 0 bOff)
  | 2, 0 => some (.opImm .sll false rd rd shamt)
  | 2, 2 =>
    if rd = 0 then none
    else some (.load rd 2 (fld w 12 12 * 32 + fld w 6 4 * 4 + fld w 3 2 * 64) 4 true)
  | 2, 3 =>
    if rd = 0 then none
    else some (.load rd 2 (fld w 12 12 * 32 + fld w 6 5 * 8 + fld w 4 2 * 64) 8 true)
  | 2, 4 =>
    match bit w 12 with
    | false => if rs2 = 0 then (if rd = 0 then none else some (.jalr 0 rd 0)) else some (.op .add false rd 0 rs2)
    | true =>
      if rs2 = 0 then (if rd = 0 then some .ebreak else some (.jalr 1 rd 0)) else some (.op .add false rd rd rs2)
  | 2, 6 => some (.store 2 rs2 (fld w 12 9 * 4 + fld w 8 7 * 64) 4)
  | 2, 7 => some (.store 2 rs2 (fld w 12 10 * 8 + fld w 9 7 * 64) 8)
  | _, _ => none

/-- What a hart fetches: a custom word, which is a row of its own, or an ordinary instruction with its length in
bytes. -/
inductive HartWord where
  | custom (i : Instr)
  | rv (r : Rv) (len : Nat)
  deriving DecidableEq, Repr

/-- The instruction at the head of 32 bits that a hart fetches (R345): a compressed one, a custom-0 word, or another. -/
def decodeHart (w : Nat) : Option HartWord :=
  if w % 4 ≠ 3 then (decodeRv16 (w % 2 ^ 16)).map (.rv · 2)
  else
    match decodeCustom w with
    | .ok i => some (.custom i)
    | .error _ => (decodeRv32 w).map (.rv · 4)

/-- The instruction that the module reads from a word of the table, its bits above nbits zero: as a Ubivo unit; where
that is unassigned, as a Q word; where that is too, as a custom word of a hart. -/
def decodeTableWord (nbits w : Nat) : Option Instr :=
  let v := w % 2 ^ nbits
  match decode [v % 2 ^ 32, v / 2 ^ 32 % 2 ^ 32, v / 2 ^ 64 % 2 ^ 32] with
  | .ok i => some i
  | .error _ =>
    match decodeQ (v % 2 ^ 32) with
    | .ok i => some i
    | .error _ =>
      match decodeCustom (v % 2 ^ 32) with
      | .ok i => some i
      | .error _ => none

/-! The encoder, from the same tables (R147, R149, R160, R163, R172, R203, R230, R287, R363). -/

def b2n (b : Bool) : Nat := if b then 1 else 0

def Prefix.encode (p : Prefix) : Nat :=
  0x3F * 2 ^ 26 + b2n p.g * 2 ^ 25 + b2n p.n * 2 ^ 24 + p.gm * 2 ^ 21 + p.rnd * 2 ^ 19 + b2n p.sat * 2 ^ 18 +
    p.ty * 2 ^ 15 + p.imm

def Src.code : Src → Nat
  | .v n => n
  | .s i => 96 + i
  | .zero => 112
  | .lane => 113
  | .one => 114
  | .lit => 115
  | .y j => 120 + j

def Dst.code : Dst → Nat
  | .v n _ => n
  | .y j => 120 + j

def Dst.w : Dst → Bool
  | .v _ w => w
  | .y _ => true

def SSrc.code : SSrc → Nat
  | .s i => 96 + i
  | .zero => 112
  | .one => 114
  | .lit => 115

def MSrc.code : MSrc → Nat
  | .k n => n
  | .none => 112

def ICond.code : ICond → Nat
  | .eq => 0 | .ne => 1 | .lt => 2 | .le => 3 | .gt => 4 | .ge => 5 | .ltn => 6 | .len => 7 | .gtn => 8 | .gen => 9

def FCond.code : FCond → Nat
  | .eq => 0 | .ne => 1 | .lt => 2 | .le => 3 | .gt => 4 | .ge => 5 | .uneq => 6 | .unne => 7 | .unlt => 8
  | .unle => 9 | .ungt => 10 | .unge => 11 | .anynan => 12 | .bothnum => 13

def RedOp.code : RedOp → Nat
  | .add => 0 | .min => 1 | .max => 2 | .nmin => 3 | .nmax => 4 | .and => 5 | .or => 6 | .xor => 7 | .fadd => 8
  | .fmin => 9 | .fmax => 10

def AtomOp.code : AtomOp → Nat
  | .add => 0 | .min => 1 | .max => 2 | .nmin => 3 | .nmax => 4 | .and => 5 | .or => 6 | .xor => 7 | .exch => 8
  | .cas => 9 | .fadd => 10 | .inc => 11 | .dec => 12

def CvtTy.code : CvtTy → Nat
  | .f32 => 0 | .f16 => 1 | .bf16 => 2 | .i32 => 3 | .n32 => 4 | .i64 => 5 | .n64 => 6

def SigOp.code : SigOp → Nat
  | .add => 0 | .or => 1 | .max => 2 | .set => 3

def WaitCond.code : WaitCond → Nat
  | .ge => 0 | .eq => 1 | .ne => 2 | .any => 3

/-- The words of a unit around its instruction word. -/
def Hdr.words (h : Hdr) (w : Nat) : List Nat :=
  (match h.px with | some p => [p.encode] | none => []) ++ [w] ++
  (match h.lit with | some l => [l.toNat] | none => [])

/-- A V3 word (R172). -/
def encV3 (op w d a b f : Nat) : Nat := op * 2 ^ 26 + w * 2 ^ 25 + d * 2 ^ 18 + a * 2 ^ 11 + b * 2 ^ 4 + f

/-- A V2I word (R172). -/
def encV2I (op w d a imm : Nat) : Nat := op * 2 ^ 26 + w * 2 ^ 25 + d * 2 ^ 18 + a * 2 ^ 11 + imm

/-- An M word (R203): the last argument holds bits [3:0]. -/
def encM (op c o40 sz d a low : Nat) : Nat :=
  op * 2 ^ 26 + c * 2 ^ 22 + o40 * 2 ^ 21 + sz * 2 ^ 18 + d * 2 ^ 11 + a * 2 ^ 4 + low

/-- An S word (R203). -/
def encS (op sel a b f : Nat) : Nat := op * 2 ^ 26 + sel * 2 ^ 18 + a * 2 ^ 11 + b * 2 ^ 4 + f

/-- A J word (R230). -/
def encJ (op k n disp : Nat) : Nat := op * 2 ^ 26 + k * 2 ^ 23 + n * 2 ^ 22 + disp

/-- A Q word (R287). -/
def encQ (qop t f : Nat) : Nat := qop * 2 ^ 27 + t * 2 ^ 24 + f

/-- A custom-0 word (R363). -/
def encRv (rs1 f3 rd : Nat) : Nat := rs1 * 2 ^ 15 + f3 * 2 ^ 12 + rd * 2 ^ 7 + 0x0B

def V3.enc (x : V3) (op f : Nat) : List Nat := x.h.words (encV3 op (b2n x.d.w) x.d.code x.a.code x.b.code f)
def V2.enc (x : V2) (op f : Nat) : List Nat := x.h.words (encV3 op (b2n x.d.w) x.d.code x.a.code 112 f)
def SU.enc (x : SU) (f : Nat) : List Nat := x.h.words (encV3 0x0C 0 (96 + x.d) x.a.code x.b.code f)
def ImmU.enc (x : ImmU) (op : Nat) : List Nat :=
  x.h.words (encV2I op (b2n x.d.w) x.d.code x.a.code x.imm.toNat)
def ShU.enc (x : ShU) (kind : Nat) : List Nat :=
  x.h.words (encV2I 0x0A (b2n x.d.w) x.d.code x.a.code (kind * 2 ^ 9 + x.n))
def KRdU.enc (x : KRdU) (op f : Nat) : List Nat := x.h.words (encV3 op 0 (96 + x.d) x.k.code 112 f)
def K3U.enc (x : K3U) (f : Nat) : List Nat := x.h.words (encV3 0x23 0 x.k x.a.code x.b.code f)
def K2U.enc (x : K2U) (f : Nat) : List Nat := x.h.words (encV3 0x23 0 x.k x.a.code 112 f)
def half (hi : Bool) : Nat := if hi then 114 else 112
def CgetU.enc (x : CgetU) (f : Nat) : List Nat := x.h.words (encS 0x30 x.cf (96 + x.d) 0 f)
def CmemU.enc (x : CmemU) (f : Nat) : List Nat :=
  x.h.words (encS 0x30 (x.ct * 16 + x.cf) x.a.code (half x.loc) f)
def DopU.enc (x : DopU) (f : Nat) : List Nat :=
  x.h.words (encS 0x31 (x.c * 16 + b2n x.team * 8) x.a.code (96 + x.r) f)
def NmU.enc (x : NmU) (f : Nat) : List Nat := x.h.words (encS 0x32 (x.j * 16 + b2n x.w * 8) x.a (96 + x.r) f)
def CpyU.enc (x : CpyU) (f : Nat) : List Nat := x.h.words (encS 0x34 0 x.a.code (96 + x.r) f)
def RegU.enc (x : RegU) (op f : Nat) : List Nat := x.h.words (encS op 0 0 (96 + x.d) f)
def BrdvU.enc (x : BrdvU) (f : Nat) : List Nat := x.h.words (encS 0x35 x.n x.a.code 0 f)
def BraU.enc (x : BraU) (op : Nat) : List Nat := x.h.words (encJ op x.k (b2n x.n) x.disp.toNat)
def NoneU.enc (x : NoneU) (op f : Nat) : List Nat := x.h.words (encS op 0 0 0 f)
def BarU.enc (x : BarU) (f : Nat) : List Nat := x.h.words (encS 0x3C x.b 0 0 f)

/-- The words of an instruction that has an encoding in the manual; no words for the other steps. -/
def encode : Instr → List Nat
  | .iadd x => x.enc 0x00 0 | .isub x => x.enc 0x00 1 | .iadds x => x.enc 0x00 2 | .isubs x => x.enc 0x00 3
  | .imin x => x.enc 0x00 4 | .imax x => x.enc 0x00 5 | .nmin x => x.enc 0x00 6 | .nmax x => x.enc 0x00 7
  | .iabs x => x.enc 0x00 8 | .ineg x => x.enc 0x00 9 | .iavg x => x.enc 0x00 10 | .idiff x => x.enc 0x00 11
  | .iaddc x => x.enc 0x00 12 | .isubb x => x.enc 0x00 13
  | .imul x => x.enc 0x01 0 | .imulh x => x.enc 0x01 1 | .nmulh x => x.enc 0x01 2 | .imad x => x.enc 0x01 3
  | .imadh x => x.enc 0x01 4 | .idot4 x => x.enc 0x01 5 | .idot2 x => x.enc 0x01 6 | .idiv x => x.enc 0x01 7
  | .irem x => x.enc 0x01 8 | .ndiv x => x.enc 0x01 9 | .nrem x => x.enc 0x01 10
  | .and x => x.enc 0x02 0 | .or x => x.enc 0x02 1 | .xor x => x.enc 0x02 2 | .andn x => x.enc 0x02 3
  | .orn x => x.enc 0x02 4 | .xnor x => x.enc 0x02 5 | .not x => x.enc 0x02 6 | .lcomb x => x.enc 0x02 7
  | .shl x => x.enc 0x02 8 | .shr x => x.enc 0x02 9 | .sra x => x.enc 0x02 10 | .rol x => x.enc 0x02 11
  | .ror x => x.enc 0x02 12 | .fshl x => x.enc 0x02 13 | .fshr x => x.enc 0x02 14
  | .popc x => x.enc 0x03 0 | .clz x => x.enc 0x03 1 | .ctz x => x.enc 0x03 2 | .brev x => x.enc 0x03 3
  | .bfx x => x.enc 0x03 4 | .bfxn x => x.enc 0x03 5 | .bfi x => x.enc 0x03 6 | .bmsk x => x.enc 0x03 7
  | .permb x => x.enc 0x03 8 | .sext x => x.enc 0x03 9 | .zext x => x.enc 0x03 10
  | .icmp x => x.h.words (encV3 0x04 0 x.k x.a.code x.b.code x.c.code)
  | .sel x => x.h.words (encV3 0x05 (b2n x.d.w) x.d.code x.a.code x.k.code 0)
  | .mov x => x.enc 0x05 1
  | .movk x => x.h.words (encV3 0x05 (b2n x.d.w) x.d.code x.k.code 112 2)
  | .kmov x => x.h.words (encV3 0x05 0 x.k x.a.code 112 3)
  | .iaddi x => x.enc 0x06 | .andi x => x.enc 0x07 | .ori x => x.enc 0x08 | .xori x => x.enc 0x09
  | .shli x => x.enc 0 | .shri x => x.enc 1 | .srai x => x.enc 2 | .roli x => x.enc 3
  | .movi x => x.h.words (encV2I 0x0B (b2n x.d.w) x.d.code 112 x.imm.toNat)
  | .sadd x => x.enc 0 | .ssub x => x.enc 1 | .smul x => x.enc 2 | .smulh x => x.enc 3 | .sand x => x.enc 4
  | .sor x => x.enc 5 | .sxor x => x.enc 6 | .sshl x => x.enc 7 | .sshr x => x.enc 8 | .ssra x => x.enc 9
  | .smin x => x.enc 10 | .smax x => x.enc 11 | .snmin x => x.enc 12 | .snmax x => x.enc 13
  | .saddi x => x.h.words (encV2I 0x0D 0 (96 + x.d) x.a.code x.imm.toNat)
  | .scmp x => x.h.words (encV3 0x0E 0 (96 + x.d) x.a.code x.b.code x.c.code)
  | .smov x => x.h.words (encV3 0x0F 0 (96 + x.d) x.a.code 112 0)
  | .srdk x => x.h.words (encV3 0x0F 0 (96 + x.d) x.k (half x.hi) 1)
  | .swrk x => x.h.words (encV3 0x0F 0 x.k x.a.code (half x.hi) 2)
  | .spopk x => x.enc 0x0F 3
  | .fadd x => x.enc 0x10 0 | .fsub x => x.enc 0x10 1 | .fmul x => x.enc 0x10 2 | .fmin x => x.enc 0x10 3
  | .fmax x => x.enc 0x10 4 | .fminn x => x.enc 0x10 5 | .fmaxn x => x.enc 0x10 6 | .fabs x => x.enc 0x10 7
  | .fneg x => x.enc 0x10 8 | .fcpys x => x.enc 0x10 9 | .fscale x => x.enc 0x10 10 | .ffrac x => x.enc 0x10 11
  | .ffloor x => x.enc 0x10 12 | .fceil x => x.enc 0x10 13 | .ftrunc x => x.enc 0x10 14 | .frint x => x.enc 0x10 15
  | .ffma x => x.enc 0x11 0 | .ffms x => x.enc 0x11 1 | .ffnma x => x.enc 0x11 2 | .ffnms x => x.enc 0x11 3
  | .frcp x => x.enc 0x12 0 | .frsq x => x.enc 0x12 1 | .fsqrt x => x.enc 0x12 2 | .fdiv x => x.enc 0x12 3
  | .fexp2 x => x.enc 0x12 4 | .flog2 x => x.enc 0x12 5 | .fsin x => x.enc 0x12 6 | .fcos x => x.enc 0x12 7
  | .ftanh x => x.enc 0x12 8 | .fsigm x => x.enc 0x12 9
  | .fcmp x => x.h.words (encV3 0x13 0 x.k x.a.code x.b.code x.c.code)
  | .fclass x => x.enc 0x14 0 | .fdot2 x => x.enc 0x14 1 | .fdot4 x => x.enc 0x14 2
  | .cvt x => x.h.words (encV3 0x15 (b2n x.d.w) x.d.code x.a.code 112 (b2n x.hsel * 8 + x.t.code))
  | .cvt8 x => x.enc 0x16 0 | .cvt8x x => x.enc 0x16 1 | .cvt4 x => x.enc 0x16 2 | .cvt4x x => x.enc 0x16 3
  | .pack8 x => x.enc 0x16 4 | .unpk8 x => x.enc 0x16 5
  | .bscan x => x.enc 0x17 0 | .qnt8 x => x.enc 0x17 1 | .dqnt8 x => x.enc 0x17 2 | .qnt4 x => x.enc 0x17 3
  | .dqnt4 x => x.enc 0x17 4
  | .shfli x => x.enc 0x20 0 | .shflu x => x.enc 0x20 1 | .shfld x => x.enc 0x20 2 | .shflx x => x.enc 0x20 3
  | .bcast x => x.h.words (encV3 0x20 (b2n x.d.w) x.d.code x.a.code x.b.code 4)
  | .rdlane x => x.h.words (encV3 0x20 0 (96 + x.d) x.a.code x.b.code 5)
  | .wrlane x => x.h.words (encV3 0x20 (b2n x.d.w) x.d.code x.a.code x.b.code 6)
  | .redux x =>
    match x.d with
    | .vec d => x.h.words (encV3 0x21 (b2n d.w) d.code x.a.code 112 x.op.code)
    | .sc i => x.h.words (encV3 0x21 0 (96 + i) x.a.code 112 x.op.code)
  | .scan x => x.h.words (encV3 0x22 (b2n x.d.w) x.d.code x.a.code 112 x.op.code)
  | .vall x => x.enc 0x23 0 | .vany x => x.enc 0x23 1
  | .vballot x => x.h.words (encV3 0x23 0 (96 + x.d) x.a.code (half x.hi) 2)
  | .kand x => x.enc 3 | .kor x => x.enc 4 | .kxor x => x.enc 5 | .kandn x => x.enc 6
  | .knot x => x.enc 7 | .kfirst x => x.enc 8
  | .wbase x => x.h.words (encS 0x24 x.sel x.a.code 0 0)
  | .ld x => x.h.words (encM 0x28 x.c (b2n x.o40) x.sz x.d x.a.code (x.res * 2 + b2n x.nt))
  | .st x => x.h.words (encM 0x29 x.c (b2n x.o40) x.sz x.d.code x.a.code (x.res * 2 + b2n x.nt))
  | .ldl x => x.h.words (encM 0x2A 0 0 x.sz x.d x.a.code 0)
  | .stl x => x.h.words (encM 0x2B 0 0 x.sz x.d.code x.a.code 0)
  | .ldu x => x.h.words (encM 0x2C x.c (b2n x.o40) x.sz (96 + x.d) x.a.code (x.res * 2))
  | .stu x => x.h.words (encM 0x2C x.c (b2n x.o40) x.sz x.d.code x.a.code (x.res * 2 + 1))
  | .atom x => x.h.words (encM 0x2D x.c (b2n x.o40) x.sz x.d x.a.code x.op.code)
  | .red x => x.h.words (encM 0x2E x.c (b2n x.o40) x.sz x.d.code x.a.code x.op.code)
  | .fence x => x.enc 0x2F 0
  | .pref x => x.h.words (encS 0x2F (x.c * 16 + b2n x.o40 * 8 + x.lvl) x.a.code 0 1)
  | .pagein x => x.h.words (encS 0x2F (x.c * 16 + b2n x.o40 * 8) x.a.code (96 + x.r) 2)
  | .cderive x => x.h.words (encS 0x30 (x.ct * 16 + x.cf) x.a.code x.b.code 0)
  | .crights x => x.h.words (encS 0x30 (x.ct * 16 + x.cf) x.a.code 0 1)
  | .cgetb x => x.enc 2 | .cgetl x => x.enc 3 | .cgetr x => x.enc 4 | .ctest x => x.enc 5
  | .cldc x => x.enc 6 | .cstc x => x.enc 7
  | .cnull x => x.h.words (encS 0x30 (x.ct * 16 + x.cf) 0 0 8)
  | .cmov x => x.h.words (encS 0x30 (x.ct * 16 + x.cf) 0 0 9)
  | .dclaim x => x.enc 0 | .dpark x => x.enc 1 | .dlend x => x.enc 2 | .dreturn x => x.enc 3 | .dsplit x => x.enc 4
  | .djoin x => x.enc 5 | .dshare x => x.enc 6 | .dunshare x => x.enc 7 | .datom x => x.enc 8 | .dquery x => x.enc 9
  | .dquerySelf x => x.h.words (encS 0x31 (b2n x.team * 8 + 1) 0 (96 + x.d) 9)
  | .nmred x => x.enc 0 | .nmscat x => x.enc 1
  | .cpy x => x.enc 0 | .cpyc x => x.enc 1
  | .blease x => x.enc 0x35 0 | .bfree x => x.enc 0x35 1
  | .bfork x => x.h.words (encS 0x35 (x.c * 16) x.a.code (96 + x.r) 2)
  | .brdv x => x.enc 3 | .barv x => x.enc 4
  | .bstat x => x.enc 0x35 5
  | .bra x => x.enc 0x38 | .call x => x.enc 0x39
  | .jmp x => x.h.words (encJ 0x3A 0 0 x.disp.toNat)
  | .ret x => x.enc 0x3B 0 | .join x => x.enc 0x3B 1 | .exit x => x.enc 0x3B 2
  | .brx x => x.h.words (encS 0x3B 0 x.a.code 0 3)
  | .callx x => x.h.words (encS 0x3B 0 x.a.code 0 4)
  | .yield x => x.enc 0x3B 5 | .nop x => x.enc 0x3B 6
  | .sleep x => x.h.words (encS 0x3B 0 x.a.code 0 7)
  | .bar x => x.enc 0 | .bara x => x.enc 1 | .barw x => x.enc 2
  | .dbar x => x.enc 0x3C 3
  | .dsig x => x.h.words (encS 0x3C (x.op.code * 64 + x.w) x.a.code x.b.code 4)
  | .dwait x => x.h.words (encS 0x3C (x.cond.code * 64 + x.w) x.a.code (96 + x.r) 5)
  | .rtest x => x.h.words (encS 0x3C 0 (96 + x.a) (96 + x.d) 6)
  | .cont x => x.h.words (encS 0x3D 0 x.a 0 0)
  | .stepSend x => x.h.words (encS 0x3D (x.s * 16 + x.k) x.a.code x.b 1)
  | .stepTake x => x.h.words (encS 0x3D (x.r * 16 + b2n x.hd) x.a.code x.b 2)
  | .trap x => x.h.words (encS 0x3E x.n x.a.code (96 + x.r) 0)
  | .brk x => x.h.words (encS 0x3E x.code 0 0 1)
  | .sread x =>
    match x.d with
    | .v n => x.h.words (encS 0x3E x.reg 0 n 2)
    | .s i => x.h.words (encS 0x3E x.reg 0 (96 + i) 2)
  | .swrite x => x.h.words (encS 0x3E 16 x.a.code 0 3)
  | .evt x => x.h.words (encS 0x3E x.n x.a.code 0 4)
  | .enrg x => x.enc 0x3E 5
  | .mfmt l => [encQ 0 0 l]
  | .mzero t => [encQ 1 t 0]
  | .mloadb p => [encQ 2 0 p]
  | .mmac t p m => [encQ 3 t (p * 2 ^ 7 + (m - 1))]
  | .mmact t p m => [encQ 4 t (p * 2 ^ 7 + (m - 1))]
  | .mdrain t o m => [encQ 5 t (o / 256 * 2 ^ 8 + (m - 1))]
  | .mloop l n d => [encQ 6 0 (l * 2 ^ 22 + (n - 1) * 2 ^ 12 + d)]
  | .mend => [encQ 7 0 0]
  | .mbar n => [encQ 8 0 n]
  | .marv n => [encQ 9 0 n]
  | .msig op w p v => [encQ 10 0 (op.code * 2 ^ 22 + w * 2 ^ 16 + p * 2 ^ 12 + v)]
  | .mnop => [encQ 11 0 0]
  | .mwaitf b m a => [encQ 12 0 (b2n b * 2 ^ 23 + m * 2 ^ 15 + a / 64)]
  | .gmbWait rd rs => [encRv rs 0 rd]
  | .gmbRead rd rs => [encRv rs 1 rd]
  | .gmbPost rd rs => [encRv rs 2 rd]
  | .gepEnd rs => [encRv rs 3 0]
  | .gepVer rd rs => [encRv rs 4 rd]
  | _ => []

/-- The words hold a Ubivo instruction: the unit it is encoded as. -/
def Instr.isUbivo (i : Instr) : Bool :=
  match decode (encode i) with
  | .ok j => i == j
  | .error _ => false

end Sys2Proof
end

