-- ==== Sys2Proof/Machine/Operands.lean ====
section
/-! DEFINITION. The operand forms: what a unit names, what its source codes read in a lane, and how a result is written
and deposited (R149 to R157, R173, R65). -/
namespace Sys2Proof.Machine

/-- The issuing group as a unit sees it: its place, the split that issues, and the active set (R154). -/
structure Ctx where
  die : Nat
  handle : Nat
  grp : Nat
  slot : Nat
  team : Team
  g : Group
  x : Split
  px : Prefix
  lit : Nat
  act : Mask
  /-- Addresses of the unit, of its instruction word, and of the next unit. -/
  unit : Nat
  sword : Nat
  next : Nat

/-- The lanes of the active set, in increasing order (R172). -/
def Ctx.lanes (c : Ctx) : List Nat := (upto c.g.width).filter (fun l => mbit c.act l)

/-- The module core that executes the unit. -/
def Ctx.core (c : Ctx) : Nat := 128 * c.g.die + c.g.core

/-- The parties whose holds cover the group's accesses (R100). -/
def Ctx.parties (c : Ctx) : List Nat := [groupParty c.die c.handle c.grp, teamParty c.die c.handle]

/-- Mask k(n) as the split reads it: k0 is the split's mask (R38, R154). -/
def readK (g : Group) (x : Split) (n : Nat) : Mask := if n = 0 then x.mask else tget g.masks n 0

/-- The active set of R154. -/
def activeSet (g : Group) (x : Split) (p : Prefix) : Mask :=
  if p.g then
    let k := readK g x p.gm
    x.mask &&& (if p.n then ~~~k else k)
  else x.mask

/-! What a unit names. -/

/-- Register codes named (with pair partners) and read, latches read, scalars named and read, masks and capabilities
read (R152, R157, R204, R434). -/
structure Refs where
  v : List Nat := []
  rv : List Nat := []
  y : List Nat := []
  s : List Nat := []
  rs : List Nat := []
  k : List Nat := []
  c : List Nat := []

def Refs.add (a b : Refs) : Refs :=
  { v := a.v ++ b.v, rv := a.rv ++ b.rv, y := a.y ++ b.y, s := a.s ++ b.s, rs := a.rs ++ b.rs, k := a.k ++ b.k,
    c := a.c ++ b.c }

def refsOf (rs : List Refs) : Refs := rs.foldr Refs.add {}

/-- n registers from a code. -/
def vRead (i n : Nat) : Refs := { v := (upto n).map (i + ·), rv := (upto n).map (i + ·) }
def vName (i n : Nat) : Refs := { v := (upto n).map (i + ·) }
def sRead (i : Nat) : Refs := { s := [i], rs := [i] }
def sName (i : Nat) : Refs := { s := [i] }
def kRead (i : Nat) : Refs := { k := [i] }
def cRead (i : Nat) : Refs := { c := [i] }

/-- A vector-class source that spans n registers. -/
def srcRefs (a : Src) (n : Nat) : Refs :=
  match a with
  | .v i => vRead i n
  | .s i => sRead i
  | .y j => { y := (upto n).map (j + ·) }
  | _ => {}

def ssrcRefs (a : SSrc) : Refs := match a with | .s i => sRead i | _ => {}
def msrcRefs (k : MSrc) : Refs := match k with | .k n => kRead n | .none => {}

/-- A vector-class destination of n registers, read or only named. -/
def dstRefs (d : Dst) (n : Nat) (read : Bool) : Refs :=
  match d with
  | .v i _ => if read then vRead i n else vName i n
  | .y j => if read then { y := (upto n).map (j + ·) } else {}

def dstW (d : Dst) : Bool := match d with | .v _ w => w | .y _ => true

/-- The first latch a destination deposits into (R157). -/
def dstLatch (d : Dst) : Nat := match d with | .v i _ => i % 8 | .y j => j

/-! Reading sources (R150). -/

/-- How a 32-bit field is decoded: integer elements of a width, or codes of a float format. -/
inductive Ek where
  | int (w : Nat)
  | flt (f : Fmt)
  deriving DecidableEq, Repr

def Ek.width : Ek → Nat
  | .int w => w
  | .flt f => f.width

/-- A code in every element of a 32-bit word. -/
def spread (w code : Nat) : Nat := (upto (32 / w)).foldl (fun v e => v + code % 2 ^ w * 2 ^ (w * e)) 0

/-- The element that the code lane or one stands for; conversion sets no flag. -/
def Ek.ofNat : Ek → Nat → Nat
  | .int w, n => n % 2 ^ w
  | .flt f, n => (convert (.fin false n 0) f .ne true).1

/-- Register r of the allocation in lane l. -/
def readReg (g : Group) (r l : Nat) : Nat := (tget g.vregs (128 * r + l) 0).toNat

def readLatch (g : Group) (j l : Nat) : Nat := (tget g.latches (128 * j + l) 0).toNat

def readS (g : Group) (i : Nat) : Nat := (tget g.scalars i 0).toNat

/-- A source in a 32-bit position. -/
def Ctx.rd (c : Ctx) (ek : Ek) (a : Src) (l : Nat) : Nat :=
  match a with
  | .v i => readReg c.g (c.g.wb + i) l
  | .s i => readS c.g i % 2 ^ 32
  | .zero => 0
  | .lane => spread ek.width (ek.ofNat l)
  | .one => spread ek.width (ek.ofNat 1)
  | .lit => c.lit
  | .y j => readLatch c.g j l

/-- A source in a 64-bit position; the literal extends by the mnemonic's Sign. -/
def Ctx.rd64 (c : Ctx) (signed : Bool) (a : Src) (l : Nat) : Nat :=
  match a with
  | .v i => readReg c.g (c.g.wb + i) l + 2 ^ 32 * readReg c.g (c.g.wb + i + 1) l
  | .s i => readS c.g i
  | .zero => 0
  | .lane => l
  | .one => 1
  | .lit => if signed then wrapN (sextN c.lit 32) 64 else c.lit
  | .y j => readLatch c.g j l + 2 ^ 32 * readLatch c.g (j + 1) l

/-- A scalar operand; the literal sign-extended (R187) or zero-extended (R225, R227). -/
def Ctx.rdS (c : Ctx) (signed : Bool) (a : SSrc) : Nat :=
  match a with
  | .s i => readS c.g i
  | .zero => 0
  | .one => 1
  | .lit => if signed then wrapN (sextN c.lit 32) 64 else c.lit

/-- A mask position read as a source (R151). -/
def Ctx.rdK (c : Ctx) (k : MSrc) : Mask := match k with | .k n => readK c.g c.x n | .none => 0

/-- Dold of R173. -/
def Ctx.old (c : Ctx) (d : Dst) (l : Nat) : Nat :=
  match d with
  | .v i _ => readReg c.g (c.g.wb + i) l
  | .y j => readLatch c.g j l

def Ctx.old64 (c : Ctx) (d : Dst) (l : Nat) : Nat :=
  match d with
  | .v i _ => readReg c.g (c.g.wb + i) l + 2 ^ 32 * readReg c.g (c.g.wb + i + 1) l
  | .y j => readLatch c.g j l + 2 ^ 32 * readLatch c.g (j + 1) l

/-- The offset of a lane (R65). -/
def Ctx.off (c : Ctx) (o40 : Bool) (a : Src) (l : Nat) : Nat :=
  match a with
  | .v i => readReg c.g (c.g.wb + i) l + (if o40 then 2 ^ 32 * (readReg c.g (c.g.wb + i + 1) l % 256) else 0)
  | .s i => readS c.g i % (if o40 then 2 ^ 40 else 2 ^ 32)
  | a => c.rd (.int 32) a l

/-- The offset of a group-uniform access (R65, R219). -/
def Ctx.offS (c : Ctx) (o40 : Bool) (a : SSrc) : Nat :=
  match a with
  | .s i => readS c.g i % (if o40 then 2 ^ 40 else 2 ^ 32)
  | .zero => 0
  | .one => 1
  | .lit => c.lit

/-! Writing results. -/

def writeReg (g : Group) (r l v : Nat) : Group := { g with vregs := tset g.vregs (128 * r + l) (BitVec.ofNat 32 v) 0 }
def writeLatch (g : Group) (j l v : Nat) : Group :=
  { g with latches := tset g.latches (128 * j + l) (BitVec.ofNat 32 v) 0 }
def writeS (g : Group) (i v : Nat) : Group := { g with scalars := tset g.scalars i (BitVec.ofNat 64 v) 0 }

/-- Mask k(n) written, bits at and above the width zero (R188). -/
def writeK (g : Group) (n : Nat) (m : Mask) : Group :=
  { g with masks := tset g.masks n (if g.width = 128 then m else m &&& BitVec.ofNat 128 (2 ^ g.width - 1)) 0 }

/-- The latches from j are marked valid, even when no lane is active (R157). -/
def validate (g : Group) (j n : Nat) : Group :=
  { g with latchValid := (upto n).foldl (fun m i => m ||| ((1 : BitVec 8) <<< (j + i))) g.latchValid }

/-- One result word in a destination part: register d + i (W = 0) and latch (R153, R156, R157). -/
def putWord (g : Group) (wb : Nat) (d : Dst) (i l v : Nat) : Group :=
  let g := match d with
    | .v r false => writeReg g (wb + r + i) l v
    | _ => g
  writeLatch g ((dstLatch d) + i) l v

/-- Results of n words per lane, the first word lowest. -/
def Ctx.put (c : Ctx) (d : Dst) (n : Nat) (f : Nat → Nat) (g : Group) : Group :=
  let g := validate g (dstLatch d) n
  c.lanes.foldl (fun g l => (upto n).foldl (fun g i => putWord g c.g.wb d i l (f l / 2 ^ (32 * i) % 2 ^ 32)) g) g

/-- A mask destination: the bits of active lanes (R184, R214). -/
def Ctx.putK (c : Ctx) (k : Nat) (f : Nat → Bool) (g : Group) : Group :=
  writeK g k (c.lanes.foldl (fun m l => mset m l (f l)) (tget g.masks k 0))

/-- A scalar destination of a group-uniform instruction. -/
def Ctx.putS (_c : Ctx) (d v : Nat) (g : Group) : Group := writeS g d (v % 2 ^ 64)

/-! Packed elements (R112, R172). -/

/-- Element e of width w. -/
def elem (x w e : Nat) : Nat := x / 2 ^ (w * e) % 2 ^ w

/-- The word whose element e is f e. -/
def packed (w n : Nat) (f : Nat → Nat) : Nat := (upto n).foldl (fun v e => v + f e % 2 ^ w * 2 ^ (w * e)) 0

end Sys2Proof.Machine
end

