-- ==== Sys2Proof/Machine/Flags.lean ====
section
/-! DEFINITION. %fflags: sticky arithmetic flags of a group, raised by the lanes of the active set (R118, R154, R189). -/
namespace Sys2Proof.Machine

/-- Flags ORed into %fflags at retirement (R118). -/
def Group.raise (g : Group) (f : FFlags) : Group := { g with fflags := g.fflags ||| f }

/-- The flags of every active lane (R154: an inactive lane raises none). -/
def Ctx.flags (c : Ctx) (f : Nat → FFlags) : FFlags := c.lanes.foldl (fun a l => a ||| f l) 0

/-- Float results with their flags: one word per lane. -/
def Ctx.putF (c : Ctx) (d : Dst) (f : Nat → Nat × FFlags) (g : Group) : Group :=
  (c.put d 1 (fun l => (f l).1) g).raise (c.flags (fun l => (f l).2))

/-- The union of the flags of packed elements, and the packed word (R189). -/
def packedF (w n : Nat) (f : Nat → Nat × FFlags) : Nat × FFlags :=
  (packed w n (fun e => (f e).1), (upto n).foldl (fun a e => a ||| (f e).2) 0)

/-- SWRITE replaces %fflags by bits [4:0] (R264). -/
def Group.setFlags (g : Group) (v : Nat) : Group := { g with fflags := BitVec.ofNat 5 v }

end Sys2Proof.Machine
end

