-- ==== Sys2Proof/Machine/Splits.lean ====
section
/-! DEFINITION. Splits of a group: PC slots and the off-slot queue, rotation, families, joins and the return stack
(R36 to R45). -/
namespace Sys2Proof.Machine

/-- A split that may issue (R40); a trapped split issues nothing more (R394). -/
def Split.runnable (x : Split) : Bool := decide (x.wait = .none) && !x.stopped && !x.trapped

def Split.sleeping (x : Split) : Bool :=
  match x.wait with
  | .sleep _ => true
  | .sleepSaved _ => true
  | _ => false

/-- The split of a PC slot. -/
def Group.slotOf (g : Group) (i : Nat) : Option Split := if i = 0 then g.s0 else g.s1

def Group.putSlot (g : Group) (i : Nat) (x : Option Split) : Group :=
  if i = 0 then { g with s0 := x } else { g with s1 := x }

def Group.updSlot (g : Group) (i : Nat) (f : Split → Split) : Group := g.putSlot i ((g.slotOf i).map f)

/-- Every live split, in the index order of R407. -/
def Group.splits (g : Group) : List Split := g.s0.toList ++ g.s1.toList ++ g.queue

/-- Every live split changed. -/
def Group.mapSplits (f : Split → Split) (g : Group) : Group :=
  { g with s0 := g.s0.map f, s1 := g.s1.map f, queue := g.queue.map f }

def Group.anyRunnable (g : Group) : Bool := g.queue.any (·.runnable)

/-- The split at the tail of the off-slot queue (R37). -/
def Group.toQueue (g : Group) (x : Split) : Group := { g with queue := g.queue ++ [{ x with issued := 0 }] }

/-- Where a new split goes: the other PC slot if it is free, or the queue's tail (R36). -/
def Group.addSplit (g : Group) (x : Split) : Group :=
  let x := { x with issued := 0, born := g.splitNext }
  let g := { g with splitNext := g.splitNext + 1 }
  match g.s0, g.s1 with
  | none, _ => { g with s0 := some x }
  | _, none => { g with s1 := some x }
  | _, _ => g.toQueue x

/-- A split in a slot leaves it when it waits (R40, R253), or when it sleeps while a runnable split is queued (R251). -/
def Group.leave (g : Group) (i : Nat) : Group :=
  match g.slotOf i with
  | none => g
  | some x =>
    if x.stopped || x.trapped || decide (x.wait = .none) || decide (x.wait = .service) then g
    else if x.sleeping && !g.anyRunnable then g
    else (g.putSlot i none).toQueue x

/-- The first runnable split of the queue, and the rest. -/
def takeRunnable : List Split → Option (Split × List Split)
  | [] => none
  | x :: r => if x.runnable then some (x, r) else (takeRunnable r).map (fun p => (p.1, x :: p.2))

/-- A free PC slot takes the runnable split at the queue's head (R40). -/
def Group.refill (g : Group) (i : Nat) : Group :=
  match g.slotOf i with
  | some _ => g
  | none =>
    match takeRunnable g.queue with
    | none => g
    | some (x, r) => { g.putSlot i (some { x with issued := 0 }) with queue := r }

/-- Slots given up and refilled after a change of the group's splits. -/
def Group.settle (g : Group) : Group := (((g.leave 0).leave 1).refill 0).refill 1

/-! Stops (R404). -/

/-- A stopped split keeps its PC slot, unless the other slot holds a stopped split. -/
def Group.restStops (g : Group) (i : Nat) : Group :=
  match g.slotOf i, g.slotOf (1 - i) with
  | some x, some y => if x.stopped && y.stopped then ((g.putSlot i none).toQueue x).settle else g
  | _, _ => g

/-- A split that stops at the end of its run, for a STEP or another stop. -/
def Split.ending (x : Split) : Bool := x.stepping || x.stopping

/-- The end of a run of a split that then stops; one that waits has left its slot (R40, R406). -/
def Group.endStops (g : Group) : Group :=
  if g.splits.any (·.ending) then
    let g := (g.leave 0).leave 1
    let i := if g.s0.any (·.ending) then 0 else 1
    (g.mapSplits (fun x => if x.ending then { x with stepping := false, stopping := false, stopped := true } else x)).restStops i
  else g

/-- Every split stops: at once where no run is open, the run's own at its end. -/
def Group.stopAll (g : Group) : Group :=
  match g.run with
  | some r =>
    (g.mapSplits (fun x => { x with stopped := true })).updSlot r.slot (fun x => { x with stopped := false, stopping := true })
  | none => (g.mapSplits (fun x => { x with stopped := true })).restStops 1

/-- The rotation of R40 at the end of a run: a split that branched backward, yielded, or has issued 16 times gives up its
slot while a runnable split waits. -/
def Group.rotate (g : Group) (i : Nat) : Group :=
  match g.slotOf i with
  | none => g
  | some x =>
    let out := x.runnable && (x.rotate || decide (16 ≤ x.issued)) && g.anyRunnable
    let x := { x with rotate := false }
    if out then (g.putSlot i none).toQueue x else g.putSlot i (some x)

/-! Families (R41 to R43). -/

def Group.fam? (g : Group) (f : Nat) : Option Fam := g.fams.find? (·.id = f)

/-- The chain of families from f upward; the fuel bounds a chain that the debugger made cyclic (R409). -/
def Group.chain (g : Group) : Nat → Nat → List Nat
  | 0, _ => []
  | n + 1, f => if f = 0 then [] else f :: (match g.fam? f with | none => [] | some l => g.chain n l.pfam)

def Group.belongs (g : Group) (x : Split) (f : Nat) : Bool := (g.chain 130 x.fam).contains f

/-- The next family id: the counter skips 0 and every live id (R41). -/
def Group.famId (g : Group) : Nat → Nat → Nat
  | 0, k => k
  | n + 1, k =>
    let k := k % 65536
    if k = 0 ∨ (g.fam? k).isSome then g.famId n (k + 1) else k

/-- Links of families to which no live split belongs are released (R43). -/
def Group.dropFams (g : Group) : Group :=
  { g with fams := g.fams.filter (fun l => g.splits.any (fun x => g.belongs x l.id)) }

/-- The merge of family f, when every live split that belongs to it waits at its join (R43). -/
def Group.mergeFam (g : Group) (l : Fam) : Group :=
  let mine := g.splits.filter (fun x => g.belongs x l.id)
  match mine with
  | [] => g
  | x :: _ =>
    if mine.all (fun y => decide (y.fam = l.id) && decide (y.wait = .join)) then
      let merged : Split :=
        { x with
          mask := mine.foldl (fun m y => m ||| y.mask) 0
          pc := (x.jpc.getD 0 + 4) % 2 ^ 40
          fam := l.pfam
          jpc := l.pjpc
          wait := .none
          stopped := mine.any (·.stopped)
          last := x.jpc
          rotate := false
          stepping := mine.any (·.stepping)
          stopping := mine.any (·.stopping) }
      let out := fun y : Split => decide (y.fam = l.id)
      let keep : Option Split → Option Split := fun o => o.bind (fun y => if out y then none else some y)
      let g := { g with s0 := keep g.s0, s1 := keep g.s1, queue := g.queue.filter (fun y => !out y),
                        fams := g.fams.filter (·.id ≠ l.id) }
      g.addSplit merged
    else g

/-- Every merge that is due, then links without a split released. -/
def Group.mergeJoins (g : Group) : Group := (g.fams.foldl (fun g l => g.mergeFam l) g).dropFams

/-! The return stack (R44). -/

/-- The entries on the chain of LINKs from an index. -/
def Group.retChain (g : Group) : Nat → Option Nat → List Nat
  | 0, _ => []
  | _, none => []
  | n + 1, some i => i :: (match tfind g.rets i with | none => [] | some e => g.retChain n e.link)

/-- Entries that no live split has on its chain are freed. -/
def Group.dropRets (g : Group) : Group :=
  let used := g.splits.flatMap (fun x => g.retChain 256 x.rsp)
  { g with rets := g.rets.filter (fun e => used.contains e.1) }

/-- The lowest free entry. -/
def Group.freeRet (g : Group) : Option Nat := (upto 256).find? (fun i => (tfind g.rets i).isNone)

/-- A call pushes an entry (R44); the split's new record with it. -/
def Group.pushRet (g : Group) (x : Split) (rpc : Nat) : Group × Split :=
  match g.freeRet with
  | none => (g, x)
  | some i => ({ g with rets := tput g.rets i { rpc := rpc, link := x.rsp } },
               { x with rsp := some i, depth := x.depth + 1 })

/-! Branches (R36, R41, R248, R250). -/

/-- A split divides: one part per pair of lanes and target, the first keeps the record and the PC slot (R36). join gives
the join PC of a divergent prefixed BRA (R41); call tells whether the part calls, with its return address. -/
structure Part where
  mask : Mask
  pc : Nat
  call : Bool := false

def Group.callPart (g : Group) (x : Split) (p : Part) (ret : Nat) : Group × Split :=
  let y := { x with mask := p.mask, pc := p.pc }
  if p.call then g.pushRet y ret else (g, y)

/-- The parts of a split put in place: the first in the slot, each other as a new split. -/
def Group.divide (g : Group) (i : Nat) (ps : List Part) (ret : Nat) : Group :=
  match g.slotOf i, ps with
  | some x, p :: r =>
    let (g, y) := g.callPart x p ret
    let g := g.putSlot i (some y)
    r.foldl (fun g p =>
      let (g, z) := g.callPart x p ret
      g.addSplit { z with stepping := false, stopping := false, stopped := x.stepping || x.stopping, rotate := false }) g
  | _, _ => g

/-- The new family of a divergent BRA with a join offset (R41), entered in the split of slot i. -/
def Group.openFam (g : Group) (i : Nat) (join : Nat) : Group :=
  match g.slotOf i with
  | none => g
  | some x =>
    let f := g.famId 300 g.famNext
    let g := { g with famNext := (f + 1) % 65536,
                      fams := g.fams ++ [({ id := f, pfam := x.fam, pjpc := x.jpc, fdepth := x.depth } : Fam)] }
    g.putSlot i (some { x with fam := f, jpc := some join })

/-- JOIN at a word address: the split arrives when its record and its family's depth match (R43). -/
def Group.joins (g : Group) (x : Split) (addr : Nat) : Bool :=
  decide (x.jpc = some addr) &&
    (match g.fam? x.fam with
     | some l => decide (l.fdepth = x.depth)
     | none => false)

end Sys2Proof.Machine
end

