-- ==== Sys2Proof/Machine/Ops.lean ====
section
/-! DEFINITION. Taking a trap and going on after one; the issue of a unit: candidates, packed issue, prices, the rows of
R436, and the retirement of a unit and of a run (R34, R35, R154 to R159, R315, R316, R331, R394, R436, R437). -/
namespace Sys2Proof.Machine

/-! Taking a trap (R394, R395). -/

/-- A debugger is attached to a context (R402). -/
def dbgctl (s : State) (ctx : Nat) : Dword := s.reg (0x310000 + 8 * ctx)
def attached (s : State) (ctx : Nat) : Bool := (dbgctl s ctx).getLsbD 63

/-- A trap of a code is caught by an attached debugger. -/
def caught (s : State) (ctx code : Nat) : Bool :=
  let w := dbgctl s ctx
  w.getLsbD 63 && (decide (code = 0x0A) ||
    (decide (1 ≤ code ∧ code ≤ 0x1F) && w.getLsbD 60) || (decide (0x20 ≤ code ∧ code ≤ 0x3F) && w.getLsbD 59) ||
    (decide (0x40 ≤ code ∧ code ≤ 0x5F) && w.getLsbD 58))

/-- A trap of a group of team die and handle goes to the firmware of the die that holds the group, with that die's count (R395,
R396); a group that traps after its grid's abort has begun writes no record (R401). -/
def queueTrap (s : State) (die : Nat) (g : Group) (t : Trap) : State :=
  match s.team? die t.handle with
  | none => s
  | some m =>
    match s.grid? m.grid with
    | none => s
    | some r =>
      if r.aborted then s
      else
        s.updDie g.die (fun d => { d with traps := d.traps ++ [{ t with
          ctx := m.ctx, grid := m.grid, tdie := die, grp := g.num, caught := caught s m.ctx t.code, cycle := d.cycle }] })

/-- A trap with no unit to blame, at a split of a group at a run boundary, wherever it stands. -/
def raiseAt (s : State) (die handle : Nat) (g : Group) (x : Split) (code : Nat) (m : Mask) (detail : Nat) : State :=
  let rec_ : Trap := { handle := handle, code := code, slot := if g.s1.any (fun y => decide (y.born = x.born)) then 1 else 0, mask := m
                       detail := BitVec.ofNat 128 detail, pc := x.pc, rpc := x.pc, depth := x.depth, born := x.born }
  let s := s.setGroup die handle g.num (g.mapSplits (fun y => if y.born = x.born then { y with trapped := true } else y))
  queueTrap s die g rec_

/-- The trap of a group's unit goes to the firmware of the die: nothing of the group changes but that the trapping split
issues nothing more; the resume address is the first unit of the run (R394, R159). -/
def takeTrap (s : State) (die handle grp slot : Nat) (pc : Nat) (t : TrapInfo) : State :=
  match s.group? die handle grp with
  | none => s
  | some g =>
    match g.slotOf slot with
    | none => s
    | some x =>
      let rpc := match g.run with
        | some r => if r.slot = slot then r.start else pc
        | none => pc
      let rec_ : Trap := { handle := handle, code := t.code, slot := slot, mask := t.mask, detail := BitVec.ofNat 128 t.detail
                           pc := pc, rpc := rpc, depth := x.depth, region := t.region, born := x.born }
      let s := s.setGroup die handle grp
        { (g.putSlot slot (some { x with trapped := true })) with run := none, awaits := none }
      queueTrap s die g rec_

/-- A split goes on after its trap's disposition: it stands at the resume address of its record (R395, R404). -/
def Split.afterTrap (x : Split) (rpc : Nat) : Split := { x with trapped := false, pc := rpc }

/-! What a unit is to the issue rules. -/

/-- A unit: its words, whether W is 1, what it names, whether it is group-uniform, its price, the misuse of row 3, the
gates of rows 8 and 9, and its effect. -/
structure UnitOp where
  h : Hdr
  w : Bool := false
  refs : Refs := {}
  /-- RET reads the return stack (R434). -/
  ret : Bool := false
  uniform : Bool := false
  price : Nat := 0
  row3 : Ctx → State → Option TrapInfo := fun _ _ => none
  gate : Ctx → State → Gate := fun _ _ => .go
  effect : Ctx → State → State := fun _ s => s

/-- The context of a group's unit. -/
def mkCtx (s : State) (i : Issuer) (h : Hdr) : Option Ctx :=
  match s.team? i.die i.handle with
  | none => none
  | some t =>
    match t.group? i.grp with
    | none => none
    | some g =>
      match g.slotOf i.slot with
      | none => none
      | some x =>
        let p := h.px.getD {}
        some { die := i.die, handle := i.handle, grp := i.grp, slot := i.slot, team := t, g := g, x := x, px := p,
               lit := (h.lit.getD 0).toNat, act := activeSet g x p, unit := x.pc,
               sword := x.pc + (if h.px.isSome then 4 else 0), next := (x.pc + h.len) % 2 ^ 40 }

/-! Candidates (R40, R158, R315). -/

/-- The issue scheduler of a group: die, core and slot div 24 (R31). -/
def schedOf (g : Group) : Nat × Nat × Nat := (g.die, g.core, g.slot / 24)

/-- Another group of the same scheduler has an open run (R158). -/
def otherRun (s : State) (h grp : Nat) (g : Group) : Bool :=
  (groupsOnCore s g.die g.core).any (fun p =>
    p.2.run.isSome && decide (schedOf p.2 = schedOf g) && !(decide (p.1.handle = h) && decide (p.2.num = grp)))

/-- The groups of one of a pair's eight schedulers, core 2p first (R316). -/
def schedGroups (s : State) (d p k : Nat) : List (Team × Group) :=
  (groupsOnCore s d (2 * p + k / 4)).filter (fun x => decide (x.2.slot / 24 = k % 4))

/-- The core of a group may issue: its die runs, the core has not failed, its island is not changing (R341, R466). -/
def coreUp (s : State) (g : Group) : Bool :=
  let d := s.die g.die
  decide (d.boot = 1) && !d.failedCores.contains g.core && (d.island (g.core / 2)).change.isNone &&
    !(d.island (g.core / 2)).stopped

/-- The split of a slot may issue as far as the group's and team's standing goes. -/
def mayIssue (s : State) (t : Team) (g : Group) (slot : Nat) : Bool :=
  (match g.slotOf slot with | some x => x.runnable | none => false) &&
    decide (g.residence = .resident) && coreUp s g &&
    (match t.state with
     | .resident | .draining => true
     | .deciding | .saving | .discarding => g.run.isSome
     | _ => false) &&
    (match g.run with
     | some r => decide (r.slot = slot)
     | none => !otherRun s t.handle g.num g)

/-- A scalar or register that the unit names is pending (R204, R443). -/
def pendingHit (g : Group) (r : Refs) : Bool :=
  r.s.any (fun i => g.pendScalars.getLsbD i) || r.v.any (fun i => g.pendRegs.contains (g.wb + i))

/-! The rows of R436 from WINDOW to SOFTERR. -/

def windowGate (c : Ctx) (r : Refs) : Gate :=
  match r.v.find? (fun i => decide (c.team.vregs ≤ c.g.wb + i)) with
  | none => .go
  | some i => .trap { code := 0x02, mask := c.act, detail := at_ c.team.vregs 12 12 + at_ (c.g.wb + i) 0 12 }

def staleGate (c : Ctx) (r : Refs) : Gate :=
  match r.y.find? (fun j => !(c.g.run.isSome && c.g.latchValid.getLsbD j)) with
  | none => .go
  | some j => .trap { code := 0x03, mask := c.act, detail := j }

def longrunGate (c : Ctx) (w : Bool) : Gate :=
  match c.g.run with
  | some r => if w ∧ 15 ≤ r.count then .trap { code := 0x04, mask := c.act } else .go
  | none => .go

/-- Damaged state that the unit reads (R434): structure and number. -/
def softHit (c : Ctx) (u : UnitOp) : Option Damage :=
  c.g.damage.find? (fun d =>
    (decide (d.structure_ = 0) && (u.refs.rv.map (c.g.wb + ·)).contains d.number) ||
    (decide (d.structure_ = 1) && u.refs.y.contains d.number) ||
    (decide (d.structure_ = 2) && u.refs.rs.contains d.number) ||
    (decide (d.structure_ = 3) && (u.refs.k.contains d.number || (c.px.g && decide (c.px.gm = d.number)))) ||
    (decide (d.structure_ = 4) && u.refs.c.contains d.number) ||
    (decide (d.structure_ = 5) && decide (d.number = c.slot)) ||
    (decide (d.structure_ = 6) && u.ret && decide (c.x.rsp = some d.number)))

def softGate (c : Ctx) (u : UnitOp) : Gate :=
  match softHit c u with
  | none => .go
  | some d => .trap { code := 0x28, mask := c.act, detail := at_ d.number 16 16 + at_ d.structure_ 0 4 }

/-- The first row of R436 from row 3 on that a group's unit fails. A group-uniform unit whose active set is empty is not
performed (R154). -/
def verdict (u : UnitOp) (c : Ctx) (s : State) : Gate :=
  (match u.row3 c s with | some t => Gate.trap t | none => Gate.go).both fun _ =>
  (windowGate c u.refs).both fun _ =>
  (staleGate c u.refs).both fun _ =>
  (longrunGate c u.w).both fun _ =>
  (softGate c u).both fun _ =>
  if u.uniform ∧ c.act = 0 then .go else u.gate c s

/-! Purses (R315, R316, R331, R332). -/

/-- The unit of a group's PC slot is its scheduler's head: the one that awaits sheaves (R331). -/
def isHead (g : Group) (slot : Nat) : Bool := g.awaits.isSome && decide (g.awaitSlot = slot)

/-- The price can be granted now. -/
def grantable (s : State) (g : Group) (slot price : Nat) : Bool :=
  let p := s.pair g.die (g.core / 2)
  decide (price = 0) || (decide (price ≤ p.purse) && (!p.claim || isHead g slot))

def Group.noWait (g : Group) : Group := { g with awaits := none, awaitLaps := 0 }

/-- No unit of a scheduler awaits sheaves any more. -/
def endWaits (s : State) (l : List (Team × Group)) : State :=
  (l.filter (fun x => x.2.awaits.isSome)).foldl (fun s x => s.updGroup x.1.die x.1.handle x.2.num Group.noWait) s

/-- The scheduler of a group within its pair. -/
def schedOfPair (g : Group) : Nat := g.core % 2 * 4 + g.slot / 24

/-- A unit that cannot be granted: its scheduler's first choice awaits sheaves from now, or goes on doing so, and no other unit
of the scheduler does (R331); any other choice is passed over (R316). -/
def awaitSheaves (s : State) (c : Ctx) (price : Nat) : State :=
  let d := c.g.die
  let p := c.g.core / 2
  if (s.pair d p).first then s
  else
    let on := isHead c.g c.slot && decide (c.g.awaitPrice = price)
    let others := (schedGroups s d p (schedOfPair c.g)).filter (fun x =>
      !(decide (x.1.die = c.die) && decide (x.1.handle = c.handle) && decide (x.2.num = c.grp)))
    let s := (endWaits s others).setPair d p { s.pair d p with first := true }
    s.setGroup c.die c.handle c.grp
      { c.g with awaits := some (if on then c.g.awaits.getD 0 else (s.die d).cycle), awaitPrice := price, awaitSlot := c.slot
                 awaitLaps := if on then c.g.awaitLaps else 0 }

/-! Whose turn it is (R36, R315, R316, R332). -/

/-- The core clock of a ratio and step, maximum, in units of 25 MHz (R340). -/
def coreClock (ratio step : Nat) : Nat :=
  (([[50, 40, 32, 25], [64, 56, 50, 40], [80, 72, 64, 56]].getD ratio []).getD step 25)

/-- The pair's clock is halved: by its island's own detector, or by that of another island of the leased bond on its die (R269). -/
def halved (s : State) (d p : Nat) : Bool :=
  ((s.die d).island p).half ||
    (match bondAt s d (p / 4) with
     | some _ => (upto 4).any (fun k => ((s.die d).island (p / 4 * 4 + k)).half)
     | none => false)

/-- Cycles of a pair's island by a count of the 2 GHz reference, at its present clock (R17, R18, R340, R342; log 10). -/
def islandCycles (s : State) (d p count : Nat) : Nat :=
  let i := (s.die d).island p
  count * (coreClock i.aratio i.astep * (if halved s d p then 1 else 2)) / 160

/-- The island's clock has a cycle in this count. -/
def pairCycle (s : State) (d p : Nat) : Bool :=
  let c := (s.die d).cycle
  decide (islandCycles s d p c < islandCycles s d p (c + 1))

/-- The order of R315: a head that a claim lets be granted first (R332), a group that has just yielded last (R251), then the
least recently issued, then the lower slot and part. -/
def turnKey (s : State) (g : Group) : Nat :=
  let p := s.pair g.die (g.core / 2)
  let after := decide (g.yielded = some ((s.die g.die).cycle - 1)) && decide (0 < (s.die g.die).cycle)
  if p.claim && g.awaits.isSome && decide (g.awaitPrice ≤ p.purse) then 0
  else (btn after * 2 ^ 64 + g.issueSeq) * 512 + 4 * g.slot + g.part + 1

/-- Entries in rising order of their keys. -/
def byKey {α : Type} (l : List (Nat × α)) : List (Nat × α) := l.foldl ins []
where
  ins : List (Nat × α) → Nat × α → List (Nat × α)
  | [], x => [x]
  | y :: r, x => if x.1 < y.1 then x :: y :: r else y :: ins r x

/-- What a scheduler chooses from, in the order of its choice: only the next unit of an open run, and otherwise each group's PC
slots, the one that did not have the last turn first (R36, R158, R315). -/
def choices (s : State) (d p k : Nat) : List Issuer :=
  let gs := schedGroups s d p k
  let one := fun (t : Team) (g : Group) (i : Nat) => ({ die := t.die, handle := t.handle, grp := g.num, slot := i } : Issuer)
  let of := fun (x : Team × Group) (l : List Nat) => (l.filter (mayIssue s x.1 x.2)).map (one x.1 x.2)
  match gs.find? (fun x => x.2.run.isSome) with
  | some x => of x (match x.2.run with | some r => [r.slot] | none => [])
  | none => (byKey (gs.map (fun x => (turnKey s x.2, of x [1 - x.2.turn, x.2.turn])))).flatMap (·.2)

/-- The scheduler has issued in this count. -/
def schedDone (s : State) (d p k : Nat) : Bool :=
  (schedGroups s d p k).any (fun x => decide (x.2.issueSeq ≠ 0) && decide (x.2.lastIssue = (s.die d).cycle))

/-- The next choice of a pair's schedulers, of which n are still to be served: the first that is not tried yet. The turn passes to the
next scheduler when one has issued or has no choice left; without a first choice that awaits sheaves no wait of it goes on. -/
def serveOn (d p : Nat) : Nat → State → State × Option Issuer
  | 0, s => (s, none)
  | n + 1, s =>
    let pr := s.pair d p
    let k := (islandCycles s d p (s.die d).cycle + (7 - n)) % 8
    match (if schedDone s d p k then none else (choices s d p k).find? (fun i => !pr.tried.contains i)) with
    | some i => (s, some i)
    | none =>
      let s := if pr.first then s else endWaits s (schedGroups s d p k)
      serveOn d p n (s.setPair d p { s.pair d p with served := 8 - n, tried := [], first := false })

/-- The choice that a pair has still to try in this count, in the rotating order of R316, which starts one scheduler later in each
cycle of the island. -/
def serve (s : State) (d p : Nat) : State × Option Issuer :=
  if !pairCycle s d p then (s, none)
  else
    let now := (s.die d).cycle + 1
    let s := if (s.pair d p).servedAt = now then s
      else s.setPair d p { s.pair d p with servedAt := now, served := 0, tried := [], first := false }
    serveOn d p (8 - (s.pair d p).served) s

/-- The choice is tried. -/
def tryIssue (s : State) (d p : Nat) (i : Issuer) : State :=
  s.setPair d p { s.pair d p with tried := i :: (s.pair d p).tried }

/-- The pairs of the module on which some group stands: 64 die + pair. -/
def busyPairs (s : State) : List Nat :=
  dedup (s.teams.flatMap (fun t => (t.groupList.filter (fun g => decide (g.residence = .resident) && s.running g.die)).map (fun g =>
    64 * g.die + g.core / 2)))

/-- The next choice that some pair has still to try in this count. -/
def nextChoice (s : State) : List Nat → State × Option Issuer
  | [] => (s, none)
  | k :: r =>
    match serve s (k / 64) (k % 64) with
    | (s, some i) => (s, some i)
    | (s, none) => nextChoice s r

/-- The price of an issue: from the pair's purse, to the context and core (R174, R335). -/
def payIssue (s : State) (c : Ctx) (price : Nat) : State :=
  if price = 0 then s
  else
    let p := s.pair c.g.die (c.g.core / 2)
    charge (s.setPair c.g.die (c.g.core / 2) { p with purse := p.purse - price }) c.team.ctx c.core price

/-! An access that finds no path (R379, R473). -/

def isPathWait (c : Ctx) (p : PathWait) : Bool :=
  decide (p.die = c.die) && decide (p.handle = c.handle) && decide (p.grp = c.grp) && p.engine.isNone && p.own.isNone

def dropPathWait (s : State) (c : Ctx) : State :=
  if s.paths.any (isPathWait c) then { s with paths := s.paths.filter (fun p => !isPathWait c p) } else s

def pathWaits (s : State) (c : Ctx) (ep cap acc off : Nat) (m : Mask) : State :=
  if s.paths.any (isPathWait c) then s
  else
    let (id, s) := s.fresh
    { s with paths := s.paths ++ [{ id := id, die := c.die, handle := c.handle, grp := c.grp, endpoint := ep,
                                    since := (s.die c.die).cycle, cap := cap, acc := acc, off := off, mask := m,
                                    slot := c.slot }] }

/-! Retirement of a unit and of a run (R40, R157, R158, R406). -/

def latchesClear (g : Group) : Group := { g with latches := [], latchValid := 0 }

/-- The result of R406 of a STEP whose run has ended: EXITED, WAITING or STOPPED. -/
def stepResult (s : State) (c : Ctx) : Nat :=
  match s.group? c.die c.handle c.grp with
  | none => 0x100
  | some g =>
    if !g.splits.any (fun x => (x.stepping || x.stopped) && decide (x.mask &&& c.x.mask ≠ 0)) then 0x100
    else if g.splits.any (fun x => x.stepping && decide (x.wait ≠ .none)) then 0x200 else 0

/-- A debugger's STEP ends with its run, and its status is written (R403, R406). -/
def endStep (s : State) (c : Ctx) : State :=
  if c.x.stepping then s.updDie c.die (fun d => { d with dsts := BitVec.ofNat 64 (stepResult s c) }) else s

/-- The end of a run: latches invalid, a split that was to stop stops, the rotation points of R40, free slots taken. -/
def endRun (s : State) (c : Ctx) : State :=
  (endStep s c).updGroup c.die c.handle c.grp (fun g => (((latchesClear g).endStops).rotate c.slot).settle)

/-- The group as its unit begins to take effect: the first unit of a run finds every latch invalid (R157), the PC stands
at the next unit, and the run goes on when W is 1. -/
def startUnit (s : State) (u : UnitOp) (c : Ctx) : Ctx :=
  let first := c.g.run.isNone
  let g := if first then latchesClear c.g else c.g
  let start := match c.g.run with | some r => r.start | none => c.unit
  let count := match c.g.run with | some r => r.count | none => 0
  let x := { c.x with pc := c.next, last := some c.unit, issued := c.x.issued + 1 }
  let g := { (g.putSlot c.slot (some x)) with
             run := if u.w then some { slot := c.slot, start := start, count := count + 1 } else none
             lastIssue := (s.die c.g.die).cycle, idle := 0, issueSeq := s.issues + 1, turn := c.slot
             awaits := none, awaitLaps := 0 }
  { c with g := g, x := x }

/-- A unit takes effect and retires in one group. -/
def complete (u : UnitOp) (c : Ctx) (s : State) : State :=
  let c' := startUnit s u c
  let s := { (dropPathWait s c) with issues := s.issues + 1 }
  let s := s.setGroup c.die c.handle c.grp c'.g
  let s := s.updTeam c.die c.handle (fun t => { t with ir := t.ir + 1 })
  let s := if u.uniform ∧ c.act = 0 then s else u.effect c' s
  if u.w then s else endRun s c

/-! Packed issue (R34, R35, R437). -/

/-- The other groups of the slot that stand at the same PC with a split that may issue in the same way; in an open run, those
that began it together (R35). -/
def packMates (c : Ctx) : List Issuer :=
  if 128 ≤ c.g.width ∨ c.x.stepping then []
  else
    c.team.groupList.filterMap (fun g =>
      if g.num = c.grp ∨ g.die ≠ c.g.die ∨ g.core ≠ c.g.core ∨ g.slot ≠ c.g.slot then none
      else
        let ok := fun i : Nat => (match g.slotOf i with | some x => decide (x.pc = c.unit) && !x.stepping | none => false) &&
          (match c.g.run, g.run with
           | none, none => true
           | some r, some q => r.pack.contains g.num && q.pack.contains c.grp && decide (q.slot = i)
           | _, _ => false) &&
          (match g.slotOf i with | some x => x.runnable | none => false) && decide (g.residence = .resident)
        let first := if g.turn = 0 then 1 else 0
        let slot := if ok first then some first else if ok (1 - first) then some (1 - first) else none
        slot.map (fun i => { die := c.die, handle := c.handle, grp := g.num, slot := i }))

/-- A mate joins the issue when its operands are ready and none of its gates makes it wait. -/
def mateReady (u : UnitOp) (c : Ctx) (s : State) : Bool :=
  !pendingHit c.g u.refs &&
    (match verdict u c s with | .wait => false | .refill _ => false | .noPath .. => false | _ => true)

/-- The context with team, group and split as the state now holds them. -/
def Ctx.refresh (c : Ctx) (s : State) : Ctx :=
  match s.team? c.die c.handle with
  | none => c
  | some t =>
    match t.group? c.grp with
    | none => c
    | some g => { c with team := t, g := g }

/-- One group of a packed issue: it traps, or completes the unit. -/
def mateIssue (u : UnitOp) (s : State) (c : Ctx) : State :=
  match verdict u c s with
  | .trap t => takeTrap s c.die c.handle c.grp c.slot c.unit t
  | .go => complete u (c.refresh s) s
  | _ => s

/-- The run that a packed issue has begun stays together (R35). -/
def joinRun (c : Ctx) (all : List Nat) (s : State) (k : Nat) : State :=
  s.updGroup c.die c.handle k (fun g =>
    { g with run := (g.run).map (fun (r : Run) => if r.count = 1 then { r with pack := all.filter (fun j => decide (j ≠ k)) } else r) })

/-- What a group of a packed run waits for. -/
def mateWaits (u : UnitOp) (c : Ctx) (s : State) : State :=
  if pendingHit c.g u.refs then s
  else
    match verdict u c s with
    | .refill h => refillHold s c.core h
    | .noPath ep cap acc off m => pathWaits s c ep cap acc off m
    | _ => s

/-- The mates of an issue. -/
def mateCtxs (u : UnitOp) (c : Ctx) (s : State) : List Ctx := (packMates c).filterMap (fun i => mkCtx s i u.h)

/-- The first mate of an open run that is not ready: the whole run waits for it (R158). -/
def lateMate (u : UnitOp) (c : Ctx) (s : State) : Option Ctx :=
  if c.g.run.isSome then (mateCtxs u c s).find? (fun m => !mateReady u m s) else none

/-- The issue of a candidate unit: it waits, traps, or takes effect, with its packed mates before it; the price is paid
once when some group of the issue takes effect. -/
def issueUnit (u : UnitOp) (c : Ctx) (s : State) : State :=
  if !mayIssue s c.team c.g c.slot then s
  else if pendingHit c.g u.refs then s
  else if !grantable s c.g c.slot u.price then awaitSheaves s c u.price
  else
    match verdict u c s with
    | .wait => s
    | .refill h => refillHold s c.core h
    | .noPath ep cap acc off m => pathWaits s c ep cap acc off m
    | v =>
      match lateMate u c s with
      | some m => mateWaits u m s
      | none =>
      let mates := (mateCtxs u c s).filter (fun m => mateReady u m s)
      let some_ := decide (v = .go) || mates.any (fun m => decide (verdict u m s = .go))
      let s := if some_ then payIssue s c u.price else s
      let s := mates.foldl (fun s m => mateIssue u s m) s
      let s := match v with
        | .trap t => takeTrap s c.die c.handle c.grp c.slot c.unit t
        | _ => complete u (c.refresh s) s
      let all := c.grp :: mates.map (·.grp)
      if mates.isEmpty ∨ !u.w then s else all.foldl (joinRun c all) s

/-- A unit's meaning: the issue of it by the group the state names. -/
def issue (u : UnitOp) (s : State) : Host.Outcome State Fault Refusal :=
  match s.cur with
  | none => .fault .noIssuer
  | some i =>
    match mkCtx s i u.h with
    | none => .fault .noIssuer
    | some c => .next (issueUnit u c s)

/-- A trap of row 1 or 2 takes every group of the packed issue (R437). -/
def trapIssue (s : State) (c : Ctx) (f : Ctx → TrapInfo) : State :=
  let mates := (packMates c).filterMap (fun i => mkCtx s i { px := none, lit := none })
  (mates ++ [c]).foldl (fun s m => takeTrap s m.die m.handle m.grp m.slot m.unit (f m)) s

/-! Register-only units. -/

/-- The group's own registers change and nothing else. -/
def Ctx.commit (c : Ctx) (s : State) (f : Group → Group) : State := s.setGroup c.die c.handle c.grp (f c.g)

/-- A unit whose whole effect is on its group's registers. -/
def regUnit (h : Hdr) (w : Bool) (refs : Refs) (price : Nat) (f : Ctx → Group → Group) : UnitOp :=
  { h := h, w := w, refs := refs, price := price, effect := fun c s => c.commit s (f c) }

/-- A group-uniform unit whose whole effect is on its group's registers. -/
def uniUnit (h : Hdr) (refs : Refs) (price : Nat) (f : Ctx → Group → Group) : UnitOp :=
  { h := h, refs := refs, uniform := true, price := price, effect := fun c s => c.commit s (f c) }

end Sys2Proof.Machine
end

