-- ==== Sys2Proof/Machine/Mem.lean ====
section
/-! DEFINITION. Loads, stores, atomics and memory control: majors 0x28 to 0x2F (R216 to R224, R104 to R107). -/
namespace Sys2Proof.Machine

/-! Pages. -/

/-- The page bits and the covering entries of the lanes accessed. -/
def markAccess (s : State) (c : Ctx) (a : Access) (store : Bool) (kinds : List Nat) (offs : List Nat) : State :=
  let o := readObj s c.team.ctx a.c.oid.toNat
  let s := offs.foldl (fun s off => markPage s o store off) s
  touchCover s c.team.ctx c.parties a.c.oid.toNat offs a.n kinds

/-- The resident lanes with their object offsets and places. -/
def placed (s : State) (ctx : Nat) (a : Access) : List (Nat × Nat × Nat) :=
  let o := readObj s ctx a.c.oid.toNat
  a.offs.filterMap (fun p => (placeOf s o (a.objOff p.2)).map (fun q => (p.1, a.objOff p.2, q)))

/-- Loaded bytes and marks of each resident lane, and the caches after (R80). -/
def loadLanes (s : State) (core ctx : Nat) (a : Access) : List (Nat × Nat × List (Byte × Bool)) × State :=
  (placed s ctx a).foldl (fun r p =>
    let (bs, s) := loadCached r.2 core p.2.2 a.n
    (r.1 ++ [(p.1, p.2.1, bs)], s)) ([], s)

/-- A load that L1 or L2 can answer needs no path. -/
def inCaches (s : State) (core place n : Nat) : Bool :=
  (match findLine s false core (place / 128) with
   | some c => (upto n).all (fun i => mbit c.known (place % 128 + i))
   | none => false) ||
  (match findLine s true (l2Of core) (place / 128) with
   | some c => decide (c.known = allOnes128)
   | none => false)

/-- The path gate for the lanes whose bytes the core's caches do not hold. -/
def fillPath (s : State) (c : Ctx) (a : Access) : Gate :=
  let o := readObj s c.team.ctx a.c.oid.toNat
  pathGate s c.team.ctx c.g.die
    { a with offs := a.offs.filter (fun p => match placeOf s o (a.objOff p.2) with
        | some q => !inCaches s c.core q a.n
        | none => false) }

/-- The gates of a global access (R415): checks, residency when it must be resident, cover; then the path and the marks
of what arrives. -/
def loadGate (s : State) (c : Ctx) (a : Access) (mustReside : Bool) : Gate :=
  (ownGate s c.team.ctx c.parties a).both fun _ =>
  (capGate s c.team.ctx a).both fun _ =>
  (if mustReside then residencyGate s c.team.ctx a else .go).both fun _ =>
  (coverGate s c.team.ctx c.core c.parties a loadKinds).both fun _ =>
  (fillPath s c a).both fun _ =>
  poisonGate false a.cap a.acc ((loadLanes s c.core c.team.ctx a).1.map (fun r => (r.1, r.2.1, r.2.2.map (·.2))))

def storeGate (s : State) (c : Ctx) (a : Access) (mustReside : Bool) : Gate :=
  (ownGate s c.team.ctx c.parties a).both fun _ =>
  (capGate s c.team.ctx a).both fun _ =>
  (if mustReside then residencyGate s c.team.ctx a else .go).both fun _ =>
  coverGate s c.team.ctx c.core c.parties a storeKinds

/-- Mask k(res): set in the lanes that are not resident, cleared in the resident ones (R75). -/
def resMask (c : Ctx) (res : Nat) (absent : List Nat) (g : Group) : Group :=
  if res = 0 then g else c.putK res (fun l => absent.contains l) g

/-- The capability register as an access reads it. -/
def Ctx.cap (c : Ctx) (i : Nat) : Cap := tget c.g.caps i {}

/-- Registers that hold 2^sz bytes. -/
def regsOfSize (sz : Nat) : Nat := if sz ≤ 2 then 1 else if sz = 3 then 2 else 4

/-- Loaded bytes as register words in a lane's destination. -/
def putLoad (c : Ctx) (d : Dst) (sz : Nat) (f : Nat → Nat) (g : Group) : Group := c.put d (regsOfSize sz) f g

/-! LD, ST (R216, R217). -/

def accessOf (c : Ctx) (cap need sz acc : Nat) (o40 : Bool) (a : Src) : Access :=
  { cap := cap, c := c.cap cap, need := need, n := 2 ^ sz, acc := acc, offs := c.lanes.map (fun l => (l, c.off o40 a l)) }

def offRefs (a : Src) (o40 : Bool) : Refs := srcRefs a (match a with | .v _ => if o40 then 2 else 1 | _ => 1)

/-- The bytes a lane stores: the low n bytes of its source (R216). -/
def storeBytes (c : Ctx) (d : Src) (sz l : Nat) : List Byte :=
  leBytes (2 ^ sz) (
    match d with
    | .v i => (upto (regsOfSize sz)).foldl (fun v k => v + 2 ^ (32 * k) * readReg c.g (c.g.wb + i + k) l) 0
    | .zero => 0
    | d => c.rd64 false d l)

/-- An 8-byte latch source spans two latches; narrower ones span one. -/
def storeRefs (d : Src) (sz : Nat) : Refs :=
  match d with
  | .y j => if sz = 3 then srcRefs (.y j) 2 else srcRefs (.y j) 1
  | d => srcRefs d (regsOfSize sz)

/-- A source of at most 4 bytes reads one latch. -/
def storeBytesOf (c : Ctx) (d : Src) (sz l : Nat) : List Byte :=
  match d with
  | .y j => if sz = 3 then storeBytes c (.y j) sz l else leBytes (2 ^ sz) (readLatch c.g j l)
  | d => storeBytes c d sz l

def execLd (x : LdU) (s : State) :=
  issue { h := x.h, refs := refsOf [vName x.d (regsOfSize x.sz), offRefs x.a x.o40, cRead x.c], price := 2
          gate := fun c s => loadGate s c (accessOf c x.c rR x.sz 0 x.o40 x.a) (x.res == 0)
          effect := fun c s =>
            let a := accessOf c x.c rR x.sz 0 x.o40 x.a
            let (rs, s) := loadLanes s c.core c.team.ctx a
            let s := markAccess s c a false loadKinds (rs.map (·.2.1))
            let f := fun l => match rs.find? (fun r => r.1 == l) with
              | some r => leNat (r.2.2.map (·.1))
              | none => 0
            c.commit s (fun g => resMask c x.res ((c.lanes.filter (fun l => !(rs.any (fun r => r.1 == l)))))
              (putLoad c (.v x.d false) x.sz f g)) } s

def execSt (x : StU) (s : State) :=
  issue { h := x.h, refs := refsOf [storeRefs x.d x.sz, offRefs x.a x.o40, cRead x.c], price := 2
          gate := fun c s => storeGate s c (accessOf c x.c rW x.sz 1 x.o40 x.a) (x.res == 0)
          effect := fun c s =>
            let a := accessOf c x.c rW x.sz 1 x.o40 x.a
            let ps := placed s c.team.ctx a
            let s := ps.foldl (fun s p =>
              storeCached s c.core p.2.2 (storeBytesOf c x.d x.sz p.1) false) s
            let s := markAccess s c a true storeKinds (ps.map (·.2.1))
            c.commit s (resMask c x.res (c.lanes.filter (fun l => !(ps.any (fun p => p.1 == l))))) } s

/-! LDL, STL (R218). -/

/-- The rank's core of a twin team stands on the other die: the access crosses the seam (R380, R472). -/
def crossesSeam (c : Ctx) (la : Nat) : Bool :=
  decide (c.team.span = 3) && c.team.gleaner.isNone && !decide (c.g.die = c.team.die + (if bits la 23 20 < 8 then 0 else 1))

/-- Local accesses wait while the seam retrains, and meet PATH when it is down (R472). -/
def seamGate (s : State) (c : Ctx) (acc : Nat) (las : List (Nat × Nat)) : Gate :=
  let far := las.filter (fun p => crossesSeam c p.2)
  let seam := tget s.seams (c.team.die / 2) {}
  match far with
  | [] => .go
  | p :: _ =>
    if 3 ≤ seam.losses then
      .trap { code := 0x80, mask := maskOf (far.map (·.1)),
              detail := pathDetail 0 acc (if c.g.die = c.team.die then c.team.die + 1 else c.team.die) p.2 }
    else if seam.till.isSome then .wait else .go

def localAddrs (c : Ctx) (a : Src) : List (Nat × Nat) := c.lanes.map (fun l => (l, c.rd (.int 32) a l))

def localMarks (t : Team) (i n : Nat) : List Bool := (upto n).map (fun k => t.locPoison.contains (i + k))

def execLdl (x : LdlU) (s : State) :=
  issue { h := x.h, refs := refsOf [vName x.d (regsOfSize x.sz), srcRefs x.a 1], price := 1
          gate := fun c s =>
            let las := localAddrs c x.a
            (localGate c.team 0 (2 ^ x.sz) las).both fun _ =>
            (seamGate s c 0 las).both fun _ =>
            poisonGate true 0 0 (las.map (fun p => (p.1, p.2, localMarks c.team (locIndex c.team c.grp p.2) (2 ^ x.sz))))
          effect := fun c s =>
            let f := fun l => leNat (readLocal c.team (locIndex c.team c.grp (c.rd (.int 32) x.a l)) (2 ^ x.sz))
            c.commit s (putLoad c (.v x.d false) x.sz f) } s

def execStl (x : StlU) (s : State) :=
  issue { h := x.h, refs := refsOf [storeRefs x.d x.sz, srcRefs x.a 1], price := 1
          gate := fun c s =>
            let las := localAddrs c x.a
            (localGate c.team 1 (2 ^ x.sz) las).both fun _ => seamGate s c 1 las
          effect := fun c s =>
            s.updTeam c.die c.handle (fun t => (localAddrs c x.a).foldl (fun t p =>
              writeLocal t (locIndex t c.grp p.2) (storeBytesOf c x.d x.sz p.1)) t) } s

/-! LDU, STU (R219). -/

def uniAccess (c : Ctx) (cap need sz acc : Nat) (o40 : Bool) (a : SSrc) : Access :=
  { cap := cap, c := c.cap cap, need := need, n := 2 ^ sz, acc := acc, offs := c.lanes.map (fun l => (l, c.offS o40 a)) }

def execLdu (x : LduU) (s : State) :=
  issue { h := x.h, refs := refsOf [sName x.d, ssrcRefs x.a, cRead x.c], uniform := true, price := 2
          gate := fun c s => loadGate s c (uniAccess c x.c rR x.sz 0 x.o40 x.a) (x.res == 0)
          effect := fun c s =>
            let a := uniAccess c x.c rR x.sz 0 x.o40 x.a
            let (rs, s) := loadLanes s c.core c.team.ctx { a with offs := a.offs.take 1 }
            let s := markAccess s c a false loadKinds (rs.map (·.2.1))
            let v := match rs with | r :: _ => leNat (r.2.2.map (·.1)) | [] => 0
            c.commit s (fun g => resMask c x.res (if rs.isEmpty then c.lanes else []) (c.putS x.d v g)) } s

def execStu (x : StuU) (s : State) :=
  issue { h := x.h, refs := refsOf [ssrcRefs x.d, ssrcRefs x.a, cRead x.c], uniform := true, price := 2
          gate := fun c s => storeGate s c (uniAccess c x.c rW x.sz 1 x.o40 x.a) (x.res == 0)
          effect := fun c s =>
            let a := uniAccess c x.c rW x.sz 1 x.o40 x.a
            let ps := placed s c.team.ctx { a with offs := a.offs.take 1 }
            let s := ps.foldl (fun s p => storeCached s c.core p.2.2
              (leBytes (2 ^ x.sz) (c.rdS false x.d)) false) s
            let s := markAccess s c a true storeKinds (ps.map (·.2.1))
            c.commit s (resMask c x.res (if ps.isEmpty then c.lanes else [])) } s

/-! Orderings (R82, R106, R107). -/

/-- The group's ownership operations still outstanding. -/
def ownOutstanding (s : State) (c : Ctx) : Bool :=
  s.ownOps.any (fun o => decide (o.die = c.die) && decide (o.handle = c.handle) && decide (o.grp = c.grp))

/-- The endpoint of a dirty line on the paths of some cores that cannot reach its home now (R473). -/
def stuckDirty (s : State) (cores : List Nat) (p : CLine → Bool) : Option Nat :=
  s.lines.findSome? (fun c =>
    let mine := if c.l2 then (cores.map l2Of).contains c.unit else cores.contains c.unit
    let die := if c.l2 then c.unit / 16 else c.unit / 128
    if mine && p c && (decide (c.dirty ≠ 0) || decide (c.tagDirty ≠ 0)) then
      match reach s die (128 * c.line) with
      | .ok => none
      | .never e => some e
      | .noPath e => some e
    else none)

/-- A release by the group that goes to the homes waits for the paths of its dirty lines; ACC 8 marks such a wait. -/
def stuckGate (s : State) (c : Ctx) (scope : Nat) : Gate :=
  if scopeDepth scope c.team.span ≠ 2 then .go
  else
    match stuckDirty s [c.core] (fun _ => true) with
    | some e => .noPath e 0 8 0 c.act
    | none => .go

/-- A release waits for the group's ownership operations and for paths (R107, R473). -/
def releaseGate (s : State) (c : Ctx) (scope : Nat) : Gate := if ownOutstanding s c then .wait else stuckGate s c scope

def releaseAll (s : State) (c : Ctx) (scope : Nat) : State :=
  releaseLines s [c.core] (scopeDepth scope c.team.span) (fun _ => true)

def acquireAll (s : State) (c : Ctx) (scope : Nat) : State :=
  acquireLines s [c.core] (scopeDepth scope c.team.span) (fun _ => true)

/-- Ordering and scope of IMM15; without a prefix, relaxed at scope 7 (R106). -/
def orderOf (h : Hdr) : Nat × Nat :=
  match h.px with
  | none => (0, 7)
  | some p => (p.imm / 2 ^ 12 % 8, p.imm / 2 ^ 8 % 16)

def hasRelease (o : Nat) : Bool := decide (o = 2) || decide (o = 3)
def hasAcquire (o : Nat) : Bool := decide (o = 1) || decide (o = 3)

/-! ATOM, RED (R220, R221). -/

/-- The new value of a location (R220). -/
def atomNew (o : AtomOp) (w m v cmp : Nat) : Nat :=
  match o with
  | .add => (m + v) % 2 ^ w
  | .min => if sextN v w < sextN m w then v else m
  | .max => if sextN m w < sextN v w then v else m
  | .nmin => min m v
  | .nmax => max m v
  | .and => m &&& v
  | .or => m ||| v
  | .xor => m ^^^ v
  | .exch => v
  | .cas => if m = cmp then v else m
  | .fadd => (faddAtom m v)
  | .inc => if v ≤ m then 0 else m + 1
  | .dec => if m = 0 ∨ v < m then v else m - 1
where
  /-- The f32 sum, nearest-even, infinities and NaN as FADD. -/
  faddAtom (m v : Nat) : Nat := (deliver (fsum .ne [Fmt.f32.dec m, Fmt.f32.dec v]).1 .f32 .ne false).1

/-- One location's operation at its home (R105): the old value and the state. -/
def atomAt (s : State) (o : AtomOp) (n place v cmp : Nat) : Nat × State :=
  let m := homeNat s place n
  (m, wrHomeNat s place n (atomNew o (8 * n) m v cmp))

/-- Marks of every lane's location at its home (R433). -/
def homeMarks (s : State) (place n : Nat) : List Bool := (upto n).map (fun i => homePoison s (place + i))

def atomGate (s : State) (c : Ctx) (a : Access) (order scope : Nat) : Gate :=
  (if hasRelease order && ownOutstanding s c then Gate.wait else Gate.go).both fun _ =>
  (ownGate s c.team.ctx c.parties a).both fun _ =>
  (capGate s c.team.ctx a).both fun _ =>
  (residencyGate s c.team.ctx a).both fun _ =>
  (coverGate s c.team.ctx c.core c.parties a atomKinds).both fun _ =>
  (pathGate s c.team.ctx c.g.die a).both fun _ =>
  (poisonGate false a.cap a.acc ((placed s c.team.ctx a).map (fun p => (p.1, p.2.1, homeMarks s p.2.2 a.n)))).both fun _ =>
  if hasRelease order then stuckGate s c scope else .go

/-- Every lane's operation in increasing lane order (R221), between the release and the acquire of its ordering: the old
values by lane. operand gives a lane's value and compare value. -/
def atomLanes (s : State) (c : Ctx) (a : Access) (o : AtomOp) (order scope : Nat) (operand : Nat → Nat × Nat) :
    List (Nat × Nat) × State :=
  let s := if hasRelease order then releaseAll s c scope else s
  let ps := placed s c.team.ctx a
  let r := ps.foldl (fun r p =>
    let (m, s) := atomAt r.2 o a.n p.2.2 (operand p.1).1 (operand p.1).2
    (r.1 ++ [(p.1, m)], s)) ([], s)
  let s := markAccess r.2 c a true atomKinds (ps.map (·.2.1))
  let s := if hasAcquire order then acquireAll s c scope else s
  (r.1, releaseDeps s)

/-- Operand registers of ATOM: the value, and for CAS the compare value then the new value. -/
def atomRegs (o : AtomOp) (sz : Nat) : Nat := if o = .cas then 2 * regsOfSize sz else regsOfSize sz

def regWord (c : Ctx) (i k l : Nat) : Nat := (upto k).foldl (fun v j => v + 2 ^ (32 * j) * readReg c.g (c.g.wb + i + j) l) 0

def execAtom (x : AtomU) (s : State) :=
  let (order, scope) := orderOf x.h
  let k := regsOfSize x.sz
  issue { h := x.h, refs := refsOf [vRead x.d (atomRegs x.op x.sz), offRefs x.a x.o40, cRead x.c], price := 3
          gate := fun c s => atomGate s c (accessOf c x.c rA x.sz 2 x.o40 x.a) order scope
          effect := fun c s =>
            let operand := fun l =>
              if x.op = AtomOp.cas then (regWord c (x.d + k) k l, regWord c x.d k l) else (regWord c x.d k l, 0)
            let (ms, s) := atomLanes s c (accessOf c x.c rA x.sz 2 x.o40 x.a) x.op order scope operand
            let f := fun l => ((ms.find? (fun m : Nat × Nat => m.1 == l)).map (fun m : Nat × Nat => m.2)).getD 0
            c.commit s (putLoad c (.v x.d false) x.sz f) } s

/-- RED's operand: f32 for .fadd, and a 64-bit literal extended by the operation's Sign (R150, R220). -/
def redOperand (c : Ctx) (x : RedU) (l : Nat) : Nat :=
  match x.op with
  | .fadd => c.rd (.flt .f32) x.d l
  | .min | .max => if x.sz = 3 then c.rd64 true x.d l else leNat (storeBytesOf c x.d x.sz l)
  | _ => leNat (storeBytesOf c x.d x.sz l)

def execRed (x : RedU) (s : State) :=
  let (order, scope) := orderOf x.h
  issue { h := x.h, refs := refsOf [storeRefs x.d x.sz, offRefs x.a x.o40, cRead x.c], price := 3
          gate := fun c s => atomGate s c (accessOf c x.c rA x.sz 2 x.o40 x.a) order scope
          effect := fun c s =>
            (atomLanes s c (accessOf c x.c rA x.sz 2 x.o40 x.a) x.op order scope
              (fun l => (redOperand c x l, 0))).2 } s

/-! FENCE, PREF, PAGEIN (R222 to R224). -/

def execFence (x : NoneU) (s : State) :=
  let (order, scope) := orderOf x.h
  issue { h := x.h
          gate := fun c s => if hasRelease order then releaseGate s c scope else Gate.go
          effect := fun c s =>
            let s := if hasRelease order then releaseAll s c scope else s
            if hasAcquire order then acquireAll s c scope else s } s

/-- The lanes of a PREF that are not dropped (R223). -/
def prefLanes (s : State) (c : Ctx) (a : Access) : List (Nat × Nat × Nat) :=
  let oid := a.c.oid.toNat
  let o := readObj s c.team.ctx oid
  (placed s c.team.ctx { a with offs := a.offs.filter (fun p => (capCheck o a p.2).isNone) }).filter (fun p =>
    decide (coverOf s c.team.ctx c.parties o oid p.2.1 1 loadKinds ≠ .none) && decide (reach s c.g.die p.2.2 = .ok))

def execPref (x : PrefU) (s : State) :=
  issue { h := x.h, refs := refsOf [offRefs x.a x.o40, cRead x.c], price := 1
          effect := fun c s =>
            let a := accessOf c x.c rR 0 0 x.o40 x.a
            (prefLanes s c a).foldl (fun s p =>
              let s := markPage s (readObj s c.team.ctx a.c.oid.toNat) false p.2.1
              if x.lvl = 0 then (l1Line s c.core p.2.2).2 else if x.lvl = 1 then (l2Line s c.core p.2.2).2 else s) s } s

/-- A scalar becomes pending (R204). -/
def setPending (g : Group) (i : Nat) : Group := { g with pendScalars := g.pendScalars ||| ((1 : BitVec 16) <<< i) }

/-- The device writes a pending scalar of a group (R204); the write lands wherever the group is. -/
def writeReceipt (s : State) (die handle grp i v : Nat) : State :=
  s.updGroup die handle grp (fun g =>
    { (writeS g i v) with pendScalars := g.pendScalars &&& ~~~((1 : BitVec 16) <<< i) })

/-- PAGEIN (R76, R224). A far object has no page entries here: a PAGEIN of it asks for no page, and its receipt is 0, which is the
model's choice (log 53). -/
def execPagein (x : PageinU) (s : State) :=
  issue { h := x.h, refs := refsOf [sName x.r, offRefs x.a x.o40, cRead x.c]
          gate := fun c s => capGate s c.team.ctx (accessOf c x.c rR 0 5 x.o40 x.a)
          effect := fun c s =>
            if c.act = 0 then s
            else
              let a := accessOf c x.c rR 0 5 x.o40 x.a
              let o := readObj s c.team.ctx a.c.oid.toNat
              let pages := if o.far then [] else dedup (a.offs.map (fun p => a.objOff p.2 / 65536))
              let (id, s) := s.fresh
              let s := { s with pageins := s.pageins ++ [{ id := id, ctx := c.team.ctx, oid := a.c.oid.toNat, die := c.die,
                                                           handle := c.handle, grp := c.grp, reg := x.r, pages := pages }] }
              c.commit s (fun g => setPending g x.r) } s

end Sys2Proof.Machine
end

