-- ==== Sys2Proof/Machine/Caps.lean ====
section
/-! DEFINITION. Capability instructions: major 0x30 (R61 to R64, R225, R226). -/
namespace Sys2Proof.Machine

/-- A capability register written. -/
def writeC (g : Group) (i : Nat) (v : Cap) : Group := { g with caps := tset g.caps i v {} }

/-- A group-uniform unit on capability registers only. -/
def capUnit (h : Hdr) (refs : Refs) (f : Ctx → Group → Group) (s : State) := issue (uniUnit h refs 0 f) s

def execCderive (x : CderiveU) (s : State) :=
  capUnit x.h (refsOf [cRead x.cf, ssrcRefs x.a, ssrcRefs x.b]) (fun c g =>
    let f := c.cap x.cf
    let a := c.rdS false x.a
    let b := c.rdS false x.b
    writeC g x.ct { f with base := BitVec.ofNat 40 (f.base.toNat + a), len := BitVec.ofNat 40 b
                           tag := f.tag && decide (a + b ≤ f.len.toNat) }) s

def execCrights (x : CrightsU) (s : State) :=
  capUnit x.h (refsOf [cRead x.cf, ssrcRefs x.a]) (fun c g =>
    let f := c.cap x.cf
    writeC g x.ct { f with rights := f.rights &&& BitVec.ofNat 8 (c.rdS false x.a) }) s

/-- A scalar read from a capability register. -/
def capGet (x : CgetU) (f : Cap → Nat) (s : State) :=
  capUnit x.h (refsOf [cRead x.cf, sName x.d]) (fun c => c.putS x.d (f (c.cap x.cf))) s

def execCgetb (x : CgetU) (s : State) := capGet x (fun f => f.base.toNat) s
def execCgetl (x : CgetU) (s : State) := capGet x (fun f => f.len.toNat) s
def execCgetr (x : CgetU) (s : State) :=
  capGet x (fun f => at_ f.oid.toNat 36 28 + at_ f.gen.toNat 16 12 + at_ (btn f.tag) 8 1 + f.rights.toNat) s

/-- CTEST looks the object's entry up (R225). -/
def execCtest (x : CgetU) (s : State) :=
  issue { h := x.h, refs := refsOf [cRead x.cf, sName x.d], uniform := true
          effect := fun c s =>
            let f := c.cap x.cf
            let o := readObj s c.team.ctx f.oid.toNat
            c.commit s (c.putS x.d (btn f.tag + 2 * btn (f.tag && o.valid && decide (o.gen = f.gen.toNat)) +
              4 * btn (decide (f.len ≠ 0)))) } s

def execCnull (x : CmovU) (s : State) := capUnit x.h {} (fun _ g => writeC g x.ct {}) s
def execCmov (x : CmovU) (s : State) := capUnit x.h (cRead x.cf) (fun c g => writeC g x.ct (c.cap x.cf)) s

/-! CLDC, CSTC (R226). -/

/-- The 16-byte access of every active lane at one offset. -/
def capAccess (c : Ctx) (x : CmemU) (need : Nat) : Access := uniAccess c x.cf need 4 6 true x.a

/-- The 32-bit local address of a scalar operand. -/
def capLocal (c : Ctx) (x : CmemU) : Nat := c.rdS false x.a % 2 ^ 32

def capLocals (c : Ctx) (x : CmemU) : List (Nat × Nat) := c.lanes.map (fun l => (l, capLocal c x))

/-- CSTC needs G in the rights of the capability stored; the fault stands in R67's order as RIGHTS. -/
def grantGate (c : Ctx) (x : CmemU) (a : Access) (g : Gate) : Gate :=
  let ct := c.cap x.ct
  if ct.rights.toNat &&& rG ≠ 0 then g
  else
    match g with
    | .trap t => if t.code ≤ 0x21 then g else lacksG ct a
    | _ => lacksG ct a
where
  lacksG (ct : Cap) (a : Access) : Gate :=
    .trap { code := 0x21, mask := c.act
            detail := capDetail { a with cap := x.ct, c := { ct with base := a.c.base }, need := rG } {} 0x21 0
              (offOfLane a.offs (a.offs.map (·.1))) }

def execCldc (x : CmemU) (s : State) :=
  issue { h := x.h, refs := refsOf ([ssrcRefs x.a] ++ if x.loc then [] else [cRead x.cf]), uniform := true
          gate := fun c s =>
            if x.loc then
              (localGate c.team 6 16 (capLocals c x)).both fun _ =>
              (seamGate s c 6 (capLocals c x)).both fun _ =>
              poisonGate true 0 6 ((capLocals c x).map (fun p =>
                (p.1, p.2, localMarks c.team (locIndex c.team c.grp p.2) 16)))
            else loadGate s c (capAccess c x rR) true
          effect := fun c s =>
            if x.loc then
              let i := locIndex c.team c.grp (capLocal c x)
              c.commit s (fun g => writeC g x.ct (capOf (leNat (readLocal c.team i 16)) (c.team.locTags.contains (i / 16))))
            else
              let a := capAccess c x rR
              let one := { a with offs := a.offs.take 1 }
              let tag := match placed s c.team.ctx one with
                | p :: _ => tagCached s c.core p.2.2
                | [] => false
              let (rs, s) := loadLanes s c.core c.team.ctx one
              let s := markAccess s c a false loadKinds (rs.map (·.2.1))
              let v := match rs with | r :: _ => leNat (r.2.2.map (·.1)) | [] => 0
              c.commit s (fun g => writeC g x.ct (capOf v (tag && decide (a.c.rights.toNat &&& rC ≠ 0)))) } s

def execCstc (x : CmemU) (s : State) :=
  issue { h := x.h, refs := refsOf ([ssrcRefs x.a, cRead x.ct] ++ if x.loc then [] else [cRead x.cf]), uniform := true
          gate := fun c s =>
            if x.loc then (localGate c.team 6 16 (capLocals c x)).both fun _ => seamGate s c 6 (capLocals c x)
            else
              let a := capAccess c x rW
              (ownGate s c.team.ctx c.parties a).both fun _ =>
              (grantGate c x a (capGate s c.team.ctx a)).both fun _ => storeGate s c a true
          effect := fun c s =>
            let bs := leBytes 16 (capBits (c.cap x.ct))
            if x.loc then
              s.updTeam c.die c.handle (fun t =>
                let i := locIndex t c.grp (capLocal c x)
                let t := writeLocal t i bs
                if (c.cap x.ct).tag then { t with locTags := sIns t.locTags (i / 16) } else t)
            else
              let a := capAccess c x rW
              let ps := placed s c.team.ctx { a with offs := a.offs.take 1 }
              let tag := (c.cap x.ct).tag && decide (a.c.rights.toNat &&& rC ≠ 0)
              let s := ps.foldl (fun s p =>
                storeCached s c.core p.2.2 bs tag) s
              markAccess s c a true storeKinds (ps.map (·.2.1)) } s

end Sys2Proof.Machine
end

