-- ==== Sys2Proof/Machine/Feeds.lean ====
section
/-! DEFINITION. The bond lease, its shape, status word, feeds and rendezvous as plain records (R56, R247, R267 to R274,
R282, R284, R285). -/
namespace Sys2Proof.Machine

/-! Shape (R267, R268). -/

/-- Rows and columns of a `.bond` code; 0 × 0 for none. -/
def bondShape (code : Nat) : Nat × Nat :=
  [(0, 0), (1, 8), (2, 4), (4, 2), (8, 1), (2, 8), (4, 4), (8, 2)].getD code (0, 0)

def Bond.rows (b : Bond) : Nat := (bondShape b.shape).1
def Bond.cols (b : Bond) : Nat := (bondShape b.shape).2

/-- The `.bond` code of a team's launch record. -/
def teamShape (s : State) (t : Team) : Nat := match teamLaunch s t with | some l => l.bond | none => 0

/-- The rank of position (i, j) (R268). -/
def Bond.rank (b : Bond) (i j : Nat) : Nat :=
  if b.twin then
    let h := b.cols / 2
    if j < h then h * i + j else 8 + h * i + (j - h)
  else b.cols * i + j

/-- The module cores of a bond, by rank. -/
def Bond.cores (b : Bond) : List Nat := spanCores b.die (if b.twin then 3 else 2) b.cluster

def Bond.core (b : Bond) (i j : Nat) : Nat := b.cores.getD (b.rank i j) 0

/-! Where a bond stands. -/

/-- The bond that a team leases. -/
def bondOf (s : State) (die handle : Nat) : Option Bond :=
  ((s.die die).bonds.find? (fun b => decide (b.2.handle = handle) && !b.2.saved)).map (·.2)

/-- The saved bond state of a team (R286). -/
def savedBondOf (s : State) (die handle : Nat) : Option Bond :=
  ((s.die die).bonds.find? (fun b => decide (b.2.handle = handle) && b.2.saved)).map (·.2)

/-- Where a bond is kept: leased ones by cluster; saved ones beyond the clusters, by team. -/
def Bond.key (b : Bond) : Nat := if b.saved then 16 + b.handle else b.cluster

def putBond (s : State) (b : Bond) : State :=
  s.updDie b.die (fun d => { d with bonds := tput d.bonds b.key b })

def delBond (s : State) (b : Bond) : State :=
  s.updDie b.die (fun d => { d with bonds := tdel d.bonds b.key })

/-! The bond status word (R282). -/

def Bond.word (b : Bond) : Nat :=
  at_ b.qlast 24 40 + at_ b.events.toNat 16 4 + at_ b.fault 8 8 + at_ b.state 0 4

/-- The bond status word goes into the BFORK receipt (R282). -/
def bondReceipt (s : State) (b : Bond) : State :=
  match b.receipt with
  | none => s
  | some (g, r) => putBond (writeReceipt s b.die b.handle g r b.word) { b with receipt := none }

/-! Sheaves held for a charge (R280, R330): by 64 die + pair. -/

/-- They go back to the ring through the pair's stop, charged to no one. -/
def returnHolds (s : State) (b : Bond) : State :=
  b.holds.foldl (fun s h =>
    let p := s.pair (h.1 / 64) (h.1 % 64)
    s.setPair (h.1 / 64) (h.1 % 64) { p with returned := p.returned + h.2 }) s

/-! Rendezvous (R247, R285). -/

def Bond.rdv (b : Bond) (n : Nat) : Rdv := tget b.rdvs n {}

/-- A phase completes when its count of groups and one sequencer have arrived. -/
def Rdv.close (r : Rdv) : Rdv :=
  match r.count with
  | some c => if c ≤ r.groups ∧ 1 ≤ r.seqs then { done := r.done + 1 } else r
  | none => r

/-- A split waits at, or stands at, a rendezvous of the bond. -/
def Split.atRdv (x : Split) : Bool :=
  match x.wait with
  | .rdv .. => true
  | .rdvHold .. => true
  | _ => false

/-- The split executes its unit again: it stands at the unit it issued last, and runs (R285). -/
def Split.again (x : Split) : Split := { x with pc := x.last.getD x.pc, wait := .none }

/-- A broken rendezvous: no phase is open, and every group that waits meets the trap when it executes again (R285). -/
def breakRdvs (s : State) (b : Bond) : State :=
  let s := putBond s { b with broken := true, barWait := none,
                              rdvs := b.rdvs.map (fun r => (r.1, ({ done := r.2.done + 1 } : Rdv))) }
  s.updTeam b.die b.handle (fun t =>
    { t with groups := t.groups.map (fun e =>
        (e.1, ({ (e.2.mapSplits (fun x => if x.atRdv then x.again else x)) with rdvMask := [] } : Group).settle)) })

/-! Fetching Q words (R284, R445). -/

/-- What a fetch by the sequencer comes to. -/
inductive QFetch where
  | word (w : Nat)
  | bad
  /-- No path to the word's stack now (R379). -/
  | noPath
  deriving DecidableEq, Repr

/-- The checks of a Q word's fetch: R67 as a 4-byte access needing X, residency, poison. Code addresses are object
offsets, as BASE of the entry capability is the first PC (R308). -/
def fetchQ (s : State) (ctx : Nat) (b : Bond) (at_ : Nat) : QFetch :=
  let o := readObj s ctx b.code.oid.toNat
  let a : Access := { c := b.code, need := rX, n := 4 }
  if at_ < b.code.base.toNat ∨ (capCheck o a (at_ - b.code.base.toNat)).isSome then .bad
  else
    match placeOf s o at_ with
    | none => .bad
    | some p =>
      match reach s b.die p with
      | .never _ => .bad
      | .noPath _ => .noPath
      | .ok => if (upto 4).any (fun i => homePoison s (p + i)) then .bad else .word (homeNat s p 4)

/-- The BONDFAULT event record (R445). -/
def bondFaultBits (qpc fault word cycle party ctx : Nat) : Nat :=
  at_ qpc 472 40 + at_ fault 464 8 + at_ word 432 32 + at_ cycle 192 64 + at_ party 160 32 + at_ ctx 148 12 + at_ 0x48 48 8

/-- A fault of the bond stream (R284, R445): the word, the receipt, the rendezvous broken, and for every fault but OPERAND
the event record. -/
def bondFault (s : State) (b : Bond) (code qpc : Nat) : State :=
  let s := returnHolds s b
  let b := { b with state := 3, fault := code, qlast := qpc, op := none, holds := [] }
  let s := bondReceipt (putBond s b) b
  let s := match s.team? b.die b.handle with
    | some t =>
      if code = 9 then s
      else
        let w := match fetchQ s t.ctx b qpc with | .word w => w | _ => 0
        logCtx s t.ctx (bondFaultBits qpc code w (s.die b.die).cycle (bondParty b.die b.cluster) t.ctx)
    | none => s
  match bondOf s b.die b.handle with
  | some b => breakRdvs s b
  | none => s

/-! Feed queues (R272 to R274, R449). -/

/-- The queues of a feed: A by bond row, B by bond column. -/
def Bond.queue (b : Bond) (isB : Bool) (i : Nat) : FeedQueue := tget (if isB then b.feedB else b.feedA) i {}

def Bond.putQueue (b : Bond) (isB : Bool) (i : Nat) (q : FeedQueue) : Bond :=
  if isB then { b with feedB := tset b.feedB i q {} } else { b with feedA := tset b.feedA i q {} }

/-- The capacity of a queue in bytes. -/
def Bond.capacity (b : Bond) (isB : Bool) : Nat :=
  if isB then 65536 / (if b.twin then b.cols / 2 else b.cols) else 65536 / b.rows

def FeedQueue.append (q : FeedQueue) (bs : List Byte) (marked : Bool) : FeedQueue :=
  { q with bytes := q.bytes ++ bs, wpos := (q.wpos + bs.length) % 2 ^ 32,
           failed := (if marked && q.failed.isNone then some (q.wpos, 0) else q.failed) }

def FeedQueue.take (q : FeedQueue) (n : Nat) : List Byte × FeedQueue :=
  (q.bytes.take n, { q with bytes := q.bytes.drop n, rpos := (q.rpos + n) % 2 ^ 32 })

/-- The next n bytes reach the FAILED position (R449). -/
def FeedQueue.needsFailed (q : FeedQueue) (n : Nat) : Bool :=
  match q.failed with
  | some (p, _) => decide ((p + 2 ^ 32 - q.rpos) % 2 ^ 32 < n)
  | none => false

/-- A stopped CPY marks its queues FAILED at their write positions. -/
def FeedQueue.fail (q : FeedQueue) (status : Nat) : FeedQueue :=
  if q.failed.isSome then q else { q with failed := some (q.wpos, status) }

/-! The CPYs into a team's feeds. -/

def EngOp.dkind (e : EngOp) : Nat := bits e.record.toNat 51 48
def EngOp.isFeed (e : EngOp) : Bool := decide (e.kind = .cpy) && (decide (e.dkind = 2) || decide (e.dkind = 3))
def EngOp.feedsTeam (e : EngOp) (die handle : Nat) : Bool :=
  e.isFeed && decide (e.die = die) && decide (e.handle = handle)

/-- Every CPY into the team's feeds stops with a status (R450, R451). -/
def stopFeeds (s : State) (die handle status : Nat) : State :=
  let stop := fun e : EngOp => { e with status := some status, want := 0, waitLaps := 0 }
  { s with engines := updWhere (fun e => e.feedsTeam die handle && e.status.isNone) stop s.engines }

/-- The lease released: tiles and feeds are left zero, holds go back to the ring (R56, R245). -/
def releaseBond (s : State) (b : Bond) : State := delBond (returnHolds s b) b

end Sys2Proof.Machine
end

