-- ==== Sys2Proof/Machine/Waits.lean ====
section
/-! DEFINITION. Arrivals and phases of team barriers, die barriers, rendezvous and whole-team waits, and the parking of a
team (R53 to R55, R247, R253, R254, R256, R338). -/
namespace Sys2Proof.Machine

/-! Arrivals (R253). -/

/-- Every live lane is in the mask of those that have executed the instruction. -/
def Group.allIn (g : Group) (m : Mask) : Bool := decide (g.live ≠ 0) && decide (g.live &&& ~~~m = 0)

/-! Team barriers (R254). -/

/-- Phase n of barrier b is complete: every group that has not retired has arrived in it. -/
def Team.phaseDone (t : Team) (b n : Nat) : Bool := t.groups.all (fun g => decide (n ≤ tget g.2.barCount b 0))

def Group.arriveBars (g : Group) : Group :=
  g.barMask.foldl (fun g e =>
    if g.allIn e.2 then
      { g with barCount := tset g.barCount e.1 (tget g.barCount e.1 0 + 1) 0, barMask := tdel g.barMask e.1 }
    else g) g

/-- A held split's execution counts toward the next arrival once its phase is complete. -/
def Group.countHolds (t : Team) (g : Group) : Group :=
  g.splits.foldl (fun g x =>
    match x.wait with
    | .barHold b _ =>
      if t.phaseDone b (tget g.barCount b 0) then
        { g with barMask := tset g.barMask b (tget g.barMask b 0 ||| x.mask) 0 }
      else g
    | _ => g) g

def Group.releaseBars (t : Team) (g : Group) : Group :=
  (g.countHolds t).mapSplits (fun x =>
    match x.wait with
    | .bar b n => if t.phaseDone b n then { x with wait := .none } else x
    | .barHold b bar =>
      if t.phaseDone b (tget g.barCount b 0) then
        { x with wait := if bar then .bar b (tget g.barCount b 0 + 1) else .none }
      else x
    | _ => x)

def Team.sweepBars : Nat → Team → Team
  | 0, t => t
  | n + 1, t =>
    let t := t.mapGroups Group.arriveBars
    Team.sweepBars n (t.mapGroups (fun g => (g.releaseBars t).settle))

/-! Die barriers (R53, R254). -/

def dbarDone (s : State) (die grid n : Nat) : Bool :=
  (s.die die).teams.all (fun t =>
    !(decide (t.2.grid = grid) && t.2.gleaner.isNone) || t.2.groups.all (fun g => decide (n ≤ g.2.dbarCount)))

def Group.arriveDbar (g : Group) : Group :=
  if decide (g.dbarMask ≠ 0) && g.allIn g.dbarMask then { g with dbarCount := g.dbarCount + 1, dbarMask := 0 } else g

def Group.releaseDbar (done : Nat → Bool) (g : Group) : Group :=
  let held := g.splits.foldl (fun m x => if x.wait = .dbarHold then m ||| x.mask else m) (0 : Mask)
  let free := done g.dbarCount
  let h := g.mapSplits (fun x =>
    match x.wait with
    | .dbar n => if done n then { x with wait := .none } else x
    | .dbarHold => if free then { x with wait := .dbar (g.dbarCount + 1) } else x
    | _ => x)
  (if free then { h with dbarMask := h.dbarMask ||| held } else h).settle

/-- The groups of a grid's teams on a die changed. -/
def mapGridGroups (s : State) (die grid : Nat) (f : Group → Group) : State :=
  let each := fun t : Team =>
    if t.grid = grid ∧ t.gleaner = none then t.mapGroups f else t
  s.updDie die (fun d => { d with teams := tmap each d.teams })

def sweepDbar (s : State) (die grid : Nat) : Nat → State
  | 0 => s
  | n + 1 =>
    let s := mapGridGroups s die grid Group.arriveDbar
    sweepDbar (mapGridGroups s die grid (Group.releaseDbar (dbarDone s die grid))) die grid n

/-! Rendezvous (R247). -/

/-- What the group brings to a rendezvous differs from the count of its open phase. -/
def Group.rdvClash (b : Bond) (g : Group) (n : Nat) : Bool :=
  match (b.rdv n).count with
  | some k => decide (k ≠ tget g.rdvWant n 0)
  | none => false

/-- The group's arrivals; the splits that wait at BRDV wait from then on for the phase in which the group has arrived. -/
def Group.arriveRdv (b : Bond) (g : Group) : Bond × Group :=
  g.rdvMask.foldl (fun p e =>
    if p.2.allIn e.2 && !p.2.rdvClash p.1 e.1 then
      let r := p.1.rdv e.1
      let r' := { r with groups := r.groups + 1, count := some (r.count.getD (tget p.2.rdvWant e.1 0)) }
      let g := p.2.mapSplits (fun x => if x.wait = .rdv e.1 0 then { x with wait := .rdv e.1 (r.done + 1) } else x)
      ({ p.1 with rdvs := tset p.1.rdvs e.1 r'.close {} },
       { g with rdvCount := tset p.2.rdvCount e.1 (r.done + 1) 0, rdvMask := tdel p.2.rdvMask e.1 })
    else p) (b, g)

/-- A held split's execution counts toward the next phase, or meets a phase that another count has opened and executes
again. -/
def Group.releaseRdv (b : Bond) (g : Group) : Group :=
  let fits := fun n c : Nat => (b.rdv n).count.isNone || decide ((b.rdv n).count = some c)
  let h := g.splits.foldl (fun g x =>
    match x.wait with
    | .rdvHold n c _ =>
      if tget g.rdvCount n 0 ≤ (b.rdv n).done ∧ fits n c then
        { g with rdvMask := tset g.rdvMask n (tget g.rdvMask n 0 ||| x.mask) 0, rdvWant := tset g.rdvWant n c 0 }
      else g
    | _ => g) g
  (h.mapSplits (fun x =>
    match x.wait with
    | .rdv n k => if k ≠ 0 ∧ k ≤ (b.rdv n).done then { x with wait := .none } else x
    | .rdvHold n c w =>
      if tget g.rdvCount n 0 ≤ (b.rdv n).done then
        if fits n c then { x with wait := if w then .rdv n 0 else .none } else x.again
      else x
    | _ => x)).settle

def sweepRdvs (b : Bond) (gs : Table Group) : Nat → Bond × Table Group
  | 0 => (b, gs)
  | n + 1 =>
    let r := gs.foldl (fun r e => let (b, g) := e.2.arriveRdv r.1; (b, r.2 ++ [(e.1, g)])) (b, ([] : Table Group))
    sweepRdvs r.1 (r.2.map (fun e => (e.1, e.2.releaseRdv r.1))) n

/-- An arrival with another count than the open phase's records nothing: the splits that wait at its BRDV execute again and meet the
trap there; where none waits, the group takes it at its oldest split (R247, R442; log 53). -/
def clashRdv (s : State) (b : Bond) (grp n : Nat) : State :=
  match s.group? b.die b.handle grp with
  | none => s
  | some g =>
    if g.allIn (tget g.rdvMask n 0) && g.rdvClash b n then
      let h := { g with rdvMask := tdel g.rdvMask n }
      let waits := fun x : Split => decide (x.wait = .rdv n 0)
      if g.splits.any waits then
        s.setGroup b.die b.handle grp (h.mapSplits (fun x => if waits x then x.again else x)).settle
      else
        let s := s.setGroup b.die b.handle grp h
        match minBy (fun x : Split => x.born) h.splits with
        | some x => raiseAt s b.die b.handle h x 0x41 x.mask (at_ n 48 3 + at_ ((b.rdv n).count.getD 0) 32 12 + at_ (tget g.rdvWant n 0) 0 32)
        | none => s
    else s

def clashRdvs (s : State) (b : Bond) : State :=
  match s.team? b.die b.handle with
  | none => s
  | some t => t.groupList.foldl (fun s g => g.rdvMask.foldl (fun s e => clashRdv s b g.num e.1) s) s

/-- Holds of some parties of a context go to their hold lists (R91, R324). -/
def listHolds (s : State) (ctx : Nat) (ps : List Nat) : State :=
  { s with holds := updWhere (fun h => decide (h.ctx = ctx) && ps.contains h.party) (fun h => { h with cached := [] }) s.holds }

/-- The parties of a team and of its groups. -/
def teamParties (t : Team) : List Nat :=
  teamParty t.die t.handle :: t.groupList.map (fun g => groupParty t.die t.handle g.num)

/-! The cost of moving state from or to a core (R322, R338). -/

/-- Regions that a party holds. -/
def heldCount (s : State) (ctx p : Nat) : Nat :=
  (s.deckles.filter (fun d => decide (d.ctx = ctx) && decide (d.holder = p) && (decide (d.state = 1) || decide (d.state = 3)))).length

/-- The bytes of R322 that stand on one core, without the bond's: a group parked by TRAP counts as saved (R325), and the
team's own holds stand on the core of rank 0 (R481). -/
def coreBytes (s : State) (t : Team) (withLocal : Bool) (core : Nat) : Nat :=
  let gs := t.groupList.filter (fun g => decide (128 * g.die + g.core = core))
  let regs := (gs.filter (fun g => decide (g.residence ≠ .trapParked))).length * (4 * t.vregs * t.width + 1024)
  let held := gs.foldl (fun n g => n + heldCount s t.ctx (groupParty t.die t.handle g.num)) 0
  let own := if t.cores.head? = some core then heldCount s t.ctx (teamParty t.die t.handle) else 0
  regs + (if withLocal then t.localBytes * (if t.gleaner.isSome then gs.length else 1) else 0) + 32 * (held + own)

def kib (n : Nat) : Nat := (n + 1023) / 1024

/-- The move of a team's state charged to a context, or to the house account (R338). -/
def chargeMove (s : State) (t : Team) (withLocal : Bool) (ctx : Option Nat) (extra : Nat → Nat) : State :=
  t.cores.foldl (fun s c =>
    let n := kib (coreBytes s t withLocal c + extra c)
    match ctx with
    | some x => charge s x c n
    | none => chargeHouse s (c / 128) n) s

/-! Leaving and taking up cores. -/

/-- Sleeping splits keep what is left of their count while their group is off its core (R251). -/
def Group.freeze (cycle : Nat) (g : Group) : Group :=
  g.mapSplits (fun x => match x.wait with
    | .sleep till => { x with wait := .sleepSaved (till - cycle) }
    | _ => x)

def Group.thaw (cycle : Nat) (g : Group) : Group :=
  g.mapSplits (fun x => match x.wait with
    | .sleepSaved left => { x with wait := .sleep (cycle + left) }
    | _ => x)

/-- A group leaves its core; one parked by TRAP stays so (R325). -/
def Group.off (cycle : Nat) (g : Group) : Group :=
  { (g.freeze cycle) with residence := if g.residence = .trapParked then .trapParked else .away, awaits := none,
                          awaitLaps := 0, run := none, latches := [], latchValid := 0 }

/-- The team's groups leave their cores and the team takes a state; what their paths hold dirty goes home, as the groups
may go on elsewhere, holds go to their hold lists, and counters of the context go back (R91, R104, R314, R337). -/
def teamOff (s : State) (die handle : Nat) (st : TeamState) : State :=
  match s.team? die handle with
  | none => s
  | some t =>
    let cyc := (s.die die).cycle
    let t' := { t with state := st, groups := tmap (Group.off cyc) t.groups,
                       residency := t.residency + (cyc - t.since) }
    t.cores.foldl (fun s c => settleCounters s t.ctx (c / 128) (c % 128)) ((releaseLines (listHolds s t.ctx (teamParties t)) t.cores 2 (fun _ => true)).setTeam die handle t')

/-! Whole-team waits (R54 to R56, R256). -/

def condHolds (c : WaitCond) (w v : Nat) : Bool :=
  match c with
  | .ge => decide (v ≤ w)
  | .eq => decide (w = v)
  | .ne => decide (w ≠ v)
  | .any => decide (w &&& v ≠ 0)

/-- Mailbox word w of the team's die level (R255). -/
def dieWord (s : State) (grid pos w : Nat) : Nat :=
  match s.grid? grid with
  | some g => (tget g.words (64 * pos + w) 0).toNat
  | none => 0

def gridBroken (s : State) (n : Nat) : Bool :=
  match s.grid? n with
  | some g => decide (g.state = .broken) || g.brokenAt.isSome
  | none => false

/-- The wait ends with a status in every group, and every group goes on after its DWAIT. -/
def Team.endDwait (t : Team) (status : Nat) : Team :=
  let free := fun x : Split => if x.wait = .dwait then { x with wait := .none } else x
  let one := fun g : Group =>
    let g := match g.dwaitOp with
      | some o => writeS g o.reg status
      | none => g
    ({ (g.mapSplits free) with dwaitMask := 0, dwaitOp := none } : Group).settle
  { t with dwait := none, groups := tmap one t.groups }

/-- The condition, or the deadline, or the grid decides the wait now. -/
def dwaitStatus (s : State) (t : Team) (o : DwaitSt) : Option Nat :=
  if gridBroken s t.grid then some 2
  else if condHolds o.cond (dieWord s t.grid t.pos o.word) o.value.toNat then some 0
  else if o.deadline ≠ 0 ∧ o.deadline ≤ (s.die t.die).cycle then some 1
  else none

/-- Every group has arrived: the wait ends at once, with the acquire of the DSIG that satisfied it (R108), or the team is parked
(R54). A request that has reached the team is satisfied by the park, but for the lease (R325). -/
def startDwait (s : State) (t : Team) (o : DwaitSt) : State :=
  match dwaitStatus s t o with
  | some st => acquireLines (s.setTeam t.die t.handle (t.endDwait st)) t.cores 2 (fun _ => true)
  | none =>
    let leased := (bondOf s t.die t.handle).isSome
    let s := chargeMove s t (!leased) (some t.ctx) (fun _ => 0)
    teamOff (s.setTeam t.die t.handle { t with dwait := some { o with status := none }, preempt := if leased then t.preempt else none }) t.die t.handle .parked

/-- A parked team is released (R256, R457): it waits for its place. -/
def releaseDwait (s : State) (die handle status : Nat) : State :=
  s.updTeam die handle (fun t =>
    match t.dwait with
    | some o => if o.status.isNone then { t with dwait := some { o with status := some status } } else t
    | none => t)

def Team.atDwait (t : Team) : Bool :=
  t.dwait.isNone && !t.groups.isEmpty && t.groups.all (fun e => e.2.allIn e.2.dwaitMask)

def sweepDwait (s : State) (die handle : Nat) : State :=
  match s.team? die handle with
  | some t =>
    if t.atDwait then
      match (minBy (fun g : Group => g.num) t.groupList).bind (·.dwaitOp) with
      | some o => startDwait s t o
      | none => s
    else s
  | none => s

/-! Departures (R108). -/

/-- The splits of a group that have left a wait of some kind. -/
def departed (kind : Wait → Bool) (g h : Group) : Bool :=
  decide ((h.splits.filter (fun x => kind x.wait)).length < (g.splits.filter (fun x => kind x.wait)).length)

def teamWait (w : Wait) : Bool := match w with | .bar .. => true | .barHold .. => true | .rdv .. => true | .rdvHold .. => true | _ => false
def dieWait (w : Wait) : Bool := match w with | .dbar _ => true | .dbarHold => true | _ => false

/-- A group whose splits have departed acquires at the scope of the wait. -/
def departGroup (s : State) (t : Team) (g : Group) : State :=
  match s.group? t.die t.handle g.num with
  | none => s
  | some h =>
    let s := if departed teamWait g h then acquireLines s [128 * h.die + h.core] (scopeDepth 1 t.span) (fun _ => true) else s
    if departed dieWait g h then acquireLines s [128 * h.die + h.core] 2 (fun _ => true) else s

/-- The acquires of every group that has departed between two states. -/
def depart (s t : State) (teams : List Team) : State :=
  teams.foldl (fun u x =>
    match s.team? x.die x.handle with
    | some o => o.groupList.foldl (fun u g => departGroup u x g) u
    | none => u) t

/-! Every wait of a team looked at again, after an arrival, an exit or a retirement. -/

/-- Barriers, the die barrier and rendezvous looked at again. -/
def sweepWaits (s : State) (t : Team) : State :=
  let s := if t.groups.any (fun e => !e.2.barMask.isEmpty || e.2.splits.any (fun x => decide (x.wait ≠ .none))) then
      s.setTeam t.die t.handle (t.sweepBars 4) else s
  let s := if t.groups.any (fun e => decide (e.2.dbarCount ≠ 0) || decide (e.2.dbarMask ≠ 0)) then
      sweepDbar s t.die t.grid 4 else s
  match bondOf s t.die t.handle, s.team? t.die t.handle with
  | some b, some t =>
    let (b, gs) := sweepRdvs b t.groups 4
    clashRdvs ((putBond s b).setTeam t.die t.handle { t with groups := gs }) b
  | _, _ => s

def sweepTeam (s : State) (die handle : Nat) : State :=
  match s.team? die handle with
  | none => s
  | some t =>
    let mates := (s.die die).teams.map (·.2) |>.filter (fun u => decide (u.grid = t.grid))
    sweepDwait (depart s (sweepWaits s t) mates) die handle

end Sys2Proof.Machine
end

