-- ==== Sys2Proof/Machine/Teams.lean ====
section
/-! DEFINITION. Retirement of groups, teams and grids, the abort of a grid, the discard of a team, and the Gleaner teams
(R46, R47, R52, R311, R324, R400, R450, R451). -/
namespace Sys2Proof.Machine

/-! Grids. -/

/-- The Gleaners hold no record and no team of a grid. -/
def gleanersDone (s : State) (n : Nat) : Bool :=
  s.teams.all (fun t => t.gleaner.isNone || decide (t.grid ≠ n)) &&
    s.dies.all (fun d => d.2.gleans.all (fun g => g.recs.all (fun r => decide (r.grid ≠ n))) &&
      d.2.gleanReady.all (fun g => g.recs.all (fun r => decide (r.grid ≠ n))))

/-- The last team and every Gleaner team have retired (R46, R311): the token is decremented and the words are freed. -/
def gridComplete (s : State) (die n : Nat) : State :=
  match s.grid? n with
  | none => s
  | some g =>
    if g.state = .running ∧ g.launch.teams ≤ g.retired ∧ gleanersDone s n = true then
      decrementToken (s.setGrid n { g with state := .complete, words := [], wordsHeld := false }) die g
    else s

/-- The Gleaner holds no record of a context and entry. -/
def Die.noGlean (ctx e : Nat) (d : Die) : Bool :=
  d.gleans.all (fun g => !(decide (g.ctx = ctx) && decide (g.entry = e))) &&
    d.gleanReady.all (fun g => !(decide (g.ctx = ctx) && decide (g.entry = e)))

/-- A team is gone; a Gleaner team's launches are counted anew from then on (R52). -/
def dropTeam (s : State) (t : Team) : State :=
  let s := s.delTeam t.die t.handle
  match t.gleaner with
  | some e => if (s.die t.die).noGlean t.ctx e then s.updDie t.die (fun d => { d with gleanCount := tdel d.gleanCount (4096 * e + t.ctx) }) else s
  | none => s

/-- A Gleaner team whose grid's teams have retired and of which no record or group remains retires (R52). -/
def gleanTeamOver (s : State) (t : Team) : Bool :=
  match t.gleaner with
  | none => false
  | some e =>
    t.groups.isEmpty &&
      (match s.grid? t.grid with
       | some g => decide (g.launch.teams ≤ g.retired) || decide (g.state = .complete) || decide (g.state = .broken)
       | none => true) &&
      (s.die t.die).noGlean t.ctx e &&
      !lentToEngine s t.ctx (teamParty t.die t.handle)

def sweepGleaners (s : State) (n : Nat) : State :=
  s.teams.foldl (fun s t =>
    if t.grid = n ∧ gleanTeamOver s t = true then
      gridComplete (dropTeam (retireParty s t.ctx t.die (teamParty t.die t.handle) true) t) t.die n
    else s) s

/-! Groups and teams. -/

/-- Every receipt that the group issued is written, and no engine holds what it lent (R47 step 1). -/
def quiet (s : State) (t : Team) (g : Group) : Bool :=
  decide (g.pendScalars = 0) && g.pendRegs.isEmpty && !lentToEngine s t.ctx (groupParty t.die t.handle g.num)

/-- Cores that lose slots give counters back (R337). -/
def settleCores (s : State) (ctx : Nat) (cores : List Nat) : State :=
  cores.foldl (fun s c => settleCounters s ctx (c / 128) (c % 128)) s

/-- A group leaves its team: its slot share, registers, split table and spill area are free (R46). -/
def dropGroup (s : State) (t : Team) (g : Group) : State :=
  let del := fun t : Team => { t with groups := tdel t.groups g.num, retired := t.retired ++ [g.num] }
  settleCounters (s.updTeam t.die t.handle del) t.ctx g.die g.core

def retireGroup (s : State) (t : Team) (g : Group) : State :=
  dropGroup (retireParty s t.ctx t.die (groupParty t.die t.handle g.num) true) t g

/-- A team retires (R46, R47, R56); what its caches hold dirty is released toward the start of dependent grids (R111). -/
def retireTeam (s : State) (t : Team) : State :=
  let s := releaseLines s t.cores 2 (fun _ => true)
  let s := retireParty s t.ctx t.die (teamParty t.die t.handle) true
  let s := match bondOf s t.die t.handle with
    | some b => releaseBond s b
    | none => s
  let s := s.delTeam t.die t.handle
  let add := fun g : Grid => { g with retired := g.retired + 1,
                                      retiredOn := tset g.retiredOn t.die (tget g.retiredOn t.die 0 + 1) 0,
                                      retiredIr := tset g.retiredIr t.die (tget g.retiredIr t.die 0 + t.ir) 0 }
  gridComplete (sweepGleaners (sweepDbar (s.updGrid t.grid add) t.die t.grid 2) t.grid) t.die t.grid

/-- The sequencer waits for groups that will not come (R285). -/
def Bond.orphaned (b : Bond) (t : Team) : Bool :=
  decide (b.state = 1) && t.groups.all (fun e => e.2.exited) &&
    ((match b.barWait with | some (n, k, bar) => bar && decide ((b.rdv n).done < k) | none => false) || (match b.op with | some o => o.starved | none => false))

/-- ORPHAN: the stream stops, feed CPYs stop with NOLEASE, the lease is released (R285, R451). -/
def checkOrphan (s : State) (die handle : Nat) : State :=
  match s.team? die handle, bondOf s die handle with
  | some t, some b =>
    if b.orphaned t then
      let s := bondFault s b 10 (match b.op with | some o => o.addr | none => b.qlast)
      let s := stopFeeds s die handle 9
      match bondOf s die handle with
      | some b => releaseBond s b
      | none => s
    else s
  | _, _ => s

/-- The exited groups that nothing is owed to retire (R47). -/
def retireQuiet (s : State) (die handle : Nat) : State :=
  match s.team? die handle with
  | none => s
  | some t => (t.groupList.filter (fun g => g.exited && quiet s t g)).foldl (fun s g => retireGroup s t g) s

/-- Groups and the team that wait under R47 and may retire now: an orphaned bond's receipts may free more groups. -/
def settleRetired (s : State) (die handle : Nat) : State :=
  match s.team? die handle with
  | none => s
  | some _ =>
    let s := retireQuiet (checkOrphan (retireQuiet s die handle) die handle) die handle
    match s.team? die handle with
    | none => s
    | some t =>
      if t.groups.isEmpty && t.gleaner.isNone && decide (t.state ≠ .discarded) && !lentToEngine s t.ctx (teamParty die handle) then
        retireTeam s t
      else if t.gleaner.isSome then sweepGleaners s t.grid
      else s

/-! Discards and aborts (R324, R400, R450). -/

/-- A group that a discard leaves alone: one parked by TRAP keeps its save, when the team is to start again after a request (R325). -/
def Team.spares (t : Team) (g : Group) : Bool := t.preempt.isSome && decide (g.residence = .trapParked)

/-- Steps 2 and 3 of R47 for every group and for the team: no record. A group is gone once it is disposed of, so that no
region goes back to it. -/
def disposeTeam (s : State) (t : Team) : State :=
  let s := (t.groupList.filter (fun g => !t.spares g)).foldl (fun s g =>
    (retireParty s t.ctx t.die (groupParty t.die t.handle g.num) false).updTeam t.die t.handle (fun t =>
      { t with groups := tdel t.groups g.num })) s
  retireParty s t.ctx t.die (teamParty t.die t.handle) false

/-- Step 1 of R57 is complete: nothing is in progress but an operation that has not started or waits for queue data. -/
def Bond.quiet (b : Bond) : Bool :=
  match b.op with
  | none => true
  | some o =>
    match o.instr with
    | .mmac .. => !o.started
    | .mmact .. => !o.started
    | .mwaitf .. => true
    | .mloadb _ => !o.ready
    | _ => false

/-- Step 1 of R47, and run boundaries, for a team that is stopped and has no lease left. -/
def mayDispose (s : State) (t : Team) : Bool :=
  (bondOf s t.die t.handle).isNone && t.groupList.all (fun g => t.spares g || (g.run.isNone && quiet s t g)) && !lentToEngine s t.ctx (teamParty t.die t.handle)

/-- The service slots of a team's groups wait for no one (R377). -/
def orphanSlots (s : State) (t : Team) : State :=
  let each := fun d : Die =>
    { d with slots := updWhere (fun x => decide (x.tdie = t.die) && decide (x.handle = t.handle)) (fun x => { x with orphan := true }) d.slots
             svcQueue := d.svcQueue.filter (fun q => decide ((q.1, q.2.1) ≠ (t.die, t.handle))) }
  { s with dies := tmap each s.dies }

/-- A group parked by TRAP waits for no answer any more. -/
def Group.unserved (g : Group) : Group :=
  match g.service with
  | some (_, _, r, _) => { g with pendScalars := g.pendScalars &&& ~~~(BitVec.ofNat 16 (2 ^ r)), service := none, serviceStatus := none }
  | none => g

/-- The grid of an abort is BROKEN once its last team is gone (R400 step 4). -/
def endAbort (s : State) (n : Nat) : State :=
  match s.grid? n with
  | none => s
  | some g =>
    if g.aborted && s.teams.all (fun t => decide (t.grid ≠ n)) then
      s.setGrid n { g with state := .broken, words := [], wordsHeld := false }
    else s

/-- A discarded team stands as at its launch, with its handle and the groups that keep their TRAP saves (R324, R325). -/
def Team.fresh (t : Team) (order : Nat) : Team :=
  { ctx := t.ctx, grid := t.grid, index := t.index, die := t.die, handle := t.handle, pos := t.pos, span := t.span,
    place := t.place, ngroups := t.ngroups, width := t.width, vregs := t.vregs, localBytes := t.localBytes, bond := t.bond, code := t.code,
    state := .discarded, order := order, kills := t.kills, relaunches := t.relaunches,
    groups := t.groups.filter (fun e => t.spares e.2) }

/-- A lease broken with tile store and feeds discarded (R400 step 2, R450 step 4). -/
def discardBond (s : State) (die handle : Nat) : State :=
  match bondOf s die handle with
  | none => s
  | some b =>
    let s := stopFeeds (bondReceipt s b) die handle 9
    match bondOf s die handle with
    | some b => releaseBond s b
    | none => s

/-- A lease that pre-emption breaks goes once the operation in progress has ended (R57). -/
def discardQuiet (s : State) (die handle : Nat) : State :=
  match bondOf s die handle with
  | some b => if b.quiet then discardBond s die handle else s
  | none => s

/-- A stopped team's discard ends: an aborted grid's team is gone, another enters the list to start again. -/
def endDiscard (s : State) (die handle : Nat) : State :=
  match s.team? die handle with
  | none => s
  | some t =>
    if t.state = .discarding ∧ mayDispose s t = true then
      let aborted := match s.grid? t.grid with | some g => g.aborted | none => true
      let s := disposeTeam s t
      let s := match savedBondOf s die handle with | some b => delBond s b | none => s
      if aborted then settleCores (endAbort (dropTeam s t) t.grid) t.ctx t.cores
      else
        let (o, s) := s.fresh
        settleCores (s.setTeam die handle (t.fresh o)) t.ctx t.cores
    else s

/-- A discard goes on: the lease first, then the groups. -/
def finishDiscard (s : State) (die handle : Nat) : State :=
  match s.team? die handle with
  | some t => if t.state = .discarding then endDiscard (discardQuiet s die handle) die handle else s
  | none => s

/-- A team is stopped for good: groups go to the end of their runs, the lease goes at once, service requests wait for no one, and
the disposal follows when it may. -/
def stopTeam (s : State) (die handle : Nat) : State :=
  match s.team? die handle with
  | none => s
  | some t =>
    let stop := fun t : Team => { t.mapGroups Group.unserved with state := .discarding, dwait := none, preempt := none }
    finishDiscard (discardBond ((orphanSlots s t).updTeam die handle stop) die handle) die handle

/-- The Gleaner's records of a grid are dropped. -/
def Die.dropRecs (n : Nat) (d : Die) : Die :=
  let keep := fun rs : List GleanRec => rs.filter (fun r => decide (r.grid ≠ n))
  { d with gleans := (d.gleans.map (fun g => { g with recs := keep g.recs })).filter (fun g => !g.recs.isEmpty)
           gleanReady := (d.gleanReady.map (fun g => { g with recs := keep g.recs })).filter (fun g => !g.recs.isEmpty) }

/-- The abort of a grid, once (R400). -/
def abortGrid (s : State) (n : Nat) : State :=
  match s.grid? n with
  | none => s
  | some g =>
    if g.aborted then s
    else
      let s := s.setGrid n { g with aborted := true }
      let s := { s with dies := tmap (Die.dropRecs n) s.dies }
      let mine := s.teams.filter (fun t => decide (t.grid = n))
      endAbort (mine.foldl (fun s t => stopTeam s t.die t.handle) s) n

/-- What may go on after a receipt or a return: retirements and discards that waited (R47). -/
def settleTeam (s : State) (die handle : Nat) : State :=
  sweepTeam (finishDiscard (settleRetired s die handle) die handle) die handle

end Sys2Proof.Machine
end

