-- ==== Sys2Proof/Machine/Deckles.lean ====
section
/-! DEFINITION. Ownership instructions of major 0x31 and the steps that carry them out at the table homes
(R88 to R96, R227 to R229, R423, R427, R428, R473). -/
namespace Sys2Proof.Machine

/-! Issue (R227 to R229). -/

/-- The acting party (R88). -/
def actor (c : Ctx) (team : Bool) : Nat := if team then teamParty c.die c.handle else groupParty c.die c.handle c.grp

/-- The offset operand (R227). -/
def ownOff (c : Ctx) (a : SSrc) : Nat := c.offS true a

/-- The rights of R228, and whether either of them suffices. -/
def ownNeed : OwnKind → Nat × Bool
  | .claim | .park | .dreturn | .split | .join => (rW, false)
  | .lend => (rW ||| rL, false)
  | .share => (rR ||| rS, false)
  | .unshare => (rS, false)
  | .atom => (rA, false)
  | .query => (rR ||| rW, true)

def ownAccess (c : Ctx) (k : OwnKind) (x : DopU) : Access :=
  { cap := x.c, c := c.cap x.c, need := (ownNeed k).1, either := (ownNeed k).2, n := 256, acc := 3,
    offs := c.lanes.map (fun l => (l, ownOff c x.a)) }

/-- R67 as one access of 256 bytes; BASE, LEN and a not all multiples of 256 stand as its fourth check (R228). -/
def ownCheck (s : State) (c : Ctx) (a : Access) (off : Nat) : Gate :=
  let ragged := decide (a.c.base.toNat % 256 ≠ 0) || decide (a.c.len.toNat % 256 ≠ 0) || decide (off % 256 ≠ 0)
  match capGate s c.team.ctx a with
  | .trap t => if ragged && decide (t.code = 0x24) then misaligned else .trap t
  | g =>
    if ragged then misaligned
    else if retiring s c.team.ctx a.c.oid.toNat then
      .trap { code := 0x24, mask := c.act, detail := capDetail a (readObj s c.team.ctx a.c.oid.toNat) 0x24 0 off }
    else g
where
  misaligned : Gate :=
    .trap { code := 0x23, mask := c.act, detail := capDetail a {} 0x23 0 off }

/-- The operation leaves for the table home and its scalar becomes pending (R92, R204). -/
def ownStart (k : OwnKind) (x : DopU) (c : Ctx) (s : State) : State :=
  let f := c.cap x.c
  let a := ownOff c x.a
  let (id, s) := s.fresh
  let len := match k with
    | .split | .join => 0
    | _ => f.len.toNat - a
  let s := { s with ownOps := s.ownOps ++ [{
    id := id, kind := k, ctx := c.team.ctx, party := actor c x.team, die := c.die, handle := c.handle, grp := c.grp,
    oid := f.oid.toNat, base := f.base.toNat + a, len := len, target := readS c.g x.r % 2 ^ 32, reg := x.r
    at_ := (s.die c.die).cycle + 1 }] }
  c.commit s (fun g => setPending g x.r)

/-- An ownership unit (R227): group-uniform, free, its scalar read only by DLEND. -/
def ownUnit (k : OwnKind) (x : DopU) : UnitOp :=
  { h := x.h, refs := refsOf [cRead x.c, ssrcRefs x.a, if k = .lend then sRead x.r else sName x.r], uniform := true
    gate := fun c s => ownCheck s c (ownAccess c k x) (ownOff c x.a)
    effect := ownStart k x }

def execDclaim (x : DopU) (s : State) := issue (ownUnit .claim x) s
def execDpark (x : DopU) (s : State) := issue (ownUnit .park x) s
def execDlend (x : DopU) (s : State) := issue (ownUnit .lend x) s
def execDreturn (x : DopU) (s : State) := issue (ownUnit .dreturn x) s
def execDsplit (x : DopU) (s : State) := issue (ownUnit .split x) s
def execDjoin (x : DopU) (s : State) := issue (ownUnit .join x) s
def execDshare (x : DopU) (s : State) := issue (ownUnit .share x) s
def execDunshare (x : DopU) (s : State) := issue (ownUnit .unshare x) s
def execDatom (x : DopU) (s : State) := issue (ownUnit .atom x) s
def execDquery (x : DopU) (s : State) := issue (ownUnit .query x) s

def execDquerySelf (x : DselfU) (s : State) :=
  issue (uniUnit x.h (sName x.d) 0 (fun c => c.putS x.d (actor c x.team))) s

/-! At the table home (R89, R90, R95). -/

/-- The table home of some unit of the range has failed (R471). -/
def ownLost (s : State) (o : OwnOp) : Bool :=
  let (b, n) := o.range
  let rs := regionsIn s o.ctx o.oid b n
  if rs.isEmpty then decide ((s.die (tableHome { oid := o.oid, base := o.base })).boot = 3)
  else rs.any (fun d => decide ((s.die (tableHome d)).boot = 3))

/-- What the operation comes to, a failed home answering POISONED or STATE 5. -/
def ownOutcome (s : State) (o : OwnOp) : Perf :=
  if ownLost s o then ownAnswer s (if o.kind = .query then at_ 5 48 4 else 7) else performOwn s o

/-- Whether an operation of this kind writes back (R94). -/
def OwnKind.releases : OwnKind → Bool
  | .park | .lend | .dreturn | .atom => true
  | _ => false

/-- The endpoint of a dirty line of a range that cannot reach its home now, on the paths of some cores (R473). -/
def stuckIn (s : State) (cores : List Nat) (ctx oid base len : Nat) : Option Nat :=
  stuckDirty s cores (inRegion s ctx oid base len)

/-- The write-back of a release is stuck. -/
def stuckLine (s : State) (o : OwnOp) (scope : Nat) : Option Nat :=
  if !o.kind.releases || scopeDepth scope 0 ≠ 2 then none
  else stuckIn s (partyCores s o.party) o.ctx o.oid o.base o.len

def ownWaits (s : State) (o : OwnOp) (ep : Nat) : State :=
  if s.paths.any (fun p => decide (p.own = some o.id)) then s
  else
    let (id, s) := s.fresh
    { s with paths := s.paths ++ [{ id := id, die := o.die, handle := o.handle, grp := o.grp, own := some o.id,
                                    endpoint := ep, since := (s.die o.die).cycle }] }

def updOwn (s : State) (id : Nat) (f : OwnOp → OwnOp) : State :=
  { s with ownOps := updWhere (fun o => decide (o.id = id)) f s.ownOps }

def findOwn (s : State) (id : Nat) : Option OwnOp := s.ownOps.find? (fun o => decide (o.id = id))

/-- The table home performs an operation whose turn it is, in a count after its issue (R90). -/
def deckleOp (s : State) (o : OwnOp) : State :=
  if o.result.isSome || decide ((s.die o.die).cycle < o.at_) || !ownReady s o then s
  else
    let p := ownOutcome s o
    match (if p.result = 0 then stuckLine s o p.scope else none) with
    | some ep => ownWaits s o ep
    | none =>
      let t := updOwn p.s o.id (fun o => { o with result := some (BitVec.ofNat 64 p.result), install := p.install,
                                                  scope := p.scope })
      let t := { t with paths := t.paths.filter (fun w => !decide (w.own = some o.id)) }
      if o.kind = .atom then releaseDeps t else t

def execDeckleOperation (s : State) : Host.Outcome State Fault Refusal :=
  match findOwn s s.arg.id with
  | none => .next s
  | some o => .next (deckleOp s o)

/-- Steps 3 to 5 of R95: acquire, entry in the caches, and the status; a full hold list makes them wait (R423). A party
that has retired meanwhile left the region under R47. Then what waited for the status goes on. -/
def deckleStatus (s : State) (o : OwnOp) : State :=
  match o.result with
  | none => s
  | some r =>
    let done := fun s : State =>
      let s := { s with ownOps := s.ownOps.filter (fun p => !decide (p.id = o.id)) }
      if o.quiet then s else writeReceipt s o.die o.handle o.grp o.reg r.toNat
    match o.install with
    | none => settleTeam (done s) o.die o.handle
    | some (q, kind, base, len) =>
      match spillFor s o.ctx q with
      | none =>
        if o.holdSince.isSome then s else updOwn s o.id (fun o => { o with holdSince := some (s.die o.die).cycle })
      | some s =>
        let s := acquireRegion s q o.scope o.ctx o.oid base len
        let still := decide (kind % 2 = 1) || (match regionExact s o.ctx o.oid base len with
          | some d => decide (d.holder = q)
          | none => false)
        let s := done (if still then enterHold s o.ctx q o.oid base len kind else s)
        settleTeam s o.die o.handle

def execDeckleStatusWrite (s : State) : Host.Outcome State Fault Refusal :=
  match findOwn s s.arg.id with
  | none => .next s
  | some o => .next (deckleStatus s o)

/-- A core's held-region cache takes an entry of a hold list (R91). -/
def execHoldListRefill (s : State) : Host.Outcome State Fault Refusal :=
  match s.holds[s.arg.idx]? with
  | none => .next s
  | some h =>
    let c := s.arg.core
    .next (if (holdCores s h.party).contains c && !h.cached.contains c then refillHold s c h else s)

/-- 2^20 counts of one wait for hold-list room, of an ownership instruction or of an engine's return (R423). -/
def execHoldfull (s : State) : Host.Outcome State Fault Refusal :=
  match findOwn s s.arg.id with
  | some o =>
    match o.holdSince with
    | none => .next s
    | some t =>
      if t + 2 ^ 20 ≤ (s.die o.die).cycle then
        .next (regionEvent (updOwn s o.id (fun o => { o with holdSince := some (t + 2 ^ 20) })) o.die
          { code := 0x2E, ctx := o.ctx, party := o.party })
      else .next s
  | none =>
    match s.engines.find? (fun e => decide (e.id = s.arg.id)) with
    | none => .next s
    | some e =>
      match e.holdSince with
      | none => .next s
      | some t =>
        if t + 2 ^ 20 ≤ (s.die (e.core / 128)).cycle then
          .next (regionEvent { s with engines := updWhere (fun x => decide (x.id = e.id)) (fun x => { x with holdSince := some (t + 2 ^ 20) }) s.engines }
            (e.core / 128) { code := 0x2E, ctx := e.ctx, party := e.party })
        else .next s

/-! Pages and management updates of their entries (R72). -/

/-- A page entry after a management update: SEQ raised by 1 (R72). -/
def seqUp (e : Nat) : Nat := e / 256 * 256 + (e + 1) % 256

/-- A page entry written by management update: FRAME, STATE, ACC, DIRTY and AGE given. -/
def putPage (s : State) (o : ObjEntry) (p frame state acc dirty age : Nat) : State :=
  let e := readPage s o p
  wrHomeNat s (pageAddr o p) 8
    (at_ frame 20 44 + at_ state 18 2 + at_ acc 17 1 + at_ dirty 16 1 + at_ age 12 4 + bits e 11 8 * 256 +
      (e + 1) % 256)

/-- The pages that a range touches. -/
def pagesOf (base len : Nat) : List Nat :=
  (upto ((base + len + 65535) / 65536 - base / 65536)).map (base / 65536 + ·)

/-! Reclaim (R428). -/

/-- ZERO: bytes of resident pages become zero and unmarked; other pages become UNBACKED. -/
def zeroRegion (s : State) (ctx oid base len : Nat) : State :=
  let o := readObj s ctx oid
  (pagesOf base len).foldl (fun s p =>
    let e := readPage s o p
    if pageState e = 1 then
      let lo := max base (65536 * p)
      let hi := min (base + len) (65536 * (p + 1))
      wrHomes s (bits (pageFrame e) 23 0 * 65536 + lo % 65536) (List.replicate (hi - lo) 0)
    else
      let s := if pageState e = 2 then { s with pressed := tdel s.pressed (pageFrame e) } else s
      putPage s o p 0 0 0 0 0) s

/-- A reclaim command: its status, and the state (R428). -/
def reclaim (s : State) (mode : Nat) : State :=
  let w0 := s.arg.v.toNat
  let w8 := s.arg.w.toNat
  let answer := fun (s : State) (n : Nat) => s.setReg 0x340010 (BitVec.ofNat 64 n)
  if bits w0 23 0 ≠ 0 ∨ bits w8 23 2 ≠ 0 ∨ 2 ≤ w8 % 4 then answer s 3
  else if w8 % 4 ≠ mode then s
  else
    let oid := bits w0 63 36
    let ctx := bits w0 35 24
    let base := bits w8 63 24
    match s.deckles.find? (fun d => decide (d.ctx = ctx) && decide (d.oid = oid) && decide (d.base = base)) with
    | none =>
      answer s (if (s.die (tableHome { oid := oid, base := base })).boot = 3 then 3 else 1)
    | some d =>
      if (s.die (tableHome d)).boot = 3 then answer s 3
      else if d.state ≠ 5 then answer s 1
      else
        let s := if mode = 1 then zeroRegion s ctx oid d.base d.len else s
        answer (delDeckle s d) 0

def execDrclKeep (s : State) : Host.Outcome State Fault Refusal := .next (reclaim s 0)
def execDrclZero (s : State) : Host.Outcome State Fault Refusal := .next (reclaim s 1)

/-! POISON (R426, R429, R432). -/

/-- A region becomes POISONED; the holders' and share holders' entries go, and no cache keeps a line of it. -/
def poisonQuiet (s : State) (former : Nat) (d : Deckle) : State :=
  let e := { d with state := 5, shares := 0, holder := 0, lend := [], former := former }
  let s := { s with holds := s.holds.filter (fun h => !(decide (h.ctx = d.ctx) && decide (h.oid = d.oid) && decide (h.base = d.base) && decide (h.len = d.len)))
                    lines := s.lines.filter (fun c => !inRegion s d.ctx d.oid d.base d.len c) }
  putDeckle s e

/-- The same, with its record. -/
def poisonRegion (s : State) (die cause party : Nat) (former : Nat) (d : Deckle) : State :=
  regionEvent (poisonQuiet s former d) die { code := 0x2C, cause := cause, ctx := d.ctx, oid := d.oid, base := d.base, len := d.len,
                                             state := 5, former := former % 2 ^ 32, party := party }

end Sys2Proof.Machine
end

