-- ==== Sys2Proof/Machine/Engines.lean ====
section
/-! DEFINITION. The copy engine, the memory port and the silo units, and fabric collectives: NMRED, NMSCAT, CPY, CPYC and
the steps that carry them out (R97 to R99, R138 to R140, R230 to R243, R383 to R385, R392, R393, R452 to R454, R483). -/
namespace Sys2Proof.Machine

/-! The stream pattern record (R238). -/

/-- The fields of a CPY record. -/
structure CpyRec where
  n : List Nat
  ss : List Int
  ds : List Int
  soff : Nat
  doff : Nat
  iaddr : Nat
  raddr : Nat
  pad : Nat
  mcast : Nat
  scap : Nat
  dcap : Nat
  skind : Nat
  dkind : Nat
  esize : Nat
  idim : Nat
  ind : Bool
  rag : Bool

/-- A dimension's count, 0 standing for 1. -/
def cntAt (r : BitVec 512) (hi lo : Nat) : Nat := max (rfield r hi lo) 1

def cpyRec (r : BitVec 512) : CpyRec :=
  let local32 := fun (kind v : Nat) => if kind = 1 then v % 2 ^ 32 else v
  { n := [cntAt r 463 448, cntAt r 479 464, cntAt r 495 480, cntAt r 511 496]
    ss := (upto 4).map (fun d => sextN (rfield r (375 + 24 * d) (352 + 24 * d)) 24)
    ds := (upto 4).map (fun d => sextN (rfield r (279 + 24 * d) (256 + 24 * d)) 24)
    soff := local32 (rfield r 55 52) (rfield r 255 216), doff := local32 (rfield r 51 48) (rfield r 215 176)
    iaddr := rfield r 175 144, raddr := rfield r 143 112, pad := rfield r 111 80, mcast := rfield r 79 64
    scap := rfield r 63 60, dcap := rfield r 59 56, skind := rfield r 55 52, dkind := rfield r 51 48
    esize := rfield r 47 45, idim := rfield r 44 43, ind := decide (rfield r 42 42 = 1)
    rag := decide (rfield r 41 41 = 1) }

def CpyRec.es (r : CpyRec) : Nat := 2 ^ r.esize
def CpyRec.total (r : CpyRec) : Nat := r.n.foldl (· * ·) 1
/-- The engine checks each element (R241). -/
def CpyRec.loose (r : CpyRec) : Bool := r.ind || r.rag

/-- The indices of element k in enumeration order (R239). -/
def CpyRec.index (r : CpyRec) (k : Nat) : List Nat :=
  let n := fun d => r.n.getD d 1
  [k % n 0, k / n 0 % n 1, k / (n 0 * n 1) % n 2, k / (n 0 * n 1 * n 2)]

def dotSteps (is : List Nat) (steps : List Int) : Int :=
  ((is.zip steps).map (fun p => (p.1 : Int) * p.2)).foldl (· + ·) 0

/-- The lowest byte and the end of an affine extent, and whether every element address is aligned, offsets from a
capability's BASE or local addresses. -/
def extentOf (off : Nat) (n : List Nat) (steps : List Int) (es : Nat) : Int × Int × Bool :=
  let spans := (n.zip steps).map (fun p => ((p.1 : Int) - 1) * p.2)
  let lo := spans.foldl (fun a x => if x < 0 then a + x else a) (off : Int)
  let hi := spans.foldl (fun a x => if 0 < x then a + x else a) (off : Int)
  (lo, hi + es, (n.zip steps).all (fun p => decide (p.1 = 1) || decide (p.2 % (es : Int) = 0)))

/-- RAG ignores SSTEP0 and SSTEP1. -/
def CpyRec.srcExtent (r : CpyRec) : Int × Int × Bool := extentOf r.soff r.n r.ss r.es
def CpyRec.dstExtent (r : CpyRec) : Int × Int × Bool := extentOf r.doff r.n r.ds r.es

/-- The core ranks that a team's local addresses may name (R79, R52). -/
def Team.ranks (t : Team) : Nat := if t.gleaner.isSome then 1 else (spanCores t.die t.span t.place).length

/-- Queues of the bond's shape that a feed's MCAST may name (R273); without a shape the mask is not judged. -/
def CpyRec.feedMaskBad (r : CpyRec) (shape : Nat) : Bool :=
  let (rows, cols) := bondShape shape
  decide (r.mcast = 0) || (decide (shape ≠ 0) && decide (2 ^ (if r.dkind = 2 then rows else cols) ≤ r.mcast))

/-- The record holds a value that its map does not accept (R238, R240, R273, R483 step 2). -/
def CpyRec.bad (r : CpyRec) (t : Team) (shape : Nat) : Bool :=
  decide (2 ≤ r.skind) || decide (6 ≤ r.dkind) || decide (5 ≤ r.esize) || (r.ind && r.rag && decide (r.idim ≤ 1)) ||
  (r.ind && decide (r.iaddr % 4 ≠ 0)) || (r.rag && decide (r.raddr % 4 ≠ 0)) ||
  (if r.dkind = 1 then decide (2 ^ t.ranks ≤ r.mcast) || (decide (r.mcast ≠ 0) && decide (bits r.doff 23 20 ≠ 0))
   else if r.dkind = 2 ∨ r.dkind = 3 then
     r.feedMaskBad shape || decide (r.doff ≠ 0) || r.ds.any (fun d => decide (d ≠ 0)) ||
       decide (r.es * r.total % 64 ≠ 0)
   else decide (r.mcast ≠ 0))

/-! Checks at issue (R241, R415, R483 step 3). -/

/-- The trap of a failing extent check: code and DETAIL with ACC 4 (R416). -/
structure ExtFail where
  code : Nat
  detail : Nat

/-- Checks 1 to 5 of R67 over an extent of a capability; 3 and 4 only when strict. -/
def capExtent (s : State) (ctx cap : Nat) (c : Cap) (need es : Nat) (lo hi : Int) (aligned strict : Bool) : Option ExtFail :=
  let o := readObj s ctx c.oid.toNat
  let a : Access := { cap := cap, c := c, need := need, n := es, acc := 4 }
  let base : Int := (c.base.toNat : Int)
  let fail := fun code : Nat =>
    some { code := code, detail := capDetail { a with c := { c with base := 0 } } o code 0 (wrapN (base + lo) 40) : ExtFail }
  if !c.tag then fail 0x20
  else if !rightsOk a o.imm then fail 0x21
  else if strict ∧ (lo < 0 ∨ (c.len.toNat : Int) < hi ∨ (o.valid = true ∧ (o.size : Int) < base + hi)) then fail 0x22
  else if strict ∧ !(aligned && decide ((base + lo) % (es : Int) = 0)) then fail 0x23
  else if !o.valid ∨ c.gen.toNat ≠ o.gen ∨ retiring s ctx c.oid.toNat = true then fail 0x24
  else none

/-- R79 over a local extent, for each rank named; no rank means the one the address holds. -/
def localExtent (t : Team) (es : Nat) (lo hi : Int) (aligned : Bool) (ranks : List Nat) : Option ExtFail :=
  let one := fun (la : Int) =>
    let fail := fun code : Nat => some { code := code, detail := localDetail 4 es (wrapN la 32) : ExtFail }
    if la < 0 ∨ 2 ^ 32 ≤ la then fail 0x22
    else
      let a := la.toNat
      if bits a 31 24 ≠ 0 ∨ t.ranks ≤ bits a 23 20 ∨ (t.localBytes : Int) < (a % 2 ^ 20 : Nat) + (hi - lo) then fail 0x22
      else if !aligned ∨ a % es ≠ 0 then fail 0x23 else none
  if ranks.isEmpty then one lo
  else if lo < 0 ∨ 2 ^ 20 ≤ lo then some { code := 0x22, detail := localDetail 4 es (wrapN lo 32) }
  else ranks.findSome? (fun i => one (lo + ((i * 2 ^ 20 : Nat) : Int)))

/-- The first of the failing rows in R67's order, the earlier check of equals. -/
def firstFail (fs : List (Option ExtFail)) : Option ExtFail := minBy (·.code) (fs.filterMap id)

def failGate (c : Ctx) : Option ExtFail → Gate
  | none => .go
  | some f => .trap { code := f.code, mask := c.act, detail := f.detail }

def maskBits (m : Nat) : List Nat := (upto 16).filter (fun i => m.testBit i)

/-- The pages of an extent of an object that are not RESIDENT. -/
def absentPages (s : State) (o : ObjEntry) (base len : Nat) : Bool :=
  decide (len ≠ 0) && (pagesOf base len).any (fun p => !residentAt s o (65536 * p))

/-- Cover of a range: the first byte without cover, or an entry to refill (R100). -/
inductive Walk where
  | covered
  | refill (h : Hold)
  | bare (off : Nat)

def coverWalk (s : State) (ctx core : Nat) (parties : List Nat) (oid : Nat) (kinds : List Nat) : Nat → Nat → Nat → Walk
  | 0, off, end_ => if end_ ≤ off then .covered else .bare off
  | n + 1, off, end_ =>
    if end_ ≤ off then .covered
    else if homeLost s ctx oid off then .bare off
    else
      match findCover s ctx parties oid off 1 kinds with
      | none => .bare off
      | some h => if h.cached.contains core then coverWalk s ctx core parties oid kinds n (h.base + h.len) end_ else .refill h

/-- UNOWNED over a source range, for its resident part (R98, R415). -/
def rangeCover (s : State) (c : Ctx) (cap : Nat) (k : Cap) (es base len : Nat) : Gate :=
  let oid := k.oid.toNat
  let o := readObj s c.team.ctx oid
  if o.imm then .go
  else
    (pagesOf base len).foldl (fun (g : Gate) p => g.both fun _ =>
      if !residentAt s o (65536 * p) then .go
      else
        match coverWalk s c.team.ctx c.core c.parties oid loadKinds (s.holds.length + 1) (max base (65536 * p))
            (min (base + len) (65536 * (p + 1))) with
        | .covered => .go
        | .refill h => .refill h
        | .bare off =>
          let a : Access := { cap := cap, c := { k with base := 0 }, n := es, acc := 4 }
          unownedGate s c.team.ctx a c.act off) .go

/-- The range of an object that an extent of a capability covers, clipped to the capability. -/
def clipRange (k : Cap) (lo hi : Int) : Nat × Nat :=
  let a := (max lo 0).toNat
  let b := min hi.toNat k.len.toNat
  (k.base.toNat + a, b - a)

/-- The record's 64 bytes in local store. -/
def recordAt (c : Ctx) (la : Nat) : BitVec 512 := BitVec.ofNat 512 (leNat (readLocal c.team (locIndex c.team c.grp la) 64))

/-- Step 1 of R483: the record's address, and its bytes. -/
def recordGate (s : State) (c : Ctx) (la : Nat) : Gate :=
  let las := c.lanes.map (fun l => (l, la))
  (localGate c.team 4 64 las).both fun _ =>
  (seamGate s c 4 las).both fun _ =>
  poisonGate true 0 4 (las.map (fun p => (p.1, p.2, localMarks c.team (locIndex c.team c.grp p.2) 64)))

/-- A write-back that the issue needs finds no path: the issue waits (R473). -/
def flushGate (s : State) (c : Ctx) (oid base len : Nat) : Gate :=
  if (stuckIn s c.team.cores c.team.ctx oid base len).isSome then .wait else .go

/-- An ownership operation of the issuer is outstanding on a range (R96). -/
def rangeBusy (s : State) (c : Ctx) (oid base len : Nat) : Gate :=
  if ownBusy s c.team.ctx c.parties oid base len then .wait else .go

/-! Lends (R97). -/

/-- Some unit of the range lies in no region. -/
def rangeHole (rs : List Deckle) : Nat → Nat → Nat → Bool
  | 0, off, end_ => decide (off < end_)
  | n + 1, off, end_ =>
    if end_ ≤ off then false
    else
      match rs.find? (fun d => decide (d.base ≤ off) && decide (off < d.base + d.len)) with
      | none => true
      | some d => rangeHole rs n (d.base + d.len) end_

/-- Every region lent to its engine, or the status of the lend that fails; a hole counts as not held (R97). Where several fail
differently, DSTAT is POISONED before NOTHELD before DEPTH, which is the model's choice (log 53). -/
def lendAll (s : State) (ctx : Nat) (parties : List Nat) (rs : List (Deckle × Nat)) (hole : Bool) : Nat × State :=
  let codes := rs.map (fun d => (lendEngine s ctx parties d.1 d.2).1) ++ (if hole then [2] else [])
  match [7, 2, 4].find? (codes.contains ·) with
  | some k => (k, s)
  | none => (0, rs.foldl (fun s d => (lendEngine s ctx parties d.1 d.2).2) s)

/-- Dirty bytes of a range written back for an engine that reads them (R98). -/
def flushSource (s : State) (c : Ctx) (oid base len : Nat) : State :=
  releaseLines s c.team.cores 2 (inRegion s c.team.ctx oid base len)

/-! Receipts and installments. -/

/-- The operation enters the engine, its receipt pending. -/
def engineStart (s : State) (c : Ctx) (e : EngOp) : State :=
  let (id, s) := s.fresh
  let s := { s with engines := s.engines ++ [{ e with id := id, ctx := c.team.ctx, die := c.die, handle := c.handle,
                                                      grp := c.grp, core := c.core }] }
  c.commit s (fun g => setPending g e.reg)

/-- The next transfer number of a die's copy engine (R97). -/
def nextXfer (s : State) (d : Nat) : Nat × State :=
  ((s.die d).xfer, s.updDie d (fun x => { x with xfer := x.xfer + 1 }))

def findEng (s : State) (id : Nat) : Option EngOp := s.engines.find? (fun e => decide (e.id = id))
def updEng (s : State) (id : Nat) (f : EngOp → EngOp) : State :=
  { s with engines := updWhere (fun e => decide (e.id = id)) f s.engines }

def EngOp.isNm (e : EngOp) : Bool := decide (e.kind = .nmred) || decide (e.kind = .nmscat)

/-- The operations that share one installment (R233). -/
def nmMates (s : State) (e : EngOp) : List EngOp :=
  s.engines.filter (fun x => x.isNm && decide (x.key = e.key) && x.status.isNone && decide (x.next = 0))

/-- Sheaves that an operation still wants from its pair; the installment of an issue stands with its first operation. -/
def engOwes (s : State) (e : EngOp) : Nat :=
  if e.status.isSome then 0
  else if e.isNm then
    match nmMates s e with
    | x :: r =>
      if x.id = e.id then ((x :: r).foldl (fun n y => n + y.count) 0 + 15) / 16 - e.paid else 0
    | [] => 0
  else e.want

/-- The pair of a module core. -/
def pairOf (core : Nat) : Nat × Nat := (core / 128, core % 128 / 2)

/-- Sheaves that the waiting charge of a bond still wants from a pair (R280). -/
def bondOwes (b : Bond) (d p : Nat) : Nat :=
  match b.op with
  | some o =>
    if o.started || !b.cores.any (fun c => decide (pairOf c = (d, p))) then 0 else 2 * o.charge - tget b.holds (64 * d + p) 0
  | none => 0

/-- The bonds with cores on a die. -/
def bondsOn (s : State) (d : Nat) : List Bond :=
  (s.dies.flatMap (fun x => x.2.bonds.map (·.2))).filter (fun b => !b.saved && b.cores.any (fun c => decide (c / 128 = d)))

/-- What waits on a pair besides units: ticket and sheaves of charges, then of installments. -/
def chargesOn (s : State) (d p : Nat) : List (Nat × Nat) :=
  (bondsOn s d).filterMap (fun b =>
    let n := bondOwes b d p
    if n = 0 then none else some ((b.op.map (·.ticket)).getD 0, n))

def installsOn (s : State) (d p : Nat) : List (Nat × Nat) :=
  (s.engines.filter (fun e => decide (pairOf e.core = (d, p)))).filterMap (fun e =>
    let n := engOwes s e
    if n = 0 then none else some (e.ticket, n))

/-- The heads of a pair's schedulers, by their prices (R331). -/
def headPrices (s : State) (d p : Nat) : List Nat :=
  let gs := (groupsOnCore s d (2 * p) ++ groupsOnCore s d (2 * p + 1)).map (·.2)
  (gs.filter (fun g => g.awaits.isSome)).map (·.awaitPrice)

/-- A charge or installment with this ticket may be served now: after the schedulers of this count, after the heads in a claim, and
in the order of R330 and R332. -/
def mayServe (s : State) (d p : Nat) (isCharge : Bool) (ticket : Nat) : Bool :=
  (serve s d p).2.isNone &&
  let claim := (s.pair d p).claim
  let earlier := fun l : List (Nat × Nat) => l.any (fun x => decide (x.1 < ticket))
  if claim then (headPrices s d p).isEmpty && !earlier (chargesOn s d p) && !earlier (installsOn s d p)
  else if isCharge then !earlier (chargesOn s d p)
  else (chargesOn s d p).isEmpty && !earlier (installsOn s d p)

/-- Sheaves of an installment taken from the purse of the issuing pair and charged to the issuing context and core
(R335). -/
def takeInstallment (s : State) (e : EngOp) : Nat × State :=
  let (d, p) := pairOf e.core
  let owed := engOwes s e
  let pr := s.pair d p
  let t := if mayServe s d p false e.ticket then min owed pr.purse else 0
  (t, charge (s.setPair d p { pr with purse := pr.purse - t }) e.ctx e.core t)

/-- An installment of a copy (R237). -/
def execEngineInstallment (s : State) : Host.Outcome State Fault Refusal :=
  match findEng s s.arg.id with
  | none => .next s
  | some e =>
    if e.isNm then .next s
    else
      let (t, s) := takeInstallment s e
      .next (updEng s e.id (fun e => { e with paid := e.paid + t, want := e.want - t }))

/-- The memory port's installment (R233): once it is whole, every group of the issue goes on. -/
def execMemoryPortInstallment (s : State) : Host.Outcome State Fault Refusal :=
  match findEng s s.arg.id with
  | none => .next s
  | some e =>
    if !e.isNm then .next s
    else
      let mates := (nmMates s e).map (·.id)
      let owed := engOwes s e
      let (t, s) := takeInstallment s e
      let s := updEng s e.id (fun e => { e with paid := e.paid + t })
      .next (if owed ≠ 0 ∧ t = owed then
          { s with engines := updWhere (fun x => mates.contains x.id)
                     (fun x => { x with next := 1, status := if x.entries.isEmpty then some 0 else none }) s.engines }
        else s)

/-! CPY (R237 to R242). -/

def sregLa (c : Ctx) (a : SSrc) : Nat := c.rdS false a % 2 ^ 32

/-- Step 3 of R483 for a CPY. -/
def cpyChecks (s : State) (c : Ctx) (r : CpyRec) : Gate :=
  let sc := Ctx.cap c r.scap
  let dc := Ctx.cap c r.dcap
  let strict := !r.loose
  let (slo, shi, sal) := r.srcExtent
  let (dlo, dhi, dal) := r.dstExtent
  let src := if r.skind = 0 then capExtent s c.team.ctx r.scap sc rR r.es slo shi sal strict
    else if strict then localExtent c.team r.es slo shi sal [] else none
  let dst := if r.dkind = 0 ∨ r.dkind = 4 then capExtent s c.team.ctx r.dcap dc (rW ||| rL) r.es dlo dhi dal strict
    else if r.dkind = 1 ∧ strict then localExtent c.team r.es dlo dhi dal (maskBits r.mcast) else none
  (failGate c (firstFail [src, dst])).both fun _ =>
  let (sb, sn) := if strict then clipRange sc slo shi else (sc.base.toNat, sc.len.toNat)
  let (db, dn) := clipRange dc dlo dhi
  (if r.skind = 0 then (rangeBusy s c sc.oid.toNat sb sn).both fun _ => flushGate s c sc.oid.toNat sb sn else .go).both fun _ =>
  (if r.dkind = 0 ∨ r.dkind = 4 then (rangeBusy s c dc.oid.toNat db dn).both fun _ => flushGate s c dc.oid.toNat db dn
   else .go).both fun _ =>
  if r.skind = 0 ∧ strict then rangeCover s c r.scap sc r.es sb sn else .go

def cpyRecOf (c : Ctx) (x : CpyU) : BitVec 512 := recordAt c (sregLa c x.a)

/-- The pages of R483 step 5. -/
def cpyAbsent (s : State) (c : Ctx) (r : CpyRec) : Bool :=
  let sc := Ctx.cap c r.scap
  let dc := Ctx.cap c r.dcap
  let obj := fun k : Cap => readObj s c.team.ctx k.oid.toNat
  let (slo, shi, _) := r.srcExtent
  let (dlo, dhi, _) := r.dstExtent
  !r.loose &&
    ((decide (r.skind = 0) && absentPages s (obj sc) (clipRange sc slo shi).1 (clipRange sc slo shi).2) ||
     ((decide (r.dkind = 0) || decide (r.dkind = 4)) &&
        absentPages s (obj dc) (clipRange dc dlo dhi).1 (clipRange dc dlo dhi).2))

/-- A feed may be named only by the team that holds the lease (R273, R483 step 4). -/
def cpyNoLease (s : State) (c : Ctx) (r : CpyRec) : Bool :=
  (decide (r.dkind = 2) || decide (r.dkind = 3)) && (bondOf s c.die c.handle).isNone

/-- Regions that a destination range meets. -/
def lendTargets (s : State) (ctx : Nat) (k : Cap) (base len : Nat) : List Deckle :=
  if len = 0 then [] else regionsIn s ctx k.oid.toNat base len

def cpyEffect (x : CpyU) (c : Ctx) (s : State) : State :=
  let rec_ := cpyRecOf c x
  let r := cpyRec rec_
  let e : EngOp := { kind := .cpy, reg := x.r, record := rec_, src := Ctx.cap c r.scap, dst := Ctx.cap c r.dcap }
  if r.bad c.team (teamShape s c.team) then engineStart s c { e with status := some 3 }
  else if cpyNoLease s c r then engineStart s c { e with status := some 9 }
  else if cpyAbsent s c r then engineStart s c { e with status := some 2 }
  else
    let (no, s) := nextXfer s c.g.die
    let e := { e with party := copyParty c.g.die no }
    let (slo, shi, _) := r.srcExtent
    let (sb, sn) := if r.loose then (e.src.base.toNat, e.src.len.toNat) else clipRange e.src slo shi
    let s := if r.skind = 0 then flushSource s c e.src.oid.toNat sb sn else s
    if r.dkind = 0 ∨ r.dkind = 4 then
      let (dlo, dhi, _) := r.dstExtent
      let (db, dn) := clipRange e.dst dlo dhi
      let rs := lendTargets s c.team.ctx e.dst db dn
      match lendAll s c.team.ctx c.parties (rs.map (fun d => (d, e.party))) (rangeHole rs (rs.length + 1) db (db + dn)) with
      | (0, s) => engineStart s c { e with lends := rs.map (fun d => (d.oid, d.base)) }
      | (k, s) => engineStart s c { e with status := some 1, dstat := k }
    else engineStart s c e

def execCpy (x : CpyU) (s : State) :=
  issue { h := x.h, refs := refsOf [ssrcRefs x.a, sName x.r], uniform := true
          gate := fun c s =>
            (recordGate s c (sregLa c x.a)).both fun _ =>
            let r := cpyRec (cpyRecOf c x)
            if r.bad c.team (teamShape s c.team) then .go else cpyChecks s c r
          effect := cpyEffect x } s

/-! The copy engine at work (R239, R241, R452, R453). -/

/-- One element: where its bytes come from (none: a pad element), and where they go. -/
structure Elem where
  src : Option Int
  dst : Int

/-- A word of local store, when R79 admits it. -/
def localWord (t : Team) (grp : Nat) (la : Nat) : Option Nat :=
  if 2 ^ 32 ≤ la ∨ (localCheck t la 4).isSome then none else some (leNat (readLocal t (locIndex t grp la) 4))

/-- Element k of R239; none when an index word lies outside. -/
def CpyRec.elem (r : CpyRec) (t : Team) (grp k : Nat) : Option Elem :=
  let i := r.index k
  let x := if r.ind then (localWord t grp (r.iaddr + 4 * i.getD r.idim 0)).map (fun w => i.set r.idim w) else some i
  x.bind fun x =>
    let dst := (r.doff : Int) + dotSteps i r.ds
    if r.rag then
      match localWord t grp (r.raddr + 4 * i.getD 1 0), localWord t grp (r.raddr + 4 * i.getD 1 0 + 4) with
      | some a, some b =>
        if b ≤ a + i.getD 0 0 then some { src := none, dst := dst }
        else
          let so := (r.soff : Int) + ((a + i.getD 0 0) * r.es : Nat) + (x.getD 2 0 : Nat) * r.ss.getD 2 0 +
            (x.getD 3 0 : Nat) * r.ss.getD 3 0
          some { src := some so, dst := dst }
      | _, _ => none
    else some { src := some ((r.soff : Int) + dotSteps x r.ss), dst := dst }

/-- What the engine finds for an element's bytes: bytes with marks, a stop with a STATUS, or a missing path. -/
inductive Got (α : Type) where
  | ok (v : α)
  | stop (status : Nat)
  | noPath (endpoint : Nat)

/-- A place that the engine's die reaches (R453, R471, R473). -/
def engReach (s : State) (die place : Nat) : Got Nat :=
  match reach s die place with
  | .ok => .ok place
  | .never _ => .stop 7
  | .noPath e => .noPath e

/-- The region of an offset is IN-FLIGHT, lent to the engine (R100). -/
def lentHere (s : State) (e : EngOp) (oid off : Nat) : Bool :=
  (regionAt s e.ctx oid off).any (fun d => decide (d.state = 4) && decide (d.holder = e.party))

/-- The engine's access to bytes of a global object is covered (R100): by its own lend, or for an element of an indirect or
ragged source by a hold or share of the issuer. Other sources were covered at issue (R98). -/
def engCovered (s : State) (e : EngOp) (o : ObjEntry) (oid off n : Nat) (kinds : Option (List Nat)) : Bool :=
  lentHere s e oid off ||
    (match kinds with
     | some ks => decide (coverOf s e.ctx [groupParty e.die e.handle e.grp, teamParty e.die e.handle] o oid off n ks ≠ Cover.none)
     | none => false)

/-- The place of an element of a capability. A destination no longer lent to the engine, its region POISONED meanwhile, stops it as
an uncovered element does (log 53). -/
def elemPlace (s : State) (e : EngOp) (k : Cap) (need es : Nat) (off : Int) (strict : Bool) (kinds : Option (List Nat)) : Got Nat :=
  let o := readObj s e.ctx k.oid.toNat
  let a : Access := { c := k, need := need, n := es }
  if off < 0 ∨ (capCheck o a off.toNat).isSome then .stop 4
  else
    let oo := k.base.toNat + off.toNat
    match placeOf s o oo with
    | none => .stop 2
    | some p =>
      if strict && !engCovered s e o k.oid.toNat oo es kinds then .stop 5 else engReach s (e.core / 128) p

/-- The bytes of an element's source, read at the home LLC with their marks (R433). -/
def elemRead (s : State) (e : EngOp) (r : CpyRec) (t : Team) (x : Elem) : Got (List (Byte × Bool)) :=
  match x.src with
  | none => .ok ((upto r.es).map (fun i => (BitVec.ofNat 8 (r.pad / 2 ^ (8 * (i % 4))), false)))
  | some off =>
    if r.skind = 1 then
      if off < 0 ∨ 2 ^ 32 ≤ off ∨ (localCheck t off.toNat r.es).isSome then .stop 4
      else
        let i := locIndex t e.grp off.toNat
        .ok ((upto r.es).map (fun k => (tget t.loc (i + k) 0, t.locPoison.contains (i + k))))
    else
      match elemPlace s e e.src rR r.es off r.loose (some loadKinds) with
      | .ok p => .ok ((upto r.es).map (fun k => (homeByte s (p + k), homePoison s (p + k))))
      | .stop k => .stop k
      | .noPath k => .noPath k

/-- Where an element is written. -/
inductive Target where
  | home (place : Nat)
  | store (index : List Nat)
  | host (addr : Nat)

/-- The staging window of a context (R383): HSBASE, HSLEN, HSLIM. -/
def stagingReg (s : State) (ctx i : Nat) : Nat := (s.reg (0x200000 + 32 * ctx + 8 * i)).toNat

/-- The targets of an element (R240, R383, R384); full: the owner finds the page of a far destination not RESIDENT. -/
def elemTargets (s : State) (e : EngOp) (r : CpyRec) (t : Team) (dst : Int) (full : Bool) : Got Target :=
  if r.dkind = 1 then
    let las : List Int := if r.mcast = 0 then [dst] else (maskBits r.mcast).map (fun i => dst + ((i * 2 ^ 20 : Nat) : Int))
    if (r.mcast ≠ 0 ∧ (dst < 0 ∨ 2 ^ 20 ≤ dst)) ∨
        las.any (fun la => decide (la < 0) || decide (2 ^ 32 ≤ la) || (localCheck t la.toNat r.es).isSome) then .stop 4
    else .ok (.store (las.map (fun la => locIndex t e.grp la.toNat)))
  else if r.dkind = 5 then
    if dst < 0 ∨ dst % (r.es : Int) ≠ 0 ∨ (stagingReg s e.ctx 1 : Int) < dst + r.es then .stop 4
    else if (stagingReg s e.ctx 2 : Int) < dst + r.es then .stop 6
    else if s.hostLinkDown then .stop 7
    else .ok (.host (stagingReg s e.ctx 0 + dst.toNat))
  else
    match elemPlace s e e.dst (rW ||| rL) r.es dst true none with
    | .ok p => if isFar p && full then .stop 6 else .ok (.home p)
    | .stop k => .stop k
    | .noPath k => .noPath k

def Target.count : Target → Nat
  | .store is => is.length
  | _ => 1

/-- Bytes into a local store with their marks. -/
def writeLocalMarked (t : Team) (i : Nat) (bs : List (Byte × Bool)) : Team :=
  let t := writeLocal t i (bs.map (·.1))
  { t with locPoison := ((upto bs.length).zip bs).foldl (fun l p => if p.2.2 then sIns l (i + p.1) else l) t.locPoison }

def wrMarkeds (s : State) (a : Nat) : List (Byte × Bool) → State
  | [] => s
  | b :: r => wrMarkeds (wrMarked s a b.1 b.2) (a + 1) r

/-- An element written at every target. -/
def writeTarget (s : State) (e : EngOp) (bs : List (Byte × Bool)) : Target → State
  | .home p => wrMarkeds s p bs
  | .store is => s.updTeam e.die e.handle (fun t => is.foldl (fun t i => writeLocalMarked t i bs) t)
  | .host a => { s with host := wrBytes s.host a (bs.map (·.1)) }

/-- The engine stops or finishes. -/
def engStop (s : State) (e : EngOp) (status : Nat) : State :=
  let s := updEng s e.id (fun e => { e with status := some status, want := 0, waitLaps := 0 })
  { s with paths := s.paths.filter (fun p => !decide (p.engine = some e.id)) }

/-- The engine waits for a path (R379, R473). -/
def engPath (s : State) (e : EngOp) (ep : Nat) : State :=
  if s.paths.any (fun p => decide (p.engine = some e.id)) then s
  else
    let (id, s) := s.fresh
    { s with paths := s.paths ++ [{ id := id, die := e.die, handle := e.handle, grp := e.grp, engine := some e.id,
                                    endpoint := ep, since := (s.die (e.core / 128)).cycle }] }

/-- Sheaves that must be paid before n more bytes are written: one for each KiB begun (R237). -/
def EngOp.short (e : EngOp) (n : Nat) : Nat := (e.done + n + 1023) / 1024 - e.paid

/-- The engine asks its pair for sheaves, in its turn. -/
def engAsk (s : State) (e : EngOp) (n : Nat) : State :=
  if e.want ≠ 0 then s
  else
    let (k, s) := s.fresh
    updEng s e.id (fun e => { e with want := n, ticket := k, waitLaps := 0 })

/-- Bytes written for a team: CB of R321. -/
def wrote (s : State) (e : EngOp) (n : Nat) : State := s.updTeam e.die e.handle (fun t => { t with cb := t.cb + n })

/-- The page bits of an element read, and of one written (R71). -/
def markRead (s : State) (e : EngOp) (r : CpyRec) (x : Elem) : State :=
  match x.src with
  | some off => if r.skind = 0 then markCap s e.ctx e.src false off.toNat else s
  | none => s

def markWritten (s : State) (e : EngOp) (r : CpyRec) (x : Elem) : State :=
  if r.dkind = 0 ∨ r.dkind = 4 then markCap s e.ctx e.dst true x.dst.toNat else s

/-- One element moved: the state, and whether the engine goes on. -/
def cpyOne (s : State) (e : EngOp) (r : CpyRec) (t : Team) (full : Bool) : State × Bool :=
  match r.elem t e.grp e.next with
  | none => (engStop s e 4, false)
  | some x =>
    match elemRead s e r t x with
    | .stop k => (engStop s e k, false)
    | .noPath ep => (engPath s e ep, false)
    | .ok bs =>
      if e.isFeed then
        (updEng (markRead s e r x) e.id (fun e => { e with next := e.next + 1, unit := e.unit ++ bs }), true)
      else
        match elemTargets s e r t x.dst full with
        | .stop k => (engStop s e k, false)
        | .noPath ep => (engPath s e ep, false)
        | .ok tg =>
          let n := tg.count * r.es
          if e.short n ≠ 0 then (engAsk s e (e.short n), false)
          else
            let s := markWritten (markRead s e r x) e r x
            (updEng (wrote (if e.ahead.contains e.next then s else writeTarget s e bs tg) e n) e.id
              (fun e => { e with next := e.next + 1, count := e.count + r.es, done := e.done + n }), true)

/-- R242, R452: the engine may write an element, k past the next one, before its turn, in a KiB that is paid; the element is
counted in its turn, and not written again. -/
def cpyAhead (s : State) (e : EngOp) (k : Nat) (full : Bool) : State :=
  let r := cpyRec e.record
  let i := e.next + k
  match s.team? e.die e.handle with
  | none => s
  | some t =>
    if e.status.isSome || e.frozen || e.isFeed || decide (r.total ≤ i) || e.ahead.contains i then s
    else
      match r.elem t e.grp i with
      | none => s
      | some x =>
        match elemRead s e r t x with
        | .ok bs =>
          match elemTargets s e r t x.dst full with
          | .ok tg =>
            if e.short ((k + 1) * (tg.count * r.es)) ≠ 0 then s
            else updEng (writeTarget (markWritten (markRead s e r x) e r x) e bs tg) e.id (fun e => { e with ahead := sIns e.ahead i })
          | _ => s
        | _ => s

/-- The engine moves elements until it must wait, stops, or has moved a stretch of them. -/
def cpyRun (s : State) (id : Nat) (full : Bool) : Nat → State
  | 0 => s
  | n + 1 =>
    match findEng s id with
    | none => s
    | some e =>
      match s.team? e.die e.handle with
      | none => engStop s e 7
      | some t =>
        let r := cpyRec e.record
        if e.status.isSome || e.frozen || decide (e.want ≠ 0) then s
        else if e.isFeed && decide (64 ≤ e.unit.length) then s
        else if r.total ≤ e.next then (if e.isFeed then s else engStop s e 0)
        else
          match cpyOne s e r t full with
          | (s, true) => cpyRun s id full n
          | (s, false) => s

/-! CPYC (R138 to R140, R243, R385). -/

/-- The fields of a collective descriptor. -/
structure CpycRec where
  fmt : Nat
  bk : Nat
  soff : Nat
  doff : Nat
  nelem : Nat
  cslot : Nat
  scap : Nat
  dcap : Nat
  cop : Nat
  seq : Nat

def cpycRec (r : BitVec 512) : CpycRec :=
  { fmt := rfield r 511 504, bk := rfield r 503 500, soff := rfield r 447 408, doff := rfield r 407 368,
    nelem := rfield r 367 328, cslot := rfield r 327 312, scap := rfield r 311 308, dcap := rfield r 307 304,
    cop := rfield r 303 302, seq := rfield r 301 286 }

/-- Element bits of a format code (R129). -/
def codeBits (c : Nat) : Option Nat :=
  if c = 0x04 ∨ c = 0x05 then some 32 else if c = 0x60 then some 8 else (fmtOfCode c).map Fmt.width

def reducible (c : Nat) : Bool := decide (1 ≤ c ∧ c ≤ 5) || (match fmtOfCode c with | some f => f.isB8 | none => false)

def bytesOf (c n : Nat) : Nat := (codeBits c).getD 8 * n / 8

/-- A collective slot entry (R385): N and RANK when configured. -/
def slotEntry (s : State) (die slot : Nat) : Option (Nat × Nat) :=
  let w := (tget (s.die die).cslots slot 0).toNat
  if slot < 4096 ∧ w.testBit 63 ∧ bits w 62 49 ≠ 0 then some (bits w 62 49, bits w 48 35) else none

/-- The die has contributed with this slot and sequence number since the slot was configured (R243; log 53). -/
def contributed (s : State) (die slot seq : Nat) : Bool := (s.die die).contributed.contains (65536 * slot + seq)

/-- A die of this module that is a member of the slot has failed (R243, R454). -/
def memberFailed (s : State) (slot : Nat) : Bool := (upto 16).any (fun d => decide ((s.die d).boot = 3) && (slotEntry s d slot).isSome)

/-- The descriptor is not accepted (R243, R385). -/
def CpycRec.bad (r : CpycRec) (s : State) (die : Nat) : Bool :=
  match slotEntry s die r.cslot with
  | none => true
  | some (n, _) =>
    decide (r.bk ≠ 0) || decide (r.cop = 3) || decide (r.nelem = 0) || (codeBits r.fmt).isNone ||
    (decide (r.cop ≤ 1) && !reducible r.fmt) || (decide (r.cop = 1) && decide (r.nelem % n ≠ 0)) ||
    (decide (r.fmt = 0x50) && decide (r.nelem % 2 ≠ 0)) || contributed s die r.cslot r.seq

/-- Bytes of a member's result. -/
def CpycRec.resultBytes (r : CpycRec) (n : Nat) : Nat :=
  if r.cop = 0 then bytesOf r.fmt r.nelem else if r.cop = 1 then bytesOf r.fmt (r.nelem / n) else n * bytesOf r.fmt r.nelem

def CpycRec.es (r : CpycRec) : Nat := max (bytesOf r.fmt 1) 1

/-- Source and result ranges, as offsets in the capabilities. -/
def CpycRec.extents (r : CpycRec) (n : Nat) : (Int × Int × Bool) × (Int × Int × Bool) :=
  (((r.soff : Int), (r.soff + bytesOf r.fmt r.nelem : Nat), true), ((r.doff : Int), (r.doff + r.resultBytes n : Nat), true))

def cpycMembers (s : State) (die : Nat) (r : CpycRec) : Nat := ((slotEntry s die r.cslot).map (·.1)).getD 1

def cpycChecks (s : State) (c : Ctx) (r : CpycRec) : Gate :=
  let sc := Ctx.cap c r.scap
  let dc := Ctx.cap c r.dcap
  let ((slo, shi, sal), (dlo, dhi, dal)) := r.extents (cpycMembers s c.g.die r)
  (failGate c (firstFail [capExtent s c.team.ctx r.scap sc rR r.es slo shi sal true,
                          capExtent s c.team.ctx r.dcap dc (rW ||| rL) r.es dlo dhi dal true])).both fun _ =>
  let (sb, sn) := clipRange sc slo shi
  let (db, dn) := clipRange dc dlo dhi
  (rangeBusy s c sc.oid.toNat sb sn).both fun _ =>
  (rangeBusy s c dc.oid.toNat db dn).both fun _ =>
  (flushGate s c sc.oid.toNat sb sn).both fun _ =>
  (flushGate s c dc.oid.toNat db dn).both fun _ =>
  rangeCover s c r.scap sc r.es sb sn

def cpycEffect (x : CpyU) (c : Ctx) (s : State) : State :=
  let rec_ := cpyRecOf c x
  let r := cpycRec rec_
  let sc := Ctx.cap c r.scap
  let dc := Ctx.cap c r.dcap
  let e : EngOp := { kind := .cpyc, reg := x.r, record := rec_, src := sc, dst := dc }
  if r.bad s c.g.die then engineStart s c { e with status := some 3 }
  else
    let ((slo, shi, _), (dlo, dhi, _)) := r.extents (cpycMembers s c.g.die r)
    let (sb, sn) := clipRange sc slo shi
    let (db, dn) := clipRange dc dlo dhi
    let obj := fun k : Cap => readObj s c.team.ctx k.oid.toNat
    if absentPages s (obj sc) sb sn || absentPages s (obj dc) db dn then engineStart s c { e with status := some 2 }
    else
      let (no, s) := nextXfer s c.g.die
      let e := { e with party := copyParty c.g.die no }
      let s := flushSource s c sc.oid.toNat sb sn
      let rs := lendTargets s c.team.ctx dc db dn
      match lendAll s c.team.ctx c.parties (rs.map (fun d => (d, e.party))) (rangeHole rs (rs.length + 1) db (db + dn)) with
      | (0, s) =>
        let s := s.updDie c.g.die (fun x => { x with contributed := sIns x.contributed (65536 * r.cslot + r.seq) })
        engineStart s c { e with lends := rs.map (fun d => (d.oid, d.base)),
                                 status := if gridBroken s c.team.grid || memberFailed s r.cslot then some 8 else none }
      | (k, s) => engineStart s c { e with status := some 1, dstat := k }

def execCpyc (x : CpyU) (s : State) :=
  issue { h := x.h, refs := refsOf [ssrcRefs x.a, sName x.r], uniform := true
          gate := fun c s =>
            (recordGate s c (sregLa c x.a)).both fun _ =>
            let r := cpycRec (cpyRecOf c x)
            if r.bad s c.g.die then .go else cpycChecks s c r
          effect := cpycEffect x } s

/-- The position q of R138. -/
def fabricQ (c : Nat) : Int :=
  match fmtOfCode c with
  | some f => (((Nat.log2 (f.magOf f.maxCode).1 : Nat) : Int) + (f.magOf f.maxCode).2 + 1) - 241
  | none => 0

/-- A contribution's number at position q: its integer part toward zero, and whether bits were lost; none for a special
value. -/
inductive Entry where
  | num (v : Int) (lost : Bool)
  | inf (neg : Bool)
  | nan

def entryOf (c x : Nat) : Entry :=
  if c = 0x04 then .num (sextN x 32) false
  else if c = 0x05 then .num (x % 2 ^ 32 : Nat) false
  else
    match fmtOfCode c with
    | none => .nan
    | some f =>
      match f.dec x with
      | .nan => .nan
      | .inf n => .inf n
      | .fin neg m e =>
        let k := Fmt.shiftNat m (e - fabricQ c)
        let lost := decide (e < fabricQ c) && decide (m % 2 ^ (fabricQ c - e).toNat ≠ 0)
        .num (if neg then -(k : Int) else (k : Int)) lost

/-- One element of one contribution enters (R138). -/
def enterElem (k : Collective) (i x : Nat) (mark : Bool) : Collective :=
  let k := if mark then { k with poison := k.poison.set i true } else k
  match entryOf k.fmt x with
  | .nan => { k with nan := k.nan.set i true }
  | .inf true => { k with negInf := k.negInf.set i true }
  | .inf false => { k with posInf := k.posInf.set i true }
  | .num v lost => { k with acc := k.acc.set i (k.acc.getD i 0 + BitVec.ofInt 256 v), inexact := k.inexact || lost }

/-- The result element at the root, with NAN OVF (R139). An i32 or n32 sum outside its format counts as an overflow at the root,
which is the model's choice (log 53). -/
def rootElem (k : Collective) (i : Nat) : Nat × Bool × Bool :=
  let v := (k.acc.getD i 0).toInt
  if k.fmt = 0x04 ∨ k.fmt = 0x05 then
    let lo : Int := if k.fmt = 0x04 then -(2 ^ 31) else 0
    let hi : Int := if k.fmt = 0x04 then 2 ^ 31 - 1 else 2 ^ 32 - 1
    let w := max lo (min hi v)
    (wrapN w 32, false, decide (w ≠ v))
  else
    match fmtOfCode k.fmt with
    | none => (0, false, false)
    | some f =>
      let p := k.posInf.getD i false
      let n := k.negInf.getD i false
      if k.nan.getD i false || (p && n) then (f.nanCode, true, false)
      else if p || n then (if f.hasInf then f.infCode n else maxFinite f n, false, false)
      else
        let r := convQ f .ne false (decide (v < 0)) v.natAbs 1 (fabricQ k.fmt)
        (r.1, decide (r.1 = f.nanCode), decide (r.2 &&& fOF ≠ 0))

def sameColl (slot seq : Nat) (k : Collective) : Bool := decide (k.slot = slot) && decide (k.seq = seq)

/-- The outstanding member operations of a collective on this module. -/
def memberOps (s : State) (slot seq : Nat) : List EngOp :=
  s.engines.filter (fun e => decide (e.kind = .cpyc) && e.status.isNone && e.result.isNone &&
    decide ((cpycRec e.record).cslot = slot) && decide ((cpycRec e.record).seq = seq))

def opRank (s : State) (e : EngOp) : Nat := ((slotEntry s (e.core / 128) (cpycRec e.record).cslot).map (·.2)).getD 0

/-- A range of an object's bytes at home, with marks. -/
def objBytes (s : State) (ctx : Nat) (k : Cap) (off n : Nat) : List (Byte × Bool) :=
  let o := readObj s ctx k.oid.toNat
  (upto n).map (fun i => match placeOf s o (k.base.toNat + off + i) with
    | some p => (homeByte s p, homePoison s p)
    | none => (0, false))

/-- The rank is another module's, which the fabric brings: none arrives while MODNUM.V is 0 (R391), nor for a member of this
module. -/
def farRank (s : State) (slot rank : Nat) : Bool :=
  (s.reg 0x118).getLsbD 63 && !(upto 16).any (fun d => decide ((slotEntry s d slot).map (·.2) = some rank))

/-- One contribution of a collective (R138, R243): the rank's own source, or what another module sent. -/
def contribute (s : State) (slot seq rank : Nat) (sent : List Nat) : State :=
  match memberOps s slot seq with
  | [] => s
  | any_ :: r =>
    let rec_ := cpycRec any_.record
    let n := cpycMembers s (any_.core / 128) rec_
    let fresh : Collective := { slot := slot, seq := seq, n := n, fmt := rec_.fmt,
                                acc := List.replicate rec_.nelem 0, posInf := List.replicate rec_.nelem false,
                                negInf := List.replicate rec_.nelem false, nan := List.replicate rec_.nelem false,
                                poison := List.replicate rec_.nelem false }
    let k := (s.collectives.find? (sameColl slot seq)).getD fresh
    if k.ranks.contains rank ∨ n ≤ rank then s
    else
      let own := (any_ :: r).find? (fun e => decide (opRank s e = rank))
      if own.isNone && !farRank s slot rank then s else
      let sum := decide (rec_.cop ≤ 1)
      let es := rec_.es
      let k := match own with
        | some e =>
          let bs : List (Byte × Bool) := objBytes s e.ctx e.src rec_.soff (bytesOf rec_.fmt rec_.nelem)
          if sum then
            (upto rec_.nelem).foldl (fun k i =>
              let part : List (Byte × Bool) := (bs.drop (es * i)).take es
              enterElem k i (leNat (part.map (fun b : Byte × Bool => b.1))) (part.any (fun b : Byte × Bool => b.2))) k
          else { k with gathered := tput k.gathered rank (bs.map (fun b : Byte × Bool => b.1.toNat + (if b.2 then 256 else 0))) }
        | none =>
          if sum then (upto rec_.nelem).foldl (fun k i => enterElem k i (sent.getD i 0) false) k
          else { k with gathered := tput k.gathered rank (sent.map (· % 256)) }
      let k := { k with ranks := sIns k.ranks rank }
      let s := match own with
        | some e => (pagesOf rec_.soff (bytesOf rec_.fmt rec_.nelem)).foldl (fun s p => markCap s e.ctx e.src false (max rec_.soff (65536 * p))) s
        | none => s
      { s with collectives := s.collectives.filter (fun x => !sameColl slot seq x) ++ [k] }

def execCollectiveContribution (s : State) : Host.Outcome State Fault Refusal :=
  .next (contribute s s.arg.unit s.arg.num s.arg.idx s.arg.elems)

/-- The bytes, marks and events that a member receives (R139, R243). -/
def rootResult (s : State) (k : Collective) (e : EngOp) : List Nat × List Bool × Nat :=
  let r := cpycRec e.record
  let es := r.es
  if r.cop = 2 then
    let bs : List Nat := (upto k.n).flatMap (fun i => tget k.gathered i [])
    (bs.map (· % 256), bs.map (fun b => decide (256 ≤ b)), 0)
  else
    let all : List (Nat × Bool × Bool) := (upto r.nelem).map (rootElem k)
    let per := r.nelem / k.n
    let mine := if r.cop = 0 then upto r.nelem else (upto per).map (opRank s e * per + ·)
    let flags := 4 * btn (all.any (fun x => x.2.1)) + 2 * btn (all.any (fun x => x.2.2)) + btn k.inexact
    (mine.flatMap (fun i => (leBytes es (all.getD i (0, false, false)).1).map (fun b => b.toNat)),
     mine.flatMap (fun i => List.replicate es (k.poison.getD i false)), flags)

/-- Every member has contributed: the root rounds and each member receives its result. -/
def execCollectiveRootResult (s : State) : Host.Outcome State Fault Refusal :=
  match s.collectives.find? (sameColl s.arg.unit s.arg.num) with
  | none => .next s
  | some k =>
    if k.ranks.length < k.n then .next s
    else
      let ids := (memberOps s k.slot k.seq).map (·.id)
      .next { s with
        engines := updWhere (fun e => ids.contains e.id) (fun e => { e with result := some (rootResult s k e) }) s.engines
        collectives := s.collectives.filter (fun x => !sameColl k.slot k.seq x) }

/-- A member's engine writes one byte of its result. -/
def cpycOne (s : State) (e : EngOp) (res : List Nat × List Bool × Nat) (full : Bool) : State × Bool :=
  let r := cpycRec e.record
  match elemPlace s e e.dst (rW ||| rL) 1 ((r.doff + e.next : Nat) : Int) true none with
  | .stop k => (engStop s e k, false)
  | .noPath ep => (engPath s e ep, false)
  | .ok p =>
    if isFar p && full then (engStop s e 6, false)
    else if e.short 1 ≠ 0 then (engAsk s e (e.short 1), false)
    else
      let s := markCap s e.ctx e.dst true (r.doff + e.next)
      (updEng (wrote (wrMarked s p (BitVec.ofNat 8 (res.1.getD e.next 0)) (res.2.1.getD e.next false)) e 1) e.id
        (fun e => { e with next := e.next + 1, count := e.count + 1, done := e.done + 1 }), true)

/-- R452: a byte of the result, k past the next one, written before its turn. -/
def cpycAhead (s : State) (e : EngOp) (k : Nat) (full : Bool) : State :=
  let i := e.next + k
  match e.result with
  | none => s
  | some res =>
    if e.status.isSome || decide (res.1.length ≤ i) || decide (e.short (k + 1) ≠ 0) then s
    else
      match elemPlace s e e.dst (rW ||| rL) 1 (((cpycRec e.record).doff + i : Nat) : Int) true none with
      | .ok p => if isFar p && full then s else wrMarked (markCap s e.ctx e.dst true ((cpycRec e.record).doff + i)) p (BitVec.ofNat 8 (res.1.getD i 0)) (res.2.1.getD i false)
      | _ => s

def cpycRun (s : State) (id : Nat) (full : Bool) : Nat → State
  | 0 => s
  | n + 1 =>
    match findEng s id with
    | none => s
    | some e =>
      match e.result with
      | none => s
      | some res =>
        if e.status.isSome || decide (e.want ≠ 0) then s
        else if res.1.length ≤ e.next then engStop s e 0
        else
          match cpycOne s e res full with
          | (s, true) => cpycRun s id full n
          | (s, false) => s

/-- The copy engine moves up to 1024 elements, or bytes of a collective's result (R485: the stretch is open); or it writes
one ahead of its turn (num; log 51). -/
def execCopyEngineTransfer (s : State) : Host.Outcome State Fault Refusal :=
  match findEng s s.arg.id with
  | none => .next s
  | some e =>
    let k := s.arg.num
    match e.kind with
    | .cpy => .next (if k = 0 then cpyRun s e.id s.arg.flag 1024 else cpyAhead s e k s.arg.flag)
    | .cpyc => .next (if k = 0 then cpycRun s e.id s.arg.flag 1024 else cpycAhead s e k s.arg.flag)
    | _ => .next s

/-! NMRED, NMSCAT (R233 to R236, R392, R393). -/

/-- The fields of a silo descriptor. -/
structure NmDesc where
  istride : Nat
  bstride : Nat
  nelem : Nat
  ifmt : Nat
  icap : Nat
  bcap : Nat
  acc : Bool

def nmDesc (r : BitVec 512) : NmDesc :=
  { istride := rfield r 127 88, bstride := rfield r 87 48, nelem := max (rfield r 47 36) 1, ifmt := rfield r 35 28,
    icap := rfield r 27 24, bcap := rfield r 23 20, acc := decide (rfield r 19 19 = 1) }

def NmDesc.es (d : NmDesc) : Nat := if d.ifmt = 1 then 4 else 2

def NmDesc.bad (d : NmDesc) (scat : Bool) : Bool :=
  !(decide (d.ifmt = 1) || (!scat && (decide (d.ifmt = 2) || decide (d.ifmt = 3)))) || decide (2048 < d.nelem) ||
    decide (d.istride % d.es ≠ 0) || decide (d.bstride % 4 ≠ 0)

/-- The entries of the issue: the active lanes in order (R233). -/
def nmEntries (c : Ctx) (x : NmU) : List NmEntry :=
  c.lanes.map (fun l =>
    { lane := l, row := readReg c.g (c.g.wb + x.a) l, bag := readReg c.g (c.g.wb + x.a + 1) l
      weight := BitVec.ofNat 32 (if x.w then readReg c.g (c.g.wb + x.a + 2) l else 0x3F800000) })

def NmDesc.rowOff (d : NmDesc) (e : NmEntry) : Nat := e.row * d.istride
def NmDesc.bagOff (d : NmDesc) (e : NmEntry) : Nat := e.bag * d.bstride

/-- One check of R67 for a row: its first failing number. -/
def rowCheck (s : State) (ctx : Nat) (k : Cap) (need es len off : Nat) : Option Nat :=
  let o := readObj s ctx k.oid.toNat
  let a : Access := { c := k, need := need, n := es, acc := 4 }
  let end_ := k.base.toNat + off + len
  if !k.tag then some 1
  else if !rightsOk a o.imm then some 2
  else if k.len.toNat < off + len ∨ (o.valid ∧ o.size < end_) then some 3
  else if (k.base.toNat + off) % es ≠ 0 then some 4
  else if !o.valid ∨ k.gen.toNat ≠ o.gen ∨ retiring s ctx k.oid.toNat = true then some 5
  else none

/-- R67 over every row of both capabilities; the report is of the lowest lane that fails, its indexed row first (R416). -/
def nmCapGate (s : State) (c : Ctx) (d : NmDesc) (scat : Bool) (es : List NmEntry) : Gate :=
  let ic : Cap := Ctx.cap c d.icap
  let bc := Ctx.cap c d.bcap
  let ineed := if scat then rW ||| rL else rR
  let bneed := if scat then rR else rW ||| rL
  let ir := es.map (fun e => (e.lane, rowCheck s c.team.ctx ic ineed d.es (d.es * d.nelem) (d.rowOff e)))
  let br := es.map (fun e => (e.lane, rowCheck s c.team.ctx bc bneed 4 (4 * d.nelem) (d.bagOff e)))
  match firstRow (ir ++ br) with
  | none => .go
  | some (k, _) =>
    let il := (ir.filter (fun r => decide (r.2 = some k))).map (·.1)
    let bl := (br.filter (fun r => decide (r.2 = some k))).map (·.1)
    let lane := (minBy id (il ++ bl)).getD 0
    let onRow := il.contains lane
    let cp := if onRow then ic else bc
    let off := ((es.find? (fun e => decide (NmEntry.lane e = lane))).map (fun e => if onRow then d.rowOff e else d.bagOff e)).getD 0
    let a : Access := { cap := if onRow then d.icap else d.bcap, c := cp, need := if onRow then ineed else bneed,
                        n := if onRow then d.es else 4, acc := 4 }
    .trap { code := 0x1F + k, mask := maskOf (il ++ bl),
            detail := capDetail a (readObj s c.team.ctx cp.oid.toNat) (0x1F + k) 0 off }

/-- Rows read and rows written by the entries: capability, its number, offset and length of each. -/
structure NmRows where
  cap : Cap
  num : Nat
  es : Nat
  offs : List (Nat × Nat)
  len : Nat

def nmSource (c : Ctx) (d : NmDesc) (scat : Bool) (es : List NmEntry) : NmRows :=
  if scat then { cap := Ctx.cap c d.bcap, num := d.bcap, es := 4, offs := es.map (fun e => (e.lane, d.bagOff e)), len := 4 * d.nelem }
  else { cap := Ctx.cap c d.icap, num := d.icap, es := d.es, offs := es.map (fun e => (e.lane, d.rowOff e)), len := d.es * d.nelem }

def nmDest (c : Ctx) (d : NmDesc) (scat : Bool) (es : List NmEntry) : NmRows :=
  if scat then { cap := Ctx.cap c d.icap, num := d.icap, es := d.es, offs := es.map (fun e => (e.lane, d.rowOff e)), len := d.es * d.nelem }
  else { cap := Ctx.cap c d.bcap, num := d.bcap, es := 4, offs := es.map (fun e => (e.lane, d.bagOff e)), len := 4 * d.nelem }

def NmRows.starts (r : NmRows) : List Nat := dedup (r.offs.map (fun p => r.cap.base.toNat + p.2))

/-- Cover of the rows read, with the lanes that fail in MASK. -/
def nmCover (s : State) (c : Ctx) (r : NmRows) : Gate :=
  let g := r.starts.foldl (fun (g : Gate) b => g.both fun _ => rangeCover s c r.num r.cap r.es b r.len) Gate.go
  match g with
  | .trap t =>
    let bad := r.offs.filter (fun p => match rangeCover s c r.num r.cap r.es (r.cap.base.toNat + p.2) r.len with
      | .trap _ => true
      | _ => false)
    .trap { t with mask := maskOf (bad.map (·.1)) }
  | g => g

/-- A gate over every row. -/
def nmRanges (r : NmRows) (f : Nat → Nat → Gate) : Gate :=
  r.starts.foldl (fun (g : Gate) b => g.both fun _ => f b r.len) Gate.go

def nmRecAt (c : Ctx) (x : NmU) : Nat := readS c.g x.j % 2 ^ 32

def nmGate (x : NmU) (scat : Bool) (c : Ctx) (s : State) : Gate :=
  (recordGate s c (nmRecAt c x)).both fun _ =>
  let d := nmDesc (recordAt c (nmRecAt c x))
  if d.bad scat then .go
  else
    let es := nmEntries c x
    let src := nmSource c d scat es
    let dst := nmDest c d scat es
    (nmCapGate s c d scat es).both fun _ =>
    (nmRanges src (fun b n => (rangeBusy s c src.cap.oid.toNat b n).both fun _ => flushGate s c src.cap.oid.toNat b n)).both fun _ =>
    (nmRanges dst (fun b n => (rangeBusy s c dst.cap.oid.toNat b n).both fun _ => flushGate s c dst.cap.oid.toNat b n)).both fun _ =>
    nmCover s c src

/-- A page of a named row is not RESIDENT on this module. -/
def nmAbsent (s : State) (ctx : Nat) (r : NmRows) : Bool :=
  let o := readObj s ctx r.cap.oid.toNat
  o.far || r.starts.any (fun b => absentPages s o b r.len)

/-- A page of the rows lies on the stack of a failed die (R471). -/
def nmLost (s : State) (ctx : Nat) (r : NmRows) : Bool :=
  let o := readObj s ctx r.cap.oid.toNat
  r.starts.any (fun b => (pagesOf b r.len).any (fun p =>
    match placeOf s o (65536 * p) with
    | some a => !s.running (stackOf a)
    | none => false))

/-- The written regions with the silo party of each: the stack of the page with the lowest offset written (R235). -/
def nmTargets (s : State) (ctx : Nat) (r : NmRows) : List (Deckle × Nat) :=
  let o := readObj s ctx r.cap.oid.toNat
  let all := r.starts.flatMap (fun b => if r.len = 0 then [] else regionsIn s ctx r.cap.oid.toNat b r.len)
  let ds := all.foldl (fun l d => if l.any (sameEntry d) then l else l ++ [d]) ([] : List Deckle)
  ds.map (fun d =>
    let low := (minBy id ((r.starts.filter (fun b => overlaps b r.len d.base d.len)).map (fun b => max b d.base))).getD d.base
    (d, siloParty (stackOf ((placeOf s o low).getD 0))))

def nmEffect (x : NmU) (scat : Bool) (c : Ctx) (s : State) : State :=
  let rec_ := recordAt c (nmRecAt c x)
  let d := nmDesc rec_
  let es := nmEntries c x
  let e : EngOp := { kind := if scat then .nmscat else .nmred, reg := x.r, record := rec_, src := Ctx.cap c d.icap,
                     dst := Ctx.cap c d.bcap,
                     key := ((s.die c.g.die).cycle * 2048 + c.core) * 128 + c.g.slot + 1 }
  if d.bad scat then engineStart s c { e with status := some 3 }
  else
    let src := nmSource c d scat es
    let dst := nmDest c d scat es
    if nmAbsent s c.team.ctx src || nmAbsent s c.team.ctx dst then engineStart s c { e with status := some 2 }
    else if nmLost s c.team.ctx src || nmLost s c.team.ctx dst then engineStart s c { e with status := some 7 }
    else
      let s := src.starts.foldl (fun s b => flushSource s c src.cap.oid.toNat b src.len) s
      let rs := nmTargets s c.team.ctx dst
      let hole := dst.starts.any (fun b => rangeHole (rs.map (·.1)) (rs.length + 1) b (b + dst.len))
      match lendAll s c.team.ctx c.parties rs hole with
      | (0, s) =>
        let (k, s) := s.fresh
        engineStart s c { e with lends := rs.map (fun d => (d.1.oid, d.1.base)), entries := es, count := es.length, ticket := k }
      | (k, s) => engineStart s c { e with status := some 1, dstat := k }

def nmUnit (x : NmU) (scat : Bool) : UnitOp :=
  { h := x.h, refs := refsOf [sRead x.j, vRead x.a (if x.w then 3 else 2), sName x.r], uniform := true
    gate := nmGate x scat, effect := nmEffect x scat }

def execNmred (x : NmU) (s : State) := issue (nmUnit x false) s
def execNmscat (x : NmU) (s : State) := issue (nmUnit x true) s

/-- The silo that owns a place: 16 × stack + bits [11:8] (R392). -/
def siloOf (place : Nat) : Nat := 16 * stackOf place + bits place 11 8

/-- The written row of an entry: capability, offset. -/
def nmWritten (op : EngOp) (e : NmEntry) : Cap × Nat :=
  let d := nmDesc op.record
  if op.kind = .nmscat then (op.src, d.rowOff e) else (op.dst, d.bagOff e)

def elemAddr (s : State) (ctx : Nat) (k : Cap) (off : Nat) : Nat :=
  (placeOf s (readObj s ctx k.oid.toNat) (k.base.toNat + off)).getD 0

/-- An f32 or 16-bit element at home, and whether a byte of it is marked. -/
def elemHome (s : State) (a n : Nat) : Nat × Bool := (homeNat s a n, (upto n).any (fun i => homePoison s (a + i)))

/-- One entry applied (R236); the first entry of a bag replaces it when ACC is 0. -/
def applyEntry (op : EngOp) (first : Bool) (s : State) (e : NmEntry) : State :=
  let d := nmDesc op.record
  let scat := decide (op.kind = .nmscat)
  let f := (fmtOfCode d.ifmt).getD .f32
  (upto d.nelem).foldl (fun s j =>
    let row := elemAddr s op.ctx op.src (d.rowOff e + d.es * j)
    let bag := elemAddr s op.ctx op.dst (d.bagOff e + 4 * j)
    let w := Fmt.f32.dec e.weight.toNat
    let (xv, xm) := if scat then elemHome s bag 4 else elemHome s row d.es
    let at_ := if scat then row else bag
    let (av, am) := if !scat && !d.acc && first then (0, false) else elemHome s at_ 4
    let x := if scat then Fmt.f32.dec xv else f.dec xv
    let v := (fdotf .f32 .ne false [(w, x)] [Fmt.f32.dec av]).1
    let s := markCap (markCap s op.ctx op.src scat (d.rowOff e + d.es * j)) op.ctx op.dst (!scat) (d.bagOff e + 4 * j)
    wrMarkeds s at_ ((leBytes 4 v).map (fun b => (b, xm || am)))) s

/-- Every region lent for the operation is still IN-FLIGHT. -/
def lendsStand (s : State) (op : EngOp) : Bool :=
  op.lends.all (fun l => s.deckles.any (fun d => decide (d.ctx = op.ctx) && decide (d.oid = l.1) && decide (d.base = l.2) && decide (d.state = 4)))

/-- A silo applies its next burst of up to 16 entries in lane order (R235, R393); a region POISONED meanwhile stops it (R100;
log 53). -/
def siloBurst (s : State) (op : EngOp) (silo : Nat) : State :=
  if op.status.isSome || decide (op.next = 0) then s
  else if !lendsStand s op then engStop s op 5
  else
    let mine := (op.entries.filter (fun e =>
      let (k, off) := nmWritten op e
      decide (siloOf (elemAddr s op.ctx k off) = silo))).take 16
    let r := mine.foldl (fun (r : State × List Nat) e =>
      (applyEntry op (!r.2.contains e.bag) r.1 e, sIns r.2 e.bag)) (s, op.begun)
    let lanes := mine.map (·.lane)
    let rest := op.entries.filter (fun e => !lanes.contains e.lane)
    updEng (wrote r.1 op (4 * (nmDesc op.record).nelem * mine.length)) op.id (fun o => { o with entries := rest, begun := r.2, status := if rest.isEmpty then some 0 else none })

def execSiloBurstApply (s : State) : Host.Outcome State Fault Refusal :=
  match findEng s s.arg.id with
  | none => .next s
  | some op => .next (if op.isNm then siloBurst s op s.arg.unit else s)

/-! Receipts (R99, R231, R452). -/

/-- The receipt word. -/
def engineWord (e : EngOp) (status : Nat) : Nat :=
  let cnt := match e.kind with
    | .cpy | .cpyc => e.count
    | _ => if status = 0 then e.count else 0
  let flags := match e.result with | some r => r.2.2 | none => 0
  at_ cnt 24 40 + at_ flags 16 3 + at_ (if status = 1 then e.dstat else 0) 8 8 + at_ status 0 8

/-- The queues of a feed CPY that stopped with STATUS 4 to 7 are FAILED at their write positions (R449). -/
def failFeeds (s : State) (e : EngOp) (status : Nat) : State :=
  if e.isFeed ∧ 4 ≤ status ∧ status ≤ 7 then
    match bondOf s e.die e.handle with
    | some b =>
      putBond s ((maskBits (cpyRec e.record).mcast).foldl (fun b i =>
        b.putQueue (decide (e.dkind = 3)) i ((b.queue (decide (e.dkind = 3)) i).fail status)) b)
    | none => s
  else s

/-- The regions lent to an engine that it has still to give back. -/
def engineLends (s : State) (e : EngOp) : List Deckle :=
  e.lends.filterMap (fun l =>
    s.deckles.find? (fun d => decide (d.ctx = e.ctx) && decide (d.oid = l.1) && decide (d.base = l.2) && decide (d.state = 4)))

/-- The receiver of a region has no room for it in its hold lists now (R423). -/
def returnStuck (s : State) (d : Deckle) : Bool :=
  match nextLender s d.ctx none d.lend.reverse with
  | some (q, _) => (spillFor s d.ctx q).isNone
  | none => false

/-- Every destination region goes back to its lender, then the receipt is written (R99). -/
def engineReceipt (s : State) (e : EngOp) (status : Nat) : State :=
  let s := (engineLends s e).foldl (fun s d => (returnNow s d d.holder).1) s
  let s := failFeeds s e status
  let s := { s with engines := s.engines.filter (fun x => !decide (x.id = e.id)),
                    paths := s.paths.filter (fun p => !decide (p.engine = some e.id)) }
  settleTeam (writeReceipt s e.die e.handle e.grp e.reg (engineWord e status)) e.die e.handle

def execEngineReceipt (s : State) : Host.Outcome State Fault Refusal :=
  match findEng s s.arg.id with
  | none => .next s
  | some e =>
    match e.status with
    | none => .next s
    | some st =>
      .next (if (engineLends s e).any (returnStuck s) then
          (if e.holdSince.isSome then s else updEng s e.id (fun e => { e with holdSince := some (s.die (e.core / 128)).cycle }))
        else engineReceipt s e st)

end Sys2Proof.Machine
end

