-- ==== Sys2Proof/Machine/Reports.lean ====
section
/-! DEFINITION. Trap records and the kill procedure (R396, R447, R450). -/
namespace Sys2Proof.Machine

/-- A trap record (R396). -/
structure TrapRec where
  mask : Mask := 0
  detail : Nat := 0
  cycle : Nat := 0
  pc : Nat := 0
  rpc : Nat := 0
  party : Nat := 0
  ctx : Nat := 0
  depth : Nat := 0
  slot : Nat := 0
  disp : Nat := 0
  code : Nat := 0

def TrapRec.bits (r : TrapRec) : Nat :=
  r.mask.toNat * 2 ^ 384 + at_ r.detail 256 128 + at_ r.cycle 192 64 + at_ r.pc 152 40 + at_ r.rpc 112 40 +
    at_ r.party 80 32 + at_ r.ctx 68 12 + at_ r.depth 60 8 + at_ r.slot 59 1 + at_ r.disp 56 3 + at_ r.code 48 8

/-- LT of R321: a region with LDEPTH 1 or more is held, or one is lent and not returned; lends to some parties are
disregarded (R466). -/
def teamLt (s : State) (t : Team) (except_ : List Nat) : Bool :=
  let ps := teamParties t
  s.deckles.any (fun d => decide (d.ctx = t.ctx) &&
    ((ps.contains d.holder && decide (1 ≤ d.lend.length)) ||
     (d.lend.any (ps.contains ·) && !except_.contains d.holder && !ps.contains d.holder) ||
     (d.lend.any (ps.contains ·) && ps.contains d.holder)))

/-- RESTART of the team's launch record. -/
def mayRestart (s : State) (t : Team) : Bool := match teamLaunch s t with | some l => l.restart | none => false

/-- The lowest-numbered live group of a team; with none live, the lowest-numbered one left. -/
def lowGroup (t : Team) : Nat :=
  let live := t.groupList.filter (fun g => decide (g.live ≠ 0))
  ((minBy id ((if live.isEmpty then t.groupList else live).map (·.num)))).getD 0

/-- The kill procedure (R450): DETAIL beside QPC and FAULT is given. -/
def killTeam (s : State) (b : Bond) (code fault qpc detail : Nat) : State :=
  match s.team? b.die b.handle with
  | none => s
  | some t =>
    let s := returnHolds s b
    let b := { b with op := none, holds := [], state := 3, fault := fault, qlast := qpc }
    let s := putBond s b
    let again := mayRestart s t && !teamLt s t [] && decide (t.kills < 4)
    let rec_ : TrapRec := { detail := at_ qpc 0 40 + at_ fault 40 8 + detail, cycle := (s.die b.die).cycle,
                            party := groupParty t.die t.handle (lowGroup t), ctx := t.ctx, disp := if again then 2 else 1,
                            code := code }
    let s := logCtx s t.ctx rec_.bits
    let s := chargeHouse s b.die (Config.houseCost 0)
    let s := s.updTeam b.die b.handle (fun t => { t with kills := t.kills + 1, preempt := none })
    if again then stopTeam s b.die b.handle else abortGrid s t.grid

end Sys2Proof.Machine
end

