-- ==== Sys2Proof/Machine/Bonds.lean ====
section
/-! DEFINITION. The bond instructions of major 0x35, the Q-format words, and the steps of feeds and sequencers (R56,
R136, R137, R244 to R247, R267 to R299, R449, R450). -/
namespace Sys2Proof.Machine

/-! Major 0x35 (R244 to R247, R435). -/

/-- BONDUSE (R244, R435). -/
def bondUse (f : Nat) (lease : Bool) (c : Ctx) (s : State) : Option TrapInfo :=
  let t := c.team
  let base := f + at_ t.span 8 2 + at_ (btn t.gleaner.isSome) 10 1
  if (t.span ≠ 2 ∧ t.span ≠ 3) ∨ t.bond = 0 ∨ t.gleaner.isSome = true then
    some { code := 0x40, mask := c.act, detail := base }
  else if lease ∧ (bondOf s c.die c.handle).isNone then some { code := 0x40, mask := c.act, detail := base + 2 ^ 11 }
  else none

/-- The clusters that a team's lease takes: die and cluster. -/
def leaseSpan (t : Team) : List (Nat × Nat) := if t.span = 3 then [(t.die, t.place), (t.die + 1, t.place)] else [(t.die, t.place)]

/-- The state of a bond at its grant (R245, R283). -/
def freshBond (t : Team) : Bond :=
  { die := t.die, handle := t.handle, cluster := t.place, shape := t.bond, twin := decide (t.span = 3) }

def execBlease (x : RegU) (s : State) :=
  issue { h := x.h, refs := sName x.d, uniform := true, row3 := bondUse 0 false
          effect := fun c s =>
            let held := (bondOf s c.die c.handle).isSome
            let busy := (leaseSpan c.team).any (fun p => (bondAt s p.1 p.2).isSome)
            let st := if held then 3 else if busy then 1 else 0
            let clear := fun g : Group => { g with rdvCount := [], rdvMask := [], rdvWant := [] }
            let lease := fun s : State => (putBond s (freshBond c.team)).updTeam c.die c.handle (Team.mapGroups clear)
            c.commit (if st = 0 then lease s else s) (fun g => c.putS x.d st (if st = 0 then clear g else g)) } s

/-- The sequencer runs, or a CPY into a feed is outstanding (R245). -/
def bondBusy (s : State) (b : Bond) : Bool :=
  decide (b.state = 1) || s.engines.any (fun e => e.feedsTeam b.die b.handle)

def execBfree (x : RegU) (s : State) :=
  issue { h := x.h, refs := sName x.d, uniform := true, row3 := bondUse 1 false
          effect := fun c s =>
            match bondOf s c.die c.handle with
            | none => c.commit s (c.putS x.d 2)
            | some b => if bondBusy s b then c.commit s (c.putS x.d 1) else c.commit (releaseBond s b) (c.putS x.d 0) } s

def execBstat (x : RegU) (s : State) :=
  issue { h := x.h, refs := sName x.d, uniform := true, row3 := bondUse 5 false
          effect := fun c s =>
            c.commit s (c.putS x.d (match bondOf s c.die c.handle with | some b => b.word | none => 0)) } s

/-- The first word of the stream as a 4-byte access needing X (R246). -/
def forkAccess (c : Ctx) (x : BforkU) : Access :=
  { cap := x.c, c := Ctx.cap c x.c, need := rX, n := 4, acc := 7, offs := c.lanes.map (fun l => (l, c.rdS false x.a)) }

/-- The bond at a BFORK: RUNNING, with the word's fields cleared, loop counters idle and rendezvous no longer broken (R283). -/
def Bond.fork (b : Bond) (grp r : Nat) (cap : Cap) (off : Nat) : Bond :=
  { b with state := 1, starting := true, receipt := some (grp, r), code := cap, qpc := (cap.base.toNat + off) % 2 ^ 40, qlast := 0
           events := 0, fault := 0, loops := [], broken := false, barWait := none, op := none }

def execBfork (x : BforkU) (s : State) :=
  issue { h := x.h, refs := refsOf [cRead x.c, ssrcRefs x.a, sName x.r], uniform := true, row3 := bondUse 2 true
          gate := fun c s =>
            (capGate s c.team.ctx (forkAccess c x)).both fun _ =>
            match bondOf s c.die c.handle with
            | some b => if b.state = 1 then Gate.wait else Gate.go
            | none => Gate.go
          effect := fun c s =>
            match bondOf s c.die c.handle with
            | some b =>
              c.commit (putBond s (b.fork c.grp x.r (Ctx.cap c x.c) (c.rdS false x.a))) (fun g => setPending g x.r)
            | none => s } s

/-- The sequencer starts the stream (R246). -/
def startStream (s : State) (b : Bond) : State := if b.starting then putBond s { b with starting := false } else s

def execBondStreamStart (s : State) : Host.Outcome State Fault Refusal :=
  match tfind (s.die s.arg.die).bonds s.arg.cl with
  | none => .next s
  | some b => .next (startStream s b)

/-! Rendezvous of groups (R247, R285, R442). -/

def rdvGate (x : BrdvU) (c : Ctx) (s : State) : Gate :=
  match bondOf s c.die c.handle with
  | none => .go
  | some b =>
    let n := c.rdS false x.a
    if b.broken then
      .trap { code := 0x60, mask := c.x.mask, detail := at_ x.n 48 3 + at_ b.fault 40 8 + at_ b.qlast 0 40 }
    else if n = 0 ∨ c.team.ngroups < n then
      .trap { code := 0x41, mask := c.act, detail := at_ 1 56 8 + at_ x.n 48 3 + at_ n 0 32 }
    else
      let held := decide ((b.rdv x.n).done < tget c.g.rdvCount x.n 0)
      match (b.rdv x.n).count with
      | some k =>
        if !held && decide (k ≠ n) then
          .trap { code := 0x41, mask := c.act, detail := at_ x.n 48 3 + at_ k 32 12 + at_ n 0 32 }
        else .go
      | none => .go

def rdvEffect (x : BrdvU) (wait : Bool) (c : Ctx) (s : State) : State :=
  match bondOf s c.die c.handle with
  | none => s
  | some b =>
    let n := c.rdS false x.a
    let done := (b.rdv x.n).done
    let s :=
      if done < tget c.g.rdvCount x.n 0 then
        c.commit s (fun g => g.updSlot c.slot (fun y => { y with wait := .rdvHold x.n n wait }))
      else
        c.commit s (fun g =>
          let g := { g with rdvMask := tset g.rdvMask x.n (tget g.rdvMask x.n 0 ||| c.x.mask) 0, rdvWant := tset g.rdvWant x.n n 0 }
          if wait then g.updSlot c.slot (fun y => { y with wait := .rdv x.n 0 }) else g)
    sweepTeam s c.die c.handle

def rdvUnit (x : BrdvU) (f : Nat) (wait : Bool) : UnitOp :=
  { h := x.h, refs := ssrcRefs x.a, uniform := true, row3 := bondUse f true
    gate := fun c s => (rdvGate x c s).both fun _ => stuckGate s c 1
    effect := fun c s => rdvEffect x wait c (releaseAll s c 1) }

def execBrdv (x : BrdvU) (s : State) := issue (rdvUnit x 3 true) s
def execBarv (x : BrdvU) (s : State) := issue (rdvUnit x 4 false) s

/-! The sequencer (R279). -/

/-- The team may be served: not stopped, saved or parked (R57, R450). -/
def seqTeam (s : State) (b : Bond) : Bool :=
  match s.team? b.die b.handle with
  | some t => (match t.state with | .resident | .draining => true | .parked => t.preempt.isNone | _ => false) && s.running b.die
  | none => false

/-- The sequencer takes its next word: its stream has started, no operation is in progress, and no rendezvous holds it. -/
def seqReady (s : State) (b : Bond) : Bool :=
  decide (b.state = 1) && !b.starting && b.op.isNone && seqTeam s b &&
    (match b.barWait with | some (n, k, _) => decide (k ≤ (b.rdv n).done) | none => true)

/-- The word is the last issued, and the next word follows it. -/
def Bond.issue (b : Bond) : Bond := { b with qlast := b.qpc, qpc := (b.qpc + 4) % 2 ^ 40, barWait := none }

/-- A word of the stream faults: the team's parties that wait for its receipts may retire (R284, R47). -/
def bondStop (s : State) (b : Bond) (code : Nat) : State := settleTeam (bondFault s b code b.qpc) b.die b.handle

/-- A Q word's meaning at the sequencer that the state names. -/
def qword (s : State) (f : Bond → State) : Host.Outcome State Fault Refusal :=
  match s.curSeq with
  | none => .fault .noSequencer
  | some (d, cl) =>
    match tfind (s.die d).bonds cl with
    | none => .fault .noSequencer
    | some b => .next (if seqReady s b then f b else s)

/-- The bond's team. -/
def bondTeam (s : State) (b : Bond) : Team := (s.team? b.die b.handle).getD {}

/-! Format blocks (R275, R276). -/
def descFmt (d : BitVec 128) : Nat := bits d.toNat 63 56
def descBk (d : BitVec 128) : Nat := bits d.toNat 55 52
def descBias (d : BitVec 128) : Int := sextN (bits d.toNat 51 44) 8
def descSaddr (d : BitVec 128) : Nat := bits d.toNat 95 64
def descSlen (d : BitVec 128) : Nat := bits d.toNat 127 96

/-- The operand classes: 0 binary8, 1 fp4, 2 bf16 (R271). -/
def fmtClass (c : Nat) : Option Nat :=
  match fmtOfCode c with
  | some .bf16 => some 2
  | some .fp4 => some 1
  | some f => if f.isB8 then some 0 else none
  | none => none

def operandOk (d : BitVec 128) (bk : Nat) : Bool :=
  match fmtClass (descFmt d) with
  | none => false
  | some k => decide (descBk d = 0) || (decide (k ≠ 2) && (decide (descBk d = bk) || decide (descBk d = 3)))

def outputOk (d : BitVec 128) : Bool :=
  (fmtOfCode (descFmt d)).isSome && decide (descBk d = 0) && decide (descSaddr d = 0) && decide (descSlen d = 0)

def accOk (d : BitVec 128) : Bool := decide (descFmt d = 1) && outputOk d && decide (bits d.toNat 51 44 = 0)

/-- A scale stream inside the team's local store. -/
def streamOk (t : Team) (d : BitVec 128) : Bool :=
  decide (descBk d = 0) || decide (descSlen d = 0) ||
    (decide (bits (descSaddr d) 31 24 = 0) && decide (bits (descSaddr d) 23 20 < t.ranks) &&
      decide (descSaddr d % 2 ^ 20 + descSlen d ≤ t.localBytes))

def execMfmt (laddr : Nat) (s : State) :=
  qword s fun b =>
    let t := bondTeam s b
    if laddr % 64 ≠ 0 then bondStop s b 1
    else if (localCheck t laddr 64).isSome then bondStop s b 5
    else
      let blk := leNat (readLocal t (locIndex t 0 laddr) 64)
      let f : FmtBlock := { a := BitVec.ofNat 128 blk, b := BitVec.ofNat 128 (blk / 2 ^ 128), o := BitVec.ofNat 128 (blk / 2 ^ 384) }
      let acc := BitVec.ofNat 128 (blk / 2 ^ 256)
      if !(operandOk f.a 1 && operandOk f.b 2 && accOk acc && outputOk f.o &&
          decide (fmtClass (descFmt f.a) = fmtClass (descFmt f.b))) then bondStop s b 3
      else if !(streamOk t f.a && streamOk t f.b) then bondStop s b 5
      else putBond s { b.issue with fmt := some f, curA := descSaddr f.a, curB := descSaddr f.b }

/-! Tiles and planes. -/
def tileKey (j t mm n : Nat) : Nat := ((8 * j + t) * 128 + mm) * 128 + n
def planeKey (i j p kk n : Nat) : Nat := (((8 * i + j) * 2 + p) * 128 + kk) * 128 + n

/-- Tile t zero on every south core, BV 0 (R278, R290). -/
def Bond.zeroTile (b : Bond) (t : Nat) : Bond :=
  { b with tiles := b.tiles.filter (fun e => decide (e.1 / 16384 % 8 ≠ t)), bias := b.bias.filter (fun e => decide (e.1 % 8 ≠ t)) }

def execMzero (t : Nat) (s : State) := qword s fun b => putBond s (b.issue.zeroTile t)

/-! Operands. -/

/-- Bytes of n elements of a format. -/
def elemBytes (c n : Nat) : Nat := (codeBits c).getD 8 * n / 8

/-- Element k of a byte list, by the order of R123 for fp4. -/
def elemOf (c : Nat) (bs : List Byte) (k : Nat) : Nat :=
  match fmtClass c with
  | some 1 => (bs.getD (k / 2) 0).toNat / 2 ^ (4 * (k % 2)) % 16
  | some 2 => (bs.getD (2 * k) 0).toNat + 256 * (bs.getD (2 * k + 1) 0).toNat
  | _ => (bs.getD k 0).toNat

/-- The scale bytes of an operation (R277): A for m rows, and B for a load. -/
def scaleBytesA (b : Bond) (f : FmtBlock) (m : Nat) : Nat :=
  if descBk f.a = 1 then 4 * b.rows * m else if descBk f.a = 3 then 4 * b.rows * (m / 32) else 0

def scaleBytesB (b : Bond) (f : FmtBlock) : Nat :=
  if descBk f.b = 2 then 512 * b.rows * b.cols else if descBk f.b = 3 then 16 * b.rows * b.cols else 0

def passes (d : BitVec 128) (cur n : Nat) : Bool := decide (descBk d ≠ 0) && decide (descSaddr d + descSlen d < cur + n)

/-- Scale bytes read when the operation starts (R281). -/
def readScales (t : Team) (cur n : Nat) : List Byte := readLocal t (locIndex t 0 cur) n

/-- One row of A for a bond row, or 32 rows for MMACT; one column's blocks of B (R274). -/
def rowBytes (f : FmtBlock) (transposed : Bool) : Nat := elemBytes (descFmt f.a) (if transposed then 4096 else 128)
def colBytes (b : Bond) (f : FmtBlock) : Nat := b.rows * elemBytes (descFmt f.b) 16384

/-! Taking operands from the queues (R272, R449). -/

/-- What taking from one queue comes to. -/
inductive Take where
  | ok (b : Bond)
  | failed (status : Nat)

/-- A row of a twin's A operand must have crossed the seam (R272). -/
def seamHas (b : Bond) (i n : Nat) : Bool := !b.twin || decide (n ≤ (tget b.seam i {}).bytes.length)

/-- One more piece of n bytes taken from a queue, when it is there. -/
def takePiece (b : Bond) (o : BondOp) (isB : Bool) (i n : Nat) : Option (Bond × BondOp) :=
  let q := b.queue isB i
  if q.bytes.length < n ∨ (!isB && !seamHas b i n) = true then none
  else
    let (bs, q) := q.take n
    let b := b.putQueue isB i q
    let b := if b.twin && !isB then { b with seam := tset b.seam i ((tget b.seam i {}).take n).2 {} } else b
    some (b, { o with taken := tput o.taken i (tget o.taken i [] ++ bs) })

/-- Everything that has arrived is taken, up to the need; a byte at or beyond FAILED that is needed stops it. -/
def takeQueue (isB : Bool) (i piece need : Nat) : Nat → Bond → BondOp → Bond × BondOp × Option Nat
  | 0, b, o => (b, o, none)
  | n + 1, b, o =>
    if need ≤ (tget o.taken i []).length then (b, o, none)
    else if (b.queue isB i).needsFailed piece then (b, o, ((b.queue isB i).failed.map (·.2)))
    else
      match takePiece b o isB i piece with
      | none => (b, o, none)
      | some (b, o) => takeQueue isB i piece need n b o

/-- Queue by queue; the queue of the first failure with its CPY's STATUS. -/
def takeAll (isB : Bool) (piece need : Nat) : List Nat → Bond → BondOp → Bond × BondOp × Option (Nat × Nat)
  | [], b, o => (b, o, none)
  | i :: r, b, o =>
    match takeQueue isB i piece need (need / max piece 1 + 1) b o with
    | (b, o, some st) => (b, o, some (i, st))
    | (b, o, none) => takeAll isB piece need r b o

/-- The operation's queues: feed, piece, need, queues. -/
def opNeeds (b : Bond) (o : BondOp) : Option (Bool × Nat × Nat × List Nat) :=
  match b.fmt, o.instr with
  | some f, .mloadb _ => some (true, 64, colBytes b f, upto b.cols)
  | some f, .mmac _ _ m => some (false, rowBytes f false, m * rowBytes f false, upto b.rows)
  | some f, .mmact _ _ m => some (false, rowBytes f true, m / 32 * rowBytes f true, upto b.rows)
  | _, _ => none

/-- MWAITF is satisfied: a FAILED queue counts as holding its amount (R299, R449). -/
def waitfMet (b : Bond) (isB : Bool) (mask amt : Nat) : Bool :=
  (maskBits mask).all (fun i => (b.queue isB i).failed.isSome || decide (amt ≤ (b.queue isB i).bytes.length))

/-- The operation in progress takes what has come: it is ready, starved, or meets a FAILED position (R449). -/
def pumpOp (s : State) (b : Bond) : State :=
  match b.op with
  | none => s
  | some o =>
    match o.instr with
    | .mwaitf isB mask amt =>
      putBond s (if waitfMet b isB mask amt then { b with op := none } else { b with op := some { o with starved := true } })
    | _ =>
      if !o.started || o.ready then s
      else
        match opNeeds b o with
        | none => s
        | some (isB, piece, need, qs) =>
          match takeAll isB piece need qs b o with
          | (b, _, some (i, st)) =>
            killTeam (putBond s b) b 0x61 9 o.addr (at_ i 48 4 + at_ (btn isB) 52 1 + at_ st 56 8)
          | (b, o, none) =>
            let full := qs.all (fun i => decide (need ≤ (tget o.taken i []).length))
            putBond s { b with op := some { o with ready := full, starved := !full } }

/-- A sequencer that begins to wait for queue data, after the last group that could help has gone, is an orphan (R285). -/
def pump (s : State) (b : Bond) : State := checkOrphan (pumpOp s b) b.die b.handle

/-- While a pre-emption is decided, an MMAC that has started runs to its end (R57). -/
def pumpAllowed (s : State) (b : Bond) : Bool :=
  seqTeam s b ||
    (match s.team? b.die b.handle, b.op with
     | some t, some o => (match t.state with | .deciding | .saving | .discarding | .parked => true | _ => false) && o.started && decide (o.charge ≠ 0)
     | _, _ => false)

/-- The bond of a team is pumped. -/
def pumpTeam (s : State) (die handle : Nat) : State :=
  match bondOf s die handle with
  | some b => if pumpAllowed s b then pump s b else s
  | none => s

/-- An operation begins, at the word just issued. -/
def beginOp (s : State) (b : Bond) (o : BondOp) : State :=
  let b' := { b.issue with op := some { o with addr := b.qpc } }
  pump (putBond s b') b'

def execMloadb (p : Nat) (s : State) :=
  qword s fun b =>
    match b.fmt with
    | none => bondStop s b 4
    | some f =>
      let n := scaleBytesB b f
      if passes f.b b.curB n then bondStop s b 6
      else beginOp s { b with curB := b.curB + n }
        { instr := .mloadb p, started := true, scales := readScales (bondTeam s b) b.curB n }

/-- D cycles of m rows and the price of one (R271). -/
def dCycles (k m : Nat) : Nat := if k = 1 then (m + 1) / 2 else if k = 2 then 2 * m else m
def dPrice (k : Nat) : Nat := if k = 1 then 5 else if k = 2 then 3 else 4

/-- The bias of the product, biased by 1024 as the records are (R278). -/
def productBias (b : Bond) (f : FmtBlock) (p : Nat) : Nat :=
  (descBias f.a + 1024 + ((tget b.planeBias p 1024 : Nat) : Int) - 1024).toNat

/-- The checks of MMAC and MMACT in the order of R292: the fault, if any. -/
def mmacFault (b : Bond) (tr : Bool) (t p m : Nat) : Option Nat :=
  match b.fmt with
  | none => some 4
  | some f =>
    if (tr ∨ descBk f.a = 3) ∧ m % 32 ≠ 0 then some 1
    else if tr ∧ descBk f.a = 1 then some 3
    else if (match tfind b.planeFmt p with
      | some c => decide (fmtClass c ≠ fmtClass (descFmt f.a))
      | none => false) then some 3
    else if (upto b.cols).any (fun j =>
      match tfind b.bias (8 * j + t) with
      | some bb => decide (bb ≠ productBias b f p)
      | none => false) then some 7
    else if passes f.a b.curA (scaleBytesA b f m) then some 6
    else none

/-- MMAC and MMACT issue: the checks, then the wait for their sheaves (R280). -/
def mmacIssue (s : State) (b : Bond) (i : Instr) (tr : Bool) (t p m : Nat) : State :=
  match mmacFault b tr t p m, b.fmt with
  | some k, _ => bondStop s b k
  | none, some f =>
    let k := (fmtClass (descFmt f.a)).getD 0
    let (tk, s) := s.fresh
    beginOp s b { instr := i, charge := dPrice k * dCycles k m, ticket := tk }
  | none, none => s

def execMmac (t p m : Nat) (s : State) := qword s fun b => mmacIssue s b (.mmac t p m) false t p m
def execMmact (t p m : Nat) (s : State) := qword s fun b => mmacIssue s b (.mmact t p m) true t p m

/-- Every pair of the bond holds its whole charge: the cores are charged and the operation starts (R280, R281). -/
def startMmac (s : State) (b : Bond) (o : BondOp) : State :=
  let t := bondTeam s b
  let s := b.cores.foldl (fun s c => charge s t.ctx c o.charge) s
  let n := match b.fmt, o.instr with
    | some f, .mmac _ _ m => scaleBytesA b f m
    | some f, .mmact _ _ m => scaleBytesA b f m
    | _, _ => 0
  let d := match b.fmt with
    | some f => o.charge / dPrice ((fmtClass (descFmt f.a)).getD 0)
    | none => 0
  let s := s.updTeam b.die b.handle (fun t => { t with mc := t.mc + d })
  let b := { b with holds := [], curA := b.curA + n, op := some { o with started := true, scales := readScales t b.curA n } }
  pump (putBond s b) b

/-- The sequencer moves sheaves from the purses of its pairs into its holds (R280, R330). -/
def seqCharge (s : State) (b : Bond) : State :=
  match b.op with
  | none => s
  | some o =>
    if o.started || decide (o.charge = 0) then s
    else
      let ps := dedup (b.cores.map (fun c => 64 * (c / 128) + c % 128 / 2))
      let (s, b) := ps.foldl (fun (r : State × Bond) k =>
        let d := k / 64
        let p := k % 64
        let pr := r.1.pair d p
        let t := if mayServe r.1 d p true o.ticket then min (bondOwes r.2 d p) pr.purse else 0
        (r.1.setPair d p { pr with purse := pr.purse - t }, { r.2 with holds := tset r.2.holds k (tget r.2.holds k 0 + t) 0 })) (s, b)
      let s := putBond s b
      if ps.all (fun k => decide (2 * o.charge ≤ tget b.holds k 0)) then startMmac s b o else s

def execSequencerCharge (s : State) : Host.Outcome State Fault Refusal :=
  match tfind (s.die s.arg.die).bonds s.arg.cl with
  | none => .next s
  | some b => .next (if seqTeam s b then seqCharge s b else s)

def execMdrain (t off m : Nat) (s : State) :=
  qword s fun b =>
    match b.fmt with
    | none => bondStop s b 4
    | some f =>
      if (bondTeam s b).localBytes < off + m * elemBytes (descFmt f.o) 128 then bondStop s b 5
      else putBond s { b.issue with op := some { instr := .mdrain t off m, addr := b.qpc, started := true, ready := true } }

/-! Completion of operations (R136, R137, R270, R278, R279). -/

/-- A loaded plane's element: code and scale byte, 127 without scales (R126, R291). -/
def planeElem (b : Bond) (f : FmtBlock) (o : BondOp) (i j kk n : Nat) : Nat :=
  let code := elemOf (descFmt f.b) (tget o.taken j []) ((i * 128 + kk) * 128 + n)
  let q := kk / 32
  let idx := ((j * b.rows + i) * 4 + q)
  let sc := if descBk f.b = 2 then (o.scales.getD (idx * 128 + n) 127#8).toNat
    else if descBk f.b = 3 then (o.scales.getD (idx * 4 + n / 32) 127#8).toNat else 127
  code * 256 + sc

def landPlane (b : Bond) (f : FmtBlock) (o : BondOp) (p : Nat) : Bond :=
  let keep := b.planes.filter (fun e => decide (e.1 / 16384 % 2 ≠ p))
  let new := (upto b.rows).flatMap (fun i => (upto b.cols).flatMap (fun j => (upto 128).flatMap (fun kk => (upto 128).map (fun n =>
    (planeKey i j p kk n, planeElem b f o i j kk n)))))
  { b with planes := new.foldl (fun m e => tset m e.1 e.2 127) keep, planeFmt := tput b.planeFmt p (descFmt f.b)
           planeBias := tset b.planeBias p (descBias f.b + 1024).toNat 1024, op := none }

/-- a(mm, 128 i + kk) as the operation took it. -/
def aElem (b : Bond) (f : FmtBlock) (o : BondOp) (tr : Bool) (i mm kk : Nat) : FVal :=
  let fa := (fmtOfCode (descFmt f.a)).getD .f32
  let idx := if tr then (mm / 32 * 128 + kk) * 32 + mm % 32 else mm * 128 + kk
  let code := elemOf (descFmt f.a) (tget o.taken i []) idx
  let q := kk / 32
  if descBk f.a = 1 then scaled fa code (o.scales.getD ((mm * b.rows + i) * 4 + q) 0).toNat
  else if descBk f.a = 3 then scaled fa code (o.scales.getD ((mm / 32 * b.rows + i) * 4 + q) 0).toNat
  else fa.dec code

/-- b(128 i + kk, 128 j + n) of a plane. -/
def bElem (b : Bond) (p i j kk n : Nat) : FVal :=
  match tfind b.planes (planeKey i j p kk n), (tfind b.planeFmt p).bind fmtOfCode with
  | some v, some fb => scaled fb (v / 256) (v % 256)
  | _, _ => .fin false 0 0

/-- An f32 sum rounded to nearest even (R136). -/
def add32 (x y : Nat) : Nat := (fdotf .f32 .ne false [] [Fmt.f32.dec x, Fmt.f32.dec y]).1

/-- The partial sum of one bond row over its four chunks. -/
def rowSum (b : Bond) (f : FmtBlock) (o : BondOp) (tr : Bool) (p i j mm n : Nat) : Nat :=
  (upto 4).foldl (fun acc c =>
    let ps := (upto 32).map (fun k => (aElem b f o tr i mm (32 * c + k), bElem b p i j (32 * c + k) n))
    add32 acc (fdotf .f32 .ne false ps []).1) 0

/-- The product of one element over every bond row, north to south. -/
def prodElem (b : Bond) (f : FmtBlock) (o : BondOp) (tr : Bool) (p j mm n : Nat) : Nat :=
  (upto b.rows).foldl (fun acc i =>
    let v := rowSum b f o tr p i j mm n
    if i = 0 then v else add32 acc v) 0

def landProduct (b : Bond) (f : FmtBlock) (o : BondOp) (tr : Bool) (t p m : Nat) : Bond :=
  let tiles := (upto b.cols).foldl (fun ts j => (upto m).foldl (fun ts mm => (upto 128).foldl (fun ts n =>
    let k := tileKey j t mm n
    tset ts k (BitVec.ofNat 32 (add32 (tget ts k 0).toNat (prodElem b f o tr p j mm n))) 0) ts) ts) b.tiles
  { b with tiles := tiles, op := none
           bias := (upto b.cols).foldl (fun l j => tput l (8 * j + t) (productBias b f p)) b.bias }

/-- Bond events from float flags (R282). -/
def drainEvents (f : FFlags) : BitVec 4 :=
  BitVec.ofNat 4 (8 * btn (f.getLsbD 4) + 4 * btn (f.getLsbD 2) + 2 * btn (f.getLsbD 1) + btn (f.getLsbD 0))

/-- The bytes of one drained row, with its events (R137, R278). -/
def drainRow (b : Bond) (f : FmtBlock) (t j mm : Nat) : List Byte × FFlags :=
  let fo := (fmtOfCode (descFmt f.o)).getD .f32
  let e : Int := (match tfind b.bias (8 * j + t) with | some v => (v : Int) - 1024 | none => 0) - descBias f.o
  let cs := (upto 128).map (fun n => convert ((Fmt.f32.dec (tget b.tiles (tileKey j t mm n) 0).toNat).scale e) fo .tz false)
  let w := fo.width
  let v := ((upto 128).zip cs).foldl (fun v p => v + p.2.1 * 2 ^ (w * p.1)) 0
  (leBytes (16 * w) v, cs.foldl (fun fl c => fl ||| c.2) 0)

def landDrain (s : State) (b : Bond) (f : FmtBlock) (t off m : Nat) : State :=
  let pitch := elemBytes (descFmt f.o) 128
  let (s, ev) := (upto b.cols).foldl (fun (r : State × FFlags) j => (upto m).foldl (fun (r : State × FFlags) mm =>
    let (bs, fl) := drainRow b f t j mm
    (r.1.updTeam b.die b.handle (fun tm => writeLocal tm (b.rank (b.rows - 1) j * 2 ^ 20 + off + mm * pitch) bs), r.2 ||| fl)) r) (s, 0)
  putBond s { (b.zeroTile t) with events := b.events ||| drainEvents ev, op := none }

/-- The damaged element that an operation reads: core rank and tile, or 8 + plane (R434, R450). -/
def opDamage (b : Bond) (o : BondOp) : Option (Nat × Nat) :=
  let south := (upto b.cols).map (b.rank (b.rows - 1))
  let hit := fun (tile plane : Option Nat) => b.damage.find? (fun d =>
    (decide (tile = some d.2) && south.contains d.1) || (match plane with | some p => decide (d.2 = 8 + p) | none => false))
  match o.instr with
  | .mmac t p _ => hit (some t) (some p)
  | .mmact t p _ => hit (some t) (some p)
  | .mdrain t _ _ => hit (some t) none
  | _ => none

/-- The operation's effect lands, and the sequencer goes on. -/
def completeOp (s : State) (b : Bond) : State :=
  match b.op, b.fmt with
  | some o, some f =>
    if !o.ready then s
    else
      match opDamage b o with
      | some (r, n) => killTeam s b 0x62 0 o.addr (at_ r 48 4 + at_ n 56 8)
      | none =>
        match o.instr with
        | .mloadb p => putBond s (landPlane b f o p)
        | .mmac t p m => putBond s (landProduct b f o false t p m)
        | .mmact t p m => putBond s (landProduct b f o true t p m)
        | .mdrain t off m => landDrain s b f t off m
        | _ => s
  | _, _ => s

def execBondOperationComplete (s : State) : Host.Outcome State Fault Refusal :=
  match tfind (s.die s.arg.die).bonds s.arg.cl with
  | none => .next s
  | some b => .next (completeOp s b)

/-! Control words (R294 to R299). -/

def execMloop (l n d : Nat) (s : State) :=
  qword s fun b =>
    if d = 0 then bondStop s b 1
    else
      let rem := (tfind b.loops l).getD (n - 1)
      let b' := b.issue
      putBond s (if 0 < rem then { b' with loops := tput b.loops l (rem - 1), qpc := (b.qpc + 2 ^ 40 - 4 * d) % 2 ^ 40 }
        else { b' with loops := tdel b.loops l })

def execMend (s : State) : Host.Outcome State Fault Refusal :=
  qword s fun b =>
    let b := { b.issue with state := 2 }
    settleTeam (bondReceipt (putBond s b) b) b.die b.handle

/-- The sequencer arrives at a rendezvous; one that arrived in the open phase already waits for its completion and arrives
in the next (R285, R296). -/
def seqArrive (s : State) (b : Bond) (n : Nat) (wait : Bool) : State :=
  let r := b.rdv n
  if 1 ≤ r.seqs then settleTeam (putBond s { b with barWait := some (n, r.done + 1, wait) }) b.die b.handle
  else
    let b' := { b.issue with rdvs := tset b.rdvs n ({ r with seqs := r.seqs + 1 } : Rdv).close {},
                             barWait := if wait then some (n, r.done + 1, true) else none }
    settleTeam (putBond s b') b.die b.handle

def execMbar (n : Nat) (s : State) := qword s fun b => seqArrive s b n true
def execMarv (n : Nat) (s : State) := qword s fun b => seqArrive s b n false

/-- %ndie of a team's grid (R171, R255). -/
def ndieOf (s : State) (grid : Nat) : Nat := match s.grid? grid with | some g => g.dies.length | none => 0

/-- A mailbox message sent to a die position; messages to a failed die are dropped (R255, R327, R457). -/
def sendDsig (s : State) (grid pos w : Nat) (op : SigOp) (v : Nat) (from_ : Nat) : State :=
  match (s.grid? grid).bind (fun g => g.dies[pos]?) with
  | none => s
  | some d =>
    if (s.die d).boot = 3 then s
    else
      let m : Dsig := { grid := grid, pos := pos, word := w, op := op, value := BitVec.ofNat 64 v, from_ := from_ }
      s.updDie d (fun x => { x with dsigs := x.dsigs ++ [m] })

def execMsig (op : SigOp) (w pos v : Nat) (s : State) :=
  qword s fun b =>
    let t := bondTeam s b
    if ndieOf s t.grid ≤ pos then bondStop s b 8
    else sendDsig (putBond s b.issue) t.grid pos w op v (bondParty b.die b.cluster)

def execMnop (s : State) : Host.Outcome State Fault Refusal := qword s fun b => putBond s b.issue

def execMwaitf (isB : Bool) (mask amt : Nat) (s : State) :=
  qword s fun b =>
    let n := if isB then b.cols else b.rows
    if mask = 0 ∨ 2 ^ n ≤ mask ∨ amt = 0 ∨ b.capacity isB < amt then bondStop s b 1
    else beginOp s b { instr := .mwaitf isB mask amt, started := true }

/-! Feeds and seams (R272, R273). -/

/-- The feeds of a bond whose queues a CPY names: each cluster of a twin has a feed B of its own (R272). -/
def feedsOf (b : Bond) (e : EngOp) : List Nat :=
  if b.twin && decide (e.dkind = 3) then dedup ((maskBits (cpyRec e.record).mcast).map (fun j => 2 * j / b.cols)) else [0]

/-- A feed takes units from one CPY at a time, in the order in which they reached it. -/
def feedHead (s : State) (b : Bond) (e : EngOp) : Bool :=
  s.engines.all (fun x => !(x.feedsTeam e.die e.handle && decide (x.dkind = e.dkind) && x.status.isNone && decide (x.id < e.id) &&
    (feedsOf b x).any ((feedsOf b e).contains ·)))

/-- A feed CPY waits for room that no group and no running sequencer will ever make: every feed CPY stops with NOLEASE and the
lease is released (R451). -/
def feedStuck (s : State) (b : Bond) : State :=
  match s.team? b.die b.handle with
  | some t =>
    if decide (b.state ≠ 1) && t.groups.all (fun g => g.2.exited) then releaseBond (stopFeeds s b.die b.handle 9) b else s
  | none => s

/-- One 64-byte unit appended at every target, or the end of the CPY (R237, R273, R449). -/
def feedAppend (s : State) (e : EngOp) : State :=
  if !e.isFeed || e.status.isSome || e.frozen || decide (e.want ≠ 0) then s
  else
    match bondOf s e.die e.handle with
    | none => engStop s e 9
    | some b =>
      if !feedHead s b e then s else
      let r := cpyRec e.record
      let isB := decide (e.dkind = 3)
      let qs := maskBits r.mcast
      if e.unit.length < 64 then (if r.total ≤ e.next then engStop s e 0 else s)
      else if qs.any (fun i => decide (b.capacity isB < (b.queue isB i).bytes.length + 64)) then feedStuck s b
      else if e.short (64 * qs.length) ≠ 0 then engAsk s e (e.short (64 * qs.length))
      else
        let u := e.unit.take 64
        let b := qs.foldl (fun b i => b.putQueue isB i ((b.queue isB i).append (u.map (·.1)) (u.any (·.2)))) b
        let s := updEng (wrote (putBond s b) e (64 * qs.length)) e.id (fun e =>
          { e with unit := e.unit.drop 64, count := e.count + 64, done := e.done + 64 * qs.length })
        let s := pumpTeam s e.die e.handle
        match findEng s e.id with
        | some e => if e.unit.isEmpty ∧ r.total ≤ e.next ∧ e.status = none then engStop s e 0 else s
        | none => s

def execFeedUnitAppend (s : State) : Host.Outcome State Fault Refusal :=
  match findEng s s.arg.id with
  | none => .next s
  | some e => .next (feedAppend s e)

/-- The seam link copies the next unit of queue i into seam queue i (R272, R472). -/
def seamCopy (s : State) (b : Bond) (i : Nat) : State :=
  let q := b.queue false i
  let sq := tget b.seam i { rpos := q.rpos, wpos := q.rpos }
  let off := (sq.wpos + 2 ^ 32 - q.rpos) % 2 ^ 32
  let unit := (q.bytes.drop off).take 64
  let down := 3 ≤ (tget s.seams (b.die / 2) {}).losses ∨ (tget s.seams (b.die / 2) {}).till.isSome = true
  if !b.twin ∨ b.rows ≤ i ∨ down ∨ unit.length < 64 ∨ b.capacity false < sq.bytes.length + 64 then s
  else pumpTeam (putBond s { b with seam := tput b.seam i (sq.append unit false) }) b.die b.handle

def execSeamUnitCopy (s : State) : Host.Outcome State Fault Refusal :=
  match tfind (s.die s.arg.die).bonds s.arg.cl with
  | none => .next s
  | some b => .next (seamCopy s b s.arg.q)

end Sys2Proof.Machine
end

