-- ==== Sys2Proof/Machine/Gleaner.lean ====
section
/-! DEFINITION. Marking a grid broken, and the Gleaner: kernel parameter records, open groups, launches and drops
(R48 to R52, R317, R455, R457). -/
namespace Sys2Proof.Machine

/-! A grid is marked broken (R457). -/

/-- The dies that a grid's positions stand for: for a twin span both dies of the twin (R27). -/
def Grid.allDies (g : Grid) : List Nat := if g.launch.span = 3 then g.dies.flatMap (fun d => [d, d + 1]) else g.dies

/-- Every DWAIT of the grid that is waiting ends with status 2; the teams so released. -/
def releaseBroken (s : State) (n : Nat) : State × List (Nat × Nat) :=
  (s.teams.filter (fun t => decide (t.grid = n) && t.gleaner.isNone)).foldl (fun r t =>
    let here := t.groupList.any (fun g => g.splits.any (fun x => decide (x.wait = .dwait)))
    match t.dwait with
    | some o => if o.status.isNone then (releaseDwait r.1 t.die t.handle 2, r.2 ++ [(t.die, t.handle)]) else r
    | none =>
      if here then (r.1.updTeam t.die t.handle (fun t => t.endDwait 2), r.2 ++ [(t.die, t.handle)]) else r) (s, [])

/-- Steps 1 and 2, once per grid: cause 0 a die failure, 1 a Gleaner loss; by is the die that the record names. -/
def markBroken (s : State) (n cause by_ : Nat) : State :=
  match s.grid? n with
  | none => s
  | some g =>
    if g.brokenAt.isSome ∨ g.state = .complete ∨ g.state = .broken then s
    else
      let live := g.allDies.filter (fun d => s.running d)
      let on := live.headD g.fetchDie
      let s := s.setGrid n { g with state := .broken, brokenAt := some (s.die on).cycle, brokenOn := on }
      let s := live.foldl (fun s d =>
        eventCtx s d { code := 0x71, cause := cause, value := by_, raddr := g.raddr, queue := g.queue,
                       party := mgmtParty d 0, ctx := g.ctx }) s
      let (s, rs) := releaseBroken s n
      s.updGrid n (fun g => { g with released := rs })

/-! Kernel parameter records (R51). -/

structure Kernel where
  capix : Nat
  ncaps : Nat
  width : Nat
  vregs8 : Nat
  loc : Nat
  bond : Nat

/-- Record e of a context's kernel parameter table. -/
def kernelBits (s : State) (ctx e : Nat) : BitVec 128 := BitVec.ofNat 128 (rdNat s.hbm ((readCtx s ctx).kpbase + 16 * e) 16)

def kernelOf (b : BitVec 128) : Kernel :=
  let r := b.toNat
  { capix := bits r 63 48, ncaps := bits r 47 43, bond := bits r 42 40, width := bits r 39 38, vregs8 := bits r 37 32,
    loc := bits r 31 20 }

def kernelRec (s : State) (ctx e : Nat) : Kernel := kernelOf (kernelBits s ctx e)

/-- The fields that make an entry not launchable; a group of one slot always fits an empty core (R32). -/
def Kernel.bad (k : Kernel) (eclen : Nat) : Bool :=
  decide (k.width = 3) || decide (1 ≤ k.vregs8 ∧ k.vregs8 ≤ 3) || decide (48 < k.vregs8) || decide (2048 < k.loc) ||
    decide (16 < k.ncaps) || decide (k.bond ≠ 0) || (decide (k.ncaps ≠ 0) && decide (eclen < k.capix + k.ncaps))

/-- Why the Gleaner cannot launch an entry (R455): CAUSE of GLEANENTRY. -/
def entryCause (s : State) (ctx e : Nat) : Option Nat :=
  let c := readCtx s ctx
  let k := entryCap s c e
  if c.eclen ≤ e then some 0
  else if !k.tag ∨ k.rights.toNat &&& rX = 0 then some 1
  else if (kernelRec s ctx e).bad c.eclen then some 2
  else none

/-! Drops (R455). -/

/-- A drop of a kind (0 GLEANENTRY, 1 GLEANOVF): one report per 2^20 counts per context and entry; the emitting grid is
marked broken. The table holds the report's instant plus 1, and for kind 0 the first unreported VALUE plus 1, for kind 1
the unreported drops. -/
def dropRec (s : State) (d ctx e kind cause : Nat) (r : GleanRec) : State :=
  let k := (4096 * e + ctx) * 2 + kind
  let (last, held) := tget (s.die d).gleanDrops k (0, 0)
  let now := (s.die d).cycle
  let val := at_ (bits r.bits.toNat 47 16) 16 32 + e
  let mine := if kind = 0 then (if held = 0 then val + 1 else held) else held + 1
  let put := fun (s : State) (p : Nat × Nat) => s.updDie d (fun x => { x with gleanDrops := tset x.gleanDrops k p (0, 0) })
  let s :=
    if last = 0 ∨ last - 1 + 2 ^ 20 ≤ now then
      put (eventCtx s d { code := 0x6E + kind, cause := cause, value := if kind = 0 then mine - 1 else mine,
                          party := mgmtParty d 0, ctx := ctx }) (now + 1, 0)
    else put s (last, mine)
  markBroken s r.grid 1 d

/-! Open groups (R49). -/

def Glean.is (ctx e : Nat) (g : Glean) : Bool := decide (g.ctx = ctx) && decide (g.entry = e)

/-- Records pending on a die's chip, and records of a context in its overflow area. -/
def Die.recs (d : Die) : List (Nat × GleanRec) :=
  d.gleans.flatMap (fun g => g.recs.map (fun r => (g.ctx, r))) ++ d.gleanReady.flatMap (fun g => g.recs.map (fun r => (g.ctx, r)))
def onChip (s : State) (d : Nat) : Nat := ((s.die d).recs.filter (fun p => !p.2.spilled)).length
def spilledOf (s : State) (ctx : Nat) : Nat :=
  s.dies.foldl (fun n d => n + (d.2.recs.filter (fun p => p.2.spilled && decide (p.1 = ctx))).length) 0

/-- The open group of a context and entry enters the placement list (R317), with its kernel's record as it stands (R51) and its
number among the launches (R52). -/
def launchGlean (s : State) (d ctx e : Nat) : State :=
  match (s.die d).gleans.find? (Glean.is ctx e) with
  | none => s
  | some g =>
    let k := 4096 * e + ctx
    let n := tget (s.die d).gleanCount k 0
    let rd : GleanReady := { ctx := ctx, entry := e, kern := kernelBits s ctx e, index := n, recs := g.recs }
    s.updDie d (fun x => { x with gleans := x.gleans.filter (fun h => !Glean.is ctx e h)
                                  gleanCount := tset x.gleanCount k ((n + 1) % 2 ^ 32) 0
                                  gleanReady := x.gleanReady ++ [rd] })

/-- A record joins its open group, which is launched when it is full. -/
def appendRec (s : State) (d ctx e : Nat) (r : GleanRec) : State :=
  let s := s.updDie d (fun x =>
    if x.gleans.any (Glean.is ctx e) then
      { x with gleans := updWhere (Glean.is ctx e) (fun g => { g with recs := g.recs ++ [r] }) x.gleans }
    else { x with gleans := x.gleans ++ [({ ctx := ctx, entry := e, recs := [r] } : Glean)] })
  match (s.die d).gleans.find? (Glean.is ctx e) with
  | some g => if widthOf (kernelRec s ctx e).width ≤ g.recs.length then launchGlean s d ctx e else s
  | none => s

/-- An open group is launched when the deadline of a record in it has come. -/
def launchDue (s : State) (d ctx e : Nat) : State :=
  match (s.die d).gleans.find? (Glean.is ctx e) with
  | some g => if g.recs.any (fun r => decide (r.due ≤ (s.die d).cycle)) then launchGlean s d ctx e else s
  | none => s

/-- A record reaches the Gleaner (R49, R455). -/
def arriveRec (s : State) (d ctx grid : Nat) (b : BitVec 512) : State :=
  let e := bits b.toNat 15 0
  let due := (s.die d).cycle + 64 * bits b.toNat 63 48
  let r : GleanRec := { due := due, bits := b, grid := grid }
  match entryCause s ctx e with
  | some c => dropRec s d ctx e 0 c r
  | none =>
    if onChip s d < 8192 then appendRec s d ctx e r
    else if spilledOf s ctx < 1024 * (readCtx s ctx).cosize then appendRec s d ctx e { r with spilled := true }
    else dropRec s d ctx e 1 0 r

/-- The records of one CONT, in increasing lane order. -/
def emitRecs (s : State) (d ctx grid : Nat) (rs : List (BitVec 512)) : State := rs.foldl (fun s b => arriveRec s d ctx grid b) s

/-- The group holds a record with GLEAN 0 that arrived in this count, which others of the count may join yet (R317). -/
def Glean.arriving (now : Nat) (g : Glean) : Bool := g.recs.any (fun r => decide (r.due = now) && decide (bits r.bits.toNat 63 48 = 0))

/-- The open groups whose deadline has come are launched before the count passes (R317). -/
def launchAll (s : State) : State :=
  (upto 16).foldl (fun s d => (s.die d).gleans.foldl (fun s g => launchDue s d g.ctx g.entry) s) s

def execGleanDeadline (s : State) : Host.Outcome State Fault Refusal :=
  let d := s.arg.die
  .next (if (s.die d).gleans.any (fun g => Glean.is s.arg.ctx s.arg.idx g && g.arriving (s.die d).cycle) then s
    else launchDue s d s.arg.ctx s.arg.idx)

end Sys2Proof.Machine
end

