-- ==== Sys2Proof/Machine/Queues.lean ====
section
/-! DEFINITION. Queues: doorbells, the fetch and validation of command records, refusals, the start and the deadline of a
grid, and the queue error word (R303 to R312, R326, R371 to R373, R422, R448, R455, R475). -/
namespace Sys2Proof.Machine

/-! Queue descriptors (R303). -/

structure Queue where
  rbase : Nat
  ctx : Nat
  prio : Nat
  dev : Bool
  log2n : Nat
  head : Nat
  tailoff : Nat
  tailix : Nat
  en : Bool

def queueAddr (s : State) (q : Nat) : Nat := (s.reg 0x110).toNat + 32 * q

def readQueue (s : State) (q : Nat) : Queue :=
  let w := rdNat s.hbm (queueAddr s q) 32
  { rbase := bits w 255 192, ctx := bits w 191 180, prio := bits w 179 177, dev := decide (bits w 176 176 = 1),
    log2n := bits w 175 172, head := bits w 159 128, tailoff := bits w 95 56, tailix := bits w 55 40,
    en := decide (bits w 0 0 = 1) }

/-- Records of the ring. -/
def Queue.size (x : Queue) : Nat := 2 ^ (x.log2n + 6)
/-- The address of record i. -/
def Queue.addr (x : Queue) (i : Nat) : Nat := x.rbase + 64 * (i % x.size)

def State.queue (s : State) (q : Nat) : QueueSt := tget s.queues q {}
def State.setQueue (s : State) (q : Nat) (x : QueueSt) : State := { s with queues := tset s.queues q x {} }

def writeHead (s : State) (q v : Nat) : State := wrHomeNat s (queueAddr s q + 16) 4 (v % 2 ^ 32)
/-- EN is cleared. -/
def disableQueue (s : State) (q : Nat) : State :=
  let a := queueAddr s q
  wrHome s a (homeByte s a &&& 0xFE)

/-- The tail of a queue: the last doorbell, or the tail word as it reads now (R305, R371, R422). -/
def queueTail (s : State) (q : Nat) (x : Queue) : Option Nat :=
  if x.dev then
    match deviceWord s x.ctx x.tailix x.tailoff with
    | .at_ a => some (homeNat s a 4)
    | _ => none
  else some (s.queue q).tail

/-! Queue errors (R455). -/

/-- The queue error word after an error of a cause. -/
def qerrWord (head cause : Nat) : Dword := BitVec.ofNat 64 (head * 2 ^ 32 + at_ cause 8 8 + 1)

def noteQerr (s : State) (q head cause : Nat) : State := s.setQueue q { s.queue q with err := qerrWord head cause }

/-- OVERRUN and STALE: EN is cleared and QERROR is written. -/
def stopQueue (s : State) (q : Nat) (x : Queue) (cause tail : Nat) : State :=
  let s := noteQerr (disableQueue s q) q x.head (cause + 1)
  eventCtx s (q / 1024) { code := 0x69, cause := cause, value := tail * 2 ^ 32 + x.head, raddr := x.addr x.head, queue := q,
                          party := queueParty q, ctx := x.ctx }

/-- Writing 1 to ERR clears ERR only. -/
def execQerrWrite (s : State) : Host.Outcome State Fault Refusal :=
  let q := s.arg.q
  if 16384 ≤ q ∨ s.arg.v.getLsbD 0 = false then .next s
  else .next (s.setQueue q { s.queue q with err := (s.queue q).err &&& ~~~1 })

/-! Doorbells (R371). -/

def doorbell (s : State) (q size : Nat) (v : Dword) : State :=
  let x := readQueue s q
  if (size ≠ 4 ∧ size ≠ 8) ∨ 16384 ≤ q ∨ x.dev then s
  else
    let tail := v.toNat % 2 ^ 32
    if x.size < (tail + 2 ^ 32 - x.head) % 2 ^ 32 then stopQueue s q x 0 tail
    else s.setQueue q { s.queue q with tail := tail }

def execDoorbellWrite (s : State) : Host.Outcome State Fault Refusal := .next (doorbell s s.arg.q s.arg.num s.arg.v)

/-! Validation (R372). -/

/-- One bit of the CRC of polynomial 0x1021. -/
def crcBit (c : Nat) (b : Bool) : Nat :=
  let top := c.testBit 15 != b
  let d := 2 * c % 65536
  if top then d ^^^ 0x1021 else d

def crcByte (c : Nat) (b : Byte) : Nat := (upto 8).foldl (fun c i => crcBit c (b.getLsbD (7 - i))) c

/-- The CRC-16 of bytes in increasing address order, bits from 7 down. -/
def crc16 (bs : List Byte) : Nat := bs.foldl crcByte 0xFFFF

/-- The generation byte that record i of a ring of n must hold. -/
def genOf (i n : Nat) : Nat := i / n % 255 + 1

/-- A command record is valid: GEN, and CRC with bytes 27 and 28 taken as zero. -/
def recordValid (r : BitVec 512) (i n : Nat) : Bool :=
  let bs := (upto 64).map (fun k => if k = 27 ∨ k = 28 then (0 : Byte) else BitVec.ofNat 8 (r.toNat / 2 ^ (8 * k)))
  decide (rfield r 239 232 = genOf i n) && decide (rfield r 231 216 = crc16 bs)

/-! The checks of R307. -/

/-- Lanes that a team of a span may have (R30). -/
def laneLimit (span : Nat) : Nat := if span = 0 then 12288 else if span = 1 then 24576 else 65536
/-- Cores of a span, spans of a die. -/
def spanSize (span : Nat) : Nat := if span = 0 then 1 else if span = 1 then 2 else if span = 2 then 8 else 16
def spanCount (span : Nat) : Nat := if span = 0 then 128 else if span = 1 then 64 else 16

/-- The record's shape is not accepted. -/
def Launch.badShape (l : Launch) : Bool :=
  decide (l.teams = 0) || decide (l.ngroups = 0) || decide (l.width = 3) || decide (1 ≤ l.vregs8 ∧ l.vregs8 ≤ 3) ||
    decide (48 < l.vregs8) || decide (2048 < l.loc) || decide (16 < l.ncaps) ||
    decide (laneLimit l.span < l.ngroups * widthOf l.width)

/-- Slots that a team takes on its core of rank 0, which has the most groups (R29, R31). -/
def Launch.slots (l : Launch) : Nat :=
  let per := 128 / widthOf l.width
  ((l.ngroups + spanSize l.span - 1) / spanSize l.span + per - 1) / per

/-- Teams of the shape that fit on one empty span (R32, R314). -/
def Launch.perSpan (l : Launch) : Nat :=
  let n := min (96 / max l.slots 1) (4096 / (max l.slots 1 * vregsOf l.vregs8))
  let n := if l.loc = 0 then n else min n (524288 / (256 * l.loc))
  if l.bond = 0 then n else min n 1

/-- The die set of a record: a die that is not RUNNING counts as not admitted (R312, R476). -/
def dieSet (s : State) (l : Launch) : List Nat :=
  (admitted l.dies l.span).filter (fun d => s.running d && (decide (l.span ≠ 3) || s.running (d + 1)))

def Launch.badFit (l : Launch) (s : State) : Bool :=
  let ds := dieSet s l
  let most := (upto ds.length).foldl (fun m d => max m (firstTeam l.teams ds.length (d + 1) - firstTeam l.teams ds.length d)) 0
  decide (l.perSpan = 0) || (l.cohort && decide (spanCount l.span * l.perSpan < most))

/-- BOND with the wrong span (R169, R267). -/
def Launch.badBond (l : Launch) : Bool :=
  decide (l.bond ≠ 0) && !(decide (l.span = 2 ∧ l.bond ≤ 4) || decide (l.span = 3 ∧ 5 ≤ l.bond))

def Launch.badEntry (l : Launch) (s : State) (c : CtxDesc) : Bool :=
  let k := entryCap s c l.entry
  decide (c.eclen ≤ l.entry) || (decide (l.ncaps ≠ 0) && decide (c.eclen < l.capix + l.ncaps)) || !k.tag ||
    decide (k.rights.toNat &&& rX = 0)

/-- A counter or token that R307 does not accept. -/
def badWord (s : State) (ctx q ix off : Nat) : Bool :=
  let c := readCtx s ctx
  let k := entryCap s c ix
  let oid := k.oid.toNat
  let oo := (k.base.toNat + off) % 2 ^ 40
  decide (c.eclen ≤ ix) || (capCheck (readObj s ctx oid) { c := k, need := rA, n := 8 } off).isSome ||
    !(match regionAt s ctx oid oo with | some d => decide (d.state = 3) | none => false) ||
    (findCover s ctx [queueParty q] oid oo 8 atomKinds).isNone

/-- The reason of a refusal: the first row whose condition holds. -/
def refusal (s : State) (q : Nat) (x : Queue) (l : Launch) : Option Nat :=
  let c := readCtx s x.ctx
  if l.badShape then some 0
  else if l.badFit s then some 1
  else if l.badBond then some 2
  else if (dieSet s l).isEmpty then some 3
  else if l.badEntry s c then some 4
  else if (l.depv && badWord s x.ctx q l.depix l.depoff) || (l.tokv && badWord s x.ctx q l.tokix l.tokoff) then some 5
  else if !c.valid then some 6
  else none

/-! The choice of a queue (R304). -/

/-- The priority at which a queue is served. -/
def Queue.level (x : Queue) (s : State) : Nat := max x.prio (readCtx s x.ctx).priomax

/-- The queue holds an unfetched record that is due. -/
def queueDue (s : State) (q : Nat) : Bool :=
  let x := readQueue s q
  let st := s.queue q
  (rdByte s.hbm (queueAddr s q)).getLsbD 0 && (match queueTail s q x with | some t => decide (t ≠ x.head) | none => false) &&
    !(decide (st.refetch ≠ 0) && decide ((s.die (q / 1024)).cycle < st.refetchAt))

/-- The queue that the die scheduler serves next: strict priority, then round-robin. -/
def nextQueue (s : State) (d : Nat) : Option Nat :=
  let qs := ((upto 1024).map (1024 * d + ·)).filter (queueDue s)
  minBy (fun q =>
    let p := (readQueue s q).level s
    p * 1024 + (q % 1024 + 1024 - tget (s.die d).robin p 0) % 1024) qs

/-! The fetch (R304, R309, R311, R372). -/

/-- A valid record's checks, and the grid it makes. -/
def enterRecord (s : State) (q : Nat) (x : Queue) (r : BitVec 512) : State :=
  let d := q / 1024
  let l := launchOf r
  let s := writeHead s q (x.head + 1)
  match refusal s q x l with
  | some k =>
    let s := noteQerr s q x.head 3
    eventCtx s d { code := 0x68, cause := k, value := x.head % x.size, raddr := x.addr x.head, queue := q,
                   party := queueParty q, ctx := x.ctx }
  | none =>
    let (o, s) := s.fresh
    let n := s.nextGrid
    let g : Grid := { ctx := x.ctx, queue := q, record := r, raddr := x.addr x.head, index := x.head % x.size, fetchDie := d
                      order := o, dies := dieSet s l, prio := x.prio, state := if l.depv then .pending else .ready
                      deadline := if l.deadline = 0 then none else some ((s.die d).cycle + 64 * l.deadline) }
    releaseDep ({ (s.setGrid n g) with nextGrid := n + 1 }) n

/-- The record at HEAD fetched: it enters, is fetched again later, or stops its queue. -/
def fetchRecord (s : State) (q : Nat) : State :=
  let d := q / 1024
  let x := readQueue s q
  let st := s.queue q
  let r := BitVec.ofNat 512 (if x.dev then homeNat s (x.addr x.head) 64 else rdNat s.host (x.addr x.head) 64)
  let s := s.updDie d (fun y => { y with lastFetch := y.cycle + 1
                                         robin := tset y.robin (x.level s) ((q % 1024 + 1) % 1024) 0 })
  if recordValid r x.head x.size then enterRecord (s.setQueue q { st with refetch := 0, refetchAt := 0 }) q x r
  else if 8 ≤ st.refetch then stopQueue (s.setQueue q { st with refetch := 0, refetchAt := 0 }) q x 1 0
  else s.setQueue q { st with refetch := st.refetch + 1, refetchAt := (s.die d).cycle + 256 }

/-- The die scheduler has not fetched in this count. -/
def mayFetch (s : State) (d : Nat) : Bool := s.running d && decide ((s.die d).lastFetch ≠ (s.die d).cycle + 1)

def execQueueFetch (s : State) : Host.Outcome State Fault Refusal :=
  let d := s.arg.die
  if !mayFetch s d then .next s
  else
    match nextQueue s d with
    | some q => .next (fetchRecord s q)
    | none => .next s

/-- The fetch again of a record, once its 256 counts are over and its queue's turn has come. -/
def execRecordRefetch (s : State) : Host.Outcome State Fault Refusal :=
  let q := s.arg.q
  if (s.queue q).refetch ≠ 0 ∧ mayFetch s (q / 1024) = true ∧ nextQueue s (q / 1024) = some q then .next (fetchRecord s q)
  else .next s

/-! The start and the deadline of a grid (R311, R312, R326). -/

/-- Grids whose mailbox words a die holds. -/
def wordGrids (s : State) (d : Nat) : Nat := (s.grids.filter (fun g => g.2.wordsHeld && g.2.allDies.contains d)).length

/-- Every die of the set allocates its words: the grid runs, and its teams enter the placement lists. -/
def startGrid (s : State) (n : Nat) : State :=
  match s.grid? n with
  | none => s
  | some g =>
    let ds := g.dies
    if g.state = .ready ∧ (g.allDies.all (fun d => s.running d && decide (wordGrids s d < 512))) = true then
      let first := fun m d => tset m d (firstTeam g.launch.teams ds.length d) 0
      s.setGrid n { g with state := .running, words := [], wordsHeld := true,
                            next := (upto ds.length).foldl first ([] : Table Nat) }
    else s

def execGridStart (s : State) : Host.Outcome State Fault Refusal := .next (startGrid s s.arg.id)

/-- A grid that is not complete when its deadline passes on the fetching die: MISSGRID, once (R311, R448). -/
def missGrid (s : State) (n : Nat) : State :=
  match s.grid? n with
  | none => s
  | some g =>
    match g.deadline with
    | none => s
    | some t =>
      if g.missed = false ∧ t ≤ (s.die g.fetchDie).cycle ∧ g.state ≠ .complete then
        eventCtx (s.setGrid n { g with missed := true }) g.fetchDie
          { code := 0x6B, value := t, raddr := g.raddr, queue := g.queue, party := queueParty g.queue, ctx := g.ctx }
      else s

def execGridDeadlineMiss (s : State) : Host.Outcome State Fault Refusal := .next (missGrid s s.arg.id)

end Sys2Proof.Machine
end

