-- ==== Sys2Proof/Machine/System.lean ====
section
/-! DEFINITION. System units: major 0x3E (R28, R171, R262 to R265, R402, R480). -/
namespace Sys2Proof.Machine

/-! TRAP (R263, R480). -/

/-- The argument blocks: lane and local address. -/
def trapBlocks (c : Ctx) (x : TrapU) : List (Nat × Nat) :=
  match x.a with
  | .zero => []
  | a => c.lanes.map (fun l => (l, c.rd (.int 32) a l))

/-- The group parks off-core, its request queued on the die that holds it: the trapping split waits for the service, and what a pre-emption saves is charged. -/
def trapPark (x : TrapU) (c : Ctx) (s : State) : State :=
  let cyc := (s.die c.g.die).cycle
  let g := setPending (c.g.updSlot c.slot (fun y => { y with wait := .service })) x.r
  let g := { (g.freeze cyc) with residence := .trapParked, awaits := none, awaitLaps := 0, run := none, latches := []
                                 latchValid := 0, service := some (x.n, c.act, x.r, trapBlocks c x) }
  let s := s.setGroup c.die c.handle c.grp g
  let s := charge s c.team.ctx c.core (kib (4 * c.team.vregs * c.g.width + 1024))
  let s := listHolds (settleCounters s c.team.ctx c.g.die c.g.core) c.team.ctx [groupParty c.die c.handle c.grp]
  s.updDie c.g.die (fun d => { d with svcQueue := d.svcQueue ++ [(c.die, c.handle, c.grp)] })

def execTrap (x : TrapU) (s : State) :=
  issue { h := x.h, refs := refsOf [srcRefs x.a 1, sName x.r], uniform := true
          gate := fun c s =>
            (localGate c.team 7 64 (trapBlocks c x)).both fun _ => seamGate s c 7 (trapBlocks c x)
          effect := fun c s =>
            if (s.die c.g.die).scring.getLsbD 0 then trapPark x c s else c.commit s (c.putS x.r 1) } s

/-! BRK (R264, R404). -/

def execBrk (x : BrkU) (s : State) :=
  issue { h := x.h, uniform := true
          effect := fun c s =>
            if attached s c.team.ctx then
              let rec_ : Trap := { handle := c.handle, code := 0x0A, slot := c.slot, mask := c.x.mask, detail := BitVec.ofNat 128 x.code
                                   pc := c.unit, rpc := c.next, depth := c.x.depth, born := c.x.born }
              let s := c.commit s (fun g => g.updSlot c.slot (fun y => { y with trapped := true }))
              queueTrap s c.die c.g rec_
            else s } s

/-! SREAD, SWRITE (R28, R171, R264). -/

/-- The value of a special register in a lane. -/
def special (s : State) (c : Ctx) (n l : Nat) : Nat :=
  match n with
  | 0 => l
  | 1 => c.g.width
  | 2 => c.g.index
  | 3 => if c.team.gleaner.isSome then 0xFFFFFFFF else c.team.index
  | 4 => if c.team.gleaner.isSome then c.team.groups.length else c.team.ngroups
  | 5 => c.team.pos
  | 6 => ndieOf s c.team.grid
  | 7 => c.g.core
  | 8 => c.g.core / 8
  | 9 => c.g.slot
  | 10 => c.slot
  | 11 => c.x.depth
  | 12 => c.team.ctx
  | 13 => (s.die c.g.die).cycle % 2 ^ 64
  | 14 => (s.pair c.g.die (c.g.core / 2)).purse
  | 15 => readEnergy s c.team.ctx c.core
  | _ => c.g.fflags.toNat

def execSread (x : SreadU) (s : State) :=
  match x.d with
  | .v r =>
    issue { h := x.h, refs := vName r 1, uniform := true
            effect := fun c s => c.commit s (c.put (.v r false) 1 (fun l => special s c x.reg l % 2 ^ 32)) } s
  | .s i =>
    issue { h := x.h, refs := sName i, uniform := true
            effect := fun c s => c.commit s (c.putS i (special s c x.reg (c.lanes.headD 0))) } s

def execSwrite (x : SargU) (s : State) :=
  issue { h := x.h, refs := ssrcRefs x.a, uniform := true
          effect := fun c s => c.commit s (fun g => g.setFlags (c.rdS false x.a)) } s

/-! EVT, ENRG (R265). -/

/-- The zero operand adds the number of active lanes. -/
def evtAdd (c : Ctx) (a : SSrc) : Nat :=
  match a with
  | .zero => c.lanes.length
  | a => c.rdS false a % 2 ^ 32

def execEvt (x : EvtU) (s : State) :=
  issue { h := x.h, refs := ssrcRefs x.a, uniform := true
          effect := fun c s => addEvent s c.team.ctx c.core x.n (evtAdd c x.a) } s

def execEnrg (x : RegU) (s : State) :=
  issue { h := x.h, refs := sName x.d, uniform := true
          effect := fun c s => c.commit s (c.putS x.d (readEnergy s c.team.ctx c.core)) } s

end Sys2Proof.Machine
end

