-- ==== Sys2Proof/Machine/Window.lean ====
section
/-! DEFINITION. The divergence-state window: its records, reads and writes (R38, R42, R44, R407, R408). -/
namespace Sys2Proof.Machine

/-! Records. -/

/-- The bits of a split record (R38). -/
def Split.bits (x : Split) : Nat :=
  at_ x.mask.toNat 128 128 + at_ x.pc 88 40 + at_ (x.jpc.getD 0) 48 40 + at_ x.fam 32 16 + at_ x.depth 24 8 +
    at_ (x.rsp.getD 0x1FF) 15 9 + at_ (btn x.jpc.isSome) 1 1 + 1

def Split.ofBits (old : Split) (v : Nat) : Split :=
  { old with
    mask := BitVec.ofNat 128 (v / 2 ^ 128)
    pc := v / 2 ^ 88 % 2 ^ 40
    jpc := if v / 2 % 2 = 1 then some (v / 2 ^ 48 % 2 ^ 40) else none
    fam := v / 2 ^ 32 % 2 ^ 16
    depth := v / 2 ^ 24 % 2 ^ 8
    rsp := if v / 2 ^ 15 % 2 ^ 9 = 0x1FF then none else some (v / 2 ^ 15 % 2 ^ 9) }

/-- A word of 64 bits replaced in a record of n words. -/
def putWord64 (v k w : Nat) : Nat := v - v / 2 ^ (64 * k) % 2 ^ 64 * 2 ^ (64 * k) + w * 2 ^ (64 * k)

/-- Word k of a record. -/
def word64 (v k : Nat) : Nat := v / 2 ^ (64 * k) % 2 ^ 64

/-- The family link's bits (R42). -/
def Fam.bits (f : Fam) : Nat :=
  at_ (f.pjpc.getD 0) 88 40 + at_ f.pfam 72 16 + at_ f.id 56 16 + at_ f.fdepth 48 8 + btn f.pjpc.isSome

def Fam.ofBits (v : Nat) : Fam :=
  { id := v / 2 ^ 56 % 2 ^ 16, pfam := v / 2 ^ 72 % 2 ^ 16, fdepth := v / 2 ^ 48 % 2 ^ 8
    pjpc := if v % 2 = 1 then some (v / 2 ^ 88 % 2 ^ 40) else none }

/-- The return-stack entry's bits (R44). -/
def RetEntry.bits (e : RetEntry) : Nat := at_ e.rpc 24 40 + at_ (e.link.getD 0x1FF) 15 9

/-! The spill area (R37 to R39, R42, R44). -/

/-- What a group keeps there, as offset, bytes and value: the splits beyond the 8 of the on-core table in queue order, the family
links beyond 16, and the return-stack entries in use beyond 8 (log 16). -/
def Group.spilled (g : Group) : List (Nat × Nat × Nat) :=
  let number : {α : Type} → List α → List (Nat × α) := fun l => (upto l.length).zip l
  (number (g.queue.drop 8)).map (fun e => (32 * e.1, 32, if e.2.void then 0 else e.2.bits)) ++
    (number (g.fams.drop 16)).map (fun e => (32 * g.width + 16 * e.1, 16, e.2.bits)) ++
    (g.rets.drop 8).map (fun e => (48 * g.width + 8 * e.1, 8, e.2.bits))

/-- The records of the groups of every team stand in their spill areas. -/
def spillOut (s : State) : State :=
  s.teams.foldl (fun s t => t.groupList.foldl (fun s g =>
    let base := (readCtx s t.ctx).spbase + g.spill
    g.spilled.foldl (fun s e => { s with hbm := wrNat s.hbm (base + e.1) e.2.1 e.2.2 }) s) s) s

def RetEntry.ofBits (w : Nat) : RetEntry :=
  let l := w / 2 ^ 15 % 2 ^ 9
  { rpc := w / 2 ^ 24, link := if l = 0x1FF then none else some l }

/-! Indices: the PC slots, then the queue (R407). -/

/-- The live splits: what the queue holds at V = 0 is none. -/
def Group.live? (g : Group) : List Split := g.splits.filter (fun x => !x.void)

/-- The live split of an index. -/
def Group.splitAt (g : Group) (i : Nat) : Option Split :=
  (if i < 2 then g.slotOf i else g.queue[i - 2]?).filter (fun x => !x.void)

/-- The record of an index: that of its split, or what a debugger has written where there is none. -/
def Group.recordAt (g : Group) (i : Nat) : Nat :=
  match g.splitAt i with
  | some x => x.bits
  | none => (tget g.recs i 0).toNat

/-- Trailing places without a split fall away. -/
def trimVoid (q : List Split) : List Split := (q.reverse.dropWhile (·.void)).reverse

/-- An index filled or emptied; the queue keeps the places of the others. -/
def Group.putAt (g : Group) (i : Nat) (o : Option Split) : Group :=
  if i < 2 then g.putSlot i o
  else
    let q := g.queue ++ List.replicate (i - 1 - g.queue.length) ({ void := true, stopped := true } : Split)
    { g with queue := trimVoid (q.set (i - 2) (o.getD { void := true, stopped := true })) }

/-- The address, plus 1, of the last unit of each lane that has issued one. -/
def Group.lastUnits (g : Group) : Table Nat :=
  g.live?.foldl (fun m x => match x.last with
    | some a => (upto g.width).foldl (fun m l => if x.mask.getLsbD l then tset m l (a + 1) 0 else m) m
    | none => m) []

/-- The last unit issued for the lanes of a mask, by its lowest lane (R398). -/
def Group.lastOf (g : Group) (m : Mask) : Option Nat :=
  match ((upto g.width).find? (fun l => m.getLsbD l)).map (fun l => tget g.lasts l 0) with
  | some (a + 1) => some a
  | _ => none

/-- Word k of the record of an index written: V = 0 leaves no split there, but the words stay. -/
def Group.writeSplit (g : Group) (i k w : Nat) : Group :=
  let v := putWord64 (g.recordAt i) k w
  let g := if g.lasts.isEmpty then { g with lasts := g.lastUnits } else g
  if v % 2 = 0 then { (g.putAt i none) with recs := tset g.recs i (BitVec.ofNat 256 v) 0 }
  else
    let (old, g) := match g.splitAt i with
      | some x => (x, g)
      | none => (({ stopped := true, born := g.splitNext } : Split), { g with splitNext := g.splitNext + 1 })
    let x := old.ofBits v
    { (g.putAt i (some { x with last := g.lastOf x.mask })) with recs := tdel g.recs i }

/-- The link of a place in the order of allocation. -/
def Group.writeFam (g : Group) (f k w : Nat) : Group :=
  let l := Fam.ofBits (putWord64 ((g.fams[f]?.map Fam.bits).getD 0) k w)
  { g with fams := (g.fams ++ List.replicate (f + 1 - g.fams.length) ({} : Fam)).set f l }

/-! Writes (R408). -/

/-- One 64-bit write at a window offset; capabilities and tags are not written. -/
def Group.windowWrite (g : Group) (vregs off w : Nat) : Group :=
  if off = 0x0008 then { g with wb := w }
  else if off = 0x0010 then { g with fflags := BitVec.ofNat 5 w }
  else if 0x0040 ≤ off ∧ off < 0x1040 then g.writeSplit ((off - 0x40) / 32) ((off - 0x40) % 32 / 8) w
  else if 0x1040 ≤ off ∧ off < 0x1840 then g.writeFam ((off - 0x1040) / 16) ((off - 0x1040) % 16 / 8) w
  else if 0x1840 ≤ off ∧ off < 0x2040 then { g with rets := tput g.rets ((off - 0x1840) / 8) (RetEntry.ofBits w) }
  else if 0x2040 ≤ off ∧ off < 0x20B0 then
    let j := (off - 0x2040) / 16 + 1
    writeK g j (BitVec.ofNat 128 (putWord64 (tget g.masks j 0).toNat ((off - 0x2040) % 16 / 8) w))
  else if 0x2100 ≤ off ∧ off < 0x2180 then
    let j := (off - 0x2100) / 8
    if g.pendScalars.getLsbD j then g else writeS g j w
  else if 0x10000 ≤ off ∧ off < 0x10000 + 512 * vregs then
    let n := (off - 0x10000) / 512
    let l := (off - 0x10000) % 512 / 4
    if g.pendRegs.contains n ∨ g.width ≤ l then g
    else
      let g := writeReg g n l (w % 2 ^ 32)
      if l + 1 < g.width then writeReg g n (l + 1) (w / 2 ^ 32) else g
  else g

/-- Every live split is stopped: ALL. -/
def Group.allStopped (g : Group) : Bool := !g.live?.isEmpty && g.splits.all (·.stopped)

def windowWrite (s : State) (die off : Nat) (v : Dword) : State :=
  match (s.die die).selected with
  | none => s
  | some (h, k) =>
    match s.team? die h with
    | none => s
    | some t => s.updGroup die h k (fun g => if g.allStopped && decide (off % 8 = 0) then g.windowWrite t.vregs off v.toNat else g)

def execDivergenceWindowWrite (s : State) : Host.Outcome State Fault Refusal := .next (windowWrite s s.arg.die s.arg.off s.arg.v)

/-! Reads (R407, R408). -/

/-- A group that is not on its core: it is parked or saved, and records commands (R403). -/
def Group.awayNow (t : Team) (g : Group) : Bool :=
  decide (g.residence ≠ .resident) || (match t.state with | .resident => false | .draining => false | .deciding => false | _ => true)

/-- The state of an index: 0 runnable, 1 stopped, 2 waiting at a join, 3 another wait. -/
def Group.indexState (g : Group) (i : Nat) : Nat :=
  match g.splitAt i with
  | none => 0
  | some x => if x.stopped then 1 else if x.wait = .join then 2 else if x.runnable then 0 else 3

def Group.indexCause (g : Group) (i : Nat) : Nat := ((g.splitAt i).map (·.cause)).getD 0

/-- Eight bytes of an array of bytes. -/
def bytes8 (f : Nat → Nat) (i : Nat) : Nat := (upto 8).foldl (fun v k => v + 2 ^ (8 * k) * (f (i + k) % 256)) 0

/-- GSTAT of a selected group. -/
def Group.gstat (t : Team) (g : Group) : Nat :=
  at_ (g.queue.filter (fun x => !x.void)).length 40 8 + at_ (g.fams.filter (fun l => decide (l.id ≠ 0))).length 32 8 +
    at_ g.rets.length 23 9 + at_ (btn (g.awayNow t)) 2 1 + at_ (btn g.allStopped) 1 1 + 1

/-- One 64-bit read at a window offset; latches are not shown. -/
def Group.windowRead (g : Group) (vregs off : Nat) : Nat :=
  if off = 0x0008 then g.wb
  else if off = 0x0010 then g.fflags.toNat
  else if 0x0040 ≤ off ∧ off < 0x1040 then word64 (g.recordAt ((off - 0x40) / 32)) ((off - 0x40) % 32 / 8)
  else if 0x1040 ≤ off ∧ off < 0x1840 then word64 ((g.fams[(off - 0x1040) / 16]?.map Fam.bits).getD 0) ((off - 0x1040) % 16 / 8)
  else if 0x1840 ≤ off ∧ off < 0x2040 then ((tfind g.rets ((off - 0x1840) / 8)).map RetEntry.bits).getD 0
  else if 0x2040 ≤ off ∧ off < 0x20B0 then word64 (tget g.masks ((off - 0x2040) / 16 + 1) 0).toNat ((off - 0x2040) % 16 / 8)
  else if 0x2100 ≤ off ∧ off < 0x2180 then readS g ((off - 0x2100) / 8)
  else if off = 0x2180 then g.pendScalars.toNat
  else if 0x2200 ≤ off ∧ off < 0x2300 then word64 (capBits (tget g.caps ((off - 0x2200) / 16) {})) ((off - 0x2200) % 16 / 8)
  else if off = 0x2300 then (upto 16).foldl (fun v j => v + 2 ^ j * btn (tget g.caps j {}).tag) 0
  else if 0x2400 ≤ off ∧ off < 0x2480 then bytes8 g.indexState (off - 0x2400)
  else if 0x2480 ≤ off ∧ off < 0x2500 then bytes8 g.indexCause (off - 0x2480)
  else if 0x10000 ≤ off ∧ off < 0x10000 + 512 * vregs then
    let n := (off - 0x10000) / 512
    let l := (off - 0x10000) % 512 / 4
    let r := fun l : Nat => if l < g.width then readReg g n l else 0
    r l + 2 ^ 32 * r (l + 1)
  else 0

/-- A read of the window of a die: zero with no group selected. What a read of another word than GSTAT returns while no split of the
group is stopped, which R408 does not allow, is free (log 8). -/
def windowRead (s : State) (die off : Nat) : Nat :=
  match (s.die die).selected with
  | none => 0
  | some (h, k) =>
    match s.team? die h with
    | none => 0
    | some t =>
      match t.group? k with
      | none => 0
      | some g =>
        if off = 0 then g.gstat t
        else if g.splits.any (·.stopped) then g.windowRead t.vregs off
        else (Config.freeDword s.drawn off).toNat

end Sys2Proof.Machine
end

