-- ==== Sys2Proof/Machine/Traps.lean ====
section
/-! DEFINITION. The report of a trap and its disposition, the watchdogs, and the debugger (R394 to R413, R418, R443). -/
namespace Sys2Proof.Machine

/-! Stops (R404). -/

/-- A stop of a group, or its record for later: 1 stop, 2 resume. -/
def stopGroup (s : State) (t : Team) (g : Group) : State :=
  s.updGroup t.die t.handle g.num (fun g => if g.awayNow t then { g with debugPending := some 1 } else g.stopAll)

/-- GALL and TALL carry every stop further (R402). -/
def spreadStop (s : State) (die handle grp : Nat) : State :=
  match s.team? die handle with
  | none => s
  | some t =>
    let w := dbgctl s t.ctx
    if w.getLsbD 61 then t.groupList.foldl (fun s g => stopGroup s t g) s
    else if w.getLsbD 62 then
      match t.group? grp with
      | some g => stopGroup s t g
      | none => s
    else s

/-! The report (R395, R396, R398, R399, R418). -/

/-- The REGION record of UNOWNED: the region as it stands, or the unit (R418, R419). -/
def regionRecord (s : State) (die party : Nat) (d : Deckle) (cycle : Nat) : Nat :=
  let e : RegionEvent := { code := 0x2F, ctx := d.ctx, oid := d.oid, base := d.base, len := d.len, state := d.state, shares := d.shares,
                           holder := d.holder % 2 ^ 32, former := d.former, ldepth := d.lend.length, party := party }
  e.bits (max cycle (s.die die).cycle)

/-- The trap record and, for UNOWNED, its REGION record: both or neither when there is room for one only. -/
def logTrap (s : State) (die ctx : Nat) (t : Trap) (disp : Nat) : State :=
  let party := groupParty t.tdie t.handle t.grp
  let r : TrapRec := { mask := t.mask, detail := t.detail.toNat, cycle := t.cycle, pc := t.pc, rpc := t.rpc, party := party,
                       ctx := ctx, depth := t.depth, slot := t.slot, disp := disp, code := t.code }
  match t.region with
  | none => logCtx s ctx r.bits
  | some d =>
    let c := readCtx s ctx
    let tail := 0x320000 + 16 * ctx
    if logRoom s (64 * c.elsize) tail (tail + 8) = 1 then
      let v := (s.reg tail).toNat
      (s.setReg tail (BitVec.ofNat 64 (v % 2 ^ 32 + (v / 2 ^ 32 + 2) % 2 ^ 32 * 2 ^ 32))).signal 0
    else logCtx (logCtx s ctx r.bits) ctx (regionRecord s die party d t.cycle)

/-- The split that a trap was taken at. -/
def Trap.at_ (t : Trap) (x : Split) : Bool := x.trapped && decide (x.born = t.born)

/-- The trapping split stops at its resume address with its cause. -/
def stopTrapped (s : State) (t : Trap) : State :=
  s.updGroup t.tdie t.handle t.grp (fun g =>
    let stop := fun x : Split =>
      if t.at_ x then { x.afterTrap t.rpc with stopped := true, cause := t.code, stepping := false, stopping := false } else x
    let i := if g.s0.any t.at_ then 0 else 1
    let here := (g.slotOf i).any t.at_
    let g := g.mapSplits stop
    (if here then g.restStops i else g).settle)

/-- The split was stepping: the step's result is TRAPPED, or STOPPED for BRK (R406). -/
def stepTrapped (s : State) (t : Trap) : State :=
  match s.group? t.tdie t.handle t.grp with
  | some g =>
    if g.splits.any (fun x => t.at_ x && x.stepping) then
      s.updDie t.tdie (fun d => { d with dsts := BitVec.ofNat 64 (if t.code = 0x0A then 0 else 0x300) })
    else s
  | none => s

/-- Firmware takes the oldest trap of its die. Once the grid's abort has begun, a trap that fell before it only writes its
record (R401). -/
def reportTrap (s : State) (die : Nat) : State :=
  match (s.die die).traps with
  | [] => s
  | t :: rest =>
    let s := stepTrapped (s.updDie die (fun d => { d with traps := rest })) t
    let live := (s.team? t.tdie t.handle).any (fun m => decide (m.grid = t.grid))
    let aborted := match s.grid? t.grid with | some g => g.aborted | none => true
    if aborted || !live then logTrap s die t.ctx t 1
    else if t.caught then spreadStop (stopTrapped (logTrap s die t.ctx t 0) t) t.tdie t.handle t.grp
    else abortGrid (logTrap s die t.ctx t 1) t.grid

def execTrapReport (s : State) : Host.Outcome State Fault Refusal := .next (reportTrap s s.arg.die)

/-! Watchdogs (R412, R413). -/

def gwlim (s : State) (ctx : Nat) : Nat := (s.reg (0x300000 + 8 * ctx)).toNat % 2 ^ 32
def twlim (s : State) (ctx : Nat) : Nat := (s.reg (0x300000 + 8 * ctx)).toNat / 2 ^ 32

/-- The group's counter runs: its team runs whole, and no engine owes it a receipt. -/
def gwatchRuns (s : State) (t : Team) (g : Group) : Bool :=
  (match t.state with | .resident => true | .draining => true | .deciding => true | _ => false) &&
    t.groupList.all (fun h => decide (h.residence = .resident) && !h.splits.any (·.stopped)) &&
    !s.engines.any (fun e => decide (e.die = t.die) && decide (e.handle = t.handle) && decide (e.grp = g.num))

/-- A trap that firmware's counters raise, at the group's oldest split (R412). -/
def raiseWatch (s : State) (die handle grp : Nat) (code : Nat) (m : Mask) (detail : Nat) : State :=
  match s.group? die handle grp with
  | none => s
  | some g =>
    match minBy (fun x : Split => x.born) g.splits with
    | none => s
    | some x => raiseAt s die handle g x code m detail

/-- The counter reaches GWLIM: GWATCH at the group's oldest split (R412). -/
def gwatch (s : State) (die handle grp : Nat) : State :=
  match s.team? die handle with
  | none => s
  | some t =>
    match t.group? grp with
    | none => s
    | some g =>
      let lim := gwlim s t.ctx
      if lim ≠ 0 ∧ lim ≤ g.idle ∧ g.run.isNone = true ∧ !g.splits.any (·.trapped) ∧ gwatchRuns s t g = true then
        raiseWatch (s.setGroup die handle grp { g with idle := 0 }) die handle grp 0x0B g.live (at_ g.idle 0 32)
      else s

def execGwatch (s : State) : Host.Outcome State Fault Refusal := .next (gwatch s s.arg.die s.arg.handle s.arg.grp)

/-- Residency of a team in counts so far (R318, R321). -/
def residencyOf (s : State) (t : Team) : Nat :=
  t.residency + (match t.state with
    | .resident | .deciding | .draining | .saving | .discarding => (s.die t.die).cycle - t.since
    | _ => 0)

/-- The lowest-numbered group of a team that has a live lane. -/
def lowLive (t : Team) : Option Group := minBy (fun g : Group => g.num) (t.groupList.filter (fun g => decide (g.live ≠ 0)))

/-- The residency reaches TWLIM: TWATCH at the lowest live group, once for one TWLIM (R413). -/
def twatch (s : State) (die handle : Nat) : State :=
  match s.team? die handle with
  | none => s
  | some t =>
    let lim := twlim s t.ctx
    let n := t.watched / 65536
    if lim ≠ 0 ∧ lim ≤ n ∧ t.twatchAt ≠ lim then
      match lowLive t with
      | some g =>
        if g.run.isNone ∧ !g.splits.any (·.trapped) then
          raiseWatch (s.setTeam die handle { t with twatchAt := lim }) die handle g.num 0x0C 0 (at_ n 0 32)
        else s
      | none => s
    else s

def execTwatch (s : State) : Host.Outcome State Fault Refusal := .next (twatch s s.arg.die s.arg.handle)

/-! DBGCTL (R402). -/

/-- A group of the context is stopped. -/
def anyStopped (s : State) (ctx : Nat) : Bool :=
  s.teams.any (fun t => decide (t.ctx = ctx) && t.groupList.any (fun g => g.splits.any (·.stopped)))

def writeDbgctl (s : State) (ctx : Nat) (v : Dword) : State :=
  if 4096 ≤ ctx then s
  else if attached s ctx && !v.getLsbD 63 && anyStopped s ctx then s
  else s.setReg (0x310000 + 8 * ctx) (v &&& BitVec.ofNat 64 (0x3F * 2 ^ 58))

def execDbgctlWrite (s : State) : Host.Outcome State Fault Refusal := .next (writeDbgctl s s.arg.ctx s.arg.v)

/-! Debug commands (R403 to R409). -/

def setDsts (s : State) (die v : Nat) : State := s.updDie die (fun d => { d with dsts := BitVec.ofNat 64 v })

/-- The team that a command names, of its context. -/
def dbgTeam (s : State) (a : StepArgs) : Option Team :=
  match s.team? a.die a.handle with
  | some t => if t.ctx = a.ctx then some t else none
  | none => none

/-- A STEP is under way on a team of the die: it has still to write DSTS, and no command is accepted (R403). -/
def stepUnderway (s : State) (die : Nat) : Bool :=
  (s.die die).teams.any (fun e => e.2.groupList.any (fun g => g.splits.any (·.stepping)))

/-- A command on a team: NOGROUP where there is none. -/
def dbgCommand (s : State) (f : Team → State) : State :=
  if stepUnderway s s.arg.die then s
  else
    match dbgTeam s s.arg with
    | none => setDsts s s.arg.die 2
    | some t => f t

/-- A command on one of its groups. -/
def dbgOnGroup (s : State) (f : Team → Group → State) : State :=
  dbgCommand s (fun t =>
    match t.group? s.arg.grp with
    | none => setDsts s s.arg.die 2
    | some g => f t g)

def execGstop (s : State) : Host.Outcome State Fault Refusal :=
  .next (dbgOnGroup s (fun t g => setDsts (spreadStop (stopGroup s t g) t.die t.handle g.num) s.arg.die 0))

def execTstop (s : State) : Host.Outcome State Fault Refusal :=
  .next (dbgCommand s (fun t => setDsts (t.groupList.foldl (fun s g => stopGroup s t g) s) s.arg.die 0))

/-- The chain of LINKs has exactly so many entries, and so no cycle. -/
def Group.chainOk (g : Group) : Nat → Option Nat → Bool
  | 0, r => r.isNone
  | n + 1, r =>
    match r.bind (tfind g.rets) with
    | some e => g.chainOk n e.link
    | none => false

/-- The checks of R409 on the edited state; live is the mask at the stop. -/
def Group.editOk (g : Group) (vregs : Nat) : Bool :=
  let xs := g.live?
  !g.queue.any (·.void) && xs.all (fun x => decide (x.mask ≠ 0)) &&
    decide ((xs.foldl (fun (p : Mask × Bool) x => (p.1 ||| x.mask, p.2 && decide (p.1 &&& x.mask = 0))) ((0 : Mask), true)).2 = true) &&
    xs.all (fun x => decide (x.mask &&& ~~~g.live = 0)) && xs.all (fun x => decide (x.pc % 4 = 0)) &&
    xs.all (fun x => g.chainOk x.depth x.rsp) &&
    xs.all (fun x => (x.jpc.isNone || decide (x.fam ≠ 0)) && (decide (x.fam = 0) || (g.fam? x.fam).isSome)) &&
    g.fams.all (fun l => decide (l.pfam = 0) || (g.fam? l.pfam).isSome) &&
    g.fams.all (fun l => decide ((g.chain 130 l.id).length ≤ g.fams.length)) &&
    decide (g.wb % 8 = 0) && decide (g.wb < vregs)

/-- The pending registers outside the allocation after an edit (R443): the lowest. -/
def Group.pendOut (g : Group) (vregs : Nat) : Option Nat :=
  minBy id (g.pendRegs.filter (fun r => decide (vregs ≤ r)))

/-- The resume of a group that passes the checks: lanes in no mask exit, return entries and joins are looked at again, and
every stopped split runs. -/
def Group.resumed (g : Group) : Group :=
  let live := g.splits.foldl (fun m x => m ||| x.mask) (0 : Mask)
  let g := (g.mapSplits (fun x => { x with stopped := false, cause := 0 }))
  let g := ({ g with live := live } : Group).mergeJoins.dropRets.settle
  { g with exited := decide (live = 0), debugPending := none, recs := [], lasts := [] }

/-- PENDREG is raised by a resume that leaves a pending register outside the allocation. -/
def resumeGroup (s : State) (t : Team) (g : Group) : State :=
  match g.pendOut t.vregs with
  | some r =>
    match g.splits with
    | x :: _ => raiseAt s t.die t.handle g x 0x45 x.mask (at_ r 0 12)
    | [] => s
  | none => s.setGroup t.die t.handle g.num g.resumed

/-- Groups resumed, and then what their exits and joins let go on. -/
def resumeAll (s : State) (t : Team) (gs : List Group) : State :=
  let s := gs.foldl (fun s g => resumeGroup s t g) s
  if gs.all (fun g => (g.pendOut t.vregs).isSome) then s else settleTeam s t.die t.handle

def Group.isStopped (g : Group) : Bool := g.splits.any (·.stopped)

def execResume (s : State) : Host.Outcome State Fault Refusal :=
  let d := s.arg.die
  .next (dbgOnGroup s (fun t g =>
    if g.awayNow t then setDsts (s.setGroup t.die t.handle g.num { g with debugPending := some 2 }) d 0
    else if !g.isStopped then setDsts s d 1
    else if !g.editOk t.vregs then setDsts s d 3
    else setDsts (resumeAll s t [g]) d 0))

def execTresume (s : State) : Host.Outcome State Fault Refusal :=
  let d := s.arg.die
  .next (dbgCommand s (fun t =>
    let away := t.groupList.filter (·.awayNow t)
    let here := t.groupList.filter (fun g => !g.awayNow t && g.isStopped)
    if away.isEmpty && here.isEmpty then setDsts s d 1
    else if here.any (fun g => !g.editOk t.vregs) then setDsts s d 3
    else
      let s := away.foldl (fun s g => s.setGroup t.die t.handle g.num { g with debugPending := some 2 }) s
      setDsts (resumeAll s t here) d 0))

/-- STEP's split: index 0 and 1 are the PC slots, the queue follows (R407). A split with no slot changes places with the
stopped split of one. -/
def Group.stepSplit (g : Group) (i : Nat) : Option Group :=
  let go := fun x : Split => { x with stopped := false, stepping := true, cause := 0 }
  if i < 2 then
    match g.slotOf i with
    | some x => if x.stopped then some (g.putSlot i (some (go x))) else none
    | none => none
  else
    match g.queue[i - 2]? with
    | none => none
    | some x =>
      if !x.stopped || x.void then none
      else
        let k := if (g.s0.map (·.stopped)) = some true then 0 else if (g.s1.map (·.stopped)) = some true then 1
                 else if g.s0.isNone then 0 else 1
        match g.slotOf k with
        | some y => some ({ (g.putSlot k (some (go x))) with queue := g.queue.set (i - 2) y })
        | none => some ({ (g.putSlot k (some (go x))) with queue := g.queue.eraseIdx (i - 2) })

/-- STEP writes DSTS when its run has ended (R403, R406). -/
def execStep (s : State) : Host.Outcome State Fault Refusal :=
  .next (dbgOnGroup s (fun t g =>
    if g.awayNow t then setDsts s s.arg.die 4
    else
      match g.stepSplit s.arg.idx with
      | some g => s.setGroup t.die t.handle g.num g
      | none => setDsts s s.arg.die 1))

def execSelect (s : State) : Host.Outcome State Fault Refusal :=
  let a := s.arg
  .next (dbgOnGroup s (fun _ _ => setDsts (s.updDie a.die (fun d => { d with selected := some (a.handle, a.grp) })) a.die 0))

end Sys2Proof.Machine
end

