-- ==== Sys2Proof/Machine/Placement.lean ====
section
/-! DEFINITION. The placement list: which teams are ready, where they fit, what a group begins with, the choice of victims,
and the end of a restore (R29 to R33, R39, R50 to R54, R308, R312 to R314, R317, R319, R320, R325, R410). -/
namespace Sys2Proof.Machine

/-! What cores hold (R31, R32). -/

/-- The team stands on cores. -/
def Team.onCore (t : Team) : Bool :=
  match t.state with
  | .saved | .discarded | .parked => false
  | _ => true

/-- A position taken on a core: slot, half or quarter, the team's number, and its registers. -/
structure Pos where
  slot : Nat
  part : Nat
  key : Nat
  vregs : Nat
  deriving DecidableEq

def teamKey (die handle : Nat) : Nat := 8192 * die + handle

/-- The positions taken on a module core; those held back for a group parked by TRAP are taken (R33). -/
def corePositions (s : State) (core : Nat) : List Pos :=
  s.teams.flatMap (fun t =>
    if !t.onCore then []
    else (t.groupList.filter (fun g => decide (128 * g.die + g.core = core) && decide (g.residence ≠ .away))).map (fun g =>
      { slot := g.slot, part := g.part, key := teamKey t.die t.handle, vregs := t.vregs }))

/-- Local store taken on a module core. -/
def coreLocal (s : State) (core : Nat) : Nat :=
  s.teams.foldl (fun n t =>
    if t.gleaner.isSome then
      n + t.localBytes * (t.groupList.filter (fun g => t.onCore && decide (128 * g.die + g.core = core) && decide (g.residence ≠ .away))).length
    else if t.cores.contains core && (t.onCore || (decide (t.state = .parked) && (bondOf s t.die t.handle).isSome)) then
      n + t.localBytes
    else n) 0

/-- The slot and part that a group takes (R31), if its slot and registers fit (R32). -/
def pickSlot (ps : List Pos) (key width vregs : Nat) : Option (Nat × Nat) :=
  let per := 128 / width
  let own := (upto 96).findSome? (fun sl =>
    if ps.any (fun p => decide (p.slot = sl) && decide (p.key = key)) then
      ((upto per).find? (fun q => !ps.any (fun p => decide (p.slot = sl) && decide (p.part = q)))).map (fun q => (sl, q))
    else none)
  match own with
  | some r => some r
  | none =>
    let used := dedup (ps.map (·.slot))
    let regs := used.foldl (fun n sl => n + ((ps.find? (fun p => decide (p.slot = sl))).map (·.vregs)).getD 0) 0
    let count := fun k : Nat => (used.filter (fun sl => decide (sl / 24 = k))).length
    if 4096 < regs + vregs then none
    else
      match minBy count (upto 4) with
      | none => none
      | some k => ((upto 24).find? (fun i => !used.contains (24 * k + i))).map (fun i => (24 * k + i, 0))

/-! Where a team fits (R29, R313, R314). -/

/-- What is to be placed: its die and number, groups by number, and what it takes. -/
structure Want where
  die : Nat
  handle : Nat
  ctx : Nat
  span : Nat
  width : Nat
  vregs : Nat
  loc : Nat
  bond : Nat := 0
  nums : List Nat
  /-- Groups of a Gleaner team: each on any core of the die (R52). -/
  any : Bool := false
  /-- Its own span, when it must return there (R54). -/
  fixed : Option Nat := none
  /-- Its lease is to be taken again (R286). -/
  lease : Bool := false
  /-- The groups for which a spill area is to be reserved (R39). -/
  new : List Nat := []
  /-- Its local store still stands (R54). -/
  localHeld : Bool := false

/-- A group's place: number, module core, slot and part, and its new spill area. -/
structure Seat where
  num : Nat
  core : Nat
  slot : Nat
  part : Nat
  spill : Nat := 0

/-- The module cores of a place: those of a span, or every core of the die. -/
def dieCores (d : Nat) : List Nat := (upto 128).map (128 * d + ·)
def Want.coresAt (w : Want) (place : Nat) : List Nat := if w.any then dieCores w.die else spanCores w.die w.span place

/-- The places to be tried, by number. -/
def Want.places (w : Want) : List Nat :=
  if w.any then [0] else match w.fixed with | some p => [p] | none => upto (spanCount w.span)

/-- The dies of a span run, and none of its cores has failed (R466, R471). -/
def spanUp (s : State) (cores : List Nat) : Bool :=
  cores.all (fun c => s.running (c / 128) && !(s.die (c / 128)).failedCores.contains (c % 128))

/-- The clusters of a span's lease: die and cluster. -/
def spanClusters (die span place : Nat) : List (Nat × Nat) :=
  if span = 3 then [(die, place), (die + 1, place)] else if span = 2 then [(die, place)] else []

/-- No other team with a BOND is resident on the clusters, and a lease to be taken again is free (R286, R314). -/
def bondRoom (s : State) (w : Want) (place : Nat) : Bool :=
  let cl := spanClusters w.die w.span place
  decide (w.bond = 0) ||
    (s.teams.all (fun t => !t.onCore || decide (t.bond = 0) || (decide (t.die = w.die) && decide (t.handle = w.handle)) ||
        !(spanClusters t.die t.span t.place).any (cl.contains ·)) &&
      (!w.lease || cl.all (fun p =>
        (bondAt s p.1 p.2).isNone)))

/-- A core has room for some allocations of local store. -/
def localRoom (s : State) (w : Want) (core n : Nat) : Bool := w.localHeld || decide (coreLocal s core + n * w.loc ≤ 524288)

/-- The cores that may take group n of a want, in the order in which they are tried, beside the seats taken so far. -/
def Want.tries (s : State) (w : Want) (cores : List Nat) (seats : List Seat) (n : Nat) : List Nat :=
  if w.any then cores.filter (fun c => spanUp s [c] && localRoom s w c (1 + (seats.filter (fun x => decide (x.core = c))).length))
  else [cores.getD (n % cores.length) 0]

/-- The seats of a team on one place, if every group fits. -/
def seatsOn (s : State) (w : Want) (place : Nat) : Option (List Seat) :=
  let cores := w.coresAt place
  if !w.any && !(spanUp s cores && bondRoom s w place && cores.all (fun c => localRoom s w c 1)) then none
  else
    let key := teamKey w.die w.handle
    let start : Table (List Pos) := cores.map (fun c => (c, corePositions s c))
    let step := fun (r : Option (Table (List Pos) × List Seat)) (n : Nat) => r.bind (fun (ps, seats) =>
      (w.tries s cores seats n).findSome? (fun core =>
        let here := tget ps core []
        (pickSlot here key w.width w.vregs).map (fun (sl, q) =>
          (tput ps core (here ++ [{ slot := sl, part := q, key := key, vregs := w.vregs }]),
           seats ++ [({ num := n, core := core, slot := sl, part := q } : Seat)]))))
    (w.nums.foldl step (some (start, []))).map (·.2)

/-- The lowest-numbered place on which the team fits. -/
def findSpan (s : State) (w : Want) : Option (Nat × List Seat) :=
  w.places.findSome? (fun p => (seatsOn s w p).map (fun r => (p, r)))

/-! Spill areas (R39, R410). -/

def spillBytes (width : Nat) : Nat := 48 * width + 2048

/-- The areas in use in a context's spill pool: where they begin, and their bytes. -/
def spillUsed (s : State) (ctx : Nat) : List (Nat × Nat) :=
  s.teams.flatMap (fun t => if t.ctx = ctx then t.groupList.map (fun g => (g.spill, spillBytes g.width)) else [])

/-- The lowest places of some new areas of a size; the rule gives no order within the pool (log 16). -/
def spillSpots (size len : Nat) : Nat → List (Nat × Nat) → Option (List Nat)
  | 0, _ => some []
  | n + 1, used =>
    let free := fun a : Nat => decide (a + len ≤ size) && used.all (fun u => decide (a + len ≤ u.1) || decide (u.1 + u.2 ≤ a))
    (minBy id ((0 :: used.map (fun u => u.1 + u.2)).filter free)).bind (fun a =>
      (spillSpots size len n ((a, len) :: used)).map (a :: ·))

/-- The new spill areas of a want, by group. -/
def spillPlan (s : State) (w : Want) : Option (List (Nat × Nat)) :=
  if w.new.isEmpty then some []
  else (spillSpots ((readCtx s w.ctx).spsize * 65536) (spillBytes w.width) w.new.length (spillUsed s w.ctx)).map (fun l => w.new.zip l)

def spillRoom (s : State) (w : Want) : Bool := (spillPlan s w).isSome

/-- The seats with their spill areas. -/
def withSpills (plan : List (Nat × Nat)) (seats : List Seat) : List Seat :=
  seats.map (fun x => { x with spill := ((plan.find? (fun p => decide (p.1 = x.num))).map (·.2)).getD 0 })

/-! What groups begin with (R50, R308). -/

def startCaps (s : State) (c : CtxDesc) (capix ncaps : Nat) : Table Cap :=
  (upto ncaps).foldl (fun m i => tset m i (entryCap s c (capix + i)) {}) []

/-- A group at its launch (R308). -/
def startGroup (s : State) (width : Nat) (seat : Seat) (index : Nat) (live : Mask) (pc : Nat) (caps : Table Cap) : Group :=
  { num := seat.num, index := index, width := width, die := seat.core / 128, core := seat.core % 128, slot := seat.slot
    part := seat.part, spill := seat.spill, live := live, s0 := some { mask := live, pc := pc }, caps := caps
    lastIssue := (s.die (seat.core / 128)).cycle }

/-- The cores of some seats take the context's counters (R337). -/
def takeCounters (s : State) (ctx : Nat) (seats : List Seat) : State :=
  seats.foldl (fun s x => holdCounters s ctx x.core) s

/-- A handle that no team of the die has and no outstanding DLEND names (R87). -/
def freeHandle (s : State) (d : Nat) : Option Nat :=
  (upto 8192).find? (fun h => (tfind (s.die d).teams h).isNone &&
    !s.ownOps.any (fun o => decide (o.kind = .lend) && decide (partyDie o.target = d) && decide (partyHandle o.target = h)))

/-! The list (R313, R317). -/

/-- An entry of the placement list: a team of a grid not yet placed, a team that returns, or a launched gleaned group. -/
inductive Ent where
  | fresh (grid pos : Nat)
  | back (handle : Nat)
  | glean (i : Nat)
  deriving DecidableEq, Repr

/-- The order of R313 as one number. -/
def entKey (prio : Nat) (deadline : Option Nat) (order team : Nat) : Nat :=
  ((prio * 2 ^ 81 + deadline.getD (2 ^ 80)) * 2 ^ 64 + order) * 2 ^ 32 + team

def gridLevel (s : State) (n : Nat) : Nat :=
  match s.grid? n with
  | some g => max g.prio (readCtx s g.ctx).priomax
  | none => 7

def gridKey (s : State) (n order team : Nat) : Nat := entKey (gridLevel s n) ((s.grid? n).bind (·.deadline)) order team
def gridOrder (s : State) (n : Nat) : Nat := ((s.grid? n).map (·.order)).getD 0

/-- Teams of a grid not yet placed at a die position: the next, and the end of its range. -/
def Grid.nextAt (g : Grid) (pos : Nat) : Nat := tget g.next pos 0
def Grid.endAt (g : Grid) (pos : Nat) : Nat := firstTeam g.launch.teams g.dies.length (pos + 1)

/-- The entries of a die's list with their keys. -/
def entries (s : State) (d : Nat) : List (Nat × Ent) :=
  let fresh := s.grids.flatMap (fun e =>
    if e.2.state = .running ∧ e.2.aborted = false then
      ((upto e.2.dies.length).filter (fun p => decide (e.2.dies[p]? = some d) && decide (e.2.nextAt p < e.2.endAt p))).map (fun p =>
        (gridKey s e.1 e.2.order (e.2.nextAt p), Ent.fresh e.1 p))
    else [])
  let back := ((s.die d).teams.map (·.2)).filterMap (fun t =>
    match t.state with
    | .saved | .discarded => some (gridKey s t.grid t.order t.index, Ent.back t.handle)
    | .parked => if (t.dwait.bind (·.status)).isSome then some (gridKey s t.grid (gridOrder s t.grid) t.index, Ent.back t.handle) else none
    | _ => none)
  let glean := ((upto (s.die d).gleanReady.length).zip (s.die d).gleanReady).filterMap (fun (i, g) =>
    (g.recs.head?).map (fun r => (gridKey s r.grid (gridOrder s r.grid) (2 ^ 32 - 1), Ent.glean i)))
  fresh ++ back ++ glean

/-- The Gleaner team of a launched group's kernel: one whose groups have other parameters is another kernel's (R52; log 53). -/
def gleanTeamOf (g : GleanReady) (k : Kernel) (t : Team) : Bool :=
  decide (t.ctx = g.ctx) && decide (t.gleaner = some g.entry) && decide (t.width = widthOf k.width) && decide (t.vregs = vregsOf k.vregs8) &&
    decide (t.localBytes = 256 * k.loc)

/-- What an entry wants. A launched gleaned group waits while its team is off its cores. -/
def wantOf (s : State) (d : Nat) (e : Ent) : Option Want :=
  match e with
  | .fresh n _ =>
    match s.grid? n, freeHandle s d with
    | some g, some h =>
      let l := g.launch
      some { die := d, handle := h, ctx := g.ctx, span := l.span, width := widthOf l.width, vregs := vregsOf l.vregs8, loc := 256 * l.loc
             bond := l.bond, nums := upto l.ngroups, new := upto l.ngroups }
    | _, _ => none
  | .back h =>
    (s.team? d h).map (fun t =>
      let again := decide (t.state = .discarded)
      let leased := (bondOf s d h).isSome
      { die := d, handle := h, ctx := t.ctx, span := t.span, width := t.width, vregs := t.vregs, loc := t.localBytes, bond := t.bond
        nums := if again then upto t.ngroups else t.groups.map (·.1), any := t.gleaner.isSome, fixed := if leased then some t.place else none
        lease := (savedBondOf s d h).isSome, localHeld := leased
        new := if again then (upto t.ngroups).filter (fun n => (t.group? n).isNone) else [] })
  | .glean i =>
    match (s.die d).gleanReady[i]? with
    | none => none
    | some g =>
      let k := kernelOf g.kern
      let t := ((s.die d).teams.map (·.2)).find? (gleanTeamOf g k)
      match (t.map (·.handle)) <|> freeHandle s d with
      | none => none
      | some h =>
        if t.any (fun t => decide (t.state ≠ .resident)) then none
        else
          let nums : List Nat := match t with | some t => t.groups.map (fun e => e.1) | none => []
          let new := ((upto (nums.length + 1)).filter (fun n => !nums.contains n)).take 1
          some { die := d, handle := h, ctx := g.ctx, span := 0, width := widthOf k.width, vregs := vregsOf k.vregs8, loc := 256 * k.loc
                 nums := new, any := true, new := new }

/-! Entering cores. -/

/-- A new team on its span; one of a dependent grid acquires what its producers released (R111). -/
def placeFresh (s : State) (n pos : Nat) (w : Want) (place : Nat) (seats : List Seat) : State :=
  match s.grid? n with
  | none => s
  | some g =>
    let l := g.launch
    let c := readCtx s g.ctx
    let code := entryCap s c l.entry
    let caps := startCaps s c l.capix l.ncaps
    let live := BitVec.ofNat 128 (2 ^ w.width - 1)
    let args := fun i : Nat => BitVec.ofNat 64 (l.args / 2 ^ (64 * i))
    let one : Seat → Nat × Group := fun x =>
      let grp := startGroup s w.width x x.num live code.base.toNat caps
      (x.num, { grp with scalars := (upto 3).foldl (fun m i => tset m i (args i) 0) [] })
    let now := (s.die w.die).cycle
    let t : Team := { ctx := g.ctx, grid := n, index := g.nextAt pos, die := w.die, handle := w.handle, pos := pos, span := w.span
                      place := place, ngroups := l.ngroups, width := w.width, vregs := w.vregs, localBytes := w.loc, bond := w.bond
                      code := code, groups := seats.foldl (fun m x => tput m (one x).1 (one x).2) [], since := now }
    let s := (s.setGrid n { g with next := tset g.next pos (g.nextAt pos + 1) 0, spillSince := none }).setTeam w.die w.handle t
    let s := if l.depv then acquireLines s t.cores 2 (fun _ => true) else s
    takeCounters s g.ctx seats

/-- A group that takes a seat. -/
def Group.sit (g : Group) (x : Seat) : Group :=
  { g with die := x.core / 128, core := x.core % 128, slot := x.slot, part := x.part
           residence := if g.residence = .trapParked then .trapParked else .resident }

/-- A discarded team starts again from R308 with its number and handle (R324), beside the groups that keep their TRAP saves (R325). -/
def placeAgain (s : State) (t : Team) (place : Nat) (seats : List Seat) : State :=
  match s.grid? t.grid with
  | none => s
  | some g =>
    let l := g.launch
    let caps := startCaps s (readCtx s t.ctx) l.capix l.ncaps
    let live := BitVec.ofNat 128 (2 ^ t.width - 1)
    let args := fun i : Nat => BitVec.ofNat 64 (l.args / 2 ^ (64 * i))
    let one : Seat → Nat × Group := fun x =>
      let grp := startGroup s t.width x x.num live t.code.base.toNat caps
      (x.num, match t.group? x.num with
        | some g => g.sit x
        | none => { grp with scalars := (upto 3).foldl (fun m i => tset m i (args i) 0) [] })
    takeCounters (s.setTeam t.die t.handle { t with place := place, state := .resident, since := (s.die t.die).cycle, quantumSpent := false
                                                    groups := seats.foldl (fun m x => tput m (one x).1 (one x).2) [] }) t.ctx seats

/-- A saved or parked team takes new places and is restored (R314, R324). -/
def placeBack (s : State) (t : Team) (place : Nat) (seats : List Seat) : State :=
  let seat := fun g : Group =>
    match seats.find? (fun x => decide (x.num = g.num)) with
    | some x => g.sit x
    | none => g
  let s := match savedBondOf s t.die t.handle with
    | some b =>
      let lease : Bond := { b with saved := false, cluster := place, seam := [] }
      putBond (delBond s b) lease
    | none => s
  takeCounters (s.setTeam t.die t.handle { t with place := place, state := .restoring, groups := tmap seat t.groups }) t.ctx seats

/-- Lane l of a gleaned group receives the record that arrived l-th (R50). -/
def gleanLanes (g : Group) (recs : List GleanRec) : Group :=
  ((upto recs.length).zip recs).foldl (fun g (l, r) =>
    let b := r.bits.toNat
    let g := (upto 14).foldl (fun g i => writeReg g i l (b / 2 ^ (64 + 32 * i) % 2 ^ 32)) g
    writeReg g 14 l (bits b 47 16)) g

/-- A gleaned group on its core, in the Gleaner team of its kernel, context and die (R50 to R52). A team belongs to the grid of the
first record of the group with which it begins, whichever grids feed it later (log 54). -/
def placeGlean (s : State) (d i : Nat) (w : Want) (seats : List Seat) : State :=
  match (s.die d).gleanReady[i]?, seats with
  | some rd, x :: _ =>
    let k := kernelOf rd.kern
    let c := readCtx s rd.ctx
    let code := entryCap s c rd.entry
    let grid := ((rd.recs.head?).map (·.grid)).getD 0
    let fresh : Team := { ctx := rd.ctx, grid := grid, index := 2 ^ 32 - 1, die := d, handle := w.handle, span := 0
                          pos := (((s.grid? grid).map (·.dies)).getD []).findIdx (fun e => decide (e = d)), width := w.width
                          vregs := w.vregs, localBytes := w.loc, code := code, gleaner := some rd.entry, since := (s.die d).cycle }
    let t := (s.team? d w.handle).getD fresh
    let live := BitVec.ofNat 128 (2 ^ min rd.recs.length w.width - 1)
    let g := startGroup s w.width x rd.index live code.base.toNat (startCaps s c k.capix k.ncaps)
    let t := { t with groups := tput t.groups x.num (gleanLanes g rd.recs) }
    let s := s.updDie d (fun y => { y with gleanReady := y.gleanReady.eraseIdx i })
    takeCounters (s.setTeam d w.handle t) rd.ctx seats
  | _, _ => s

/-- An entry placed on the lowest-numbered span on which it fits. -/
def placeOne (s : State) (d : Nat) (e : Ent) : Option State :=
  (wantOf s d e).bind (fun w =>
    (spillPlan s w).bind (fun plan =>
      (findSpan s w).map (fun (p, seats) =>
        let seats := withSpills plan seats
        match e with
        | .fresh n pos => placeFresh s n pos w p seats
        | .back h =>
          (match s.team? d h with
           | some t => if t.state = .discarded then placeAgain s t p seats else placeBack s t p seats
           | none => s)
        | .glean i => placeGlean s d i w seats)))

/-! COHORT (R53). -/

def gridCohort (s : State) (n : Nat) : Bool := match s.grid? n with | some g => g.launch.cohort | none => false

/-- The teams of a COHORT grid that stand off the cores of a die, once none of its teams there is on its way off. -/
def cohortBack (s : State) (d n : Nat) : Option (List Nat) :=
  let ts := ((s.die d).teams.map (·.2)).filter (fun t => decide (t.grid = n) && t.gleaner.isNone)
  if ts.any (fun t => decide (t.state = .deciding) || decide (t.state = .saving) || decide (t.state = .discarding)) then none
  else some ((ts.filter (fun t => decide (t.state = .saved) || decide (t.state = .discarded))).map (·.handle))

/-- Every remaining team of a COHORT grid at a die position, one after the other. -/
def placeRest (d n pos : Nat) : Nat → State → Option State
  | 0, s => some s
  | k + 1, s => (placeOne s d (.fresh n pos)).bind (placeRest d n pos k)

/-- One entry tried: alone, or with its whole COHORT. -/
def tryEnt (s : State) (d : Nat) (e : Ent) : Option State :=
  match e with
  | .fresh n pos =>
    if gridCohort s n then
      match s.grid? n with
      | some g => placeRest d n pos (g.endAt pos - g.nextAt pos) s
      | none => none
    else placeOne s d e
  | .back h =>
    match s.team? d h with
    | none => none
    | some t =>
      if gridCohort s t.grid && t.gleaner.isNone && decide (t.state ≠ .parked) then
        (cohortBack s d t.grid).bind (fun hs => hs.foldl (fun (o : Option State) h => o.bind (fun s => placeOne s d (.back h))) (some s))
      else placeOne s d e
  | .glean _ => placeOne s d e

/-- The entry that stands first, among those not yet found too large. -/
def headEnt (s : State) (d : Nat) (failed : List Ent) : Option Ent :=
  (minBy (fun e : Nat × Ent => e.1) ((entries s d).filter (fun e => !failed.contains e.2))).map (·.2)

/-- The list tried from its head; an entry that does not fit does not block later ones. A gleaned group's number in the list
changes as others leave it, so the entries found too large are named again after each placement. -/
def placeLoop (d : Nat) : Nat → State → List Ent → State × List Ent
  | 0, s, failed => (s, failed)
  | k + 1, s, failed =>
    match headEnt s d failed with
    | none => (s, failed)
    | some e =>
      match tryEnt s d e with
      | none => placeLoop d k s (failed ++ [e])
      | some t =>
        let renamed := match e with
          | .glean i => failed.map (fun f => match f with | .glean j => if i < j then Ent.glean (j - 1) else f | _ => f)
          | _ => failed
        placeLoop d k t renamed

/-! Waits for spill areas (R410). -/

def entGrid (s : State) (d : Nat) : Ent → Option Nat
  | .fresh n _ => some n
  | .back h => (s.team? d h).map (·.grid)
  | .glean i => ((s.die d).gleanReady[i]?).bind (fun g => (g.recs.head?).map (·.grid))

/-- The entry would fit but for its spill areas. -/
def spillBlocked (s : State) (d : Nat) (e : Ent) : Bool :=
  match wantOf s d e with
  | some w => !spillRoom s w && (findSpan s w).isSome
  | none => false

def noteSpills (s : State) (d : Nat) (failed : List Ent) : State :=
  failed.foldl (fun s e =>
    match entGrid s d e with
    | none => s
    | some n =>
      s.updGrid n (fun g =>
        if spillBlocked s d e then { g with spillSince := some (g.spillSince.getD (d, (s.die d).cycle)) }
        else if (g.spillSince.map (·.1)) = some d then { g with spillSince := none } else g)) s

/-- 2^20 counts of a wait for spill areas: one record for the grid. -/
def spillWait (s : State) (n : Nat) : State :=
  match s.grid? n with
  | none => s
  | some g =>
    match g.spillSince with
    | none => s
    | some (d, t) =>
      let now := (s.die d).cycle
      if g.spillLogged = false ∧ t + 2 ^ 20 ≤ now then
        eventCtx (s.setGrid n { g with spillLogged := true }) d
          { code := 0x70, value := now - t, raddr := g.raddr, queue := g.queue, party := mgmtParty d 0, ctx := g.ctx }
      else s

def execSpillwait (s : State) : Host.Outcome State Fault Refusal := .next (spillWait s s.arg.id)

/-! Victims (R319, R320). -/

/-- A set of teams that must go together, with their number. -/
structure Victims where
  teams : List (Nat × Nat)
  /-- The highest priority among them. -/
  worst : Nat

/-- The team has spent its quantum (R318). -/
def spentQuantum (s : State) (t : Team) : Bool :=
  decide ((readCtx s t.ctx).quantum ≤ (s.die t.die).cycle - t.since)

/-- A resident team may go for one of a grid and priority. -/
def mayGo (s : State) (grid p : Nat) (t : Team) : Bool :=
  let q := gridLevel s t.grid
  decide (t.grid ≠ grid) && decide (t.state = .resident) &&
    (decide (p < q) || (decide (p = q) && spentQuantum s t))

/-- The candidates as sets: a COHORT's teams of one die go together. -/
def candidates (s : State) (grid p : Nat) (cores : List Nat) : List Victims :=
  let ts := s.teams.filter (fun t => mayGo s grid p t && t.cores.any (cores.contains ·))
  let set := fun t : Team =>
    if gridCohort s t.grid then
      (s.teams.filter (fun u => decide (u.grid = t.grid) && decide (u.die = t.die))).map (fun u => (u.die, u.handle))
    else [(t.die, t.handle)]
  ts.foldl (fun (vs : List Victims) t =>
    if vs.any (fun v => v.teams.contains (t.die, t.handle)) then vs
    else vs ++ [({ teams := set t, worst := gridLevel s t.grid } : Victims)]) []

/-- The sets of candidates that hold exactly k teams. -/
def chooseSets : List Victims → Nat → List (List Victims)
  | [], 0 => [[]]
  | [], _ + 1 => []
  | v :: r, k =>
    (if v.teams.length ≤ k then (chooseSets r (k - v.teams.length)).map (v :: ·) else []) ++ chooseSets r k

/-- The state once some teams have left their cores, for the question what then fits. -/
def setAside (s : State) (vs : List (Nat × Nat)) : State :=
  vs.foldl (fun s v =>
    let s := match bondOf s v.1 v.2 with | some b => delBond s b | none => s
    s.updTeam v.1 v.2 (fun t => { t with state := .saved })) s

/-- The entry stands for a whole COHORT on the die (R53). -/
def cohortEnt (s : State) (d : Nat) (e : Ent) : Bool :=
  match e with
  | .fresh n _ => gridCohort s n
  | .back h => (s.team? d h).any (fun t => gridCohort s t.grid && t.gleaner.isNone && decide (t.state ≠ .parked))
  | .glean _ => false

/-- The places on which room is sought, with their cores: a COHORT needs the die. -/
def Want.sought (w : Want) (whole : Bool) : List (Nat × List Nat) :=
  if whole then [(0, if w.span = 3 then dieCores w.die ++ dieCores (w.die + 1) else dieCores w.die)]
  else w.places.map (fun q => (q, w.coresAt q))

/-- The smallest set whose going makes room on some span: its teams and the span; of equals the span whose most important
victim matters least, then the lowest. -/
def findVictims (s : State) (d : Nat) (e : Ent) (grid p : Nat) (w : Want) : Option (List (Nat × Nat)) :=
  let whole := cohortEnt s d e
  let fits := fun (vs : List Victims) (q : Nat) =>
    let s := setAside s (vs.flatMap (·.teams))
    if whole then (tryEnt s d e).isSome else (seatsOn s w q).isSome
  let cands := (w.sought whole).map (fun r => (r.1, candidates s grid p r.2))
  let most := cands.foldl (fun m c => max m (c.2.foldl (fun n v => n + v.teams.length) 0)) 0
  (upto (most + 1)).findSome? (fun k =>
    let ok := cands.flatMap (fun (q, vs) => ((chooseSets vs k).filter (fun c => fits c q)).map (fun c => (q, c)))
    (minBy (fun e : Nat × List Victims => (7 - e.2.foldl (fun m v => min m v.worst) 7) * 1024 + e.1) ok).map (fun e => e.2.flatMap (·.teams)))

/-- Teams on their way off the cores. -/
def leaving (s : State) : List (Nat × Nat) :=
  (s.teams.filter (fun t => match t.state with | .deciding | .draining | .saving | .discarding => true | _ => false)).map (fun t => (t.die, t.handle))

/-- A pre-emption request reaches a team (R324, R325, R458); a team parked whole satisfies it at once, but for a lease (R54). -/
def requestPreempt (s : State) (die handle deadline : Nat) (by_ : Option Nat) : State :=
  let leased := (bondOf s die handle).isSome
  let again := fun (t : Team) => some ({ deadline := min deadline ((t.preempt.map (·.deadline)).getD deadline), by_ := by_ } : Preempt)
  s.updTeam die handle (fun t =>
    match t.state with
    | .resident => { t with state := .deciding, preempt := some { deadline := deadline, by_ := by_ } }
    | .restoring => { t with preempt := again t }
    | .deciding | .draining | .saving | .saved | .discarding | .discarded =>
      { t with preempt := t.preempt.map (fun p => { p with deadline := min deadline p.deadline }) }
    | .parked => if leased then { t with preempt := again t } else t)

/-- The head of the list seeks victims when it does not fit, and no room is on its way (R319). -/
def seekVictims (s : State) (d : Nat) : State :=
  match headEnt s d [] with
  | none => s
  | some e =>
    match wantOf s d e, entGrid s d e with
    | some w, some n =>
      if !spillRoom s w || (tryEnt (setAside s (leaving s)) d e).isSome then s
      else
        match findVictims s d e n (gridLevel s n) w with
        | none => s
        | some vs => vs.foldl (fun s v => requestPreempt s v.1 v.2 ((s.die d).cycle + (readCtx s w.ctx).pdead) (some w.ctx)) s
    | _, _ => s

def placeTeams (s : State) (d : Nat) : State :=
  let (s, failed) := placeLoop d 65536 s []
  seekVictims (noteSpills s d failed) d

def execTeamPlacement (s : State) : Host.Outcome State Fault Refusal :=
  if s.running s.arg.die then .next (placeTeams s s.arg.die) else .next s

/-! The end of a restore (R54, R256, R324, R325, R403). -/

/-- Bytes of a bond's state that stand on a core (R286, R322): tiles with BV on the south row, loaded planes everywhere; the
4096 bytes of the rest and the queues' bytes on the core of rank 0. -/
def bondBytes (b : Bond) (core : Nat) : Nat :=
  let south := (upto b.cols).foldl (fun n j => if b.core (b.rows - 1) j = core then n + 65536 * (b.bias.filter (fun e => decide (e.1 / 8 = j))).length else n) 0
  let planes := if b.cores.contains core then 65536 * b.planeFmt.length else 0
  let queues := (b.feedA ++ b.feedB).foldl (fun n q => n + q.2.bytes.length) 0
  south + planes + (if b.cores.head? = some core then 4096 + queues else 0)

/-- Commands of a debugger recorded while the team was away take effect. -/
def pendingDebug (s : State) (t : Team) : State :=
  t.groupList.foldl (fun s g =>
    match g.debugPending with
    | none => s
    | some k =>
      if g.residence = .trapParked then s
      else
        let g' := { g with debugPending := none }
        let s := s.setGroup t.die t.handle g.num g'
        if k = 1 then s.setGroup t.die t.handle g.num g'.stopAll
        else if g'.isStopped && g'.editOk t.vregs then resumeGroup s t g' else s) s

/-- The team goes on: its residency timer starts again, a DWAIT that ended writes its status, and a request that came
meanwhile is taken up. -/
def restored (s : State) (die handle : Nat) : State :=
  match s.team? die handle with
  | none => s
  | some t =>
    if t.state ≠ .restoring then s
    else
      let cyc := (s.die die).cycle
      let bond := bondOf s die handle
      let parked := t.dwait.isSome
      let move := !(parked && bond.isSome && !t.bondSaved)
      let s := chargeMove s t move (some t.ctx) (fun c => match bond with | some b => if t.bondSaved then bondBytes b c else 0 | none => 0)
      let feed := fun e : EngOp => if e.feedsTeam die handle then { e with frozen := false } else e
      let s := { s with engines := s.engines.map feed }
      let s := acquireLines s t.cores 2 (fun _ => true)
      let t := { t with state := if t.preempt.isSome then .deciding else .resident, since := cyc, quantumSpent := false, bondSaved := false
                        groups := tmap (fun g => if g.residence = .trapParked then g else { (Group.thaw cyc g) with lastIssue := cyc }) t.groups }
      let s := s.setTeam die handle t
      let s := match t.dwait.bind (·.status) with
        | some st => acquireLines (s.updTeam die handle (fun t => t.endDwait st)) t.cores 2 (fun _ => true)
        | none => s
      let s := pumpTeam s die handle
      match s.team? die handle with
      | some t => settleTeam (pendingDebug s t) die handle
      | none => s

def execRestoreComplete (s : State) : Host.Outcome State Fault Refusal := .next (restored s s.arg.die s.arg.handle)

end Sys2Proof.Machine
end

