-- ==== Sys2Proof/Machine/Preempt.lean ====
section
/-! DEFINITION. Pre-emption: the counters and the estimator, the decision, the break of a bond lease, saves and discards, and
requests of the driver (R57, R58, R286, R318, R321 to R325, R338, R405, R458). -/
namespace Sys2Proof.Machine

/-! The counters of R321. -/

/-- Bytes that an outstanding operation has still to write: OB's part. -/
def EngOp.left (s : State) (e : EngOp) : Nat :=
  if e.status.isSome then 0
  else
    match e.kind with
    | .cpy =>
      let r := cpyRec e.record
      let n := if r.mcast = 0 then 1 else (maskBits r.mcast).length
      r.es * r.total * n - e.done
    | .cpyc =>
      let r := cpycRec e.record
      r.resultBytes (cpycMembers s (e.core / 128) r) - e.done
    | _ => e.entries.length * (nmDesc e.record).nelem * 4

def teamOb (s : State) (t : Team) : Nat :=
  (s.engines.filter (fun e => decide (e.die = t.die) && decide (e.handle = t.handle))).foldl (fun n e => n + e.left s) 0

def teamHd (s : State) (t : Team) : Nat := (teamParties t).foldl (fun n p => n + heldCount s t.ctx p) 0

/-- The gain of IR over the last 4096 counts: 4096 ρ. -/
def irGain (s : State) (t : Team) : Nat :=
  let now := (s.die t.die).cycle
  let old := t.irHist.find? (fun e => decide (e.1 + 4096 ≤ now))
  t.ir - ((old.map (fun e => e.2)).getD 0)

/-- The save size Bs (R322). -/
def saveBytes (s : State) (t : Team) : Nat :=
  let b := bondOf s t.die t.handle
  t.cores.foldl (fun n c => n + coreBytes s t true c + (match b with | some b => bondBytes b c | none => 0)) 0

/-! The estimator (R322, R323). -/

/-- An option: 0 drain, 1 save, 2 discard, with time and cost as fractions. -/
structure PreOpt where
  id : Nat
  time : Nat × Nat
  cost : Nat × Nat

def fracLt (a b : Nat × Nat) : Bool := decide (a.1 * b.2 < b.1 * a.2)

/-- The eligible options in the order of ties; drained tells that a drain has missed its deadline. -/
def preOptions (s : State) (t : Team) (drained : Bool) : List PreOpt :=
  let (n, total) := match s.grid? t.grid with
    | some g => (tget g.retiredOn t.die 0, tget g.retiredIr t.die 0)
    | none => (0, 0)
  let gain := irGain s t
  let halted := t.groupList.any (fun g => g.splits.any (·.stopped))
  let dt := ((total - t.ir * n) * 4096, n * gain)
  let bs := saveBytes s t
  let ob := teamOb s t
  (if n ≠ 0 ∧ gain ≠ 0 ∧ !drained ∧ !halted then [({ id := 0, time := dt, cost := dt } : PreOpt)] else []) ++
  [({ id := 1, time := (262144 + bs + 2 * ob, 256), cost := (2 * (262144 + bs), 256) } : PreOpt)] ++
  (if mayRestart s t && !teamLt s t [] then
    [({ id := 2, time := (ob + 8192 * teamHd s t, 128), cost := (residencyOf s t, 1) } : PreOpt)] else [])

def bestBy (f : PreOpt → Nat × Nat) : List PreOpt → Option PreOpt
  | [] => none
  | x :: r =>
    match bestBy f r with
    | none => some x
    | some y => if fracLt (f y) (f x) then some y else some x

/-- The choice of R323, and whether it misses the deadline. -/
def chooseOption (os : List PreOpt) (room : Nat) (late : Bool) : Nat × Bool :=
  let ok := os.filter (fun o => !late && decide (o.time.1 ≤ room * o.time.2))
  match bestBy (·.cost) ok with
  | some o => (o.id, false)
  | none => (((bestBy (·.time) os).map (·.id)).getD 1, true)

/-! Records (R448, R458). -/

def teamEvent (s : State) (t : Team) (code cause value : Nat) : State :=
  let (ra, q) := match s.grid? t.grid with | some g => (g.raddr, g.queue) | none => (0, 0)
  eventCtx s t.die { code := code, cause := cause, value := value, raddr := ra, queue := q, team := t.index,
                     party := teamParty t.die t.handle, ctx := t.ctx }

/-- MISSPRE, once for the request. -/
def missPre (s : State) (t : Team) (p : Preempt) (choice : Nat) : State :=
  if p.missed then s
  else teamEvent (s.updTeam t.die t.handle (fun t => { t with preempt := t.preempt.map (fun p => { p with missed := true }) })) t 0x6C choice p.deadline

/-! The decision (R324). -/

/-- Discard: the groups stop, tile store and feeds go once the operation in progress has ended (R57), and DISCARD is written. -/
def startDiscard (s : State) (t : Team) : State :=
  let s := discardQuiet (s.updTeam t.die t.handle (fun t => { t with state := .discarding, dwait := none })) t.die t.handle
  teamEvent s t 0x6D 0 (residencyOf s t)

def decidePreempt (s : State) (die handle : Nat) : State :=
  match s.team? die handle with
  | none => s
  | some t =>
    match t.preempt with
    | none => s
    | some p =>
      if t.state = .deciding ∧ t.groupList.all (fun g => g.run.isNone) = true then
        let now := (s.die die).cycle
        let (k, missed) := chooseOption (preOptions s t (decide (p.choice = some 0))) (p.deadline - now) (decide (p.deadline < now))
        let s := s.setTeam die handle { t with preempt := some { p with choice := some k } }
        let s := if missed then missPre s t p k else s
        if k = 0 then s.updTeam die handle (fun t => { t with state := .draining })
        else if k = 1 then s.updTeam die handle (fun t => { t with state := .saving })
        else match s.team? die handle with
          | some t => startDiscard s t
          | none => s
      else s

def execPreemptDecide (s : State) : Host.Outcome State Fault Refusal := .next (decidePreempt s s.arg.die s.arg.handle)

/-- The deadline passes: a drain is decided again without drain, and a save or discard is logged (R324, R458). -/
def preDeadline (s : State) (die handle : Nat) : State :=
  match s.team? die handle with
  | none => s
  | some t =>
    match t.preempt with
    | none => s
    | some p =>
      if (s.die die).cycle < p.deadline then s
      else
        match t.state with
        | .draining => s.setTeam die handle { t with state := .deciding }
        | .saving => missPre s t p 1
        | .discarding => missPre s t p 2
        | _ => s

def execPreemptDeadline (s : State) : Host.Outcome State Fault Refusal := .next (preDeadline s s.arg.die s.arg.handle)

/-! The break of a lease (R57, R58, R286, R458). -/

/-- The stream stands where it resumes: an operation not started, or an MWAITF, is issued again. -/
def Bond.rewind (b : Bond) : Bond :=
  match b.op with
  | none => { b with holds := [] }
  | some o =>
    match o.instr with
    | .mloadb _ => { b with holds := [] }
    | _ => { b with op := none, holds := [], qpc := o.addr }

/-- Steps 2 to 4 of R57 for a save: the feeds freeze, the state is saved, the lease is released; seam queues are dropped. -/
def saveBond (s : State) (t : Team) (b : Bond) : State :=
  let freeze := fun e : EngOp => if e.feedsTeam t.die t.handle && e.status.isNone then { e with frozen := true, want := 0, waitLaps := 0 } else e
  let s := delBond (returnHolds s b) b
  let kept : Bond := { b.rewind with saved := true, seam := [] }
  let s := putBond { s with engines := s.engines.map freeze } kept
  s.updTeam t.die t.handle (fun t => { t with bondSaved := true })

/-- A damaged tile or plane element that the save reads (R434, R450). -/
def saveDamage (b : Bond) : Option (Nat × Nat) := b.damage.head?

/-- The bytes of a team on its cores, charged to the pre-empting context or the house account. -/
def chargeSave (s : State) (t : Team) (by_ : Option Nat) : State :=
  let b := bondOf s t.die t.handle
  chargeMove s t true by_ (fun c => match b with | some b => bondBytes b c | none => 0)

/-- The save is complete (R324, R338, R481). The items of R322 stand in State with the team; the save pool's layout is not given, and
its bytes are left as they are (log 16). -/
def completeSave (s : State) (die handle : Nat) : State :=
  match s.team? die handle with
  | none => s
  | some t =>
    if t.state ≠ .saving ∨ !t.groupList.all (fun g => g.run.isNone) then s
    else
      let finish := fun s : State =>
        let (o, s) := s.fresh
        teamOff (s.updTeam die handle (fun t => { t with order := o, preempt := none })) die handle .saved
      let by_ := t.preempt.bind (·.by_)
      match bondOf s die handle with
      | none => finish (chargeSave s t by_)
      | some b =>
        match saveDamage b with
        | some (r, n) => killTeam s b 0x62 0 b.qpc (at_ r 48 4 + at_ n 56 8)
        | none => if b.quiet then finish (saveBond (chargeSave s t by_) t b) else s

/-- A request that reaches a team parked whole with a lease: the lease breaks, and bond state and local store are saved
(R54, R325). -/
def saveParked (s : State) (die handle : Nat) : State :=
  match s.team? die handle with
  | none => s
  | some t =>
    if t.state = .parked ∧ t.preempt.isSome then
      match bondOf s die handle with
      | none => s.setTeam die handle { t with preempt := none }
      | some b =>
        match saveDamage b with
        | some (r, n) => killTeam s b 0x62 0 b.qpc (at_ r 48 4 + at_ n 56 8)
        | none =>
          if b.quiet then
            let by_ := t.preempt.bind (·.by_)
            let s := t.cores.foldl (fun s c =>
              let n := kib (t.localBytes + bondBytes b c)
              match by_ with
              | some x => charge s x c n
              | none => chargeHouse s (c / 128) n) s
            (saveBond s t b).updTeam die handle (fun t => { t with preempt := none })
          else s
    else s

def execSaveComplete (s : State) : Host.Outcome State Fault Refusal :=
  .next (saveParked (completeSave s s.arg.die s.arg.handle) s.arg.die s.arg.handle)

/-- The discard is complete: the team is DISCARDED, and enters the list to start again (R324). -/
def execDiscardComplete (s : State) : Host.Outcome State Fault Refusal := .next (finishDiscard s s.arg.die s.arg.handle)

/-! Requests and time slices (R318, R319, R325). -/

/-- A request of the driver carries its own deadline. -/
def driverRequest (s : State) (die handle deadline : Nat) : State :=
  saveParked (requestPreempt s die handle deadline none) die handle

def execDriverPreemptionRequest (s : State) : Host.Outcome State Fault Refusal :=
  .next (driverRequest s s.arg.die s.arg.handle s.arg.v.toNat)

/-- A resident team has spent its quantum: the list is tried (R313, R318). -/
def spendQuantum (s : State) (die handle : Nat) : State :=
  match s.team? die handle with
  | none => s
  | some t =>
    if t.state = .resident ∧ t.quantumSpent = false ∧ spentQuantum s t = true then
      placeTeams (s.setTeam die handle { t with quantumSpent := true }) die
    else s

def execQuantumSpent (s : State) : Host.Outcome State Fault Refusal := .next (spendQuantum s s.arg.die s.arg.handle)

end Sys2Proof.Machine
end

