-- ==== Sys2Proof/Machine/Energy.lean ====
section
/-! DEFINITION. The sheaf ring and its laps, claims, static charges, the energy plan, islands and their errors (R269, R328 to
R343, R461 to R463, R482). -/
namespace Sys2Proof.Machine

/-! The energy plan (R339, R341). -/

def planBudget (w : Dword) : Nat := min (bits w.toNat 63 47) 71680

/-- The effective budget of a lap. -/
def effBudget (w : Dword) (tlevel : Nat) : Nat :=
  let b := planBudget w
  max (b * (4 - tlevel) / 4) (min b 4096)

/-- STAT of the plan for a ratio: L, M, H. -/
def planStat (w : Dword) (ratio : Nat) : Nat :=
  if ratio = 2 then bits w.toNat 46 39 else if ratio = 1 then bits w.toNat 38 31 else bits w.toNat 30 23

def planBallast (w : Dword) : Bool := w.getLsbD 22

def execEplanWrite (s : State) : Host.Outcome State Fault Refusal :=
  .next (s.updDie s.arg.die (fun d => { d with eplan := s.arg.v &&& ~~~(63 : Dword) }))

/-! Waits and claims (R331). -/

/-- Heads, charges and installments stand at one more lap start. -/
def countLap (s : State) (d : Nat) : State :=
  let grp := fun g : Group => if g.die = d ∧ g.awaits.isSome = true then { g with awaitLaps := g.awaitLaps + 1 } else g
  let s := s.updDie d (fun x => { x with teams := tmap (Team.mapGroups grp) x.teams })
  let s := if d % 2 = 1 then s.updDie (d - 1) (fun x => { x with teams := tmap (Team.mapGroups grp) x.teams }) else s
  let op := fun b : Bond => { b with op := b.op.map (fun o => { o with waitLaps := if o.charge ≠ 0 ∧ o.started = false then o.waitLaps + 1 else 0 }) }
  let s := s.updDie d (fun x => { x with bonds := tmap op x.bonds })
  let eng := fun e : EngOp => if e.core / 128 = d ∧ engOwes s e ≠ 0 then { e with waitLaps := e.waitLaps + 1 } else e
  { s with engines := s.engines.map eng }

/-- A unit, a charge or an installment of the pair stands at its second lap start or a later one. -/
def claims (s : State) (d p : Nat) : Bool :=
  let gs := (groupsOnCore s d (2 * p) ++ groupsOnCore s d (2 * p + 1)).map (·.2)
  gs.any (fun g => g.awaits.isSome && decide (2 ≤ g.awaitLaps)) ||
    (bondsOn s d).any (fun b => decide (bondOwes b d p ≠ 0) && (match b.op with | some o => decide (2 ≤ o.waitLaps) | none => false)) ||
    s.engines.any (fun e => decide (pairOf e.core = (d, p)) && decide (engOwes s e ≠ 0) && decide (2 ≤ e.waitLaps))

def pairNeed (s : State) (d p : Nat) : Nat :=
  let sum := fun l : List Nat => l.foldl (· + ·) 0
  sum (headPrices s d p) + sum ((chargesOn s d p).map (·.2)) + sum ((installsOn s d p).map (·.2)) - (s.pair d p).purse

/-! Islands (R340 to R343). -/

/-- Core clocks in MHz by ratio and step. -/
def clockOf (ratio step : Nat) : Nat :=
  (([[1250, 1000, 800, 625], [1600, 1400, 1250, 1000], [2000, 1800, 1600, 1400]].getD ratio []).getD step 0)

/-- A ratio's greatest step not above a clock, or step 3. -/
def stepNotAbove (ratio clock : Nat) : Nat := ((upto 4).find? (fun k => decide (clockOf ratio k ≤ clock))).getD 3

/-- Where a canary warning moves an island; none at H step 3 (R343). -/
def canaryMove (r k : Nat) : Option (Nat × Nat) :=
  if r < 2 then some (r + 1, stepNotAbove (r + 1) (clockOf r k)) else if k < 3 then some (2, k + 1) else none

/-- One step or ratio back toward the plan. -/
def backMove (i : Island) : Nat × Nat :=
  if i.aratio = i.ratio then (i.aratio, if i.step < i.astep then i.astep - 1 else if i.astep < i.step then i.astep + 1 else i.astep)
  else if i.ratio < i.aratio then
    if i.aratio - 1 = i.ratio then (i.ratio, i.step) else (i.aratio - 1, stepNotAbove (i.aratio - 1) (clockOf i.aratio i.astep))
  else (i.aratio + 1, stepNotAbove (i.aratio + 1) (clockOf i.aratio i.astep))

/-- A change begins: issue on the island stops for 512 counts (R341). -/
def Island.begin (i : Island) (now r k : Nat) : Island :=
  if (r, k) = (i.aratio, i.astep) then i else { i with change := some (now + 512, r, k) }

/-- The bond whose lease covers an island. -/
def islandBond (s : State) (d p : Nat) : Option Bond := (bondAt s d (p / 4)).map (·.1)

/-- The island that leads a leased bond's islands (R269): the lowest of the bond's own die. -/
def leadOf (b : Bond) : Nat × Nat := (b.die, 4 * b.cluster)

/-- A warning on an island or, for a lead, on any island of its bond. -/
def warnedAt (s : State) (d p : Nat) : Bool :=
  match islandBond s d p with
  | some b => b.cores.any (fun c => ((s.die (c / 128)).island (c % 128 / 2)).warned)
  | none => ((s.die d).island p).warned

def clearWarned (s : State) (d p : Nat) : State :=
  let one := fun (s : State) (e : Nat × Nat) => s.setIsland e.1 e.2 { (s.die e.1).island e.2 with warned := false }
  match islandBond s d p with
  | some b => (b.cores.map (fun c => (c / 128, c % 128 / 2))).foldl one s
  | none => one s (d, p)

/-- The last warning on an island or, for a lead, on any island of its bond. -/
def lastWarn (s : State) (d p : Nat) : Nat :=
  match islandBond s d p with
  | some b => b.cores.foldl (fun n c => max n ((s.die (c / 128)).island (c % 128 / 2)).warnAt) 0
  | none => ((s.die d).island p).warnAt

/-- An island has moved on a warning; those that follow it are as far from their plans as it is (R269, R343). -/
def moved (s : State) (d p : Nat) (f : Island → Island) : State :=
  let s := s.setIsland d p (f ((s.die d).island p))
  match islandBond s d p with
  | some b => ((b.cores.map (fun c => (c / 128, c % 128 / 2))).filter (fun e => decide (e ≠ (d, p)))).foldl (fun s e =>
      s.setIsland e.1 e.2 { (s.die e.1).island e.2 with off := true }) s
  | none => s

/-- An island that follows no other acts on a warning, or moves to its plan. -/
def leadLap (s : State) (d p : Nat) : State :=
  let i := (s.die d).island p
  let now := (s.die d).cycle
  if i.change.isSome then s
  else if warnedAt s d p then
    let s := clearWarned s d p
    let i := (s.die d).island p
    match canaryMove i.aratio i.astep with
    | some (r, k) => moved s d p (fun i => { (i.begin now r k) with off := true })
    | none =>
      if i.held then s
      else eventMod (s.setIsland d p { i with held := true, half := true, off := true }) d { code := 0x84, value := p }
  else if i.off then s
  else s.setIsland d p (i.begin now i.ratio i.step)

/-- An island at a lap start: the islands of a leased bond go with its lead. -/
def islandLap (s : State) (d p : Nat) : State :=
  let i := (s.die d).island p
  if i.stopped then s
  else
    match islandBond s d p with
    | some b =>
      if leadOf b = (d, p) then leadLap s d p
      else if i.change.isSome then s
      else
        let l := (s.die (leadOf b).1).island (leadOf b).2
        let (r, k) := match l.change with | some (_, r, k) => (r, k) | none => (l.aratio, l.astep)
        s.setIsland d p (i.begin (s.die d).cycle r k)
    | none => leadLap s d p

/-- RATIO and STEP are written, CANARY is cleared by 1; clearing it ends a held halving (R340, R343). An island that a warning has
moved goes back to a new plan step by step as to the old one. -/
def islctl (s : State) (d p : Nat) (v : Dword) : State :=
  let i := (s.die d).island p
  let r := bits v.toNat 31 30
  let i := { i with ratio := if r = 3 then i.ratio else r, step := bits v.toNat 29 28 }
  let i := if v.getLsbD 22 then
      { i with canary := false, held := false, half := i.droopAt.isSome && i.half }
    else i
  s.setIsland d p i

def execIslctlWrite (s : State) : Host.Outcome State Fault Refusal :=
  if s.arg.p < 64 then .next (islctl s s.arg.die s.arg.p s.arg.v) else .next s

/-- The end of a change; its cost goes to the house account (R338, R341). -/
def ratioDone (s : State) (d p : Nat) : State :=
  let i := (s.die d).island p
  match i.change with
  | some (t, r, k) =>
    if t ≤ (s.die d).cycle then
      chargeHouse (s.setIsland d p { i with change := none, aratio := r, astep := k }) d (Config.houseCost 2)
    else s
  | none => s

def execRatioChangeComplete (s : State) : Host.Outcome State Fault Refusal := .next (ratioDone s s.arg.die s.arg.p)

/-- The droop detector fires (R342, R463). -/
def execDroopDetect (s : State) : Host.Outcome State Fault Refusal :=
  let d := s.arg.die
  let i := (s.die d).island s.arg.p
  .next (s.setIsland d s.arg.p { i with half := true, droopAt := some (s.die d).cycle
                                        halvings := if i.half then i.halvings else i.halvings + 1 })

/-- The detector has stayed clear for 4096 counts. -/
def execDroopRecover (s : State) : Host.Outcome State Fault Refusal :=
  let d := s.arg.die
  let i := (s.die d).island s.arg.p
  match i.droopAt with
  | some t => if t + 4096 ≤ (s.die d).cycle then .next (s.setIsland d s.arg.p { i with half := i.held, droopAt := none }) else .next s
  | none => .next s

def execCanaryWarning (s : State) : Host.Outcome State Fault Refusal :=
  let d := s.arg.die
  let i := (s.die d).island s.arg.p
  .next (s.setIsland d s.arg.p { i with canary := true, warned := true, warnAt := (s.die d).cycle, warnings := i.warnings + 1 })

/-- After 2^20 counts without a warning the island moves one step or ratio back, at a lap start; the islands of a leased bond go with
their lead. -/
def canaryRelax (s : State) (d p : Nat) : State :=
  let i := (s.die d).island p
  let now := (s.die d).cycle
  let leads := match islandBond s d p with | some b => decide (leadOf b = (d, p)) | none => true
  if leads = true ∧ i.off ∧ !i.held ∧ !i.warned ∧ i.change.isNone ∧ lastWarn s d p + 2 ^ 20 ≤ now ∧ now % 64 = 0 then
    let (r, k) := backMove i
    let i := { (i.begin now r k) with warnAt := now }
    s.setIsland d p { i with off := decide ((r, k) ≠ (i.ratio, i.step)) }
  else s

def execCanaryRelax (s : State) : Host.Outcome State Fault Refusal := .next (canaryRelax s s.arg.die s.arg.p)

/-! Laps (R329, R461). -/

/-- A lap start: budget, share, claims, needs, reserve. -/
def lapStart (s : State) (d : Nat) : State :=
  let x := s.die d
  if !s.running d ∨ x.cycle % 64 ≠ 0 ∨ x.ring.lapAt = x.cycle + 1 then s
  else
    let s := countLap (s.updDie d (fun x => { x with eplanNow := x.eplan })) d
    let x := s.die d
    let b := effBudget x.eplanNow x.tlevel - x.ring.short
    let share := b / 64
    let ps := (upto 64).map (fun p =>
      let c := claims s d p && !(x.island p).stopped
      let need := pairNeed s d p
      (p, ({ s.pair d p with claim := c, need := need, q := if c then min need share else 0 } : Pair)))
    let rsv := ps.foldl (fun n e => n + e.2.q) 0
    let s := s.updDie d (fun x =>
      { x with pairs := ps.foldl (fun m e => tset m e.1 e.2 {}) x.pairs
               ring := { b := b, c := b, rsv := rsv, lapAt := x.cycle + 1, stopAt := x.ring.stopAt, endAt := x.ring.endAt } })
    (upto 64).foldl (fun s p => islandLap s d p) s

def execLapStart (s : State) : Host.Outcome State Fault Refusal := .next (lapStart s s.arg.die)

/-- The take of a stop. -/
def stopTake (r : Ring) (p : Pair) : Nat :=
  if p.claim then min p.need (r.c - (r.rsv - p.q)) else min (4096 - p.purse) (r.c - r.rsv)

/-- LAPCHK (R461). -/
def lapCheck (s : State) (d cause p t : Nat) : State := eventMod s d { code := 0x81, cause := cause, value := p * 2 ^ 32 + t % 2 ^ 32 }

/-- The check at stop 63. -/
def checkLap (s : State) (d : Nat) : State :=
  let r := (s.die d).ring
  let s := s.updDie d (fun x => { x with ring := { x.ring with short := r.taken - (r.b + r.back) } })
  if r.bad.isNone ∧ r.c + r.taken ≠ r.b + r.back then lapCheck s d 0 63 r.taken else s

/-- The count passes stop p; err tells that the stop finds an uncorrectable error. -/
def ringStop (s : State) (d p : Nat) (err : Bool) : State :=
  let x := s.die d
  if !s.running d ∨ 64 ≤ p ∨ x.cycle % 64 ≠ p ∨ x.ring.stopAt = x.cycle + 1 then s
  else
    let pr := s.pair d p
    let r := { x.ring with stopAt := x.cycle + 1 }
    let first := err && r.bad.isNone
    let r := if first then { r with bad := some p } else r
    let s :=
      if (x.island p).stopped then s.updDie d (fun x => { x with ring := r })
      else if r.bad.isSome then (s.setPair d p { pr with returned := 0 }).updDie d (fun x => { x with ring := r })
      else
        let r := { r with c := r.c + pr.returned, back := r.back + pr.returned }
        let t := stopTake r pr
        let r := { r with c := r.c - t, taken := r.taken + t, rsv := if pr.claim then r.rsv - pr.q else r.rsv }
        (s.setPair d p { pr with purse := pr.purse + t, returned := 0 }).updDie d (fun x => { x with ring := r })
    let s := if first then lapCheck s d 1 p (s.die d).ring.taken else s
    if p = 63 then checkLap s d else s

def execRingStopVisit (s : State) : Host.Outcome State Fault Refusal := .next (ringStop s s.arg.die s.arg.p s.arg.flag)

/-! Static charges (R336, R482). -/

/-- Slots of a core with a resident, unparked group: slot and context. -/
def liveSlots (s : State) (d core : Nat) : List (Nat × Nat) :=
  (groupsOnCore s d core).foldl (fun l p => if l.any (fun e => decide (e.1 = p.2.slot)) then l else l ++ [(p.2.slot, p.1.ctx)]) []

def staticCore (s : State) (d core : Nat) : State :=
  let x := s.die d
  let stat := planStat x.eplanNow (x.island (core / 2)).aratio
  let sl := liveSlots s d core
  let parts := (dedup (sl.map (·.2))).map (fun c => (c, stat * (sl.filter (fun e => decide (e.2 = c))).length / 96))
  let s := parts.foldl (fun s e => charge s e.1 (128 * d + core) e.2) s
  chargeHouse s d (stat - parts.foldl (fun n e => n + e.2) 0)

/-- The end of a lap: static charges, ballast out of what is withdrawn. -/
def lapEnd (s : State) (d : Nat) : State :=
  let x := s.die d
  if !s.running d ∨ x.cycle % 64 ≠ 63 ∨ x.ring.stopAt ≠ x.cycle + 1 ∨ x.ring.endAt = x.cycle + 1 then s
  else
    let s := (upto 128).foldl (fun s c => staticCore s d c) s
    let s := if planBallast x.eplanNow then chargeHouse s d (min x.ring.c (x.ring.b / 8)) else s
    s.updDie d (fun x => { x with ring := { x.ring with c := 0, endAt := x.cycle + 1 } })

def execLapEndStaticCharge (s : State) : Host.Outcome State Fault Refusal := .next (lapEnd s s.arg.die)

/-! Counters (R337, R462). -/

/-- The driver reads and clears a counter: its entry, and what a core that holds it has (R337). -/
def execEnergyReadClear (s : State) : Host.Outcome State Fault Refusal :=
  let v := readEnergy s s.arg.ctx s.arg.core
  let s := wrHomeNat (writeEnergy s s.arg.ctx s.arg.core 0) ((readCtx s s.arg.ctx).svbase + 8 * s.arg.core) 8 0
  .next { s with energyRead := BitVec.ofNat 64 v }

def execEnergyCounterUe (s : State) : Host.Outcome State Fault Refusal :=
  let c := s.arg.core
  .next (eventCtx (writeEnergy s s.arg.ctx c (2 ^ 49 - 1)) (c / 128)
    { code := 0x83, value := c, party := mgmtParty (c / 128) 0, ctx := s.arg.ctx })

/-- A purse, or a sequencer's hold for a pair, is lost. -/
def execPurseUe (s : State) : Host.Outcome State Fault Refusal :=
  let d := s.arg.die
  let p := s.arg.p
  let lost :=
    if s.arg.flag then
      let clear := fun b : Bond => { b with holds := tdel b.holds (64 * d + p) }
      { s with dies := tmap (fun x : Die => { x with bonds := tmap clear x.bonds }) s.dies }
    else s.setPair d p { s.pair d p with purse := 0 }
  .next (eventMod lost d { code := 0x82, value := p })

end Sys2Proof.Machine
end

