-- ==== Sys2Proof/Machine/Manage.lean ====
section
/-! DEFINITION. The management windows: updates of the tables, register writes and reads, the deckle entry window, and the
aperture (R72, R73, R301 to R303, R305, R370, R374, R383, R385, R387 to R389, R391, R424, R425). -/
namespace Sys2Proof.Machine

/-! Management updates (R387). -/

/-- KIND, CTX and OID of MUSEL. -/
def muKind (u : MuArgs) : Nat := bits u.sel.toNat 63 60
def muCtx (u : MuArgs) : Nat := bits u.sel.toNat 59 48
def muOid (u : MuArgs) : Nat := bits u.sel.toNat 47 20

/-- MUSTS: completed, with a status and the status of R92. -/
def muSts (s : State) (st own : Nat) : State := s.setReg 0x3B0018 (BitVec.ofNat 64 (65536 + own * 256 + st))

/-- MUOLD, in its sixteen words. -/
def muOld (s : State) (v : Nat) : State :=
  (upto 16).foldl (fun s i => s.setReg (0x3B00C0 + 8 * i) (BitVec.ofNat 64 (v / 2 ^ (64 * i)))) s

/-- The registers as the driver wrote them. -/
def muLatch (s : State) (u : MuArgs) : State :=
  (upto 16).foldl (fun s i => s.setReg (0x3B0040 + 8 * i) (BitVec.ofNat 64 (u.new / 2 ^ (64 * i))))
    ((s.setReg 0x3B0000 u.sel).setReg 0x3B0008 u.idx)

/-- What one update comes to. -/
inductive MuResult where
  /-- Done: status, the status of R92, the old value where one is returned. -/
  | done (s : State) (st own : Nat) (old : Option Nat)
  /-- It waits (R425, R95). -/
  | wait

/-- An update performed, or waiting. -/
def muPerform (s : State) (f : State → MuArgs → MuResult) (u : MuArgs) : State :=
  match f s u with
  | .wait => ({ s with muWait := some u }).setReg 0x3B0018 0
  | .done s st w old =>
    let s := { s with muWait := none }
    let s := match old with | some v => muOld s v | none => s
    muSts s st w

/-- One MUGO write: ignored while an update waits, and MUSTS then reads BUSY. An event of another kind than its own has no
effect. flag: no write, but the update that waits is tried again. -/
def muRun (s : State) (own : Nat → Bool) (f : State → MuArgs → MuResult) : State :=
  match s.muWait with
  | some u => if !s.arg.flag then s.setReg 0x3B0018 1 else if own (muKind u) then muPerform s f u else s
  | none =>
    let u := s.arg.mu
    if s.arg.flag then s
    else
      let s := muLatch s u
      if 8 ≤ muKind u then muSts s 3 0 else if own (muKind u) then muPerform s f u else s

/-- Where an entry stands, its bytes and current value; none when its index lies beyond its table. -/
def muEntry (s : State) (u : MuArgs) : Option (Nat × Nat) :=
  let ctx := muCtx u
  let c := readCtx s ctx
  match muKind u with
  | 0 => if muOid u < c.odlen then some (objAddr c (muOid u), 32) else none
  | 1 =>
    let o := readObj s ctx (muOid u)
    let p := bits u.idx.toNat 23 0
    if muOid u < c.odlen ∧ o.far = false ∧ 65536 * p < o.size then some (pageAddr o p, 8) else none
  | 2 => some (ctxAddr s ctx, 128)
  | 3 => some (queueAddr s (bits u.sel.toNat 33 20), 32)
  | 7 =>
    let t := (s.reg 0x120).toNat + 8 * bits u.idx.toNat 9 0
    if u.idx.getLsbD 22 then some (t, 8) else some (bits (rdNat s.hbm t 8) 39 0 + 2 * bits u.idx.toNat 21 10, 2)
  | _ => none

def muValue (s : State) (p : Nat × Nat) : Nat := rdNat s.hbm p.1 p.2

/-- An object has no deckles: every entry, hold, share and import of it goes (R73, R425 step 2). -/
def dropDeckles (s : State) (ctx oid : Nat) : State :=
  { s with deckles := s.deckles.filter (fun d => !(decide (d.ctx = ctx) && decide (d.oid = oid)))
           holds := s.holds.filter (fun h => !(decide (h.ctx = ctx) && decide (h.oid = oid)))
           imports := s.imports.filter (fun i => !(decide (i.1 = ctx) && decide (i.2.1 = oid))) }

/-- R425 steps 2 and 3, with a RETHOLD record for each region that was held. -/
def retireObject (s : State) (ctx oid : Nat) : State :=
  let mine := inPlaces (objectPlaces s ctx oid)
  let ds := s.deckles.filter (fun d => decide (d.ctx = ctx) && decide (d.oid = oid))
  let s := (ds.filter (fun d => decide (d.state = 1))).foldl (fun s d => rethold s (tableHome d) 2 d.holder d none) s
  let clean := fun c : CLine => if mine c then { c with known := wholeWords (c.known &&& ~~~c.dirty), dirty := 0, tagDirty := 0 } else c
  let s := dropDeckles s ctx oid
  { s with lines := (s.lines.map clean).filter (fun c => !(c.known = 0 && c.dirty = 0)) }

/-- Kind 0: reserved bits zero, SEQ raised by 1. What was stored through the old entry is performed at its home first (R424); an
object that becomes immutable goes home and has no deckles (R73). -/
def muObject (s : State) (u : MuArgs) : MuResult :=
  match muEntry s u with
  | none => .done s 3 0 none
  | some p =>
    let old := muValue s p
    let v := at_ (bits u.new 203 120) 120 84 + at_ (bits old 119 112 + 1) 112 8 + at_ (bits u.new 111 94) 94 18
    let retires := decide (bits v 111 100 ≠ bits old 111 100) || decide (bits v 99 96 = 0)
    let ctx := muCtx u
    let oid := muOid u
    if retires && (s.deckles.any (fun d => decide (d.ctx = ctx) && decide (d.oid = oid) && decide (d.state = 4)) ||
        s.ownOps.any (fun o => decide (o.ctx = ctx) && decide (o.oid = oid))) then .wait
    else
      let s := if retires then retireObject s ctx oid else flushPlaces s (objectPlaces s ctx oid)
      let s := if bits v 95 95 = 1 then dropDeckles s ctx oid else s
      .done (wrHomeNat s p.1 p.2 v) 0 0 (some old)

def execMuObjectEntry (s : State) : Host.Outcome State Fault Refusal := .next (muRun s (· = 0) muObject)

/-- Kind 1. What was stored through the old entry is performed at its home first (R424). A press-zone record that its entry no
longer names is free. -/
def muPage (s : State) (u : MuArgs) : MuResult :=
  match muEntry s u with
  | none => .done s 3 0 none
  | some p =>
    let old := muValue s p
    let v := at_ (bits u.new 63 12) 12 52 + at_ (old + 1) 0 8
    let s := if pageState old = 1 then flushPlaces s [(65536 * bits (pageFrame old) 23 0, 65536)] else s
    let s := if pageState old = 2 ∧ ¬(pageState v = 2 ∧ pageFrame v = pageFrame old) then
        { s with pressed := tdel s.pressed (pageFrame old) }
      else s
    .done (releaseDeps (wrHomeNat s p.1 p.2 v)) 0 0 (some old)

def execMuPageEntry (s : State) : Host.Outcome State Fault Refusal := .next (muRun s (· = 1) muPage)

/-- A grid of the context has been fetched and is neither complete nor at the end of its abort (R301). -/
def ctxBusy (s : State) (ctx : Nat) : Bool :=
  s.grids.any (fun g => decide (g.2.ctx = ctx) && decide (g.2.state ≠ .complete) &&
    !(g.2.aborted && s.teams.all (fun t => decide (t.grid ≠ g.1))))

/-- Kind 2: reserved bits zero, CTX the index; while a grid lives only QUANTUM, PDEAD, PRESS and PRIOMAX may change. -/
def muContext (s : State) (u : MuArgs) : MuResult :=
  match muEntry s u with
  | none => .done s 3 0 none
  | some p =>
    let old := muValue s p
    let v := at_ (bits u.new 1023 437) 437 587 + at_ (muCtx u) 425 12 + at_ (bits u.new 424 384) 384 41
    let fixed := fun x : Nat => (bits x 1023 508, bits x 424 384)
    if ctxBusy s (muCtx u) ∧ fixed v ≠ fixed old then .done s 2 0 (some old)
    else .done (wrHomeNat s p.1 p.2 v) 0 0 (some old)

def execMuContextDescriptor (s : State) : Host.Outcome State Fault Refusal := .next (muRun s (· = 2) muContext)

/-- Kind 3: reserved bits zero, HEAD read-only. -/
def muQueue (s : State) (u : MuArgs) : MuResult :=
  match muEntry s u with
  | none => .done s 3 0 none
  | some p =>
    let old := muValue s p
    let v := at_ (bits u.new 255 172) 172 84 + at_ (bits old 159 128) 128 32 + at_ (bits u.new 95 40) 40 56 + u.new % 2
    .done (wrHomeNat s p.1 p.2 v) 0 0 (some old)

def execMuQueueDescriptor (s : State) : Host.Outcome State Fault Refusal := .next (muRun s (· = 3) muQueue)

/-! Frame lists (R302). -/

def listAddr (s : State) (ctx stack : Nat) : Nat := (readCtx s ctx).fpbase + 64 * stack

/-- TAIL, HEAD, RBASE, LOG2N of a frame list. -/
structure FrameList where
  tail : Nat
  head : Nat
  rbase : Nat
  log2n : Nat

def readList (s : State) (ctx stack : Nat) : FrameList :=
  let w := rdNat s.hbm (listAddr s ctx stack) 64
  { tail := bits w 191 160, head := bits w 159 128, rbase := bits w 127 88, log2n := bits w 87 83 }

def FrameList.full (x : FrameList) : Bool := decide (x.log2n = 0) || decide ((x.tail + 2 ^ 32 - x.head) % 2 ^ 32 = 2 ^ x.log2n)
def FrameList.empty (x : FrameList) : Bool := decide (x.log2n = 0) || decide (x.head = x.tail)

/-- A frame appended at TAIL; the list is not full. -/
def appendFrame (s : State) (ctx stack v : Nat) : State :=
  let x := readList s ctx stack
  let s := wrHomeNat s (x.rbase + 8 * (x.tail % 2 ^ x.log2n)) 8 v
  wrHomeNat s (listAddr s ctx stack + 20) 4 ((x.tail + 1) % 2 ^ 32)

/-- A frame taken at HEAD. -/
def takeFrame (s : State) (ctx stack : Nat) : Option (Nat × State) :=
  let x := readList s ctx stack
  if x.empty then none
  else
    some (bits (rdNat s.hbm (x.rbase + 8 * (x.head % 2 ^ x.log2n)) 8) 39 16,
      wrHomeNat s (listAddr s ctx stack + 16) 4 ((x.head + 1) % 2 ^ 32))

/-- Kind 4. -/
def muFrame (s : State) (u : MuArgs) : MuResult :=
  let stack := bits u.sel.toNat 23 20
  if (readList s (muCtx u) stack).full then .done s 3 0 none
  else .done (appendFrame s (muCtx u) stack (at_ (bits u.new 39 16) 16 24)) 0 0 none

def execMuFrameAppend (s : State) : Host.Outcome State Fault Refusal := .next (muRun s (· = 4) muFrame)

/-! Host-queue shares (R305). -/

/-- Kinds 5 and 6, in the region's deckle order. -/
def muShare (k : OwnKind) (s : State) (u : MuArgs) : MuResult :=
  let ctx := muCtx u
  let oid := muOid u
  let q := bits u.idx.toNat 63 50
  let base := bits u.idx.toNat 39 0
  let len := u.new % 2 ^ 40
  let ob := readObj s ctx oid
  if (readCtx s ctx).odlen ≤ oid ∨ ob.valid = false ∨ ob.imm = true ∨ base % 256 ≠ 0 ∨ len % 256 ≠ 0 ∨ len = 0 ∨
      ob.size < base + len then .done s 3 0 none
  else
    let (id, s) := s.fresh
    let o : OwnOp := { id := id, kind := k, ctx := ctx, party := queueParty q, oid := oid, base := base, len := len }
    if !ownReady s o then .wait
    else
      let r := ownOutcome s o
      let t := match r.install with
        | some (p, kind, b, n) => enterHold (acquireRegion r.s p r.scope ctx oid b n) ctx p oid b n kind
        | none => r.s
      .done t 0 r.result none

def execMuHostShare (s : State) : Host.Outcome State Fault Refusal := .next (muRun s (· = 5) (muShare .share))
def execMuHostUnshare (s : State) : Host.Outcome State Fault Refusal := .next (muRun s (· = 6) (muShare .unshare))

/-- Kind 7 (R391). -/
def muDomain (s : State) (u : MuArgs) : MuResult :=
  let t := rdNat s.hbm ((s.reg 0x120).toNat + 8 * bits u.idx.toNat 9 0) 8
  match muEntry s u with
  | none => .done s 3 0 none
  | some p =>
    if u.idx.getLsbD 22 then
      .done (wrHomeNat s p.1 8 (at_ (bits u.new 63 63) 63 1 + u.new % 2 ^ 40)) 0 0 (some (muValue s p))
    else if bits t 63 63 = 0 then .done s 3 0 none
    else .done (wrHomeNat s p.1 2 (at_ (bits u.new 15 15) 15 1 + u.new % 4096)) 0 0 (some (muValue s p))

def execMuDomainImport (s : State) : Host.Outcome State Fault Refusal := .next (muRun s (· = 7) muDomain)

/-- MUGO [1]: the current value, where the kind has one (log 28). -/
def muRead (s : State) (u : MuArgs) : MuResult :=
  match muKind u with
  | 4 | 5 | 6 => .done s 0 0 none
  | _ =>
    match muEntry s u with
    | none => .done s 3 0 none
    | some p => .done s 0 0 (some (muValue s p))

/-- A read only never waits, so none is ever tried again. -/
def execMuReadOnly (s : State) : Host.Outcome State Fault Refusal := .next (muRun s (fun _ => !s.arg.flag) muRead)

/-! The deckle entry window (R388). -/

/-- An entry in the layout of R89. -/
def Deckle.bits (d : Deckle) : Nat :=
  at_ d.oid 484 28 + at_ d.base 444 40 + at_ d.len 404 40 + at_ d.state 400 4 + at_ d.shares 384 16 + at_ d.holder 352 32 +
    at_ d.lend.length 348 4 + at_ (d.lend.getD 0 0) 224 32 + at_ (d.lend.getD 1 0) 192 32 + at_ (d.lend.getD 2 0) 160 32 +
    at_ (d.lend.getD 3 0) 128 32 + at_ d.former 96 32

/-- DEOFF: DESTS and DEVAL. A region whose table home has failed reads as POISONED (R471). -/
def lookupDeckle (s : State) (sel off : Dword) : State :=
  let ctx := bits sel.toNat 35 24
  let d := regionAt s ctx (bits sel.toNat 63 36) (bits off.toNat 39 0)
  let v := match d with
    | some e => if (s.die (tableHome e)).boot = 3 then { e with state := 5, holder := 0, shares := 0, lend := [] : Deckle }.bits else e.bits
    | none => 0
  let s := ((s.setReg 0x3C0000 sel).setReg 0x3C0008 off).setReg 0x3C0010 (BitVec.ofNat 64 (1 + 2 * btn d.isSome))
  (upto 8).foldl (fun s i => s.setReg (0x3C0040 + 8 * i) (BitVec.ofNat 64 (v / 2 ^ (64 * i)))) s

def execDeckleLookup (s : State) : Host.Outcome State Fault Refusal := .next (lookupDeckle s s.arg.v s.arg.w)

/-! The aperture (R370, R374). -/

/-- The HBM physical address of an aperture offset. -/
def apertureAt (s : State) (off : Nat) : Nat := (s.reg 0x100).toNat + off

/-- What an aperture read returns: bytes, or nothing where a byte is poisoned (R433). -/
def apertureRead (s : State) (off n : Nat) : Option (List Byte) :=
  let a := apertureAt s off
  if (upto n).any (fun i => homePoison s (a + i)) then none else some ((upto n).map (fun i => homeByte s (a + i)))

/-- A write at the home LLC; one beyond the window or to a die that serves no memory has no effect. -/
def execApertureAccess (s : State) : Host.Outcome State Fault Refusal :=
  let a := apertureAt s s.arg.off
  match s.arg.data with
  | none => .next s
  | some bs =>
    if s.arg.off + bs.length ≤ 2 ^ 34 ∧ a + bs.length ≤ 2 ^ 40 ∧ s.running (stackOf a) = true then .next (wrHomes s a bs)
    else .next s

/-! Register writes (R388, R389). -/

/-- Some context is valid: CTXTAB and QDTAB do not change. -/
def anyValid (s : State) : Bool :=
  if s.hbm.isEmpty then false else (upto 4096).any (fun c => (readCtx s c).valid)

/-- Registers of the module block that store what is written. -/
def storedModReg (off : Nat) : Bool :=
  [0x100, 0x108, 0x110, 0x120, 0x340000, 0x3A0000, 0x3A0008, 0x3A0018, 0x390000, 0x390008, 0x390010, 0x390018, 0x3B0000,
    0x3B0008, 0x3C0000].contains off ||
  (decide (0x200000 ≤ off ∧ off < 0x220000) && decide (off % 32 ≤ 16 ∧ off % 8 = 0)) ||
  (decide (0x300000 ≤ off ∧ off < 0x308000) && decide (off % 8 = 0)) ||
  (decide (0x320000 ≤ off ∧ off < 0x330000) && decide (off % 16 = 8)) ||
  (decide (0x3B0040 ≤ off ∧ off < 0x3B00C0) && decide (off % 8 = 0))

def writeModReg (s : State) (off : Nat) (v : Dword) : State :=
  if !storedModReg off then s
  else if (off = 0x108 ∨ off = 0x110) ∧ anyValid s = true then s
  else s.setReg off v

/-- Registers of a die block that store what is written. -/
def writeDieReg (s : State) (d off : Nat) (v : Dword) : State :=
  if 16 ≤ d then s
  else
    let go := s.updDie d
    if off = 0x1000 then go (fun x => { x with scring := v &&& ~~~(14 : Dword) })
    else if off = 0x1018 then go (fun x => { x with scHead := v })
    else if 0x2000 ≤ off ∧ off < 0x2038 ∧ off % 8 = 0 then go (fun x => { x with gstart := tset x.gstart ((off - 0x2000) / 8) v 0 })
    else if off = 0x2050 then go (fun x => { x with gerBase := v })
    else if off = 0x2058 then go (fun x => { x with gerSize := v })
    else if off = 0x2068 then go (fun x => { x with gerHead := v })
    else if off = 0x4000 then go (fun x => { x with evtSel := v })
    else if off = 0x5000 then go (fun x => { x with pcSel := v })
    else if off = 0x200000 then
      -- a DCMD whose CMD is none of the commands, which have steps of their own (R403)
      if 1 ≤ bits v.toNat 63 56 ∧ bits v.toNat 63 56 ≤ 6 then s else go (fun x => { x with dsts := 3 })
    else s

/-- flag: a die block; otherwise the module block. -/
def execRegisterWrite (s : State) : Host.Outcome State Fault Refusal :=
  if s.arg.flag then .next (writeDieReg s s.arg.die s.arg.off s.arg.v) else .next (writeModReg s s.arg.off s.arg.v)

/-- R391: MODNUM is written once. -/
def execModnumWrite (s : State) : Host.Outcome State Fault Refusal :=
  if (s.reg 0x118).getLsbD 63 then .next s
  else .next (s.setReg 0x118 (BitVec.ofNat 64 (at_ (bits s.arg.v.toNat 63 63) 63 1 + bits s.arg.v.toNat 9 0)))

/-- R385, R454: clearing V gives BROKEN to every operation that has contributed to a collective of the slot. -/
def clearSlot (s : State) (d slot : Nat) : State :=
  let hit := s.collectives.filter (fun k => decide (k.slot = slot))
  let given := fun e : EngOp => hit.any (fun k =>
    decide ((cpycRec e.record).cslot = slot) && decide ((cpycRec e.record).seq = k.seq) && k.ranks.contains (opRank s e))
  let es := s.engines.filter (fun e => decide (e.kind = .cpyc) && e.status.isNone && e.result.isNone && given e)
  if (slotEntry s d slot).isNone then s
  else { (es.foldl (fun s e => engStop s e 8) s) with collectives := s.collectives.filter (fun k => decide (k.slot ≠ slot)) }

def execCollectiveSlotWrite (s : State) : Host.Outcome State Fault Refusal :=
  let d := s.arg.die
  let v := s.arg.v
  if 4096 ≤ s.arg.unit ∨ 16 ≤ d then .next s
  else
    let s := if v.getLsbD 63 then s else clearSlot s d s.arg.unit
    .next (s.updDie d (fun x =>
      { x with cslots := tset x.cslots s.arg.unit (v &&& ~~~(BitVec.ofNat 64 (2 ^ 35 - 1))) 0
               contributed := x.contributed.filter (fun k => decide (k / 65536 ≠ s.arg.unit)) }))

/-! Register reads (R340, R344, R388, R389, R430, R463, R476). -/

/-- BOOTSTS (R476). -/
def bootsts (s : State) (d : Nat) : Nat :=
  let x := s.die d
  at_ x.version.toNat 48 16 + at_ s.rollback.toNat 32 16 + at_ x.bootStep 8 4 + at_ x.tries 4 4 + at_ x.boot 0 4

def islctlRead (i : Island) : Nat :=
  at_ i.ratio 30 2 + at_ i.step 28 2 + at_ i.aratio 26 2 + at_ i.astep 24 2 + at_ (btn i.half) 23 1 + at_ (btn i.canary) 22 1

/-- PCVAL word i of the selected team, which is placed, saved or parked (R321, R389). -/
def pcval (s : State) (d i : Nat) : Nat :=
  let sel := (s.die d).pcSel.toNat
  match s.team? d (bits sel 12 0) with
  | none => 0
  | some t =>
    if t.ctx ≠ bits sel 59 48 ∨ t.state = .discarded then 0
    else
      match i with
      | 0 => t.ir
      | 1 => t.mc
      | 2 => t.cb
      | 3 => teamOb s t
      | 4 => teamHd s t
      | 5 => btn (teamLt s t [])
      | _ => residencyOf s t

/-- A register of a die block as it reads; write-only and unlisted offsets read as zero. -/
def readDieReg (s : State) (d off : Nat) : Nat :=
  let x := s.die d
  if off = 0 then bootsts s d
  else if off = 0x1000 then x.scring.toNat
  else if off = 0x1010 then x.scTail
  else if off = 0x1018 then x.scHead.toNat
  else if off = 0x2040 then x.gsts.toNat
  else if off = 0x2050 then x.gerBase.toNat
  else if off = 0x2058 then x.gerSize.toNat
  else if off = 0x2060 then x.gerTail.toNat
  else if off = 0x2068 then x.gerHead.toNat
  else if off = 0x3000 then x.eplan.toNat
  else if off = 0x3008 then at_ x.temp 56 8 + at_ x.tlevel 54 2
  else if off = 0x3010 then x.house.toNat
  else if 0x3100 ≤ off ∧ off < 0x3300 ∧ off % 8 = 0 then islctlRead (x.island ((off - 0x3100) / 8))
  else if 0x4040 ≤ off ∧ off < 0x40C0 ∧ off % 8 = 0 then
    readEvent s (bits x.evtSel.toNat 59 48) (128 * d + bits x.evtSel.toNat 6 0) ((off - 0x4040) / 8)
  else if 0x5040 ≤ off ∧ off ≤ 0x5070 ∧ off % 8 = 0 then pcval s d ((off - 0x5040) / 8)
  else if 0x100000 ≤ off ∧ off < 0x108000 ∧ off % 8 = 0 then (tget x.cslots ((off - 0x100000) / 8) 0).toNat
  else if off = 0x200008 then x.dsts.toNat
  else if 0x240000 ≤ off ∧ off < 0x280000 ∧ off % 8 = 0 then windowRead s d (off - 0x240000)
  else if off = 0x280000 then x.ceCount.toNat
  else if off = 0x280008 then x.ueCount.toNat
  else if 0x300000 ≤ off ∧ off < 0x300200 ∧ off % 8 = 0 then
    let i := x.island ((off - 0x300000) / 8)
    i.halvings.toNat * 2 ^ 32 + i.warnings.toNat
  else 0

/-- Offsets of the module block that only take writes. -/
def writeOnly (off : Nat) : Bool :=
  [0x380000, 0x380008, 0x380010, 0x3B0000, 0x3B0008, 0x3B0010, 0x3C0000, 0x3C0008, 0x340000, 0x340008].contains off ||
    decide (0x3B0040 ≤ off ∧ off < 0x3B00C0)

/-- Bytes of the press zone in use (R430). -/
def zoneUsed (s : State) : Nat := s.pressed.foldl (fun n e => n + Config.imageSize e.2.1) 0

/-- The report and its 7856-byte signature as the window gives them from +64 (R24, R478). -/
def attestBytes (s : State) : List Byte :=
  match s.report with
  | none => []
  | some r => let bs := Config.reportBytes r; bs ++ (upto 7856).map (Config.signatureByte s.fuseSeed bs)

/-- A register of the module block as it reads. -/
def readModReg (s : State) (off : Nat) : Nat :=
  if writeOnly off then 0
  else if 0x100000 ≤ off ∧ off < 0x102000 ∧ off % 8 = 0 then (tget s.circuits ((off - 0x100000) / 8) 0).toNat
  else if 0x360000 ≤ off ∧ off < 0x380000 ∧ off % 8 = 0 then (s.queue ((off - 0x360000) / 8)).err.toNat
  else if 0x390040 ≤ off ∧ off < 0x3A0000 ∧ off % 8 = 0 then leNat (((attestBytes s).drop (off - 0x390040)).take 8)
  else if off = 0x350000 then zoneUsed s % 2 ^ 40 + (s.reg off).toNat
  else (s.reg off).toNat

end Sys2Proof.Machine
end

