-- ==== Sys2Proof/Machine/Failures.lean ====
section
/-! DEFINITION. Core and die failures, heat, and soft errors in memory, tables and silos (R344, R426, R431, R432, R434, R454,
R457, R464 to R466, R470, R471). -/
namespace Sys2Proof.Machine

/-! What a failure does to regions (R426). -/

/-- The lowest-numbered RUNNING die. -/
def lowestUp (s : State) : Option Nat := (upto 16).find? s.running

/-- The change of R426 for one region, its record written by a die; regions whose table home has failed are lost with it
(R471). -/
def strikeDeckle (s : State) (die : Nat) (ps : List Nat) (d : Deckle) : State :=
  if (s.die (tableHome d)).boot = 3 then s
  else if (d.state = 1 ∨ d.state = 4) ∧ ps.contains d.holder = true then poisonRegion s die 0 d.holder d.holder d
  else if d.state = 3 ∧ ps.contains d.holder = true then
    let e := { d with holder := mgmtParty (tableHome d) 0 }
    regionEvent (putDeckle (dropHold s d.ctx d.holder d.oid d.base) e) die
      { code := 0x2C, cause := 1, ctx := d.ctx, oid := d.oid, base := d.base, len := d.len, state := 3, shares := d.shares
        holder := e.holder, former := d.holder, party := d.holder }
  else if d.lend.any (ps.contains ·) then
    putDeckle s { d with lend := d.lend.map (fun p => if ps.contains p then p + 2 ^ 32 else p) }
  else s

/-- Regions, shares and cached entries of failed parties. -/
def strikeParties (s : State) (die : Nat) (ps : List Nat) : State :=
  let s := s.deckles.foldl (fun s d => strikeDeckle s die ps d) s
  let sh := s.holds.filter (fun h => decide (h.kind % 2 = 1) && ps.contains h.party)
  let s := sh.foldl (fun s h => disposeShare s h.party h) s
  { s with holds := s.holds.filter (fun h => !ps.contains h.party) }

/-! Core failure (R426, R466). -/

def groupOn (core : Nat) (g : Group) : Bool := decide (128 * g.die + g.core = core) && decide (g.residence ≠ .away)

/-- The bond whose clusters hold a core. -/
def bondOn (s : State) (core : Nat) : Option (Bond × Nat) :=
  match bondAt s (core / 128) (core % 128 / 8) with
  | some (b, d) => if b.saved then none else some (b, d)
  | none => none

/-- The parties whose location includes a core. -/
def coreParties (s : State) (core : Nat) : List Nat :=
  s.teams.flatMap (fun t =>
    (t.groupList.filter (groupOn core)).map (fun g => groupParty t.die t.handle g.num) ++
      (if t.onCore && t.cores.contains core then [teamParty t.die t.handle] else [])) ++
    (match bondOn s core with | some (b, d) => [bondParty d b.cluster] | none => [])

/-- A team has a group, a local store allocation or a bond on a core. -/
def teamUses (s : State) (core : Nat) (t : Team) : Bool :=
  t.groupList.any (groupOn core) || (t.onCore && decide (t.localBytes ≠ 0) && t.cores.contains core) ||
    (match bondOn s core with | some (b, d) => decide (d = t.die) && decide (b.handle = t.handle) | none => false)

/-- Some span of the team's kind on its die is free of failed cores. -/
def spanFree (s : State) (t : Team) : Bool := (upto (spanCount t.span)).any (fun p => spanUp s (spanCores t.die t.span p))

/-- Steps 1 to 4 of R466 for one team; true where it is relaunched. LT is as it was before the regions changed. -/
def disposeFailed (before s : State) (ps : List Nat) (t : Team) : State × Bool :=
  let again := mayRestart before t && !teamLt before t ps && decide (t.relaunches < 4) && spanFree s t
  let s := s.updTeam t.die t.handle (fun t => { t with relaunches := t.relaunches + 1, preempt := none })
  (if again then stopTeam s t.die t.handle else abortGrid s t.grid, again)

/-- Teams disposed of one after the other, with what became of each. -/
def disposeAll (before : State) (ps : List Nat) (ts : List Team) (s : State) : State × List (Team × Bool) :=
  ts.foldl (fun r t => let (s, a) := disposeFailed before r.1 ps t; (s, r.2 ++ [(t, a)])) (s, [])

/-- One COREFAIL in each context's log, for the first of its teams (log 30). -/
def coreFailLogs (s : State) (die value : Nat) : List (Team × Bool) → State
  | [] => s
  | (t, a) :: r =>
    let s := if r.any (fun x => decide (x.1.ctx = t.ctx)) then s
      else eventCtx s die { code := 0x88, cause := if a then 4 else 5, value := value, team := t.index, ctx := t.ctx
                            party := teamParty t.die t.handle }
    coreFailLogs s die value r

/-- A core is declared failed: fenced, its regions and teams disposed of, and logged. -/
def failCore (s : State) (core cause : Nat) : State :=
  let d := core / 128
  let c := core % 128
  if !s.running d || (s.die d).failedCores.contains c then s
  else
    let ps := coreParties s core
    let ts := s.teams.filter (fun t => decide (t.state ≠ .discarding) && teamUses s core t)
    let before := s
    let s := s.updDie d (fun x => { x with failedCores := sIns x.failedCores c })
    let s := { s with lines := s.lines.filter (fun x => x.l2 || decide (x.unit ≠ core)) }
    let s := strikeParties s d ps
    let s := s.teams.foldl (fun s t =>
      if t.groupList.any (groupOn core) then
        s.updTeam t.die t.handle (Team.mapGroups (fun g => if groupOn core g then { g with run := none, awaits := none } else g))
      else s) s
    let s := eventMod s d { code := 0x88, cause := cause, value := core }
    let (s, r) := disposeAll before ps ts s
    let s := coreFailLogs s d core r.reverse
    let s := (s.teams.filter (fun t => decide (t.state = .discarding))).foldl (fun s t => finishDiscard s t.die t.handle) s
    if (s.die d).failedCores.contains (c / 2 * 2) && (s.die d).failedCores.contains (c / 2 * 2 + 1) then
      s.setPair d (c / 2) {}
    else s

/-- R466: the driver declares a core failed. -/
def execCfence (s : State) : Host.Outcome State Fault Refusal :=
  .next (if s.arg.core < 2048 then failCore s s.arg.core 3 else s)

/-- R466, causes 1 and 2. -/
def execCoreStateUe (s : State) : Host.Outcome State Fault Refusal :=
  .next (if s.arg.num = 1 ∨ s.arg.num = 2 then
      failCore (s.updDie (s.arg.core / 128) (fun x => { x with ueCount := x.ueCount + 1 })) s.arg.core s.arg.num
    else s)

/-- R465: the island's clock stops for good, and both cores fail. -/
def execConverterFault (s : State) : Host.Outcome State Fault Refusal :=
  let d := s.arg.die
  let p := s.arg.p
  let i := (s.die d).island p
  if !s.running d || i.stopped || decide (64 ≤ p) then .next s
  else
    let s := eventMod (s.setIsland d p { i with stopped := true }) d { code := 0x87, value := p }
    .next (failCore (failCore s (128 * d + 2 * p) 0) (128 * d + 2 * p + 1) 0)

/-! Die failure (R457, R470, R471). -/

/-- Teams of a die, and twin teams with a core on it. -/
def lostTeams (s : State) (d : Nat) : List Team :=
  s.teams.filter (fun t => decide (t.die = d) || t.cores.any (fun c => decide (c / 128 = d)))

/-- Bonds of a die: its own, and a twin bond that its partner keeps. -/
def lostBonds (s : State) (d : Nat) : List Bond :=
  (s.die d).bonds.map (·.2) ++ (if d % 2 = 1 then ((s.die (d - 1)).bonds.map (·.2)).filter (·.twin) else [])

/-- Every party of a die. -/
def dieParties (s : State) (d : Nat) : List Nat :=
  (lostTeams s d).flatMap teamParties ++ (lostBonds s d).map (fun b => bondParty b.die b.cluster) ++
    (s.engines.filter (fun e => decide (e.core / 128 = d))).map (·.party) ++ (s.die d).episodes.map (fun e => e.2.party) ++ [siloParty d]

/-- Grids with a team on the die, a team still to be placed there, or a Gleaner's record there. -/
def gridsOn (s : State) (d : Nat) : List Nat :=
  let ts := lostTeams s d
  let waits := fun (n : Nat) (g : Grid) => decide (g.state = .running) && (upto g.dies.length).any (fun i =>
    (decide (g.dies.getD i 0 = d) || (decide (g.launch.span = 3) && decide (g.dies.getD i 0 + 1 = d))) &&
      decide (tget g.next i 0 < firstTeam g.launch.teams g.dies.length (i + 1))) && decide (n < s.nextGrid)
  (s.grids.filter (fun g => ts.any (fun t => decide (t.grid = g.1)) || waits g.1 g.2 ||
    (s.die d).recs.any (fun r => decide (r.2.grid = g.1)))).map (·.1)

/-- A context's directory, deckle table area or pools lie on a die's stack. -/
def ctxOn (s : State) (d c : Nat) : Bool :=
  let w := ctxDesc s c
  let on := fun (base size : Nat) => decide (size ≠ 0) && (decide (stackOf base = d) || decide (stackOf (base + size - 1) = d))
  decide (bits w 424 424 = 1) &&
    (on (bits w 1023 984) (32 * bits w 983 956) || on (bits w 955 916) (65536 * bits w 915 892) ||
      on (bits w 891 852) (65536 * bits w 851 836) || on (bits w 835 796) (65536 * bits w 795 780) ||
      on (bits w 779 740) (65536 * bits w 739 716) || on (bits w 715 676) (65536 * bits w 675 660))

/-- Every grid of the context is broken and VALID is cleared. -/
def loseCtx (s : State) (d c : Nat) : State :=
  if ctxOn s d c then
    let s := s.grids.foldl (fun s g => if g.2.ctx = c then markBroken s g.1 0 d else s) s
    let a := ctxAddr s c + 53
    wrHome s a (homeByte s a &&& 0xFE)
  else s

/-- The members of a failed die's collectives that are left without a result receive BROKEN (R243, R454). -/
def breakCollectives (s : State) (d : Nat) : State :=
  let of := fun slot : Nat => (slotEntry s d slot).isSome
  let hurt := s.engines.filter (fun e => decide (e.kind = .cpyc) && decide (e.core / 128 ≠ d) && e.status.isNone && e.result.isNone &&
    of (cpycRec e.record).cslot)
  let s := hurt.foldl (fun s e => engStop s e 8) s
  { s with collectives := s.collectives.filter (fun k => !of k.slot) }

/-- The teams, operations, episodes and cached bytes of a failed die are lost. -/
def clearDie (s : State) (d : Nat) : State :=
  let ts := lostTeams s d
  let of := fun (die handle : Nat) => ts.any (fun t => decide (t.die = die) && decide (t.handle = handle))
  let s := ((lostBonds s d).filter (fun b => decide (b.die ≠ d))).foldl releaseBond s
  let s := { s with engines := s.engines.filter (fun e => decide (e.core / 128 ≠ d)), ownOps := s.ownOps.filter (fun o => !of o.die o.handle)
                    pageins := s.pageins.filter (fun o => !of o.die o.handle), takes := s.takes.filter (fun o => !of o.die o.handle)
                    paths := s.paths.filter (fun p => decide (p.die ≠ d))
                    lines := s.lines.filter (fun c => decide ((if c.l2 then c.unit / 16 else c.unit / 128) ≠ d)) }
  let s := ts.foldl (fun s t => s.delTeam t.die t.handle) s
  s.updDie d (fun x => { x with bonds := [], traps := [], dsigs := [], gleans := [], gleanReady := [], episodes := [], mboxes := [], harts := []
                                svcQueue := [], slots := [], selected := none })

/-- Entries and bytes of regions whose table home is the die. -/
def loseHomed (s : State) (d : Nat) : State :=
  let ds := s.deckles.filter (fun k => decide (tableHome k = d))
  { s with holds := s.holds.filter (fun h => ds.all (fun k => !(decide (h.ctx = k.ctx) && decide (h.oid = k.oid) && decide (h.base = k.base))))
           lines := s.lines.filter (fun c => ds.all (fun k => !inRegion s k.ctx k.oid k.base k.len c)) }

/-- A die is declared failed and fenced, once. -/
def failDie (s : State) (d cause : Nat) : State :=
  if (s.die d).boot = 3 ∨ 16 ≤ d then s
  else
    let gs := gridsOn s d
    let ps := dieParties s d
    let s := s.updDie d (fun x => { x with boot := 3 })
    let w := (lowestUp s).getD d
    let s := eventMod s w { code := 0x89, cause := cause, value := d }
    let s := breakCollectives s d
    let s := loseHomed (clearDie (strikeParties s w ps) d) d
    let s := gs.foldl (fun s n => markBroken s n 0 d) s
    (upto 4096).foldl (fun s c => if s.hbm.isEmpty then s else loseCtx s d c) s

/-- R470: some surviving die has heard nothing for 2^20 of its own counts, and the second path, for which the step stands,
confirms it (0; log 53); heat (1); an error in the scheduler, grid state or table cache (2). -/
def execDiefail (s : State) : Host.Outcome State Fault Refusal :=
  let d := s.arg.die
  let silent := (upto 16).any (fun e => decide (e ≠ d) && s.running e && decide (tget (s.die e).heard d 0 + 2 ^ 20 ≤ (s.die e).cycle))
  .next (match s.arg.num with
    | 0 => if silent then failDie s d 0 else s
    | 1 => if 16 ≤ (s.die d).tCrit then failDie s d 1 else s
    | 2 => failDie (s.updDie d (fun x => { x with ueCount := x.ueCount + 1 })) d 2
    | _ => s)

/-- R470: the driver declares a die failed. -/
def execDfence (s : State) : Host.Outcome State Fault Refusal := .next (failDie s s.arg.die 3)

/-- R470: every other die hears the die, at each 2^16 counts of its own. -/
def execHeartbeat (s : State) : Host.Outcome State Fault Refusal :=
  let d := s.arg.die
  if s.running d ∧ (s.die d).cycle % 65536 = 0 then
    .next ((upto 16).foldl (fun s e =>
      if e ≠ d ∧ s.running e = true then s.updDie e (fun x => { x with heard := tset x.heard d x.cycle 0 }) else s) s)
  else .next s

/-- R457 step 4: every team that was released with status 2 has retired, or 2^20 counts have passed. -/
def brokenAbort (s : State) (n : Nat) : State :=
  match s.grid? n with
  | none => s
  | some g =>
    match g.brokenAt with
    | none => s
    | some t =>
      let left := s.teams.any (fun x => decide (x.grid = n) && g.released.contains (x.die, x.handle))
      if left && decide ((s.die g.brokenOn).cycle < t + 2 ^ 20) then s else abortGrid s n

def execBrokenGridAbort (s : State) : Host.Outcome State Fault Refusal := .next (brokenAbort s s.arg.id)

/-! Heat (R344, R464). -/

/-- One sample of a die's hottest sensor, at a multiple of 2^16 counts; D rises first (log 31). -/
def thermalSample (s : State) (d temp : Nat) : State :=
  let x := s.die d
  if !s.running d || decide (x.cycle % 65536 ≠ 0) || decide (x.sampleAt = x.cycle + 1) then s
  else
    let hot := bits x.eplan.toNat 21 14
    let crit := bits x.eplan.toNat 13 6
    let dd := x.tD + 1
    let x := { x with temp := temp % 256, sampleAt := x.cycle + 1 }
    let put := fun (s : State) (level dd xx crits : Nat) =>
      let s := s.setDie d { x with tlevel := level, tD := dd, tX := xx, tCrit := crits }
      if level = x.tlevel then s else eventMod s d { code := 0x85, value := level }
    if crit ≤ temp then
      let s := eventMod (put s 3 0 0 (x.tCrit + 1)) d { code := 0x86, value := temp }
      if 16 ≤ x.tCrit + 1 then failDie s d 1 else s
    else if hot ≤ temp then
      if x.tlevel < 3 ∧ 16 ≤ dd then put s (x.tlevel + 1) 0 0 0 else put s x.tlevel dd 0 0
    else if temp + 4 ≤ hot then
      if 1 ≤ x.tlevel ∧ 16 ≤ x.tX + 1 ∧ 16 ≤ dd then put s (x.tlevel - 1) 0 0 0 else put s x.tlevel dd (x.tX + 1) 0
    else put s x.tlevel dd 0 0

def execThermalSample (s : State) : Host.Outcome State Fault Refusal := .next (thermalSample s s.arg.die s.arg.num)

/-! Soft errors (R431, R432, R454). -/

def countUe (s : State) (d : Nat) : State := s.updDie d (fun x => { x with ueCount := x.ueCount + 1 })

/-- R432: clean bytes are discarded and dirty ones marked; an error in the mask or valid bits marks every byte. -/
def cacheUe (s : State) (i : Nat) (ctl : Bool) : State :=
  match s.lines[i]? with
  | none => s
  | some c =>
    let s := countUe s (if c.l2 then c.unit / 16 else c.unit / 128)
    if ctl then putLine s { c with dirty := allOnes128, known := allOnes128, poison := allOnes128 }
    else putLine s { c with known := wholeWords c.dirty, poison := c.dirty }

/-- Bytes at home marked. -/
def markHome (s : State) (a n : Nat) : State := { s with hbmPoison := (upto n).foldl (fun l i => sIns l (a + i)) s.hbmPoison }

/-- The same in a line of the home LLC, one store with its HBM: the dirty bytes are as given (log 13). -/
def llcUe (s : State) (a : Nat) (dirty : Mask) (ctl : Bool) : State :=
  let a := a / 128 * 128
  if 2 ^ 40 ≤ a then s
  else
    let hit := (upto 128).filter (fun i => ctl || mbit dirty i)
    countUe { s with hbmPoison := hit.foldl (fun l i => sIns l (a + i)) s.hbmPoison } (stackOf a)

/-- num: 0, a line of an L1 or L2; 1, of the LLC. -/
def execCacheLineUe (s : State) : Host.Outcome State Fault Refusal :=
  .next (if s.arg.num = 1 then llcUe s s.arg.off (s.arg.w ++ s.arg.v) s.arg.flag else cacheUe s s.arg.idx s.arg.flag)

def execHbmWordUe (s : State) : Host.Outcome State Fault Refusal :=
  let a := s.arg.off / 32 * 32
  if 2 ^ 40 ≤ a then .next s else .next (countUe (markHome s a 32) (stackOf a))

/-- R432: the region is POISONED with FORMER 0, CAUSE 3. -/
def execDeckleEntryUe (s : State) : Host.Outcome State Fault Refusal :=
  match regionAt s s.arg.ctx s.arg.oid s.arg.off with
  | none => .next s
  | some d => if d.state = 5 then .next s else .next (poisonRegion (countUe s (tableHome d)) (tableHome d) 3 d.holder 0 d)

/-- R431: a word is read and, where a bit was wrong, corrected and counted (log 8); the work is the house's. flag: the die's work is
an in-field test instead, which R338 charges to the same account (log 9). -/
def execPatrolScrub (s : State) : Host.Outcome State Fault Refusal :=
  let d := stackOf s.arg.off
  if !s.running d then .next s
  else if s.arg.flag then .next (chargeHouse s d (Config.houseCost 3))
  else
    let (b, s) := s.drawBool
    .next ((chargeHouse s d (Config.houseCost 1)).updDie d (fun x => { x with ceCount := if b then x.ceCount + 1 else x.ceCount }))

/-- R432: bytes of local store or window SRAM marked. -/
def localUe (s : State) (t : LocalTarget) : State :=
  match t with
  | .team d h rank off len =>
    match s.team? d h with
    | none => s
    | some t =>
      let keys := ((upto len).filter (fun i => decide (off + i < t.localBytes))).map (fun i => 2 ^ 20 * rank + off + i)
      countUe (s.setTeam d h { t with locPoison := keys.foldl sIns t.locPoison }) d
  | .sram d a len =>
    countUe (s.updDie d (fun x =>
      { x with sramPoison := ((upto len).filter (fun i => decide (a + i < 1920 * 4096))).foldl (fun l i => sIns l (a + i)) x.sramPoison })) d

def execLocalStoreUe (s : State) : Host.Outcome State Fault Refusal := .next (localUe s s.arg.target)

/-- R454: every row that the silo owed is marked, and the operation ends with LINK. -/
def siloUe (s : State) (op : EngOp) (silo : Nat) : State :=
  let n := (nmDesc op.record).nelem
  let rows := (op.entries.map (fun e => let (k, off) := nmWritten op e; elemAddr s op.ctx k off)).filter (fun a => decide (siloOf a = silo))
  if rows.isEmpty then s
  else engStop (countUe (rows.foldl (fun s a => markHome s a (4 * n)) s) (silo / 16)) op 7

def execSiloUnitUe (s : State) : Host.Outcome State Fault Refusal :=
  match findEng s s.arg.id with
  | none => .next s
  | some op => .next (if op.isNm && op.status.isNone && decide (op.next ≠ 0) then siloUe s op s.arg.unit else s)

end Sys2Proof.Machine
end

