-- ==== Sys2Proof/Machine/Mailboxes.lean ====
section
/-! DEFINITION. Step mailboxes, episodes and their ends: the operations of the mailbox order, starts, restarts and end
records (R346 to R362, R364, R422, R467). -/
namespace Sys2Proof.Machine

/-! Episodes and harts. -/

def State.ep? (s : State) (d m : Nat) : Option Episode := tfind (s.die d).episodes m
def State.mbox (s : State) (d m : Nat) : Mbox := tget (s.die d).mboxes m {}
def State.setMbox (s : State) (d m : Nat) (x : Mbox) : State := s.updDie d (fun y => { y with mboxes := tset y.mboxes m x {} })
def State.hart (s : State) (d h : Nat) : Hart := tget (s.die d).harts h {}
def State.setHart (s : State) (d h : Nat) (x : Hart) : State := s.updDie d (fun y => { y with harts := tset y.harts h x {} })

def State.updEp (s : State) (d m : Nat) (f : Episode → Episode) : State :=
  match s.ep? d m with
  | none => s
  | some e => s.updDie d (fun y => { y with episodes := tput y.episodes m (f e) })

/-- Granary cycles are every second count of the die's %cycle (R6, R18). -/
def granCycle (s : State) (d : Nat) : Nat := (s.die d).cycle / 2

/-- A register write; x0 discards it. -/
def Episode.wr (e : Episode) (rd v : Nat) : Episode :=
  if rd = 0 then e else { e with regs := tset e.regs rd (BitVec.ofNat 64 v) 0 }
def Episode.rd (e : Episode) (r : Nat) : Nat := if r = 0 then 0 else (tget e.regs r 0).toNat

/-- The instruction retires: the PC moves and the counters rise (R347, R359). -/
def Episode.retire (e : Episode) (pc : Nat) : Episode :=
  { e with pc := pc % 2 ^ 64, instret := (e.instret + 1) % 2 ^ 64, stepInstr := e.stepInstr + 1 }

/-- An episode's window in Granary SRAM, and in the HBM window. -/
def Episode.base (e : Episode) : Nat := 0x10000000 + 4096 * e.win
def Episode.bytes (e : Episode) : Nat := 4096 * e.size

def dfield (e : Episode) (hi lo : Nat) : Nat := bits e.desc.toNat hi lo
def Episode.hbmBytes (e : Episode) : Nat := dfield e 375 360 * 65536

/-- The HBM window starts here. -/
def hbmWindow : Nat := 0x200000000

/-- The PMP entries that firmware sets for an episode: its own window, and its HBM window, which is never executed and written only
with W (R346). -/
def Episode.pmp (e : Episode) : List PmpEntry :=
  [{ base := e.base, len := e.bytes, r := true, w := true, x := true },
   { base := hbmWindow, len := e.hbmBytes, r := true, w := decide (e.hbmCap.rights.toNat &&& rW ≠ 0) }]

/-- A hart without a running episode takes the ready one whose action was accepted earliest (R350). -/
def schedHart (s : State) (d h : Nat) : State :=
  let x := s.hart d h
  if x.running.isSome ∨ x.retired = true then s
  else
    match minBy (fun e : Episode => e.since) (((s.die d).episodes.map (·.2)).filter (fun e =>
        decide (e.hart = h) && decide (e.state = .ready))) with
    | none => s
    | some e => (s.setHart d h { x with running := some e.mbox, pmp := e.pmp }).updEp d e.mbox (fun e => { e with state := .run })

/-- The running episode blocks in GMB.WAIT: the hart goes on with another. -/
def blockHart (s : State) (d h : Nat) : State :=
  schedHart (s.setHart d h { s.hart d h with running := none, pmp := [] }) d h

/-! Headers and slots (R353, R354). -/

def mkHeader (m flags ver step epid : Nat) : BitVec 128 :=
  BitVec.ofNat 128 (at_ m 96 8 + at_ flags 80 16 + at_ ver 64 16 + at_ step 32 32 + at_ epid 0 32)

def Episode.pinVer (e : Episode) : Nat := if e.pin then e.pver else 0

/-- The header of the observation of step S, with flags DONE, TRUNC, KILLED given. -/
def Episode.obsHeader (e : Episode) (step ver flags : Nat) : BitVec 128 :=
  mkHeader e.mbox (btn e.pin + flags) (if step = 0 then e.pinVer else ver) step e.party

/-- A header as a read forms it: while its episode lives, PIN and the VER of step 0 are those of the moment (R353). -/
def formHeader (s : State) (d m : Nat) (h : BitVec 128) : BitVec 128 :=
  match s.ep? d m with
  | some e =>
    let v := h.toNat
    if bits v 31 0 ≠ e.party then h
    else mkHeader m (bits v 95 81 * 2 + btn e.pin) (if bits v 63 32 = 0 then e.pinVer else bits v 79 64) (bits v 63 32) e.party
  | none => h

/-- A synthetic observation's slot: TRUNC alone. -/
def synthSlot : List Byte := leBytes 128 (2 ^ 993)

/-- Observations that wait for the slot are placed in order. -/
def Mbox.fill (b : Mbox) : Mbox :=
  match b.obs, b.owed with
  | none, h :: r => { b with obs := some (h, synthSlot), owed := r }
  | _, _ => b

/-! GMB.WAIT's take (R355, R364). -/

/-- PENDING: the step buffer is loaded, GMB.WAIT retires with rd = 0, and the step counters are cleared. -/
def takeAction (s : State) (d m rd : Nat) : State :=
  let b := s.mbox d m
  match b.state with
  | .pending st =>
    let s := s.setMbox d m { b with state := .owe st, action := [], actionHdr := 0 }
    let v := bits b.actionHdr.toNat 79 64
    let hdr := formHeader s d m b.actionHdr
    s.updEp d m (fun e =>
      { ((e.wr rd 0).retire (e.pc + 4)) with
        buffer := leBytes 16 hdr.toNat ++ b.action, ver := v, lastVer := some v, stepInstr := 0, stepCycles := 0 })
  | _ => s

/-- A blocked GMB.WAIT ends: the episode is ready to run. -/
def unblock (s : State) (d m : Nat) : State :=
  match s.ep? d m with
  | none => s
  | some e => schedHart (s.updEp d m (fun e => { e with state := .ready })) d e.hart

/-! STEP.SEND's lanes (R260, R357, R358). -/

def Episode.passes (e : Episode) (v : Nat) : Bool := !e.pin || decide (e.pver = 0xFFFF) || decide (e.pver = v)

/-- Whether a lane with version v would be accepted. -/
def mayAccept (s : State) (d m v : Nat) : Bool :=
  match s.ep? d m with
  | none => false
  | some e => (match (s.mbox d m).state with | .idle _ => true | _ => false) && e.passes v

/-- An accepted action is stored; an episode that waits for it takes it. -/
def acceptAction (s : State) (d m v : Nat) (bs : List Byte) : State :=
  match s.ep? d m, (s.mbox d m).state with
  | some e, .idle st =>
    let (o, s) := s.fresh
    let e := { e with pver := if e.pin && decide (e.pver = 0xFFFF) then v else e.pver, since := o }
    let s := s.updEp d m (fun _ => e)
    let s := s.setMbox d m { s.mbox d m with state := .pending (st + 1), action := bs,
                                             actionHdr := mkHeader m (btn e.pin) v (st + 1) e.party }
    match e.state with
    | .wait rd _ => unblock (takeAction s d m rd) d m
    | _ => s
  | _, _ => s

/-! Starts (R348 to R351). -/

/-- The budgets of a step. -/
def Episode.ibud (e : Episode) : Nat := if dfield e 271 240 = 0 then 2 ^ 32 - 1 else dfield e 271 240
def Episode.cbud (e : Episode) : Nat := if dfield e 239 208 = 0 then 2 ^ 32 - 1 else dfield e 239 208
def Episode.startRegs (e : Episode) : Episode :=
  ((((({ e with regs := [] } : Episode).wr 10 e.base).wr 11 e.bytes).wr 12 (if dfield e 375 360 = 0 then 0 else 0x200000000)).wr 13
    e.party |>.wr 14 e.mbox).wr 2 (e.base + e.bytes)

/-- SRAM bytes written, with their marks. -/
def wrSram (s : State) (d i : Nat) (b : Byte) (mark : Bool) : State :=
  s.updDie d (fun x => { x with sram := tset x.sram i b 0
                                sramPoison := if mark then sIns x.sramPoison i else sDel x.sramPoison i })

/-- The window cleared. -/
def scrubWindow (s : State) (d win size : Nat) : State :=
  let lo := 4096 * win
  let hi := lo + 4096 * size
  let out := fun k : Nat => decide (k < lo) || decide (hi ≤ k)
  s.updDie d (fun x => { x with sram := x.sram.filter (fun e => out e.1), sramPoison := x.sramPoison.filter out })

/-- The image's bytes into the window; a byte whose page is not resident at a restart is a free value (log 8). -/
def loadImage (s : State) (d : Nat) (e : Episode) : State :=
  let c := entryCap s (readCtx s e.ctx) (dfield e 471 456)
  let o := readObj s e.ctx c.oid.toNat
  let at0 := c.base.toNat + dfield e 511 472
  (upto (dfield e 455 432)).foldl (fun s i =>
    match placeOf s o (at0 + i) with
    | some p => wrSram s d (4096 * e.win + i) (homeByte s p) (homePoison s p)
    | none => let (b, s) := s.drawByte; wrSram s d (4096 * e.win + i) b false) (scrubWindow s d e.win e.size)

/-- An episode begins on its hart, window and mailbox: a new number, the image, the registers and OWE(0). -/
def beginEpisode (s : State) (d : Nat) (e : Episode) : State :=
  let h := s.hart d e.hart
  let (o, s) := s.fresh
  let e := { e with party := episodeParty d e.hart h.counter }
  let e : Episode := { e with pc := e.base + dfield e 327 304, reserve := none, lastVer := none, state := .ready, since := o,
                              stepInstr := 0, stepCycles := 0, instret := 0, cycles := 0, steps := 0, ver := 0,
                              buffer := leBytes 16 (mkHeader e.mbox (btn e.pin) e.pinVer 0 e.party).toNat ++ leBytes 64 0 }
  let s := s.setHart d e.hart { h with counter := (h.counter + 1) % 2 ^ 19 }
  let s := s.updDie d (fun x => { x with episodes := tput x.episodes e.mbox e.startRegs })
  let s := s.setMbox d e.mbox { s.mbox d e.mbox with state := .owe 0 }
  schedHart (loadImage s d e) d e.hart

/-! Ends (R361, R362, R422). -/

/-- The completion word of a descriptor raised by 1. -/
def completeWord (s : State) (d : Nat) (e : Episode) : State :=
  if dfield e 151 151 = 0 then s
  else
    let ix := dfield e 207 192
    let off := dfield e 191 152
    match deviceWord s e.ctx ix off with
    | .at_ a => releaseDeps (wrHomeNat s a 8 ((homeNat s a 8 + 1) % 2 ^ 64))
    | .notAtomic => tokState s d 1 e.ctx ix off e.party
    | .notResident => tokState s d 3 e.ctx ix off e.party

/-- One end record into the die's ring (R389). -/
def endRecord (s : State) (d rec : Nat) : State :=
  let x := s.die d
  let t := x.gerTail.toNat
  let w := t % 2 ^ 32
  let size := 128 * x.gerSize.toNat
  let s :=
    if size ≤ (w + 2 ^ 32 - x.gerHead.toNat % 2 ^ 32) % 2 ^ 32 then
      s.updDie d (fun y => { y with gerTail := BitVec.ofNat 64 (w + (t / 2 ^ 32 + 1) % 2 ^ 32 * 2 ^ 32) })
    else
      (wrHomeNat s (x.gerBase.toNat + 32 * (w % size)) 32 rec).updDie d (fun y =>
        { y with gerTail := BitVec.ofNat 64 ((w + 1) % 2 ^ 32 + t / 2 ^ 32 * 2 ^ 32) })
  s.signal (17 + d)

/-- The synthetic observation that an end owes: for an owed step, or for an accepted action. -/
def Episode.synth (e : Episode) (b : Mbox) (killed : Bool) : List (BitVec 128) :=
  let f := 4 + 8 * btn killed
  match b.state with
  | .owe st => [e.obsHeader st e.ver f]
  | .pending st => [e.obsHeader st (bits b.actionHdr.toNat 79 64) f]
  | _ => []

/-- A hart's access that waits for a path stands in paths under handle 8192 + mailbox, with the exception it will raise
in acc and its address in off (log 25). -/
def isHartWait (d m : Nat) (p : PathWait) : Bool :=
  decide (p.die = d) && decide (p.handle = 8192 + m) && p.engine.isNone && p.own.isNone

def dropHartWait (s : State) (d m : Nat) : State :=
  if s.paths.any (isHartWait d m) then { s with paths := s.paths.filter (fun p => !isHartWait d m p) } else s

/-- The hart stops running the episode. -/
def leaveHart (s : State) (d h m : Nat) : State :=
  if (s.hart d h).running = some m then s.setHart d h { s.hart d h with running := none, pmp := [] } else s

/-- The mailbox of an episode that ends: its headers stand from then on as they are. -/
def frozenMbox (s : State) (d m : Nat) : Mbox :=
  let b := s.mbox d m
  { b with obs := b.obs.map (fun o => (formHeader s d m o.1, o.2)), owed := b.owed.map (formHeader s d m) }

/-- Steps 1 to 5 of R361. -/
def endSteps (s : State) (d : Nat) (e : Episode) (cause code : Nat) (killed : Bool) : State :=
  let s := leaveHart (dropHartWait s d e.mbox) d e.hart e.mbox
  let b := frozenMbox s d e.mbox
  let s := s.setMbox d e.mbox ({ b with state := .ending, owed := b.owed ++ e.synth b killed, action := [], actionHdr := 0 } : Mbox).fill
  let s := retireParty s e.ctx d e.party false
  let s := scrubWindow s d e.win e.size
  let s := endRecord s d (at_ e.party 224 32 + at_ code 208 16 + at_ cause 200 8 + at_ e.mbox 192 8 + at_ e.steps 160 32 +
    at_ e.instret 96 64 + at_ e.cycles 32 64)
  completeWord s d e

/-- An episode ends; again tells that a restart follows. -/
def endEpisode (s : State) (d m cause code : Nat) (killed again : Bool) : State :=
  match s.ep? d m with
  | none => s
  | some e =>
    let s := endSteps s d e cause code killed
    if again then
      beginEpisode s d { e with pver := if e.pin then e.lastVer.getD e.pver else e.pver }
    else
      let s := s.updDie d (fun x => { x with episodes := tdel x.episodes m })
      let s := s.setMbox d m { s.mbox d m with state := .free }
      schedHart s d e.hart

/-- EPFAULT, then the end by exception (R467). -/
def faultEpisode (s : State) (d m cause mtval : Nat) : State :=
  match s.ep? d m with
  | none => s
  | some e =>
    endEpisode (eventCtx s d { code := 0x8D, cause := cause, value := mtval, raddr := e.pc, queue := m, party := e.party, ctx := e.ctx })
      d m 4 0 true false

/-! GMB.POST (R354, R366). -/

/-- The image holds a poisoned byte, which is never delivered (R433). -/
def imagePoison (s : State) (d addr : Nat) : Bool :=
  (s.die d).sramPoison.any (fun i => decide (addr - 0x10000000 ≤ i ∧ i < addr - 0x10000000 + 128))

/-- The observation of the owed step goes into the empty slot, and GMB.POST retires with rd = 0. -/
def postNow (s : State) (d : Nat) (e : Episode) (rd addr : Nat) : State :=
  match (s.mbox d e.mbox).state with
  | .owe st =>
    if imagePoison s d addr then faultEpisode s d e.mbox 32 addr
    else
    let raw := leNat ((upto 128).map (fun i => tget (s.die d).sram (addr - 0x10000000 + i) 0)) % 2 ^ 994
    let flags := 2 * bits raw 992 992 + 4 * bits raw 993 993
    let s := s.setMbox d e.mbox { s.mbox d e.mbox with state := .idle st, obs := some (e.obsHeader st e.ver flags, leBytes 128 raw) }
    s.updEp d e.mbox (fun e => { ((e.wr rd 0).retire (e.pc + 4)) with steps := e.steps + 1, state := .run })
  | _ => s

/-- The slot has become empty: what waits for it is placed. -/
def refillSlot (s : State) (d m : Nat) : State :=
  let b := (s.mbox d m).fill
  let s := s.setMbox d m b
  match s.ep? d m with
  | none => s
  | some e =>
    match e.state with
    | .post rd addr => if b.obs.isNone then postNow s d e rd addr else s
    | _ => s

/-! STEP.TAKE's lanes (R261, R355). -/

/-- A mailbox with no live episode for a taker. -/
def deadMbox (s : State) (d m : Nat) : Bool :=
  let b := s.mbox d m
  b.obs.isNone && b.owed.isEmpty && (match b.state with | .free => true | .ending => true | _ => false)

end Sys2Proof.Machine
end

