-- ==== Sys2Proof/Machine/Hart.lean ====
section
/-! DEFINITION. A Granary hart in U-mode: its address map, the RV64 instructions, CSRs and exceptions (R345 to R347, R352,
R359, R433, R467). The RV64 operations are those of the RISC-V standard that R345 names (log 17). -/
namespace Sys2Proof.Machine

/-! The address map (R346, R352). -/

/-- What a hart address reaches. -/
inductive HartAcc where
  /-- A byte index of Granary SRAM. -/
  | sram (i : Nat)
  /-- A place in HBM or at a peer, and its object offset. -/
  | hbm (place off : Nat)
  /-- No path now. -/
  | noPath (endpoint : Nat)
  | fault (mtval : Nat)
  deriving DecidableEq, Repr

/-- The first byte of an access that the window does not hold. -/
def Episode.firstOut (e : Episode) (a : Nat) : Nat :=
  if e.base ≤ a ∧ a < e.base + e.bytes then e.base + e.bytes else a

/-- An access of n bytes within the episode's own SRAM window. -/
def Episode.inSram (e : Episode) (a n : Nat) : Bool := decide (e.base ≤ a) && decide (a + n ≤ e.base + e.bytes)

/-- An aligned access of n bytes within the episode's HBM window. -/
def Episode.inHbm (e : Episode) (a n : Nat) : Bool :=
  decide (hbmWindow ≤ a) && decide (a + n ≤ hbmWindow + e.hbmBytes) && decide (a % n = 0)

/-- A load or store in the HBM window: covered, RESIDENT and with a path, or a fault (R352). -/
def hbmAccess (s : State) (d : Nat) (e : Episode) (a n : Nat) (store : Bool) : HartAcc :=
  let c := e.hbmCap
  let off := c.base.toNat + dfield e 431 392 + (a - hbmWindow)
  let o := readObj s e.ctx c.oid.toNat
  let held := (findCover s e.ctx [e.party] c.oid.toNat off n storeKinds).isSome
  if store && decide (c.rights.toNat &&& rW = 0) then .fault a
  else if !(held || (!store && o.imm)) then .fault a
  else
    match placeOf s o off with
    | none => .fault a
    | some p =>
      match reach s d p with
      | .ok => .hbm p off
      | .never _ => .fault a
      | .noPath ep => .noPath ep

/-- A PMP entry of the hart holds an access: 0 a read, 1 a write, 2 a fetch (R346). -/
def pmpAllows (s : State) (d h a n acc : Nat) : Bool :=
  (s.hart d h).pmp.any (fun p => decide (p.base ≤ a) && decide (a + n ≤ p.base + p.len) && (if acc = 0 then p.r else if acc = 1 then p.w else p.x))

/-- A load or store. -/
def hartAccess (s : State) (d : Nat) (e : Episode) (a n : Nat) (store : Bool) : HartAcc :=
  if !pmpAllows s d e.hart a n (btn store) then .fault (e.firstOut a)
  else if e.inSram a n then .sram (a - 0x10000000)
  else if e.inHbm a n then hbmAccess s d e a n store
  else .fault (e.firstOut a)

/-- LR, SC and AMOs are performed only in the SRAM window; so is a fetch. -/
def sramAccess (e : Episode) (a n : Nat) : HartAcc := if e.inSram a n then .sram (a - 0x10000000) else .fault (e.firstOut a)

def sramNat (s : State) (d i n : Nat) : Nat := leNat ((upto n).map (fun k => tget (s.die d).sram (i + k) 0))
def sramMarked (s : State) (d i n : Nat) : Bool := (s.die d).sramPoison.any (fun k => decide (i ≤ k ∧ k < i + n))
def wrSramNat (s : State) (d i n v : Nat) : State :=
  (upto n).foldl (fun s k => wrSram s d (i + k) (BitVec.ofNat 8 (v / 256 ^ k)) false) s

/-! The arithmetic of RV64IM, Zba and Zbb (R345). -/

/-- A rotation left of w bits. -/
def rotN (x k w : Nat) : Nat := (x * 2 ^ (k % w) + x / 2 ^ (w - k % w)) % 2 ^ w

/-- A division corner of the M extension: by zero all ones or the dividend; otherwise toward zero. -/
def rvDivS (a b : Int) : Int := if b = 0 then -1 else Int.tdiv a b
def rvRemS (a b : Int) : Int := if b = 0 then a else Int.tmod a b

/-- The result of a two-operand operation at width w, before sign extension of a 32-bit result. -/
def rvEval (o : RvOp) (w a b : Nat) : Nat :=
  let m := 2 ^ w
  let x := a % m
  let y := b % m
  let sx := sextN a w
  let sy := sextN b w
  let k := b % w
  match o with
  | .add => (x + y) % m
  | .sub => (x + m - y) % m
  | .sll => x * 2 ^ k % m
  | .slt => btn (decide (sx < sy))
  | .sltu => btn (decide (x < y))
  | .xor => x ^^^ y
  | .srl => x / 2 ^ k
  | .sra => wrapN (sx / 2 ^ k) w
  | .or => x ||| y
  | .and => x &&& y
  | .mul => x * y % m
  | .mulh => wrapN (sx * sy / 2 ^ w) w
  | .mulhsu => wrapN (sx * (y : Int) / 2 ^ w) w
  | .mulhu => x * y / m
  | .div => wrapN (rvDivS sx sy) w
  | .divu => if y = 0 then m - 1 else x / y
  | .rem => wrapN (rvRemS sx sy) w
  | .remu => if y = 0 then x else x % y
  | .sh1add => (2 * x + y) % m
  | .sh2add => (4 * x + y) % m
  | .sh3add => (8 * x + y) % m
  | .adduw => (a % 2 ^ 32 + y) % m
  | .sh1adduw => (2 * (a % 2 ^ 32) + y) % m
  | .sh2adduw => (4 * (a % 2 ^ 32) + y) % m
  | .sh3adduw => (8 * (a % 2 ^ 32) + y) % m
  | .andn => x &&& (m - 1 - y)
  | .orn => x ||| (m - 1 - y)
  | .xnor => m - 1 - (x ^^^ y)
  | .max => if sx < sy then y else x
  | .maxu => max x y
  | .min => if sx < sy then x else y
  | .minu => min x y
  | .rol => rotN x k w
  | .ror => rotN x (w - k) w
  | .slliuw => a % 2 ^ 32 * 2 ^ (b % 64) % m

/-- The result of a one-operand operation at width w. -/
def rvEval1 (o : RvOp1) (w a : Nat) : Nat :=
  match o with
  | .clz => clzN a w
  | .ctz => ctzN a w
  | .cpop => popN a w
  | .sextb => wrapN (sextN a 8) w
  | .sexth => wrapN (sextN a 16) w
  | .zexth => a % 2 ^ 16
  | .orcb => leNat ((leBytes 8 a).map (fun b => if b = 0 then 0 else 255))
  | .rev8 => leNat (leBytes 8 a).reverse

/-- A 32-bit result is sign-extended. -/
def rvWide (w32 : Bool) (f : Nat → Nat) : Nat := if w32 then wrapN (sextN (f 32) 32) 64 else f 64

def rvHolds (c : RvCond) (a b : Nat) : Bool :=
  match c with
  | .eq => decide (a = b)
  | .ne => decide (a ≠ b)
  | .lt => decide (sextN a 64 < sextN b 64)
  | .ge => decide (sextN b 64 ≤ sextN a 64)
  | .ltu => decide (a < b)
  | .geu => decide (b ≤ a)

def rvAmoEval (o : RvAmo) (w a b : Nat) : Nat :=
  let x := a % 2 ^ w
  let y := b % 2 ^ w
  match o with
  | .swap => y
  | .add => (x + y) % 2 ^ w
  | .xor => x ^^^ y
  | .and => x &&& y
  | .or => x ||| y
  | .min => if sextN x w < sextN y w then x else y
  | .max => if sextN x w < sextN y w then y else x
  | .minu => min x y
  | .maxu => max x y

/-- The three counter CSRs of R347. -/
def csrValue (s : State) (d : Nat) (e : Episode) (num : Nat) : Option Nat :=
  if num = 0xC00 then some e.cycles else if num = 0xC01 then some (s.die d).cycle
  else if num = 0xC02 then some e.instret else none

/-! Retirement, faults and waits. -/

/-- An instruction of the running episode would raise its instruction counter above IBUD (R359). -/
def Episode.spent (e : Episode) : Bool := decide (e.ibud ≤ e.stepInstr)

/-- A hart's access waits for its path. -/
def hartPathWait (s : State) (d m ep cause addr : Nat) : State :=
  if s.paths.any (isHartWait d m) then s
  else
    let (id, s) := s.fresh
    { s with paths := s.paths ++ [{ id := id, die := d, handle := 8192 + m, endpoint := ep, since := (s.die d).cycle,
                                    acc := cause, off := addr }] }

/-- The instruction retires after f changes the registers, at a new PC. -/
def hartRetire (s : State) (d m pc : Nat) (f : Episode → Episode) : State :=
  (dropHartWait s d m).updEp d m (fun e => (f e).retire pc)

/-- An exception's instruction does not retire (R361). -/
def hartFault (s : State) (d m cause mtval : Nat) : State := faultEpisode (dropHartWait s d m) d m cause mtval

/-- A load of n bytes: f writes the value. -/
def hartLoad (s : State) (d m : Nat) (e : Episode) (a n pc : Nat) (acc : HartAcc) (f : Nat → Episode → Episode) : State :=
  match acc with
  | .sram i => if sramMarked s d i n then hartFault s d m 32 a else hartRetire s d m pc (f (sramNat s d i n))
  | .hbm p off =>
    if (upto n).any (fun k => homePoison s (p + k)) then hartFault s d m 32 a
    else hartRetire (markPage s (readObj s e.ctx e.hbmCap.oid.toNat) false off) d m pc (f (leNat ((upto n).map (fun k => homeByte s (p + k)))))
  | .noPath ep => hartPathWait s d e.mbox ep 5 a
  | .fault t => hartFault s d m 5 t

/-- A store of n bytes. -/
def hartStore (s : State) (d m : Nat) (e : Episode) (a n v pc : Nat) (acc : HartAcc) : State :=
  match acc with
  | .sram i => hartRetire (wrSramNat s d i n v) d m pc id
  | .hbm p off =>
    hartRetire (wrHomes (markPage s (readObj s e.ctx e.hbmCap.oid.toNat) true off) p (leBytes n v)) d m pc id
  | .noPath ep => hartPathWait s d e.mbox ep 7 a
  | .fault t => hartFault s d m 7 t

/-- The bytes at an address lie in a reservation. -/
def inReserve (r : Option (Nat × Nat)) (a n : Nat) : Bool :=
  match r with
  | some (b, k) => decide (b ≤ a) && decide (a + n ≤ b + k)
  | none => false

/-- One ordinary instruction of len bytes, whose bits the hart reports when it is illegal. -/
def runRv (s : State) (d m : Nat) (e : Episode) (r : Rv) (len : Nat) : State :=
  let next := e.pc + len
  let addr := fun (rs : Nat) (off : Int) => wrapN (e.rd rs + off) 64
  let wrIntr := fun (n : Nat) (signed : Bool) (rd v : Nat) (e : Episode) =>
    e.wr rd (if signed then wrapN (sextN v (8 * n)) 64 else v)
  match r with
  | .lui rd imm => hartRetire s d m next (fun e => e.wr rd (wrapN imm 64))
  | .auipc rd imm => hartRetire s d m next (fun e => e.wr rd (wrapN (e.pc + imm) 64))
  | .jal rd off => hartRetire s d m (wrapN (e.pc + off) 64) (fun e => e.wr rd (next % 2 ^ 64))
  | .jalr rd rs1 off => hartRetire s d m (addr rs1 off / 2 * 2) (fun e => e.wr rd (next % 2 ^ 64))
  | .branch c rs1 rs2 off =>
    hartRetire s d m (if rvHolds c (e.rd rs1) (e.rd rs2) then wrapN (e.pc + off) 64 else next) id
  | .load rd rs1 off n signed =>
    let a := addr rs1 off
    hartLoad s d m e a n next (hartAccess s d e a n false) (fun v e => wrIntr n signed rd v e)
  | .store rs1 rs2 off n =>
    let a := addr rs1 off
    hartStore s d m e a n (e.rd rs2) next (hartAccess s d e a n true)
  | .opImm o w32 rd rs1 imm =>
    hartRetire s d m next (fun e => e.wr rd (rvWide w32 (fun w => rvEval o w (e.rd rs1) (wrapN imm 64))))
  | .op o w32 rd rs1 rs2 => hartRetire s d m next (fun e => e.wr rd (rvWide w32 (fun w => rvEval o w (e.rd rs1) (e.rd rs2))))
  | .op1 o w32 rd rs1 => hartRetire s d m next (fun e => e.wr rd (rvWide w32 (fun w => rvEval1 o w (e.rd rs1))))
  | .lr rd rs1 n =>
    let a := e.rd rs1
    hartLoad s d m e a n next (sramAccess e a n) (fun v e => { (wrIntr n true rd v e) with reserve := some (a, n) })
  | .sc rd rs1 rs2 n =>
    let a := e.rd rs1
    match sramAccess e a n with
    | .sram i =>
      let ok := inReserve e.reserve a n
      hartRetire (if ok then wrSramNat s d i n (e.rd rs2) else s) d m next (fun e => { (e.wr rd (btn (!ok))) with reserve := none })
    | .fault t => hartFault s d m 7 t
    | _ => s
  | .amo o rd rs1 rs2 n =>
    let a := e.rd rs1
    match sramAccess e a n with
    | .sram i =>
      if sramMarked s d i n then hartFault s d m 32 a
      else
        let old := sramNat s d i n
        hartRetire (wrSramNat s d i n (rvAmoEval o (8 * n) old (e.rd rs2))) d m next (fun e => wrIntr n true rd old e)
    | .fault t => hartFault s d m 7 t
    | _ => s
  | .csr o rd src _ num =>
    let writes := o == .rw || src ≠ 0
    match csrValue s d e num with
    | some v => if writes then hartFault s d m 2 (s.arg.v.toNat) else hartRetire s d m next (fun e => e.wr rd v)
    | none => hartFault s d m 2 (s.arg.v.toNat)
  | .fence => hartRetire s d m next id
  | .fenceI => hartRetire s d m next id
  | .ecall => hartFault s d m 8 0
  | .ebreak => hartFault s d m 3 e.pc

/-- A hart instruction of the running episode: a runaway does not retire it (R359). -/
def hartRun (s : State) (f : Nat → Nat → Episode → State) : Host.Outcome State Fault Refusal :=
  match s.curHart with
  | none => .fault .noEpisode
  | some (d, m) =>
    match s.ep? d m with
    | none => .fault .noEpisode
    | some e => if e.state = .run then .next (f d m e) else .next s

/-- The instruction, unless it would raise the counter above IBUD. -/
def budgeted (s : State) (f : Nat → Nat → Episode → State) (d m : Nat) (e : Episode) : State :=
  if e.spent then endEpisode s d m 2 0 true false else f d m e

/-- R345, R346, R352: an ordinary instruction, latched in arg with its length (num) and its bits (v). -/
def execHartInstruction (s : State) : Host.Outcome State Fault Refusal :=
  hartRun s (budgeted s (fun d m e => runRv s d m e s.arg.rv s.arg.num))

/-! What a hart fetches (R346). -/

/-- A fetched word of 16 or 32 bits, or the exception: cause and mtval. -/
def hartFetch (s : State) (d : Nat) (e : Episode) : Except (Nat × Nat) Nat :=
  if !(e.inSram e.pc 2 && pmpAllows s d e.hart e.pc 2 2) then .error (1, e.pc)
  else
    let i := e.pc - 0x10000000
    let lo := sramNat s d i 2
    if sramMarked s d i 2 then .error (32, e.pc)
    else if lo % 4 ≠ 3 then .ok lo
    else if !e.inSram (e.pc + 2) 2 then .error (1, e.pc + 2)
    else if sramMarked s d (i + 2) 2 then .error (32, e.pc)
    else .ok (sramNat s d i 4)

/-- The causes that R467 lists for U-mode. -/
def uCauses : List Nat := [1, 2, 3, 5, 7, 8, 32]

/-- R467: the running episode's exception kills it. -/
def execHartException (s : State) : Host.Outcome State Fault Refusal :=
  .next (match s.ep? s.arg.die s.arg.mbox with
    | none => s
    | some e =>
      if e.state = .run && uCauses.contains s.arg.num then hartFault s s.arg.die s.arg.mbox s.arg.num s.arg.v.toNat else s)

end Sys2Proof.Machine
end

