-- ==== Sys2Proof/Machine/Fabric.lean ====
section
/-! DEFINITION. The routing die's circuits, accesses that find no path, seams, the fabric ports, far accesses and peer
modules (R378 to R382, R390, R391, R453, R472 to R474). -/
namespace Sys2Proof.Machine

/-! The connection table (R378, R379, R473). -/

/-- Reserved bits zero; STATE given. -/
def circEntry (v : Dword) (st : Nat) : Dword :=
  BitVec.ofNat 64 (at_ (bits v.toNat 63 63) 63 1 + at_ st 61 2 + at_ (bits v.toNat 60 43) 43 18)

def putCircuit (s : State) (i : Nat) (v : Dword) (st : Nat) : State := { s with circuits := tset s.circuits i (circEntry v st) 0 }

/-- Wavelengths that the other entries take at an endpoint: those being set up or UP, and those that a cleared circuit still
holds. -/
def wavesUsed (s : State) (i ep : Nat) : Nat :=
  let at_ := fun e : Nat × Dword => decide (circEpa e.2 = ep) || decide (circEpb e.2 = ep)
  let live := s.circuits.filter (fun e => decide (e.1 ≠ i) && decide (circState e.2 = 1 ∨ circState e.2 = 2) && e.2.getLsbD 63 && at_ e)
  ((live ++ s.circDrain.filter at_).map (fun e => circNw e.2)).foldl (· + ·) 0

/-- Wavelengths of an endpoint: 64 per die or stack, 4 per fabric port (R378). -/
def wavesOf (ep : Nat) : Nat := if ep < 32 then 64 else 4

/-- The conditions of R379 under which a set-up fails. -/
def circBad (s : State) (i : Nat) (v : Dword) : Bool :=
  let a := circEpa v
  let b := circEpb v
  let n := circNw v
  decide (n = 0) || decide (8 < n) || decide (a = b) || decide (67 < a) || decide (67 < b) ||
    (decide (16 ≤ a ∧ a < 32) && decide (16 ≤ b ∧ b < 32)) || decide (wavesOf a < wavesUsed s i a + n) ||
    decide (wavesOf b < wavesUsed s i b + n)

/-- A write with V = 1. -/
def circuitSet (s : State) (i : Nat) (v : Dword) : State :=
  if 1024 ≤ i ∨ v.getLsbD 63 = false then s
  else putCircuit { s with circLost := tset s.circLost i 0 0 } i v (if circBad s i v then 3 else 1)

def execCircuitSet (s : State) : Host.Outcome State Fault Refusal := .next (circuitSet s s.arg.idx s.arg.v)

/-- A write with V = 0: no new traffic; STATE stands, and the wavelengths stay taken, until the last flit is delivered. -/
def execCircuitClear (s : State) : Host.Outcome State Fault Refusal :=
  let i := s.arg.idx
  let e := tget s.circuits i 0
  if 1024 ≤ i ∨ s.arg.v.getLsbD 63 = true then .next s
  else
    let drains := decide (e.getLsbD 63 = true ∧ (circState e = 1 ∨ circState e = 2))
    .next (putCircuit (if drains then { s with circDrain := tset s.circDrain i e 0 } else s) i s.arg.v (circState e))

def execCircuitUp (s : State) : Host.Outcome State Fault Refusal :=
  let e := tget s.circuits s.arg.idx 0
  if e.getLsbD 63 = true ∧ circState e = 1 then .next (putCircuit s s.arg.idx e 2) else .next s

def execCircuitDown (s : State) : Host.Outcome State Fault Refusal :=
  let e := tget s.circuits s.arg.idx 0
  let s := { s with circDrain := tdel s.circDrain s.arg.idx }
  if e.getLsbD 63 = true then .next s else .next (putCircuit s s.arg.idx e 0)

/-- An event of the module that no die causes is written by the lowest-numbered RUNNING die (log 32). -/
def moduleEvent (s : State) (e : Event) : State := eventMod s ((lowestUp s).getD 0) e

/-- An UP circuit loses a wavelength; with its last one it fails, V kept (R473). -/
def execWavelengthLoss (s : State) : Host.Outcome State Fault Refusal :=
  let i := s.arg.idx
  let e := tget s.circuits i 0
  if circState e ≠ 2 then .next s
  else
    let lost := tget s.circLost i 0 + 1
    let s := { s with circLost := tset s.circLost i lost 0 }
    let s := if circNw e ≤ lost then putCircuit s i e 3 else s
    .next (moduleEvent s { code := 0x8B, value := i })

/-! An access without a path for 2^20 counts (R379, R473). -/

/-- The die whose counts a wait runs on. -/
def waitDie (s : State) (w : PathWait) : Nat :=
  match w.engine.bind (findEng s) with
  | some e => e.core / 128
  | none => w.die

/-- The regions of an operation whose bytes were not delivered become POISONED with FORMER their holder. -/
def loseHeld (s : State) (o : OwnOp) : State :=
  ((regionsIn s o.ctx o.oid o.base o.len).filter (fun d =>
    decide (d.state = 1 ∨ d.state = 3) && (stuckIn s (partyCores s o.party) d.ctx d.oid d.base d.len).isSome)).foldl
    (fun s d => poisonQuiet s d.holder d) s

/-- The write-back of an ownership operation was not delivered: status 7. -/
def ownPathLost (s : State) (o : OwnOp) : State :=
  let s := loseHeld s o
  updOwn s o.id (fun o => { o with result := some 7, install := none })

/-- The write-back of a release was not delivered: the stuck lines of the core's path and their regions. -/
def releasePathLost (s : State) (core : Nat) : State :=
  let stuck := s.lines.filter (fun c =>
    (if c.l2 then decide (c.unit = l2Of core) else decide (c.unit = core)) && decide (c.dirty ≠ 0 ∨ c.tagDirty ≠ 0) &&
      decide (reach s (core / 128) (128 * c.line) ≠ .ok))
  let lost := s.deckles.filter (fun d => decide (d.state = 1 ∨ d.state = 3) && stuck.any (inRegion s d.ctx d.oid d.base d.len))
  let s := lost.foldl (fun s d => poisonQuiet s d.holder d) s
  { s with lines := s.lines.filter (fun c => !stuck.contains c) }

def pathLost (s : State) (w : PathWait) : State :=
  let s := { s with paths := s.paths.filter (fun p => decide (p.id ≠ w.id)) }
  match w.engine, w.own with
  | some e, _ => match findEng s e with | some e => engStop s e 7 | none => s
  | none, some o => match findOwn s o with | some o => ownPathLost s o | none => s
  | none, none =>
    if 8192 ≤ w.handle then hartFault s w.die (w.handle - 8192) w.acc w.off
    else
      match s.group? w.die w.handle w.grp with
      | none => s
      | some g =>
        if w.acc = 8 then releasePathLost s (128 * g.die + g.core)
        else
          takeTrap s w.die w.handle w.grp w.slot ((g.slotOf w.slot).map (·.pc) |>.getD 0)
            { code := 0x80, mask := w.mask, detail := pathDetail w.cap w.acc w.endpoint w.off }

def execPathTimeout (s : State) : Host.Outcome State Fault Refusal :=
  match s.paths.find? (fun w => decide (w.id = s.arg.id)) with
  | none => .next s
  | some w => if w.since + 2 ^ 20 ≤ (s.die (waitDie s w)).cycle then .next (pathLost s w) else .next s

/-! Seams (R380, R472). -/

/-- The width of a seam in GB/s. -/
def seamWidth (losses : Nat) : Nat := if losses = 0 then 1600 else if losses = 1 then 800 else if losses = 2 then 400 else 0

/-- A retrain to half width holds the seam's traffic for at most 2^16 counts; a third failure takes the seam down and
with it the twin's teams. -/
def seamFails (s : State) (t : Nat) : State :=
  let m := tget s.seams t {}
  let d := 2 * t
  if 3 ≤ m.losses ∨ 8 ≤ t then s
  else
    let n := m.losses + 1
    let m : Seam := { losses := n, till := if n < 3 then some ((s.die d).cycle + 65536) else none }
    let w := if s.running d then d else d + 1
    let s := eventMod { s with seams := tset s.seams t m {} } w { code := 0x8A, value := seamWidth n }
    if n < 3 then s
    else (disposeAll s [] (s.teams.filter (fun x => decide (x.die = d ∧ x.span = 3) && decide (x.state ≠ .discarding))) s).1

def execSeamRetrain (s : State) : Host.Outcome State Fault Refusal := .next (seamFails s s.arg.unit)

def execSeamRetrainComplete (s : State) : Host.Outcome State Fault Refusal :=
  let m := tget s.seams s.arg.unit {}
  .next { s with seams := tset s.seams s.arg.unit { m with till := none } {} }

/-! Fabric ports and the host link (R390, R453, R474). -/

def linkDown (s : State) (p : Nat) : State :=
  if 36 ≤ p ∨ 4 ≤ tget s.ports p 0 then s
  else
    moduleEvent { s with ports := tset s.ports p 4 0, replays := s.replays.filter (fun e => decide (e.1 / 2 ^ 32 ≠ p)) }
      { code := 0x8C, value := p }

/-- A replay of port p's flit with sequence number v; the sixteenth of one flit takes the link down. flag: the flit is
acknowledged, and its replays are over. -/
def execFlitReplay (s : State) : Host.Outcome State Fault Refusal :=
  let p := s.arg.p
  let k := 2 ^ 32 * p + s.arg.v.toNat % 2 ^ 32
  if 36 ≤ p ∨ 4 ≤ tget s.ports p 0 then .next s
  else if s.arg.flag then .next { s with replays := tset s.replays k 0 0 }
  else
    let n := tget s.replays k 0 + 1
    if 16 ≤ n then .next (linkDown s p) else .next { s with replays := tset s.replays k n 0 }

/-- The port is down: it lost lock, or its last wavelength. flag: it lost one wavelength, and stays up while one remains. -/
def execFabricLinkDown (s : State) : Host.Outcome State Fault Refusal :=
  let p := s.arg.p
  let n := tget s.ports p 0 + 1
  if s.arg.flag = true ∧ p < 36 ∧ n < 4 then .next { s with ports := tset s.ports p n 0 } else .next (linkDown s p)

/-- Staging-window copies meet LINK once a posted write is reported in error, or, flag clear, once the links of both
functions have stayed out of L0, of which this is function p's (R453). -/
def execHostLinkFailure (s : State) : Host.Outcome State Fault Refusal :=
  if s.arg.flag then .next { s with hostLinkDown := true }
  else
    let out := sIns s.hostOut (s.arg.p % 2)
    .next { s with hostOut := out, hostLinkDown := s.hostLinkDown || decide (out.length = 2) }

/-! Peer modules (R381, R382, R391, R474). -/

/-- This module's number is valid and some port is up. -/
def domainUp (s : State) : Bool := (s.reg 0x118).getLsbD 63 && (upto 36).any (fun p => decide (tget s.ports p 0 < 4))

/-- Entry m of the domain import table (R391). -/
def importEntry (s : State) (m : Nat) : Nat := rdNat s.hbm ((s.reg 0x120).toNat + 8 * m) 8

/-- The local context bound to a pair. -/
def boundCtx (s : State) (m c : Nat) : Option Nat :=
  let t := importEntry s m
  let e := rdNat s.hbm (bits t 39 0 + 2 * c) 2
  if m < 1024 ∧ c < 4096 ∧ bits t 63 63 = 1 ∧ bits e 15 15 = 1 then some (bits e 11 0) else none

/-- What an access asks, performed at the home: the answer's bytes, their marks, and the state. -/
def farPerform (s : State) (place : Nat) : FarKind → List Byte × List Bool × State
  | .read n => ((upto n).map (fun i => homeByte s (place + i)), homeMarks s place n, s)
  | .write bs => ([], [], wrHomes s place bs)
  | .atom op n v cmp =>
    let marks := homeMarks s place n
    if marks.any id then ([], marks, s)
    else
      let (m, s) := atomAt s op n place v cmp
      (leBytes n m, marks, s)

/-- The bytes an access spans. -/
def farLen : FarKind → Nat
  | .read n => n
  | .write bs => bs.length
  | .atom _ n _ _ => n

/-- Whether the fabric carries it (R390): reads of 4 to 128 bytes, writes of up to 128 within one line, atomics. -/
def farOk (off : Nat) : FarKind → Bool
  | .read n => decide (4 ≤ n ∧ n ≤ 128)
  | .write bs => decide (0 < bs.length ∧ off % 128 + bs.length ≤ 128)
  | .atom _ n _ _ => decide (n = 4 ∨ n = 8)

/-- Whether it stores. -/
def farStores : FarKind → Bool
  | .read _ => false
  | _ => true

/-- A far access at the owner: unbound pairs, and objects that the bound context does not have, answer a generation
fault; a home that is not reached answers nothing (log 33). -/
def farAccess (s : State) (m c roid off : Nat) (k : FarKind) : State :=
  let answer := fun (s : State) (d : Option (List Byte)) (marks : List Bool) =>
    { s with farReplies := s.farReplies ++ [{ module := m, ctx := c, data := d, marks := marks }] }
  if !domainUp s || s.lostPeers.contains m || !farOk off k then s
  else
    match boundCtx s m c with
    | none => answer s none []
    | some ctx =>
      let o := readObj s ctx roid
      if !o.valid || o.far || decide (o.size < off + farLen k) then answer s none []
      else
        match placeOf s o off with
        | none => answer s none []
        | some p =>
          if !s.running (stackOf p) then s
          else
            let (bs, marks, s) := farPerform (markPage s o (farStores k) off) p k
            answer (releaseDeps s) (some bs) marks

def execFarAccessArrival (s : State) : Host.Outcome State Fault Refusal :=
  .next (farAccess s s.arg.unit s.arg.ctx s.arg.oid s.arg.off s.arg.far)

/-- The object of a far entry: owner and id there (R381). -/
def farName (o : ObjEntry) : Nat × Nat := (bits o.plist 39 30, bits o.plist 29 2)

/-- A lend from the owner, which names the object by its id there, makes a shadow entry, PARKED; a return brings the
region back to this module's lender as a release at scope 8. oid names the local object of a lend. -/
def farMessage (s : State) (m c oid : Nat) : FarMsg → State
  | .lendIn roid base len =>
    let o := readObj s c oid
    if o.far && decide (farName o = (m, roid)) && !s.imports.any (fun i => decide (i.1 = c) && decide (i.2.1 = oid) && overlaps i.2.2.1 i.2.2.2 base len) then
      { s with imports := s.imports ++ [(c, oid, base, len)] }
    else s
  | .returnIn roid base =>
    match boundCtx s m c with
    | none => s
    | some ctx =>
      match s.deckles.find? (fun d => decide (d.ctx = ctx) && decide (d.oid = roid) && decide (d.base = base)) with
      | some d => if d.state = 1 ∧ d.holder = peerParty m then (returnNow s d (peerParty m)).1 else s
      | none => s

def execFarOwnershipMessage (s : State) : Host.Outcome State Fault Refusal :=
  if !domainUp s || s.lostPeers.contains s.arg.unit then .next s
  else .next (farMessage s s.arg.unit s.arg.ctx s.arg.oid s.arg.msg)

/-- The parts of a range that no entry covers, entries in rising order. -/
def gapsOf (base stop : Nat) : List Deckle → List (Nat × Nat)
  | [] => if base < stop then [(base, stop - base)] else []
  | d :: r => (if base < d.base then [(base, d.base - base)] else []) ++ gapsOf (max base (d.base + d.len)) stop r

/-- Deckle entries by rising base. -/
def byBase (ds : List Deckle) : List Deckle := ds.foldl ins []
where
  ins : List Deckle → Deckle → List Deckle
  | [], d => [d]
  | e :: r, d => if d.base < e.base then d :: e :: r else e :: ins r d

/-- An imported shadow region becomes POISONED, its PARKED parts too. -/
def loseImport (s : State) (i : Nat × Nat × Nat × Nat) : State :=
  let (ctx, oid, base, len) := i
  let ds := byBase (regionsIn s ctx oid base len)
  let s := ds.foldl (fun s d => poisonQuiet s d.holder d) s
  (gapsOf base (base + len) ds).foldl (fun s g => putDeckle s { ctx := ctx, oid := oid, base := g.1, len := g.2, state := 5 }) s

/-- The driver declares a peer lost (R474). -/
def losePeer (s : State) (m : Nat) : State :=
  let p := peerParty m
  let imps := s.imports.filter (fun i => decide ((farName (readObj s i.1 i.2.1)).1 = m))
  let mine := s.deckles.filter (fun d => decide (d.state = 1) && decide (d.holder = p))
  let ctxs := dedup (mine.map (·.ctx) ++ imps.map (·.1))
  let s := { s with lostPeers := sIns s.lostPeers m }
  let s := mine.foldl (fun s d => poisonQuiet s p d) s
  let s := (s.holds.filter (fun h => decide (h.party = p) && decide (h.kind % 2 = 1))).foldl (fun s h => disposeShare s p h) s
  let s := imps.foldl loseImport s
  let a := (s.reg 0x120).toNat + 8 * m
  let s := if s.hbm.isEmpty then s else wrHome s (a + 7) (homeByte s (a + 7) &&& 0x7F)
  let s := moduleEvent s { code := 0x90, value := m, party := p }
  ctxs.foldl (fun s c => eventCtx s ((lowestUp s).getD 0) { code := 0x90, value := m, party := p, ctx := c }) s

def execPeercmd (s : State) : Host.Outcome State Fault Refusal :=
  if s.arg.unit < 1024 then .next (losePeer s s.arg.unit) else .next s

end Sys2Proof.Machine
end

