-- ==== Sys2Proof/Machine/Boot.lean ====
section
/-! DEFINITION. Power, bring-up of the dies, and attestation (R18, R23 to R26, R379, R476 to R478). -/
namespace Sys2Proof.Machine

/-- What outlives the power of the module: the fuses, the memories of the host and of the peers, and the model's own
fields. -/
def afterPower (s : State) (on : Bool) : State :=
  { State.reset with powered := on, fuseDigest := s.fuseDigest, fuseSeed := s.fuseSeed, rollback := s.rollback, host := s.host,
                     far := s.far, drawn := s.drawn, agenda := s.agenda, arg := s.arg }

def execPowerUp (s : State) : Host.Outcome State Fault Refusal := if s.powered then .next s else .next (afterPower s true)

def execPowerDown (s : State) : Host.Outcome State Fault Refusal := if s.powered then .next (afterPower s false) else .next s

/-! Bring-up (R25, R476, R477). -/

/-- The first step of R25 that fails, if one does: the key, the signature, the version, the measurement, the start. -/
def bootFails (v : Config.ImageVerdict) (rollback : BitVec 16) : Option Nat :=
  if !v.keyOk then some 1 else if !v.sigOk then some 2 else if v.version < rollback then some 3
  else if !v.measureOk then some 4 else if !v.startOk then some 5 else none

/-- The entry index of the circuit that firmware sets up between two dies, d below e, and between a die and another die's
stack (R379, log 35). -/
def pairIndex (d e : Nat) : Nat := d * (31 - d) / 2 + (e - d - 1)
def stackIndex (d e : Nat) : Nat := 120 + 15 * d + (if e < d then e else e - 1)

/-- A circuit of 2 wavelengths. -/
def circOf (a b : Nat) : Dword := BitVec.ofNat 64 (2 ^ 63 + at_ a 54 7 + at_ b 47 7 + at_ 2 43 4)

/-- The circuits of a die that joins, with the RUNNING dies and their stacks (R379). -/
def joinCircuits (s : State) (d : Nat) : State :=
  ((upto 16).filter (fun e => decide (e ≠ d) && s.running e)).foldl (fun s e =>
    let s := circuitSet s (pairIndex (min d e) (max d e)) (circOf (min d e) (max d e))
    let s := circuitSet s (stackIndex d e) (circOf d (16 + e))
    circuitSet s (stackIndex e d) (circOf e (16 + d))) s

/-- A REJECTED die is logged once, by a RUNNING one (R476, log 34). -/
def logAbsent (s : State) : State :=
  (upto 16).foldl (fun s d =>
    let x := s.die d
    if x.boot = 2 ∧ x.absentLogged = false ∧ (lowestUp s).isSome = true then
      moduleEvent (s.setDie d { x with absentLogged := true }) { code := 0x8F, value := d }
    else s) s

/-- R25 for one die and the image at an HBM physical address. -/
def bootDie (s : State) (d addr : Nat) : State :=
  let v := Config.verifyImage s.fuseDigest addr s.hbm
  let x := s.die d
  let x := { x with version := v.version, tries := min 15 (x.tries + 1) }
  match bootFails v s.rollback with
  | some n => logAbsent (s.setDie d { x with boot := 2, bootStep := n, measurement := if n = 5 then v.measurement else x.measurement })
  | none =>
    logAbsent (joinCircuits (s.setDie d { x with boot := 1, bootStep := 0, measurement := v.measurement, cycle := 0 }) d)

def execBootcmd (s : State) : Host.Outcome State Fault Refusal :=
  let d := s.arg.die
  let b := (s.die d).boot
  if s.powered = false ∨ 16 ≤ d ∨ b = 1 ∨ b = 3 ∨ s.arg.v.getLsbD 0 = false then .next s
  else .next (bootDie s d (bits s.arg.v.toNat 63 24))

/-! Attestation (R26, R477, R478). -/

/-- The nonce: 32 bytes from +0 of the window. -/
def attestNonce (s : State) : BitVec 256 :=
  BitVec.ofNat 256 ((upto 4).foldl (fun v i => v + 2 ^ (64 * i) * (s.reg (0x390000 + 8 * i)).toNat) 0)

def attestStatus (s : State) (n : Nat) : State := s.setReg 0x390028 (BitVec.ofNat 64 n)

/-- ABSENT: the dies that are not RUNNING. -/
def absentMask (s : State) : Nat := (upto 16).foldl (fun v d => v + (if s.running d then 0 else 2 ^ d)) 0

def execAttestReport (s : State) : Host.Outcome State Fault Refusal :=
  if (lowestUp s).isNone then .next s
  else
    let t := { s with report := some {
      code := "ETV-BZ1", key := Config.identityKey s.fuseSeed
      measurements := (upto 16).map (fun d => if s.running d then (s.die d).measurement else 0)
      rollback := s.rollback, nonce := attestNonce s, absent := BitVec.ofNat 16 (absentMask s) } }
    .next (attestStatus t (if absentMask s = 0 then 0 else 2))

/-- v: the command, its version in [31:16]; flag: the fuse write fails. A version no greater than the counter changes
nothing, since the counter only increases. -/
def execAttestRaise (s : State) : Host.Outcome State Fault Refusal :=
  let v := BitVec.ofNat 16 (bits s.arg.v.toNat 31 16)
  if (lowestUp s).isNone then .next s
  else if (upto 16).any (fun d => s.running d && decide ((s.die d).version < v)) then .next (attestStatus s 3)
  else if s.arg.flag then .next (attestStatus s 4)
  else .next (attestStatus { s with rollback := if s.rollback < v then v else s.rollback } 0)

end Sys2Proof.Machine
end

