-- ==== Sys2Proof/Machine/Control.lean ====
section
/-! DEFINITION. Branches, calls, joins, exits and pauses: majors 0x38 to 0x3B (R36, R40 to R46, R248 to R251). -/
namespace Sys2Proof.Machine

/-! Targets. -/

/-- The target of a J word (R145). -/
def jTarget (c : Ctx) (disp : BitVec 22) : Nat := wrapN ((c.sword : Int) + 4 * disp.toInt) 40

/-- The lanes that take a J branch (R148). -/
def takers (c : Ctx) (k : Nat) (n : Bool) : Mask :=
  c.act &&& (if n then ~~~(readK c.g c.x k) else readK c.g c.x k)

/-- The target of each active lane of BRX and CALLX (R250). -/
def laneTarget (c : Ctx) (a : Src) (l : Nat) : Nat := wrapN ((c.sword : Int) + sextN (c.rd (.int 32) a l) 32) 40

/-- A split that has taken a backward branch gives up its PC slot at the end of the run (R40). -/
def Split.turned (x : Split) (sword target : Nat) : Split := { x with rotate := x.rotate || decide (target ≤ sword) }

/-! J format (R248). -/

/-- The lanes that take the branch go to the target, the others to the next unit (R36). -/
def branchEffect (call : Bool) (join : Nat) (take : Mask) (target : Nat) (c : Ctx) (g : Group) : Group :=
  if take = 0 then g
  else if take = c.x.mask then
    (g.divide c.slot [{ mask := take, pc := target, call := call }] c.next).updSlot c.slot (·.turned c.sword target)
  else
    let g := if join ≠ 0 then g.openFam c.slot ((c.sword + 4 * join) % 2 ^ 40) else g
    g.divide c.slot [{ mask := c.x.mask &&& ~~~take, pc := c.next }, { mask := take, pc := target, call := call }] c.next

/-- CALLDEPTH and RSFULL (R44, R410): the lanes that call, and the entries they need. -/
def callGate (c : Ctx) (take : Mask) (need : Nat) : Gate :=
  let used := c.g.rets.length
  let t := fun code : Nat => Gate.trap { code := code, mask := take, detail := at_ used 8 9 + at_ c.x.depth 0 8 }
  if take = 0 then .go
  else if 255 ≤ c.x.depth then t 0x06
  else if 256 < used + need then t 0x07
  else .go

def execBra (x : BraU) (s : State) :=
  issue { h := x.h, refs := kRead x.k
          effect := fun c s =>
            c.commit s (branchEffect false x.h.pfx.imm (takers c x.k x.n) (jTarget c x.disp) c) } s

def execCall (x : BraU) (s : State) :=
  issue { h := x.h, refs := kRead x.k
          gate := fun c _ => callGate c (takers c x.k x.n) 1
          effect := fun c s => c.commit s (branchEffect true 0 (takers c x.k x.n) (jTarget c x.disp) c) } s

def execJmp (x : JmpU) (s : State) :=
  issue { h := x.h
          effect := fun c s => c.commit s (branchEffect false 0 c.x.mask (jTarget c x.disp) c) } s

/-! BRX, CALLX (R36, R250). -/

/-- The lanes of the split by target: those outside the active set are bound for the next unit; the first part is that of
the lowest active lane, the others by their lowest lane. -/
def laneParts (c : Ctx) (a : Src) (call : Bool) : List Part :=
  let ts := ((upto c.g.width).filter (fun l => mbit c.x.mask l)).map (fun l =>
    (l, if mbit c.act l then laneTarget c a l else c.next))
  let first := match c.lanes with | l :: _ => laneTarget c a l | [] => c.next
  let keys := dedup (first :: ts.map (·.2))
  keys.map (fun t =>
    let ls := (ts.filter (fun p => decide (p.2 = t))).map (·.1)
    { mask := maskOf ls, pc := t, call := call && ls.any (fun l => mbit c.act l) })

def targetGate (c : Ctx) (a : Src) : Gate :=
  match c.lanes.filter (fun l => decide (laneTarget c a l % 4 ≠ 0)) with
  | [] => .go
  | l :: r => .trap { code := 0x08, mask := maskOf (l :: r), detail := laneTarget c a l }

def laneBranch (a : Src) (call : Bool) (c : Ctx) (g : Group) : Group :=
  match laneParts c a call with
  | [] => g
  | p :: r => (g.divide c.slot (p :: r) c.next).updSlot c.slot (fun x => if c.act = 0 then x else x.turned c.sword p.pc)

def execBrx (x : BrxU) (s : State) :=
  issue { h := x.h, refs := srcRefs x.a 1
          gate := fun c _ => targetGate c x.a
          effect := fun c s => c.commit s (laneBranch x.a false c) } s

def execCallx (x : BrxU) (s : State) :=
  issue { h := x.h, refs := srcRefs x.a 1
          gate := fun c _ => (targetGate c x.a).both fun _ =>
            callGate c c.act ((laneParts c x.a true).filter (·.call)).length
          effect := fun c s => c.commit s (laneBranch x.a true c) } s

/-! RET, JOIN, EXIT (R43, R44, R46). -/

/-- RET of a split with a return entry. -/
def retSplit (i : Nat) (g : Group) : Group :=
  match g.slotOf i with
  | none => g
  | some x =>
    match x.rsp.bind (tfind g.rets) with
    | none => g
    | some e => (g.putSlot i (some { x with pc := e.rpc, rsp := e.link, depth := x.depth - 1 })).dropRets

def execRet (x : NoneU) (s : State) :=
  issue { h := x.h, ret := true
          gate := fun c _ => if c.x.depth = 0 then Gate.trap { code := 0x05, mask := c.act } else Gate.go
          effect := fun c s => c.commit s (retSplit c.slot) } s

/-- A split that arrives waits, and the family merges when it was the last. -/
def joinSplit (c : Ctx) (g : Group) : Group :=
  match g.slotOf c.slot with
  | none => g
  | some x => if g.joins x c.sword then (g.putSlot c.slot (some { x with wait := .join })).mergeJoins else g

def execJoin (x : NoneU) (s : State) :=
  issue { h := x.h, effect := fun c s => c.commit s (joinSplit c) } s

/-- The active lanes retire; the split ends when none is left; a group with no lane left waits for R47. -/
def exitLanes (c : Ctx) (g : Group) : Group :=
  match g.slotOf c.slot with
  | none => g
  | some x =>
    let m := x.mask &&& ~~~c.act
    let g := { (g.putSlot c.slot (if m = 0 then none else some { x with mask := m })) with live := g.live &&& ~~~c.act }
    let g := g.mergeJoins.dropRets
    { g with exited := decide (g.live = 0) }

def execExit (x : NoneU) (s : State) :=
  issue { h := x.h
          effect := fun c s => settleTeam (c.commit s (exitLanes c)) c.die c.handle } s

/-! YIELD, NOP, SLEEP (R251). -/

/-- YIELD is a rotation point; with no split of the group waiting, the group stands back for one cycle. -/
def yieldSplit (c : Ctx) (cycle : Nat) (g : Group) : Group :=
  let h := g.updSlot c.slot (fun x => { x with rotate := true })
  if g.anyRunnable then h else { h with yielded := some cycle }

def execYield (x : NoneU) (s : State) :=
  issue { h := x.h, effect := fun c s => c.commit s (yieldSplit c (s.die c.g.die).cycle) } s

def execNop (x : NoneU) (s : State) := issue { h := x.h } s

def execSleep (x : SargU) (s : State) :=
  issue { h := x.h, refs := ssrcRefs x.a
          effect := fun c s =>
            let n := c.rdS false x.a % 2 ^ 32
            c.commit s (fun g => g.updSlot c.slot (fun x =>
              if n = 0 then x else { x with wait := .sleep ((s.die c.g.die).cycle + n) })) } s

/-- A split's sleep is over. -/
def Split.wake (cycle : Nat) (x : Split) : Split :=
  match x.wait with
  | .sleep till => if till ≤ cycle then { x with wait := .none } else x
  | _ => x

def execSleepExpiry (s : State) : Host.Outcome State Fault Refusal :=
  let a := s.arg
  .next (s.updGroup a.die a.handle a.grp (fun g => (g.mapSplits (Split.wake (s.die g.die).cycle)).settle))

end Sys2Proof.Machine
end

