-- ==== Sys2Proof/Machine/Approx.lean ====
section
/-! DEFINITION. The approximate functions of major 0x12 other than FRCP and FRSQ: their exact values enclosed in integers
over 2^384, the bounds of R194, and the special cases of R195. The delivered value is Config.approx where that lies within
the bound, and the nearest code where it does not (log 4). -/
namespace Sys2Proof.Machine

/-- The value of a code as a multiple of 2^−149, the spacing of the smallest f32 numbers; finite codes only. -/
def fixedOf (a : Nat) : Int :=
  match Fmt.f32.dec a with
  | .fin s m e => if s then -((m * 2 ^ (e + 149).toNat : Nat) : Int) else (m * 2 ^ (e + 149).toNat : Nat)
  | _ => 0

/-! Integers over 2^384. -/

/-- ln 2 and π, rounded down. -/
def ln2Fix : Int := 0xB17217F7D1CF79ABC9E3B39803F2F6AF40F343267298B62D8A0D175B8BAAFA2BE7B876206DEBAC98559552FB4AFA1B10
def piFix : Int := 
  0x3243F6A8885A308D313198A2E03707344A4093822299F31D0082EFA98EC4E6C89452821E638D01377BE5466CF34E90C6C

def mulFix (x y : Int) : Int := x * y / 2 ^ 384
def divFix (x y : Int) : Int := x * 2 ^ 384 / y

/-- A finite code. -/
def codeFix (a : Nat) : Int := fixedOf a * 2 ^ 235

/-- The sum of n terms of a power series from term k, t its term: each term is the last by f k, divided by g k. -/
def series (x : Int) (g : Nat → Int) : Nat → Nat → Int → Int
  | 0, _, _ => 0
  | n + 1, k, t => t + series x g n (k + 1) (mulFix t x / g (k + 1))

/-- e^x for 0 ≤ x < 1. -/
def expFix (x : Int) : Int := series x (fun k => k) 90 0 (2 ^ 384)

/-- 2^x for 0 ≤ x < 1. -/
def exp2Fix (x : Int) : Int := expFix (mulFix x ln2Fix)

/-- The terms u^(2k+1)/(2k+1) of the inverse hyperbolic tangent. -/
def atanhSum (u : Int) : Nat → Nat → Int → Int
  | 0, _, _ => 0
  | n + 1, k, p => p / (2 * k + 1 : Nat) + atanhSum u n (k + 1) (mulFix (mulFix p u) u)

/-- ln y for 1 ≤ y < 2. -/
def lnFix (y : Int) : Int :=
  let u := divFix (y - 2 ^ 384) (y + 2 ^ 384)
  2 * atanhSum u 130 0 u

/-- log2 (m 2^e), for m not 0. -/
def log2Fix (m : Nat) (e : Int) : Int :=
  let k := Nat.log2 m
  ((k : Int) + e) * 2 ^ 384 + divFix (lnFix ((m * 2 ^ 384 / 2 ^ k : Nat))) ln2Fix

/-- sin r and cos r for r of at most π/4. -/
def sinSmall (r : Int) : Int := series (mulFix r r) (fun k => -((2 * k) * (2 * k + 1) : Nat)) 45 0 r
def cosSmall (r : Int) : Int := series (mulFix r r) (fun k => -((2 * k - 1) * (2 * k) : Nat)) 45 0 (2 ^ 384)

/-- sin a, or sin (a + π/2). -/
def sinFix (a : Int) (quarter : Int) : Int :=
  let half := piFix / 2
  let k := (2 * a + half) / (2 * half)
  let r := a - k * half
  let j := (k + quarter) % 4
  if j = 0 then sinSmall r else if j = 1 then cosSmall r else if j = 2 then -sinSmall r else -cosSmall r

/-- e^−x for x of at least 0. -/
def expNeg (x : Int) : Int :=
  if 384 * 2 ^ 384 ≤ x then 0
  else
    let z := -divFix x ln2Fix
    let n := z / 2 ^ 384
    exp2Fix (z - n * 2 ^ 384) / 2 ^ (-n).toNat

def tanhFix (a : Int) : Int :=
  let e := expNeg (2 * (a.natAbs : Int))
  let t := divFix (2 ^ 384 - e) (2 ^ 384 + e)
  if a < 0 then -t else t

def sigmFix (a : Int) : Int :=
  let e := expNeg (a.natAbs : Int)
  if a < 0 then divFix e (2 ^ 384 + e) else divFix (2 ^ 384) (2 ^ 384 + e)

/-! The bounds (R194). -/

/-- A finite code lies within b 2^g of y 2^h. The exact value lies nearer to y 2^h than to any point at which this changes. -/
def nearCode (t : Nat) (y h : Int) (b : Nat) (g : Int) : Bool :=
  match Fmt.f32.dec t with
  | .fin s m e =>
    let low := min e (min h g)
    let v := signedAt s m e low - y * (2 ^ (h - low).toNat : Nat)
    decide (v.natAbs ≤ b * 2 ^ (g - low).toNat)
  | _ => false

/-- The code nearest to y 2^h. -/
def nearestCode (y h : Int) : Nat := (convQ .f32 .ne false (decide (y < 0)) y.natAbs 1 h).1

/-- The delivered code: free within the bound and a further condition. -/
def delivered (k : Config.Approx) (a : Nat) (y h : Int) (b : Nat) (g : Int) (also_ : Nat → Bool) : Nat :=
  let t := (Config.approx k (BitVec.ofNat 32 a)).toNat
  if nearCode t y h b g && also_ t then t else nearestCode y h

/-- NX for a finite nonzero result (R195). -/
def inexactNZ (t : Nat) : FFlags := if t % 2 ^ 31 = 0 then 0 else fNX

/-- A code within [−1, 1]. -/
def inUnit (t : Nat) : Bool := decide (t % 2 ^ 31 ≤ 0x3F800000)
/-- A code within [0, 1]. -/
def inZeroOne (t : Nat) : Bool := decide (t ≤ 0x3F800000) || decide (t = 2 ^ 31)

def f32InfCode (neg : Bool) : Nat := Fmt.f32.infCode neg
def f32One : Nat := 0x3F800000

/-- The f32 code of ± 2^k for k from −149 to 127. -/
def pow2Code (neg : Bool) (k : Int) : Nat := Fmt.f32.encFin neg 1 k

def isPow2 (m : Nat) : Bool := decide (m ≠ 0) && decide (2 ^ Nat.log2 m = m)

def fexp2Of (a : Nat) : Nat × FFlags :=
  match Fmt.f32.dec a with
  | .nan => (Fmt.f32.nanCode, 0)
  | .inf s => if s then (0, 0) else (f32InfCode false, 0)
  | .fin _ _ _ =>
    let x := fixedOf a
    if 128 * 2 ^ 149 ≤ x then (f32InfCode false, fOF ||| fNX)
    else
      let n := x / 2 ^ 149
      if x % 2 ^ 149 = 0 ∧ -149 ≤ n then (pow2Code false n, 0)
      else
        -- below 2^−400 the exact value is less than every bound and every code
        let n := max n (-400)
        let y := if x / 2 ^ 149 < -400 then 2 ^ 384 else exp2Fix (x % 2 ^ 149 * 2 ^ 235)
        let t := delivered .fexp2 a y (n - 384) 2 (max n (-126) - 23) (fun _ => true)
        (t, inexactNZ t ||| ((convQ .f32 .ne false false y.natAbs 1 (n - 384)).2 &&& fUF))

/-- The f32 code of a small integer. -/
def intCode (n : Int) : Nat := Fmt.f32.encFin (decide (n < 0)) n.natAbs 0

def flog2Of (a : Nat) : Nat × FFlags :=
  match Fmt.f32.dec a with
  | .nan => (Fmt.f32.nanCode, 0)
  | .inf s => if s then (Fmt.f32.nanCode, fNV) else (f32InfCode false, 0)
  | .fin s m e =>
    if m = 0 then (f32InfCode true, fDZ)
    else if s then (Fmt.f32.nanCode, fNV)
    else if isPow2 m then (intCode ((Nat.log2 m : Int) + e), 0)
    else
      let y := log2Fix m e
      let n := (Nat.log2 m : Int) + e
      let t :=
        if -1 ≤ n ∧ n < 1 then delivered .flog2 a y (-384) 1 (-22) (fun _ => true)
        else delivered .flog2 a y (-384) 2 ((Nat.log2 y.natAbs : Int) - 384 - 23) (fun _ => true)
      (t, inexactNZ t)

/-- FSIN (quarter 0) and FCOS (quarter 1) of a nonzero operand. -/
def trigCode (k : Config.Approx) (a : Nat) (quarter : Int) : Nat :=
  if 2 ^ 15 * 2 ^ 149 < (fixedOf a).natAbs then
    let t := (Config.approx k (BitVec.ofNat 32 a)).toNat
    if inUnit t then t else 0
  else delivered k a (sinFix (codeFix a) quarter) (-384) 1 (-21) (fun _ => true)

/-- A nonzero operand below 2^−126 in magnitude: its sine and tangent are tiny and inexact (R195). -/
def tinyArg (a : Nat) : Bool := decide ((fixedOf a).natAbs < 2 ^ 23)

def fsinOf (a : Nat) : Nat × FFlags :=
  match Fmt.f32.dec a with
  | .nan => (Fmt.f32.nanCode, 0)
  | .inf _ => (Fmt.f32.nanCode, 0)
  | .fin _ m _ =>
    if m = 0 then (a, 0)
    else
      let t := trigCode .fsin a 0
      (t, inexactNZ t ||| (if tinyArg a then fUF else 0))

def fcosOf (a : Nat) : Nat × FFlags :=
  match Fmt.f32.dec a with
  | .nan => (Fmt.f32.nanCode, 0)
  | .inf _ => (Fmt.f32.nanCode, 0)
  | .fin _ m _ =>
    if m = 0 then (f32One, 0)
    else
      let t := trigCode .fcos a 1
      (t, inexactNZ t)

def ftanhOf (a : Nat) : Nat × FFlags :=
  match Fmt.f32.dec a with
  | .nan => (Fmt.f32.nanCode, 0)
  | .inf s => (f32One + (if s then 2 ^ 31 else 0), 0)
  | .fin _ m _ =>
    if m = 0 then (a, 0)
    else
      let t := delivered .ftanh a (tanhFix (codeFix a)) (-384) 1 (-22) inUnit
      (t, inexactNZ t ||| (if tinyArg a then fUF else 0))

/-- 1/(1 + exp(−a)) is tiny and nonzero after rounding exactly for the f32 operands from −13627828 to −11447376 times
2^−17 (126 ln 2 and 150 ln 2). -/
def sigmTiny (a : Nat) : Bool :=
  decide (-13627828 * 2 ^ 132 ≤ fixedOf a) && decide (fixedOf a ≤ -11447376 * 2 ^ 132)

def fsigmOf (a : Nat) : Nat × FFlags :=
  match Fmt.f32.dec a with
  | .nan => (Fmt.f32.nanCode, 0)
  | .inf s => (if s then 0 else f32One, 0)
  | .fin _ m _ =>
    if m = 0 then (0x3F000000, 0)
    else
      let t := delivered .fsigm a (sigmFix (codeFix a)) (-384) 1 (-22) inZeroOne
      (t, inexactNZ t ||| (if sigmTiny a then fUF else 0))

end Sys2Proof.Machine
end

