-- ==== Sys2Proof/Machine/IntAlu.lean ====
section
/-! DEFINITION. Integer instructions of majors 0x00 to 0x0B (R176 to R186). -/
namespace Sys2Proof.Machine

/-- Element width and count of a TYPE (R162). -/
def intTy (ty : Nat) : Nat × Nat :=
  if ty = 0 then (32, 1) else if ty = 1 then (64, 1) else if ty = 2 then (16, 2) else (8, 4)

/-- Registers per lane of a TYPE. -/
def regsOf (ty : Nat) : Nat := if ty = 1 then 2 else 1

/-- 1 sheaf, or 2 at TYPE 1 (R176). -/
def price12 (h : Hdr) : Nat := regsOf h.pfx.ty

/-- The result of one lane from its elements (R172): r maps width and the elements of A, B and Dold to an integer. -/
def intLane (c : Ctx) (ty : Nat) (sg : Bool) (d : Dst) (a b : Src) (r : Nat → Nat → Nat → Nat → Int) (l : Nat) : Nat :=
  let (w, n) := intTy ty
  if ty = 1 then wrapN (r 64 (c.rd64 sg a l) (c.rd64 sg b l) (c.old64 d l)) 64
  else
    let av := c.rd (.int w) a l
    let bv := c.rd (.int w) b l
    let dv := c.old d l
    packed w n (fun e => wrapN (r w (elem av w e) (elem bv w e) (elem dv w e)) w)

/-- A three-operand integer unit; sg is the Sign column's S, rdD the "D read" mark. -/
def intUnit (x : V3) (price : Nat) (sg rdD : Bool) (r : Nat → Nat → Nat → Nat → Int) : UnitOp :=
  let ty := x.h.pfx.ty
  let n := regsOf ty
  regUnit x.h (dstW x.d) (refsOf [dstRefs x.d n rdD, srcRefs x.a n, srcRefs x.b n]) price
    (fun c => c.put x.d n (intLane c ty sg x.d x.a x.b r))

/-- An integer unit that leaves B unread. -/
def intUnit1 (x : V2) (price : Nat) (sg : Bool) (r : Nat → Nat → Int) : UnitOp :=
  let ty := x.h.pfx.ty
  let n := regsOf ty
  regUnit x.h (dstW x.d) (refsOf [dstRefs x.d n false, srcRefs x.a n]) price
    (fun c => c.put x.d n (intLane c ty sg x.d x.a .zero (fun w a _ _ => r w a)))

/-- sat(x, .iw, ne, 0): the nearest value of the signed range (R113). -/
def satS (x : Int) (w : Nat) : Int := max (-(2 ^ (w - 1) : Nat)) (min x ((2 ^ (w - 1) : Nat) - 1))

def notN (x w : Nat) : Nat := 2 ^ w - 1 - x % 2 ^ w

/-! Major 0x00 (R176). -/

def execIadd (x : V3) (s : State) := issue (intUnit x (price12 x.h) false false (fun _ a b _ => a + b)) s
def execIsub (x : V3) (s : State) := issue (intUnit x (price12 x.h) false false (fun _ a b _ => (a : Int) - b)) s
def execIadds (x : V3) (s : State) :=
  issue (intUnit x (price12 x.h) true false (fun w a b _ => satS (sextN a w + sextN b w) w)) s
def execIsubs (x : V3) (s : State) :=
  issue (intUnit x (price12 x.h) true false (fun w a b _ => satS (sextN a w - sextN b w) w)) s
def execImin (x : V3) (s : State) :=
  issue (intUnit x (price12 x.h) true false (fun w a b _ => min (sextN a w) (sextN b w))) s
def execImax (x : V3) (s : State) :=
  issue (intUnit x (price12 x.h) true false (fun w a b _ => max (sextN a w) (sextN b w))) s
def execNmin (x : V3) (s : State) := issue (intUnit x (price12 x.h) false false (fun _ a b _ => min a b)) s
def execNmax (x : V3) (s : State) := issue (intUnit x (price12 x.h) false false (fun _ a b _ => max a b)) s
def execIabs (x : V2) (s : State) := issue (intUnit1 x (price12 x.h) true (fun w a => (sextN a w).natAbs)) s
def execIneg (x : V2) (s : State) := issue (intUnit1 x (price12 x.h) false (fun _ a => -(a : Int))) s
def execIavg (x : V3) (s : State) :=
  issue (intUnit x (price12 x.h) true false (fun w a b _ => (sextN a w + sextN b w + 1) / 2)) s
def execIdiff (x : V3) (s : State) :=
  issue (intUnit x (price12 x.h) true false (fun w a b _ => (sextN a w - sextN b w).natAbs)) s

/-- The carry chain through k7 (R177): the result and the carry or borrow out of one lane. -/
def carryUnit (x : V3) (r : Nat → Nat → Nat → Nat × Bool) : UnitOp :=
  regUnit x.h (dstW x.d) (refsOf [dstRefs x.d 1 false, srcRefs x.a 1, srcRefs x.b 1, kRead 7]) 1
    (fun c g =>
      let f := fun l => r (c.rd (.int 32) x.a l) (c.rd (.int 32) x.b l) (btn (mbit (readK c.g c.x 7) l))
      c.putK 7 (fun l => (f l).2) (c.put x.d 1 (fun l => (f l).1) g))

def execIaddc (x : V3) (s : State) :=
  issue (carryUnit x (fun a b k => ((a + b + k) % 2 ^ 32, decide (2 ^ 32 ≤ a + b + k)))) s
def execIsubb (x : V3) (s : State) :=
  issue (carryUnit x (fun a b k => (wrapN ((a : Int) - b - k) 32, decide (a < b + k)))) s

/-! Major 0x01 (R178, R179). -/

def execImul (x : V3) (s : State) := issue (intUnit x (price12 x.h) false false (fun _ a b _ => a * b)) s
def execImulh (x : V3) (s : State) :=
  issue (intUnit x (price12 x.h) true false (fun w a b _ => sextN a w * sextN b w / (2 ^ w : Nat))) s
def execNmulh (x : V3) (s : State) :=
  issue (intUnit x (price12 x.h) false false (fun w a b _ => (a * b / 2 ^ w : Nat))) s
def execImad (x : V3) (s : State) := issue (intUnit x (price12 x.h) false true (fun _ a b d => a * b + d)) s
def execImadh (x : V3) (s : State) :=
  issue (intUnit x (price12 x.h) true true (fun w a b d => (sextN a w * sextN b w + sextN d w) / (2 ^ w : Nat))) s

/-- u(d) plus the signed products of the packed elements of width w (R178). -/
def dotInt (w n a b d : Nat) : Int :=
  (upto n).foldl (fun (v : Int) e => v + sextN (elem a w e) w * sextN (elem b w e) w) (d : Int)

/-- IDOT4 and IDOT2 read their operands as packed elements; the sum is one 32-bit word. -/
def dotUnit (x : V3) (w n : Nat) : UnitOp :=
  regUnit x.h (dstW x.d) (refsOf [dstRefs x.d 1 true, srcRefs x.a 1, srcRefs x.b 1]) 1
    (fun c => c.put x.d 1 (fun l => wrapN (dotInt w n (c.rd (.int w) x.a l) (c.rd (.int w) x.b l) (c.old x.d l)) 32))

def execIdot4 (x : V3) (s : State) := issue (dotUnit x 8 4) s
def execIdot2 (x : V3) (s : State) := issue (dotUnit x 16 2) s

/-- The quotient truncated toward zero; all bits set for a divisor of 0 (R179). -/
def divS (w a b : Nat) : Int := if b = 0 then -1 else (sextN a w).tdiv (sextN b w)
def remS (w a b : Nat) : Int := if b = 0 then a else (sextN a w).tmod (sextN b w)
def divU (w a b : Nat) : Int := if b = 0 then (2 ^ w - 1 : Nat) else (a / b : Nat)
def remU (_ a b : Nat) : Int := if b = 0 then a else (a % b : Nat)

def execIdiv (x : V3) (s : State) := issue (intUnit x (3 * price12 x.h) true false (fun w a b _ => divS w a b)) s
def execIrem (x : V3) (s : State) := issue (intUnit x (3 * price12 x.h) true false (fun w a b _ => remS w a b)) s
def execNdiv (x : V3) (s : State) := issue (intUnit x (3 * price12 x.h) false false (fun w a b _ => divU w a b)) s
def execNrem (x : V3) (s : State) := issue (intUnit x (3 * price12 x.h) false false (fun w a b _ => remU w a b)) s

/-! Major 0x02 (R180, R181). -/

def execAnd (x : V3) (s : State) := issue (intUnit x (price12 x.h) false false (fun _ a b _ => (a &&& b : Nat))) s
def execOr (x : V3) (s : State) := issue (intUnit x (price12 x.h) false false (fun _ a b _ => (a ||| b : Nat))) s
def execXor (x : V3) (s : State) := issue (intUnit x (price12 x.h) false false (fun _ a b _ => (a ^^^ b : Nat))) s
def execAndn (x : V3) (s : State) :=
  issue (intUnit x (price12 x.h) false false (fun w a b _ => (a &&& notN b w : Nat))) s
def execOrn (x : V3) (s : State) :=
  issue (intUnit x (price12 x.h) false false (fun w a b _ => (a ||| notN b w : Nat))) s
def execXnor (x : V3) (s : State) :=
  issue (intUnit x (price12 x.h) false false (fun w a b _ => notN (a ^^^ b) w)) s
def execNot (x : V2) (s : State) := issue (intUnit1 x (price12 x.h) false (fun w a => notN a w)) s

/-- g(f, x, y) of R180. -/
def comb2 (f w x y : Nat) : Nat :=
  if f = 0 then x &&& y else if f = 1 then x ||| y else if f = 2 then x ^^^ y else if f = 3 then x &&& notN y w
  else if f = 4 then x ||| notN y w else if f = 5 then notN (x ^^^ y) w else if f = 6 then notN (x &&& y) w
  else notN (x ||| y) w

def lcombOf (ctl w a b d : Nat) : Nat :=
  let a1 := if bits ctl 6 6 = 1 then notN a w else a
  let b1 := if bits ctl 7 7 = 1 then notN b w else b
  let d1 := if bits ctl 8 8 = 1 then notN d w else d
  comb2 (bits ctl 5 3) w (comb2 (bits ctl 2 0) w a1 b1) d1

def execLcomb (x : V3) (s : State) :=
  issue (intUnit x (price12 x.h) false true (fun w a b d => lcombOf x.h.pfx.imm w a b d)) s

def shlN (w a n : Nat) : Int := (a * 2 ^ n % 2 ^ w : Nat)
def shrN (_ a n : Nat) : Int := (a / 2 ^ n : Nat)
def sraN (w a n : Nat) : Int := sextN a w / (2 ^ n : Nat)
def rolN (w a n : Nat) : Int := ((a * 2 ^ n ||| a / 2 ^ (w - n)) % 2 ^ w : Nat)
def rorN (w a n : Nat) : Int := ((a / 2 ^ n ||| a * 2 ^ (w - n)) % 2 ^ w : Nat)

def execShl (x : V3) (s : State) := issue (intUnit x (price12 x.h) false false (fun w a b _ => shlN w a (b % w))) s
def execShr (x : V3) (s : State) := issue (intUnit x (price12 x.h) false false (fun w a b _ => shrN w a (b % w))) s
def execSra (x : V3) (s : State) := issue (intUnit x (price12 x.h) true false (fun w a b _ => sraN w a (b % w))) s
def execRol (x : V3) (s : State) := issue (intUnit x (price12 x.h) false false (fun w a b _ => rolN w a (b % w))) s
def execRor (x : V3) (s : State) := issue (intUnit x (price12 x.h) false false (fun w a b _ => rorN w a (b % w))) s
def execFshl (x : V3) (s : State) :=
  issue (intUnit x (price12 x.h) false true (fun _ a b d => (bits ((a * 2 ^ 32 + b) * 2 ^ (d % 32)) 63 32 : Nat))) s
def execFshr (x : V3) (s : State) :=
  issue (intUnit x (price12 x.h) false true (fun _ a b d => (bits ((a * 2 ^ 32 + b) / 2 ^ (d % 32)) 31 0 : Nat))) s

/-! Major 0x03 (R182, R183). -/

def execPopc (x : V2) (s : State) := issue (intUnit1 x (price12 x.h) false (fun w a => popN a w)) s
def execClz (x : V2) (s : State) := issue (intUnit1 x (price12 x.h) false (fun w a => clzN a w)) s
def execCtz (x : V2) (s : State) := issue (intUnit1 x (price12 x.h) false (fun w a => ctzN a w)) s
def execBrev (x : V2) (s : State) := issue (intUnit1 x (price12 x.h) false (fun w a => revN a w)) s

/-- Position and length of BFX, BFXN and BFI. -/
def fieldPos (b : Nat) : Nat := bits b 4 0
def fieldLen (b : Nat) : Nat := min (bits b 13 8) (32 - fieldPos b)
def fieldMask (pos len : Nat) : Nat := (2 ^ len - 1) * 2 ^ pos

def execBfx (x : V3) (s : State) :=
  issue (intUnit x (price12 x.h) true false (fun _ a b _ =>
    if fieldLen b = 0 then 0 else sextN (a / 2 ^ fieldPos b) (fieldLen b))) s
def execBfxn (x : V3) (s : State) :=
  issue (intUnit x (price12 x.h) false false (fun _ a b _ => (a / 2 ^ fieldPos b % 2 ^ fieldLen b : Nat))) s
def execBfi (x : V3) (s : State) :=
  issue (intUnit x (price12 x.h) false true (fun _ a b d =>
    let m := fieldMask (fieldPos b) (fieldLen b)
    ((d &&& notN m 32) ||| (a * 2 ^ fieldPos b &&& m) : Nat))) s
def execBmsk (x : V3) (s : State) :=
  issue (intUnit x (price12 x.h) false false (fun _ a b _ =>
    fieldMask (bits a 4 0) (min (bits b 5 0) (32 - bits a 4 0)))) s

/-- Byte i of PERMB (R183). -/
def permByte (a b d i : Nat) : Nat :=
  let sel := bits d (4 * i + 3) (4 * i)
  let j := sel % 8
  let v := if j < 4 then elem a 8 j else elem b 8 (j - 4)
  if 8 ≤ sel then (if 128 ≤ v then 0xFF else 0) else v

def execPermb (x : V3) (s : State) :=
  issue (intUnit x (price12 x.h) false true (fun _ a b d => packed 8 4 (permByte a b d))) s
def execSext (x : V3) (s : State) :=
  issue (intUnit x (price12 x.h) true false (fun _ a b _ =>
    let m := b % 64
    if m = 0 then 0 else if 32 ≤ m then a else sextN a m)) s
def execZext (x : V3) (s : State) :=
  issue (intUnit x (price12 x.h) false false (fun _ a b _ =>
    let m := b % 64
    if 32 ≤ m then a else (a % 2 ^ m : Nat))) s

/-! Major 0x04 (R184). -/

/-- The condition on w-bit operands. -/
def icondHolds (k : ICond) (w a b : Nat) : Bool :=
  match k with
  | .eq => decide (a = b)
  | .ne => decide (a ≠ b)
  | .lt => decide (sextN a w < sextN b w)
  | .le => decide (sextN a w ≤ sextN b w)
  | .gt => decide (sextN a w > sextN b w)
  | .ge => decide (sextN a w ≥ sextN b w)
  | .ltn => decide (a < b)
  | .len => decide (a ≤ b)
  | .gtn => decide (a > b)
  | .gen => decide (a ≥ b)

/-- The condition's Sign column is S. -/
def icondSigned (k : ICond) : Bool :=
  match k with
  | .lt | .le | .gt | .ge => true
  | _ => false

/-- A source of a TYPE that accepts 0 and 1. -/
def rdTy (c : Ctx) (ty : Nat) (sg : Bool) (a : Src) (l : Nat) : Nat :=
  if ty = 1 then c.rd64 sg a l else c.rd (.int 32) a l

def execIcmp (x : ICmpU) (s : State) :=
  let ty := x.h.pfx.ty
  let n := regsOf ty
  let sg := icondSigned x.c
  issue (regUnit x.h false (refsOf [srcRefs x.a n, srcRefs x.b n]) (price12 x.h) (fun c =>
    c.putK x.k (fun l => icondHolds x.c (32 * n) (rdTy c ty sg x.a l) (rdTy c ty sg x.b l)))) s

/-! Major 0x05 (R185). -/

def execSel (x : SelU) (s : State) :=
  let ty := x.h.pfx.ty
  let n := regsOf ty
  issue (regUnit x.h (dstW x.d) (refsOf [dstRefs x.d n true, srcRefs x.a n, msrcRefs x.k]) (price12 x.h) (fun c =>
    c.put x.d n (fun l =>
      if mbit (c.rdK x.k) l then rdTy c ty false x.a l else if ty = 1 then c.old64 x.d l else c.old x.d l))) s
def execMov (x : V2) (s : State) := issue (intUnit1 x (price12 x.h) false (fun _ a => a)) s
def execMovk (x : MovkU) (s : State) :=
  issue (regUnit x.h (dstW x.d) (refsOf [dstRefs x.d 1 false, msrcRefs x.k]) 1 (fun c =>
    c.put x.d 1 (fun l => btn (mbit (c.rdK x.k) l)))) s
def execKmov (x : KmovU) (s : State) :=
  issue (regUnit x.h false (srcRefs x.a 1) 1 (fun c => c.putK x.k (fun l => decide (c.rd (.int 32) x.a l ≠ 0)))) s

/-! Majors 0x06 to 0x0B (R186). -/

/-- An immediate form: r maps width, A and the sign-extended immediate. -/
def immUnit (x : ImmU) (r : Nat → Nat → Int → Int) : UnitOp :=
  intUnit1 { h := x.h, d := x.d, a := x.a } (price12 x.h) false (fun w a => r w a (sextN x.imm.toNat 11))

def execIaddi (x : ImmU) (s : State) := issue (immUnit x (fun _ a i => a + i)) s
def execAndi (x : ImmU) (s : State) := issue (immUnit x (fun w a i => (a &&& wrapN i w : Nat))) s
def execOri (x : ImmU) (s : State) := issue (immUnit x (fun w a i => (a ||| wrapN i w : Nat))) s
def execXori (x : ImmU) (s : State) := issue (immUnit x (fun w a i => (a ^^^ wrapN i w : Nat))) s

/-- A shift by an immediate amount, reduced modulo the width. -/
def shiftUnit (x : ShU) (sg : Bool) (r : Nat → Nat → Nat → Int) : UnitOp :=
  intUnit1 { h := x.h, d := x.d, a := x.a } (price12 x.h) sg (fun w a => r w a (x.n % w))

def execShli (x : ShU) (s : State) := issue (shiftUnit x false shlN) s
def execShri (x : ShU) (s : State) := issue (shiftUnit x false shrN) s
def execSrai (x : ShU) (s : State) := issue (shiftUnit x true sraN) s
def execRoli (x : ShU) (s : State) := issue (shiftUnit x false rolN) s
def execMovi (x : MoviU) (s : State) :=
  let n := regsOf x.h.pfx.ty
  issue (regUnit x.h (dstW x.d) (dstRefs x.d n false) (price12 x.h) (fun c =>
    c.put x.d n (fun _ => wrapN (sextN x.imm.toNat 11) (32 * n)))) s

end Sys2Proof.Machine
end

