-- ==== Sys2Proof/Machine/FloatAlu.lean ====
section
/-! DEFINITION. Float instructions of majors 0x10 to 0x14 (R189 to R199). -/
namespace Sys2Proof.Machine

/-- The format and element count of a float TYPE (R115, R162). -/
def fltTy (ty : Nat) : Fmt × Nat := if ty = 1 then (.f16, 2) else if ty = 2 then (.bf16, 2) else (.f32, 1)

/-- What a float function is given: format, mode, SAT (R189). -/
structure FEnv where
  f : Fmt
  md : Rnd
  sb : Bool

/-- Mode and SAT of the prefix; an instruction that accepts neither has both fields zero (R161, R189). -/
def fenv (h : Hdr) : FEnv := { f := (fltTy h.pfx.ty).1, md := rndOf h.pfx.rnd, sb := h.pfx.sat }

/-- A lane's packed result: r maps the element codes of A, B and Dold to a code and flags. -/
def fltLane (c : Ctx) (ty : Nat) (d : Dst) (a b : Src) (r : Nat → Nat → Nat → Nat × FFlags) (l : Nat) : Nat × FFlags :=
  let (f, n) := fltTy ty
  let av := c.rd (.flt f) a l
  let bv := c.rd (.flt f) b l
  let dv := c.old d l
  packedF f.width n (fun e => r (elem av f.width e) (elem bv f.width e) (elem dv f.width e))

def fltUnit (x : V3) (price : Nat) (rdD : Bool) (r : FEnv → Nat → Nat → Nat → Nat × FFlags) : UnitOp :=
  regUnit x.h (dstW x.d) (refsOf [dstRefs x.d 1 rdD, srcRefs x.a 1, srcRefs x.b 1]) price
    (fun c => c.putF x.d (fltLane c x.h.pfx.ty x.d x.a x.b (r (fenv x.h))))

def fltUnit1 (x : V2) (price : Nat) (r : FEnv → Nat → Nat × FFlags) : UnitOp :=
  regUnit x.h (dstW x.d) (refsOf [dstRefs x.d 1 false, srcRefs x.a 1]) price
    (fun c => c.putF x.d (fltLane c x.h.pfx.ty x.d x.a .zero (fun a _ _ => r (fenv x.h) a)))

/-! Major 0x10 (R190 to R192). -/

/-- An exact sum of terms delivered (R189, R193). -/
def fadd2 (v : FEnv) (x y : FVal) : Nat × FFlags :=
  let s := fsum v.md [x, y]
  let r := deliver s.1 v.f v.md v.sb
  (r.1, s.2 ||| r.2)

def faddOf (v : FEnv) (a b : Nat) : Nat × FFlags := fadd2 v (v.f.dec a) (v.f.dec b)
def fsubOf (v : FEnv) (a b : Nat) : Nat × FFlags := fadd2 v (v.f.dec a) (v.f.dec b).neg
def fmulOf (v : FEnv) (a b : Nat) : Nat × FFlags :=
  let p := fprod (v.f.dec a) (v.f.dec b)
  let r := deliver p.1 v.f v.md v.sb
  (r.1, p.2 ||| r.2)

/-- a stands before b when −0 is ordered below +0 (R191). -/
def fbefore (f : Fmt) (a b : Nat) : Bool :=
  let x := f.dec a
  let y := f.dec b
  fcmpLt x y || (x.isZero && y.isZero && decide (f.signBit ≤ a) && decide (b < f.signBit))

/-- FMIN, FMAX and their number forms: gr takes the greater, num passes over one NaN. -/
def fminmax (f : Fmt) (gr num : Bool) (a b : Nat) : Nat :=
  let na := decide (f.dec a = .nan)
  let nb := decide (f.dec b = .nan)
  if na && nb then f.nanCode
  else if na then (if num then b else f.nanCode)
  else if nb then (if num then a else f.nanCode)
  else if gr then (if fbefore f a b then b else a) else (if fbefore f b a then b else a)

/-- FSCALE by an integer without bound. -/
def fscaleOf (v : FEnv) (a : Nat) (n : Int) : Nat × FFlags :=
  match v.f.dec a with
  | .nan => (v.f.nanCode, 0)
  | .inf _ => (a, 0)
  | .fin neg m e => if m = 0 then (a, 0) else convQ v.f v.md v.sb neg m 1 (e + n)

/-- An integral value that keeps the sign of x when it is zero (R192). -/
def integralOf (f : Fmt) (md : Rnd) (a : Nat) : Nat × Bool :=
  match f.dec a with
  | .nan => (f.nanCode, false)
  | .inf _ => (a, false)
  | .fin neg m e =>
    let r := roundInt md neg m e
    (f.encFin neg r.k r.q, r.inexact)

def ffracOf (v : FEnv) (a : Nat) : Nat × FFlags :=
  match v.f.dec a with
  | .nan => (v.f.nanCode, 0)
  | .inf _ => (v.f.nanCode, fNV)
  | .fin neg m e =>
    let r := roundInt .dn neg m e
    fadd2 { v with md := .ne, sb := false } (.fin neg m e) (.fin (!neg) r.k r.q)

def execFadd (x : V3) (s : State) := issue (fltUnit x 1 false (fun v a b _ => faddOf v a b)) s
def execFsub (x : V3) (s : State) := issue (fltUnit x 1 false (fun v a b _ => fsubOf v a b)) s
def execFmul (x : V3) (s : State) := issue (fltUnit x 1 false (fun v a b _ => fmulOf v a b)) s
def execFmin (x : V3) (s : State) := issue (fltUnit x 1 false (fun v a b _ => (fminmax v.f false false a b, 0))) s
def execFmax (x : V3) (s : State) := issue (fltUnit x 1 false (fun v a b _ => (fminmax v.f true false a b, 0))) s
def execFminn (x : V3) (s : State) := issue (fltUnit x 1 false (fun v a b _ => (fminmax v.f false true a b, 0))) s
def execFmaxn (x : V3) (s : State) := issue (fltUnit x 1 false (fun v a b _ => (fminmax v.f true true a b, 0))) s
def execFabs (x : V2) (s : State) := issue (fltUnit1 x 1 (fun v a => (a % v.f.signBit, 0))) s
def execFneg (x : V2) (s : State) := issue (fltUnit1 x 1 (fun v a => (a ^^^ v.f.signBit, 0))) s
def execFcpys (x : V3) (s : State) :=
  issue (fltUnit x 1 false (fun v a b _ => (a % v.f.signBit + (if v.f.signBit ≤ b then v.f.signBit else 0), 0))) s

/-- FSCALE reads B as integers of the element's width. -/
def execFscale (x : V3) (s : State) :=
  let (f, n) := fltTy x.h.pfx.ty
  issue (regUnit x.h (dstW x.d) (refsOf [dstRefs x.d 1 false, srcRefs x.a 1, srcRefs x.b 1]) 1 (fun c =>
    c.putF x.d (fun l =>
      let av := c.rd (.flt f) x.a l
      let bv := c.rd (.int f.width) x.b l
      packedF f.width n (fun e => fscaleOf (fenv x.h) (elem av f.width e) (sextN (elem bv f.width e) f.width))))) s
def execFfrac (x : V2) (s : State) := issue (fltUnit1 x 1 ffracOf) s
def execFfloor (x : V2) (s : State) := issue (fltUnit1 x 1 (fun v a => ((integralOf v.f .dn a).1, 0))) s
def execFceil (x : V2) (s : State) := issue (fltUnit1 x 1 (fun v a => ((integralOf v.f .up a).1, 0))) s
def execFtrunc (x : V2) (s : State) := issue (fltUnit1 x 1 (fun v a => ((integralOf v.f .tz a).1, 0))) s
def execFrint (x : V2) (s : State) :=
  issue (fltUnit1 x 1 (fun v a =>
    let r := integralOf v.f v.md a
    (r.1, if r.2 then fNX else 0))) s

/-! Major 0x11 (R193). -/

/-- ± a × b ± d, rounded once. -/
def fmaOf (np nd : Bool) (v : FEnv) (a b d : Nat) : Nat × FFlags :=
  let x := v.f.dec a
  let y := v.f.dec d
  fdotf v.f v.md v.sb [(if np then x.neg else x, v.f.dec b)] [if nd then y.neg else y]

def execFfma (x : V3) (s : State) := issue (fltUnit x 1 true (fmaOf false false)) s
def execFfms (x : V3) (s : State) := issue (fltUnit x 1 true (fmaOf false true)) s
def execFfnma (x : V3) (s : State) := issue (fltUnit x 1 true (fmaOf true true)) s
def execFfnms (x : V3) (s : State) := issue (fltUnit x 1 true (fmaOf true false)) s

/-! Major 0x12 (R194 to R196). FRCP and FRSQ deliver Config.approx where it lies within 1 ulp, and the nearest code
where it does not (log 4); the other approximate functions stand in Approx. -/

def f32Inf (neg : Bool) : Nat := Fmt.f32.infCode neg
def f32NaN : Nat := 0x7FC00000

/-- FDIV, correctly rounded (R194, R195). -/
def fdivOf (v : FEnv) (a b : Nat) : Nat × FFlags :=
  match v.f.dec a, v.f.dec b with
  | .nan, _ => (v.f.nanCode, 0)
  | _, .nan => (v.f.nanCode, 0)
  | .inf _, .inf _ => (v.f.nanCode, fNV)
  | .inf s, .fin t _ _ => (v.f.infCode (s != t), 0)
  | .fin s _ _, .inf t => (v.f.encFin (s != t) 0 0, 0)
  | .fin s m e, .fin t n g =>
    if n = 0 then (if m = 0 then (v.f.nanCode, fNV) else (v.f.infCode (s != t), fDZ))
    else if m = 0 then (v.f.encFin (s != t) 0 0, 0)
    else convQ v.f v.md v.sb (s != t) m n (e - g)

/-- The integer square root with enough bits that rounding it with a sticky bit rounds the root (R194). -/
def sqrtParts (m : Nat) (e : Int) : Nat × Int :=
  let (m, e) := if e % 2 = 0 then (m, e) else (2 * m, e - 1)
  let r := Nat.sqrt (m * 2 ^ 64)
  (2 * r + (if r * r = m * 2 ^ 64 then 0 else 1), e / 2 - 33)

def fsqrtOf (v : FEnv) (a : Nat) : Nat × FFlags :=
  match v.f.dec a with
  | .nan => (v.f.nanCode, 0)
  | .inf neg => if neg then (v.f.nanCode, fNV) else (a, 0)
  | .fin neg m e =>
    if m = 0 then (a, 0)
    else if neg then (v.f.nanCode, fNV)
    else convQ v.f v.md v.sb false (sqrtParts m e).1 1 (sqrtParts m e).2

/-- |d − n/m 2^e| is at most 1 ulp of the exact value, which lies in [2^q, 2^(q+1)) (R194). -/
def withinUlp (dm : Nat) (de : Int) (m : Nat) (e q : Int) : Bool :=
  -- exact = 1 / (m 2^e); multiply by m 2^e: |dm m 2^(de+e) − 1| ≤ m 2^(q−23+e)
  let low := min (de + e) (min (q - 23 + e) 0)
  let x : Int := (dm * m * 2 ^ (de + e - low).toNat : Nat) - (2 ^ (-low).toNat : Nat)
  decide (x.natAbs ≤ m * 2 ^ (q - 23 + e - low).toNat)

def frcpOf (a : Nat) : Nat × FFlags :=
  match Fmt.f32.dec a with
  | .nan => (f32NaN, 0)
  | .inf s => (Fmt.f32.encFin s 0 0, 0)
  | .fin s m e =>
    if m = 0 then (f32Inf s, fDZ)
    else
      let r := convQ .f32 .ne false s 1 m (-e)
      if r.2 = 0 then (r.1, 0)
      else if r.2 &&& fOF ≠ 0 then (f32Inf s, fOF ||| fNX)
      else
        let t := (Config.approx .frcp (BitVec.ofNat 32 a)).toNat
        let q := max (ilog 1 m (-e)) (-126)
        match Fmt.f32.dec t with
        | .fin s' dm de =>
          if s = s' ∧ withinUlp dm de m e q then (t, (r.2 &&& fUF) ||| fNX) else (r.1, (r.2 &&& fUF) ||| fNX)
        | _ => (r.1, (r.2 &&& fUF) ||| fNX)

/-- |d − 1/√(m 2^e)| ≤ 2^(q−23), squared: (d − u)² ≤ 1/(m 2^e) ≤ (d + u)². -/
def withinUlpSq (dm : Nat) (de : Int) (m : Nat) (e q : Int) : Bool :=
  let u := q - 23
  let low := min de u
  let d := dm * 2 ^ (de - low).toNat
  let w := 2 ^ (u - low).toNat
  let k := 2 * low + e
  let le := fun x : Nat => if 0 ≤ k then decide (x * x * m * 2 ^ k.toNat ≤ 1) else decide (x * x * m ≤ 2 ^ (-k).toNat)
  let ge := fun x : Nat => if 0 ≤ k then decide (1 ≤ x * x * m * 2 ^ k.toNat) else decide (2 ^ (-k).toNat ≤ x * x * m)
  le (d - w) && ge (d + w)

def frsqOf (a : Nat) : Nat × FFlags :=
  match Fmt.f32.dec a with
  | .nan => (f32NaN, 0)
  | .inf s => if s then (f32NaN, fNV) else (0, 0)
  | .fin s m e =>
    if m = 0 then (f32Inf s, fDZ)
    else if s then (f32NaN, fNV)
    else
      -- 1/√x rounded: the root of 1/x, taken from 2^200 / m
      let (m', e') := if e % 2 = 0 then (m, e) else (2 * m, e - 1)
      let r := Nat.sqrt (2 ^ 200 / m')
      if isPow2 m ∧ ((Nat.log2 m : Int) + e) % 2 = 0 then (pow2Code false (-(((Nat.log2 m : Int) + e) / 2)), 0)
      else
        let near := (convQ .f32 .ne false false (2 * r + 1) 1 (-101 - e' / 2)).1
        let t := (Config.approx .frsq (BitVec.ofNat 32 a)).toNat
        let q := ilog 1 m (-e) / 2
        match Fmt.f32.dec t with
        | .fin false dm de => (if withinUlpSq dm de m e q then t else near, fNX)
        | _ => (near, fNX)

def execFrcp (x : V2) (s : State) := issue (fltUnit1 x 3 (fun _ a => frcpOf a)) s
def execFrsq (x : V2) (s : State) := issue (fltUnit1 x 3 (fun _ a => frsqOf a)) s
def execFsqrt (x : V2) (s : State) := issue (fltUnit1 x 3 fsqrtOf) s
def execFdiv (x : V3) (s : State) := issue (fltUnit x 3 false (fun v a b _ => fdivOf v a b)) s
def execFexp2 (x : V2) (s : State) := issue (fltUnit1 x 3 (fun _ a => fexp2Of a)) s
def execFlog2 (x : V2) (s : State) := issue (fltUnit1 x 3 (fun _ a => flog2Of a)) s
def execFsin (x : V2) (s : State) := issue (fltUnit1 x 3 (fun _ a => fsinOf a)) s
def execFcos (x : V2) (s : State) := issue (fltUnit1 x 3 (fun _ a => fcosOf a)) s
def execFtanh (x : V2) (s : State) := issue (fltUnit1 x 3 (fun _ a => ftanhOf a)) s
def execFsigm (x : V2) (s : State) := issue (fltUnit1 x 3 (fun _ a => fsigmOf a)) s

/-! Major 0x13 (R197). -/

def fcondHolds (k : FCond) (a b : FVal) : Bool :=
  let un := decide (a = .nan) || decide (b = .nan)
  let lt := !un && fcmpLt a b
  let gt := !un && fcmpLt b a
  let eq := !un && !lt && !gt
  match k with
  | .eq => eq
  | .ne => lt || gt
  | .lt => lt
  | .le => lt || eq
  | .gt => gt
  | .ge => gt || eq
  | .uneq => un || eq
  | .unne => un || lt || gt
  | .unlt => un || lt
  | .unle => un || lt || eq
  | .ungt => un || gt
  | .unge => un || gt || eq
  | .anynan => un
  | .bothnum => !un

def execFcmp (x : FCmpU) (s : State) :=
  issue (regUnit x.h false (refsOf [srcRefs x.a 1, srcRefs x.b 1]) 1 (fun c =>
    c.putK x.k (fun l =>
      fcondHolds x.c (Fmt.f32.dec (c.rd (.flt .f32) x.a l)) (Fmt.f32.dec (c.rd (.flt .f32) x.b l))))) s

/-! Major 0x14 (R198, R199). -/

def fclassOf (f : Fmt) (a : Nat) : Nat :=
  match f.dec a with
  | .nan => 2 ^ 8
  | .inf s => if s then 1 else 2 ^ 7
  | .fin s m _ =>
    if m = 0 then 2 ^ 9 + (if s then 2 ^ 3 else 2 ^ 4)
    else
      let normal := decide (2 ^ (f.prec - 1) ≤ m)
      if s then (if normal then 2 else 4) else (if normal then 2 ^ 6 else 2 ^ 5)

def execFclass (x : V2) (s : State) := issue (fltUnit1 x 1 (fun v a => (fclassOf v.f a, 0))) s

/-- Products of the packed codes of a format and the f32 addend, rounded once to f32. -/
def fdotUnit (x : V3) (f : Fmt) : UnitOp :=
  regUnit x.h (dstW x.d) (refsOf [dstRefs x.d 1 true, srcRefs x.a 1, srcRefs x.b 1]) 1 (fun c =>
    c.putF x.d (fun l =>
      let av := c.rd (.flt f) x.a l
      let bv := c.rd (.flt f) x.b l
      fdotf .f32 (rndOf x.h.pfx.rnd) x.h.pfx.sat
        ((upto (32 / f.width)).map (fun e => (f.dec (elem av f.width e), f.dec (elem bv f.width e))))
        [Fmt.f32.dec (c.old x.d l)]))

def execFdot2 (x : V3) (s : State) := issue (fdotUnit x (fltTy x.h.pfx.ty).1) s
def execFdot4 (x : V3) (s : State) := issue (fdotUnit x ((fmtOfCode (x.h.pfx.imm % 256)).getD .f32)) s

end Sys2Proof.Machine
end

