-- ==== Sys2Proof/Machine/Convert.lean ====
section
/-! DEFINITION. Conversion, narrow formats and block scaling: majors 0x15 to 0x17 (R200 to R209). -/
namespace Sys2Proof.Machine

/-! CVT (R200 to R202). -/

/-- The types of R200 by number. -/
def cvtTy (n : Nat) : CvtTy :=
  if n = 0 then .f32 else if n = 1 then .f16 else if n = 2 then .bf16 else if n = 3 then .i32 else if n = 4 then .n32
  else if n = 5 then .i64 else .n64

def cvtFmt : CvtTy → Option Fmt
  | .f32 => some .f32
  | .f16 => some .f16
  | .bf16 => some .bf16
  | _ => none

def cvtWide : CvtTy → Bool
  | .i64 => true
  | .n64 => true
  | _ => false

/-- The range of an integer type. -/
def cvtRange : CvtTy → Int × Int
  | .i32 => (-(2 ^ 31), 2 ^ 31 - 1)
  | .n32 => (0, 2 ^ 32 - 1)
  | .i64 => (-(2 ^ 63), 2 ^ 63 - 1)
  | .n64 => (0, 2 ^ 64 - 1)
  | _ => (0, 0)

def clampI (r : Int × Int) (x : Int) : Int := max r.1 (min x r.2)

/-- A float converted to an integer type (R202). -/
def cvtToInt (t : CvtTy) (md : Rnd) (x : FVal) : Int × FFlags :=
  let r := cvtRange t
  match x with
  | .nan => (0, 0)
  | .inf neg =>
    if neg && decide (r.1 = 0) then (0, fNV ||| fNX) else (if neg then r.1 else r.2, fOF ||| fNX)
  | .fin neg m e =>
    let q := roundInt md neg m e
    let z : Int := (q.k * 2 ^ q.q.toNat : Nat)
    let z := if neg then -z else z
    if decide (r.1 = 0) && neg && decide (m ≠ 0) && decide (z ≠ 0) then (0, fNV ||| fNX)
    else
      let y := clampI r z
      (y, (if y ≠ z then fOF else 0) ||| (if q.inexact || decide (y ≠ z) then fNX else 0))

/-- CVT's A as a value of an integer source type; the literal extends by the source type (R150). -/
def cvtIntSrc (c : Ctx) (t : CvtTy) (a : Src) (l : Nat) : Int :=
  match t with
  | .i32 => sextN (c.rd (.int 32) a l) 32
  | .n32 => c.rd (.int 32) a l
  | .i64 => sextN (c.rd64 true a l) 64
  | _ => c.rd64 false a l

/-- CVT's A as a float value: for a 16-bit type element H. -/
def cvtFltSrc (c : Ctx) (f : Fmt) (h : Bool) (a : Src) (l : Nat) : FVal :=
  f.dec (if f.width = 16 then elem (c.rd (.flt f) a l) 16 (btn h) else c.rd (.flt f) a l)

/-- The result of one lane and its flags. -/
def cvtLane (c : Ctx) (x : CvtU) (l : Nat) : Nat × FFlags :=
  let src := cvtTy x.h.pfx.ty
  let md := rndOf x.h.pfx.rnd
  let merge := fun y : Nat => if x.hsel then c.old x.d l % 2 ^ 16 + y * 2 ^ 16 else c.old x.d l / 2 ^ 16 * 2 ^ 16 + y
  match cvtFmt x.t with
  | some f =>
    let v := match cvtFmt src with
      | some g => cvtFltSrc c g x.hsel x.a l
      | none => ofIntF (cvtIntSrc c src x.a l)
    let r := convert v f md x.h.pfx.sat
    (if f.width = 16 then merge r.1 else r.1, r.2)
  | none =>
    let w := if cvtWide x.t then 64 else 32
    match cvtFmt src with
    | some g =>
      let r := cvtToInt x.t md (cvtFltSrc c g x.hsel x.a l)
      (wrapN r.1 w, r.2)
    | none => (wrapN (clampI (cvtRange x.t) (cvtIntSrc c src x.a l)) w, 0)

def execCvt (x : CvtU) (s : State) :=
  let src := cvtTy x.h.pfx.ty
  let n := if cvtWide x.t then 2 else 1
  let m := if cvtWide src then 2 else 1
  let half := match x.t with | .f16 => true | .bf16 => true | _ => false
  issue (regUnit x.h (dstW x.d) (refsOf [dstRefs x.d n half, srcRefs x.a m]) (max n m) (fun c g =>
    (c.put x.d n (fun l => (cvtLane c x l).1) g).raise (c.flags (fun l => (cvtLane c x l).2)))) s

/-! Narrow conversions, major 0x16 (R205, R206). -/

/-- The format named in IMM15[7:0] (R205). -/
def immFmt (h : Hdr) : Fmt := (fmtOfCode (h.pfx.imm % 256)).getD .f32

/-- The position operand above the format. -/
def immPos (h : Hdr) : Nat := h.pfx.imm / 256

/-- Part j of width w of a word replaced. -/
def replacePart (w d j v : Nat) : Nat := d - elem d w j * 2 ^ (w * j) + v % 2 ^ w * 2 ^ (w * j)

/-- An exact expansion to another float format. -/
def expandTo (f g : Fmt) (code : Nat) : Nat :=
  match f.dec code with
  | .nan => g.nanCode
  | .inf s => g.infCode s
  | .fin s m e => g.encFin s m e

/-- A narrowing form with one source: a part of D replaced. -/
def narrowUnit (x : V2) (f : Fmt) : UnitOp :=
  regUnit x.h (dstW x.d) (refsOf [dstRefs x.d 1 true, srcRefs x.a 1]) 1 (fun c =>
    c.putF x.d (fun l =>
      let r := convert (Fmt.f32.dec (c.rd (.flt .f32) x.a l)) f (rndOf x.h.pfx.rnd) x.h.pfx.sat
      (replacePart f.width (c.old x.d l) (immPos x.h) r.1, r.2)))

/-- An expanding form of one part of A to f32. -/
def widenUnit (x : V2) (f : Fmt) : UnitOp :=
  regUnit x.h (dstW x.d) (refsOf [dstRefs x.d 1 false, srcRefs x.a 1]) 1 (fun c =>
    c.put x.d 1 (fun l => expandTo f .f32 (elem (c.rd (.flt f) x.a l) f.width (immPos x.h))))

def execCvt8 (x : V2) (s : State) := issue (narrowUnit x (immFmt x.h)) s
def execCvt8x (x : V2) (s : State) := issue (widenUnit x (immFmt x.h)) s
def execCvt4 (x : V2) (s : State) := issue (narrowUnit x .fp4) s
def execCvt4x (x : V2) (s : State) := issue (widenUnit x .fp4) s

def execPack8 (x : V3) (s : State) :=
  let f := immFmt x.h
  issue (regUnit x.h (dstW x.d) (refsOf [dstRefs x.d 1 true, srcRefs x.a 1, srcRefs x.b 1]) 1 (fun c =>
    c.putF x.d (fun l =>
      let md := rndOf x.h.pfx.rnd
      let p := convert (Fmt.f32.dec (c.rd (.flt .f32) x.a l)) f md x.h.pfx.sat
      let q := convert (Fmt.f32.dec (c.rd (.flt .f32) x.b l)) f md x.h.pfx.sat
      let j := 2 * immPos x.h
      (replacePart 8 (replacePart 8 (c.old x.d l) j p.1) (j + 1) q.1, p.2 ||| q.2)))) s

def execUnpk8 (x : V2) (s : State) :=
  let f := immFmt x.h
  issue (regUnit x.h (dstW x.d) (refsOf [dstRefs x.d 1 false, srcRefs x.a 1]) 1 (fun c =>
    c.put x.d 1 (fun l =>
      let a := c.rd (.flt f) x.a l
      let j := 2 * immPos x.h
      expandTo f .bf16 (elem a 8 j) + 2 ^ 16 * expandTo f .bf16 (elem a 8 (j + 1))))) s

/-! Block scaling, major 0x17 (R207 to R209). -/

/-- floor(log2 of the largest finite value) of a format (R208). -/
def emaxOf (f : Fmt) : Int :=
  let m := f.magOf f.maxCode
  (Nat.log2 m.1 : Int) + m.2

/-- The scale of a block from the f32 codes of its lanes (R208). -/
def blockScale (f : Fmt) (as : List Nat) : Nat :=
  let vs := as.map Fmt.f32.dec
  if vs.any (fun v => match v with | .fin _ _ _ => false | _ => true) then 0xFF
  else
    let tops := vs.filterMap (fun v => match v with | .fin _ m e => if m = 0 then none else some ((Nat.log2 m : Int) + e) | _ => none)
    match tops with
    | [] => 127
    | t :: r => (min (max (r.foldl max t - emaxOf f + 127) 0) 254).toNat

def execBscan (x : V2) (s : State) :=
  let f := immFmt x.h
  issue (regUnit x.h (dstW x.d) (refsOf [dstRefs x.d 1 false, srcRefs x.a 1]) 2 (fun c =>
    c.put x.d 1 (fun l =>
      blockScale f ((c.lanes.filter (fun j => decide (j / 32 = l / 32))).map (fun j => c.rd (.flt .f32) x.a j))))) s

/-- a × 2^(127 − S), one rounding (R207, R209). -/
def qntUnit (x : V3) (f : Fmt) : UnitOp :=
  regUnit x.h (dstW x.d) (refsOf [dstRefs x.d 1 true, srcRefs x.a 1, srcRefs x.b 1]) 1 (fun c =>
    c.putF x.d (fun l =>
      let v := match e8m0 (c.rd (.int 32) x.b l) with
        | none => FVal.nan
        | some k => (Fmt.f32.dec (c.rd (.flt .f32) x.a l)).scale (-k)
      let r := convert v f (rndOf x.h.pfx.rnd) x.h.pfx.sat
      (replacePart f.width (c.old x.d l) (immPos x.h) r.1, r.2)))

/-- A code times e8m0(S), to f32 (R207). -/
def dqntUnit (x : V3) (f : Fmt) : UnitOp :=
  regUnit x.h (dstW x.d) (refsOf [dstRefs x.d 1 false, srcRefs x.a 1, srcRefs x.b 1]) 1 (fun c =>
    c.putF x.d (fun l =>
      convert (scaled f (elem (c.rd (.flt f) x.a l) f.width (immPos x.h)) (c.rd (.int 32) x.b l)) .f32
        (rndOf x.h.pfx.rnd) x.h.pfx.sat))

def execQnt8 (x : V3) (s : State) := issue (qntUnit x (immFmt x.h)) s
def execDqnt8 (x : V3) (s : State) := issue (dqntUnit x (immFmt x.h)) s
def execQnt4 (x : V3) (s : State) := issue (qntUnit x .fp4) s
def execDqnt4 (x : V3) (s : State) := issue (dqntUnit x .fp4) s

end Sys2Proof.Machine
end

