-- ==== Sys2Proof/Machine/Granary.lean ====
section
/-! DEFINITION. The Granary's custom instructions, starts, stops, budgets and failures (R348 to R350, R358, R359, R361,
R363 to R368, R468). -/
namespace Sys2Proof.Machine

/-! The custom instructions. -/

/-- The instruction writes rd and retires. -/
def hartPut (s : State) (d m rd v : Nat) : State := s.updEp d m (fun e => (e.wr rd v).retire (e.pc + 4))

/-- R364: a take clears the counters, so no budget holds it back; a wait is not counted until it returns. -/
def gmbWait (s : State) (rd rs d m : Nat) (e : Episode) : State :=
  match (s.mbox d m).state with
  | .owe _ => budgeted s (fun d m _ => hartPut s d m rd 2) d m e
  | .pending _ => takeAction s d m rd
  | .idle _ =>
    let n := e.rd rs
    let till := if n = 0 then none else some (granCycle s d + n)
    blockHart (s.updEp d m (fun e => { e with state := .wait rd till })) d e.hart
  | _ => s

def execGmbWait (rd rs : Nat) (s : State) : Host.Outcome State Fault Refusal := hartRun s (gmbWait s rd rs)

/-- R365: a doubleword of the step buffer, or 0. -/
def bufferAt (e : Episode) (off : Nat) : Nat :=
  if off % 8 = 0 ∧ off ≤ 72 then leNat ((e.buffer.drop off).take 8) else 0

def execGmbRead (rd rs : Nat) (s : State) : Host.Outcome State Fault Refusal :=
  hartRun s (budgeted s (fun d m e => hartPut s d m rd (bufferAt e (e.rd rs))))

/-- R366. -/
def gmbPost (s : State) (rd rs d m : Nat) (e : Episode) : State :=
  let a := e.rd rs
  if a % 8 ≠ 0 ∨ e.inSram a 128 = false then hartPut s d m rd 3
  else
    match (s.mbox d m).state with
    | .owe _ =>
      if (s.mbox d m).obs.isNone then postNow s d e rd a else s.updEp d m (fun e => { e with state := .post rd a })
    | _ => hartPut s d m rd 2

def execGmbPost (rd rs : Nat) (s : State) : Host.Outcome State Fault Refusal := hartRun s (budgeted s (gmbPost s rd rs))

/-- R362, R368: GEP.END retires, and the episode ends or restarts. -/
def gepEnd (s : State) (rs d m : Nat) (e : Episode) : State :=
  let v := e.rd rs
  let again := decide (v % 2 = 1) && e.mayRestart
  endEpisode (s.updEp d m (fun e => e.retire (e.pc + 4))) d m (btn again) (bits v 31 16) false again

def execGepEnd (rs : Nat) (s : State) : Host.Outcome State Fault Refusal := hartRun s (budgeted s (gepEnd s rs))

/-- R367: the old pin state in rd; the new one takes effect in mailbox order. -/
def gepVer (s : State) (rd rs d m : Nat) (e : Episode) : State :=
  let v := e.rd rs
  (hartPut s d m rd (if e.pin then 65536 + e.pver else 0)).updEp d m (fun e =>
    { e with pin := decide (bits v 16 16 = 1), pver := v % 65536 })

def execGepVer (rd rs : Nat) (s : State) : Host.Outcome State Fault Refusal := hartRun s (budgeted s (gepVer s rd rs))

/-! Starts (R348 to R350). -/

/-- Checks 3 and 5 of R67 over an extent. -/
def capHolds (c : Cap) (o : ObjEntry) (off n : Nat) : Bool :=
  decide (off + n ≤ c.len.toNat) && o.valid && decide (c.base.toNat + off + n ≤ o.size) && decide (c.gen.toNat = o.gen)

/-- An entry of the table reaches an extent with a right. -/
def entryHolds (s : State) (ctx ix off n need : Nat) : Bool :=
  let x := readCtx s ctx
  let c := entryCap s x ix
  decide (ix < x.eclen) && c.tag && decide (c.rights.toNat &&& need ≠ 0) && capHolds c (readObj s ctx c.oid.toNat) off n

/-- Every page of an extent of an entry's object is RESIDENT. -/
def entryResident (s : State) (ctx ix off n : Nat) : Bool :=
  let c := entryCap s (readCtx s ctx) ix
  let o := readObj s ctx c.oid.toNat
  decide (n = 0) || (pagesOf (c.base.toNat + off) n).all (fun p => residentAt s o (65536 * p))

def entryObj (s : State) (ctx ix : Nat) : ObjEntry := readObj s ctx (entryCap s (readCtx s ctx) ix).oid.toNat

/-- The CAP row holds. -/
def gstartCaps (s : State) (e : Episode) : Bool :=
  let img := dfield e 471 456
  let cw := dfield e 207 192
  entryHolds s e.ctx img (dfield e 511 472) (dfield e 455 432) rR && (entryObj s e.ctx img).imm &&
    (decide (dfield e 375 360 = 0) || entryHolds s e.ctx (dfield e 391 376) (dfield e 431 392) e.hbmBytes rR) &&
    (decide (dfield e 151 151 = 0) ||
      (entryHolds s e.ctx cw (dfield e 191 152) 8 rA &&
        decide (((entryCap s (readCtx s e.ctx) cw).base.toNat + dfield e 191 152) % 8 = 0) &&
        (match deviceWord s e.ctx cw (dfield e 191 152) with | .notAtomic => false | _ => true)))

/-- The NONRES row holds. -/
def startPages (s : State) (e : Episode) : Bool :=
  entryResident s e.ctx (dfield e 471 456) (dfield e 511 472) (dfield e 455 432) &&
    (decide (dfield e 375 360 = 0) ||
      (entryResident s e.ctx (dfield e 391 376) (dfield e 431 392) e.hbmBytes && (entryObj s e.ctx (dfield e 391 376)).nopress))

/-- The lowest free run of window units. -/
def freeRun (s : State) (d n : Nat) : Option Nat :=
  let used := (s.die d).episodes.map (fun e => (e.2.win, e.2.size))
  (upto (1921 - n)).find? (fun u => used.all (fun w => decide (u + n ≤ w.1) || decide (w.1 + w.2 ≤ u)))

def hartLoadOf (s : State) (d h : Nat) : Nat := ((s.die d).episodes.filter (fun e => decide (e.2.hart = h))).length

/-- The live hart that hosts the fewest episodes, the lower of equals. -/
def pickHart (s : State) (d : Nat) : Option Nat :=
  minBy (hartLoadOf s d) ((upto 32).filter (fun h => !(s.hart d h).retired && decide (hartLoadOf s d h < 16)))

/-- The status of a start that is refused, or the window and hart (R349). -/
def startCheck (s : State) (d : Nat) (e : Episode) : Except Nat (Nat × Nat) :=
  let b := s.mbox d e.mbox
  if !(readCtx s e.ctx).valid then .error 1
  else if e.size = 0 ∨ 1920 < e.size ∨ 4096 < dfield e 375 360 ∨ e.bytes < dfield e 455 432 ∨
      e.bytes ≤ dfield e 327 304 ∨ dfield e 327 304 % 2 = 1 then .error 2
  else if !gstartCaps s e then .error 3
  else if !startPages s e then .error 4
  else if b.state ≠ .free ∨ b.obs.isSome ∨ b.owed ≠ [] then .error 5
  else
    match freeRun s d e.size with
    | none => .error 6
    | some u =>
      match pickHart s d with
      | none => .error 7
      | some h => .ok (u, h)

/-- The episode that a descriptor names, not yet placed. -/
def descEpisode (s : State) (v : BitVec 512) : Episode :=
  let e : Episode := { desc := v }
  let ctx := dfield e 359 348
  { e with ctx := ctx, mbox := dfield e 347 340, size := dfield e 339 328, pin := decide (dfield e 287 287 = 1)
           pver := dfield e 303 288, mayRestart := decide (dfield e 286 286 = 1)
           hbmCap := if dfield e 375 360 = 0 then {} else entryCap s (readCtx s ctx) (dfield e 391 376) }

/-- A start: accepted, or its status alone in GSTS. -/
def startEpisode (s : State) (d : Nat) (v : BitVec 512) : State :=
  let e := descEpisode s v
  let put := fun (s : State) (w : Nat) => s.updDie d (fun x => { x with gsts := BitVec.ofNat 64 w })
  match startCheck s d e with
  | .error n => put s n
  | .ok (u, h) =>
    let s := beginEpisode s d { e with win := u, hart := h }
    put s (((s.ep? d e.mbox).map (·.party)).getD 0 * 2 ^ 32)

/-- R348, R389: the write of GSTART's eighth word, after the seven below it. -/
def execGstart (s : State) : Host.Outcome State Fault Refusal :=
  let d := s.arg.die
  if s.running d then
    let lo := (upto 7).foldl (fun v i => v + (tget (s.die d).gstart i 0).toNat * 2 ^ (64 * i)) 0
    .next (startEpisode s d (BitVec.ofNat 512 (lo + s.arg.v.toNat * 2 ^ 448)))
  else .next s

/-! Stops and budgets (R359, R361). -/

def execGstopNow (s : State) : Host.Outcome State Fault Refusal := .next (endEpisode s s.arg.die s.arg.mbox 5 0 true false)

def execGstopForbidRestart (s : State) : Host.Outcome State Fault Refusal :=
  .next (s.updEp s.arg.die s.arg.mbox (fun e => { e with mayRestart := false }))

def execCycleBudgetExpiry (s : State) : Host.Outcome State Fault Refusal :=
  .next (match s.ep? s.arg.die s.arg.mbox with
    | none => s
    | some e => if e.cbud < e.stepCycles then endEpisode s s.arg.die s.arg.mbox 3 0 true false else s)

/-- The next instruction is a GMB.WAIT that would not be counted. -/
def waitsNext (s : State) (d : Nat) (e : Episode) : Bool :=
  match hartFetch s d e with
  | .ok w =>
    match decodeHart w with
    | some (.custom (.gmbWait _ _)) => (match (s.mbox d e.mbox).state with | .owe _ => false | _ => true)
    | _ => false
  | .error _ => false

def execInstructionBudgetRunaway (s : State) : Host.Outcome State Fault Refusal :=
  .next (match s.ep? s.arg.die s.arg.mbox with
    | none => s
    | some e =>
      if e.state = .run && e.spent && !waitsNext s s.arg.die e then endEpisode s s.arg.die s.arg.mbox 2 0 true false else s)

/-- R356, R364: decided after every mailbox operation of its cycle; the GMB.WAIT then retires with TIMEOUT. -/
def waitTimeout (s : State) (d m : Nat) : State :=
  match s.ep? d m with
  | none => s
  | some e =>
    match e.state with
    | .wait rd (some t) =>
      if granCycle s d ≤ t then s
      else if e.spent then endEpisode s d m 2 0 true false
      else
        let (o, s) := s.fresh
        unblock ((hartPut s d m rd 1).updEp d m (fun e => { e with since := o })) d m
    | _ => s

def execGmbWaitTimeout (s : State) : Host.Outcome State Fault Refusal := .next (waitTimeout s s.arg.die s.arg.mbox)

/-! Failures (R468). -/

/-- Every episode of the hart ends, and the hart is retired. -/
def failHart (s : State) (d h : Nat) : State :=
  if (s.hart d h).retired ∨ 32 ≤ h then s
  else
    let s := s.setHart d h { s.hart d h with retired := true, running := none, pmp := [] }
    let ms := ((s.die d).episodes.filter (fun e => decide (e.2.hart = h))).map (·.1)
    eventMod (ms.foldl (fun s m => faultEpisode s d m 33 0) s) d { code := 0x8E, value := h }

def execHartFailure (s : State) : Host.Outcome State Fault Refusal :=
  if s.running s.arg.die then .next (failHart s s.arg.die s.arg.hart) else .next s

/-- A held observation becomes a synthetic one of its step (log 26). -/
def Mbox.scrub (b : Mbox) : Mbox :=
  { b with obs := b.obs.map (fun o => (BitVec.ofNat 128 (o.1.toNat - at_ (bits o.1.toNat 95 80) 80 16 +
                                        at_ (bits o.1.toNat 80 80 + 12) 80 16), synthSlot)) }

def execMailboxError (s : State) : Host.Outcome State Fault Refusal :=
  let d := s.arg.die
  let m := s.arg.mbox
  if s.running d then .next (endEpisode (s.setMbox d m (s.mbox d m).scrub) d m 4 0 true false) else .next s

end Sys2Proof.Machine
end

