-- ==== Sys2Proof/Machine/Lanes.lean ====
section
/-! DEFINITION. Lane movement, reductions, votes, mask logic and the register window: majors 0x20 to 0x24
(R210 to R215). -/
namespace Sys2Proof.Machine

/-! Major 0x20 (R210, R211). -/

/-- The lane a shuffle takes its value from: n is b's low seven bits. -/
def shuffleUnit (x : V3) (from_ : Nat → Nat → Nat → Nat) : UnitOp :=
  let ty := x.h.pfx.ty
  let n := regsOf ty
  regUnit x.h (dstW x.d) (refsOf [dstRefs x.d n false, srcRefs x.a n, srcRefs x.b n]) 2 (fun c =>
    c.put x.d n (fun l => rdTy c ty false x.a (from_ c.g.width l (rdTy c ty false x.b l % 128))))

def shfli (g _ n : Nat) : Nat := n % g
def shflu (_ l n : Nat) : Nat := if n ≤ l then l - n else l
def shfld (g l n : Nat) : Nat := if l + n < g then l + n else l
def shflx (g l n : Nat) : Nat := if l ^^^ n < g then l ^^^ n else l

def execShfli (x : V3) (s : State) := issue (shuffleUnit x shfli) s
def execShflu (x : V3) (s : State) := issue (shuffleUnit x shflu) s
def execShfld (x : V3) (s : State) := issue (shuffleUnit x shfld) s
def execShflx (x : V3) (s : State) := issue (shuffleUnit x shflx) s

/-- The lane a uniform operand names. -/
def Ctx.laneOf (c : Ctx) (b : SSrc) : Nat := c.rdS false b % 128 % c.g.width

def execBcast (x : BcastU) (s : State) :=
  let ty := x.h.pfx.ty
  let n := regsOf ty
  issue (regUnit x.h (dstW x.d) (refsOf [dstRefs x.d n false, srcRefs x.a n, ssrcRefs x.b]) 2 (fun c =>
    c.put x.d n (fun _ => rdTy c ty false x.a (c.laneOf x.b)))) s

def execRdlane (x : RdlaneU) (s : State) :=
  let ty := x.h.pfx.ty
  issue (uniUnit x.h (refsOf [sName x.d, srcRefs x.a (regsOf ty), ssrcRefs x.b]) 2 (fun c =>
    c.putS x.d (rdTy c ty false x.a (c.laneOf x.b)))) s

def execWrlane (x : WrlaneU) (s : State) :=
  let ty := x.h.pfx.ty
  let n := regsOf ty
  issue (regUnit x.h (dstW x.d) (refsOf [dstRefs x.d n true, ssrcRefs x.a, ssrcRefs x.b]) 2 (fun c =>
    c.put x.d n (fun l =>
      if l = c.laneOf x.b then c.rdS false x.a % 2 ^ (32 * n)
      else if ty = 1 then c.old64 x.d l else c.old x.d l))) s

/-! Majors 0x21 and 0x22 (R212, R213). -/

/-- The identity of an operation at width w. -/
def redIdent (o : RedOp) (w : Nat) : Nat :=
  match o with
  | .add | .or | .xor | .nmax => 0
  | .and | .nmin => 2 ^ w - 1
  | .min => 2 ^ (w - 1) - 1
  | .max => 2 ^ (w - 1)
  | .fadd => 0x80000000
  | .fmin => 0x7F800000
  | .fmax => 0xFF800000

/-- op over values, in any order; .fadd rounds the exact sum once. -/
def reduceOf (o : RedOp) (w : Nat) (md : Rnd) (vs : List Nat) : Nat × FFlags :=
  match vs with
  | [] => (redIdent o w, 0)
  | v :: r =>
    match o with
    | .add => (r.foldl (fun a b => (a + b) % 2 ^ w) v, 0)
    | .min => (r.foldl (fun a b => if sextN b w < sextN a w then b else a) v, 0)
    | .max => (r.foldl (fun a b => if sextN a w < sextN b w then b else a) v, 0)
    | .nmin => (r.foldl min v, 0)
    | .nmax => (r.foldl max v, 0)
    | .and => (r.foldl (· &&& ·) v, 0)
    | .or => (r.foldl (· ||| ·) v, 0)
    | .xor => (r.foldl (· ^^^ ·) v, 0)
    | .fadd =>
      let t := fsum md (vs.map Fmt.f32.dec)
      let q := deliver t.1 .f32 md false
      (q.1, t.2 ||| q.2)
    | .fmin => (r.foldl (fminmax .f32 false false) v, 0)
    | .fmax => (r.foldl (fminmax .f32 true false) v, 0)

/-- A lane's operand: an integer element, or an f32. The integer .min and .max are signed (R212), so a 64-bit literal of theirs is sign-extended, although R150
speaks of a Sign column, which their table has not (log 53). -/
def redVal (c : Ctx) (o : RedOp) (ty : Nat) (a : Src) (l : Nat) : Nat :=
  let sg := match o with | .min => true | .max => true | _ => false
  match o with
  | .fadd | .fmin | .fmax => c.rd (.flt .f32) a l
  | _ => rdTy c ty sg a l

/-- A single operand of FMIN or FMAX that is NaN is the canonical NaN (R191). -/
def canonNaN (o : RedOp) (v : Nat) : Nat :=
  match o with
  | .fmin | .fmax => if Fmt.f32.dec v = .nan then f32NaN else v
  | _ => v

def reduxAll (c : Ctx) (x : ReduxU) : Nat × FFlags :=
  let ty := x.h.pfx.ty
  let r := reduceOf x.op (32 * regsOf ty) (rndOf x.h.pfx.rnd) (c.lanes.map (redVal c x.op ty x.a))
  (canonNaN x.op r.1, r.2)

def execRedux (x : ReduxU) (s : State) :=
  let n := regsOf x.h.pfx.ty
  match x.d with
  | .vec d =>
    issue (regUnit x.h (dstW d) (refsOf [dstRefs d n false, srcRefs x.a n]) 2 (fun c g =>
      let r := reduxAll c x
      (c.put d n (fun _ => r.1) g).raise (if c.act = 0 then 0 else r.2))) s
  | .sc i =>
    issue (uniUnit x.h (refsOf [sName i, srcRefs x.a n]) 2 (fun c g =>
      let r := reduxAll c x
      (c.putS i r.1 g).raise r.2)) s

/-- The lanes of T(l): those of act at or below l, or below it (R213). -/
def scanLanes (c : Ctx) (excl : Bool) (l : Nat) : List Nat :=
  c.lanes.filter (fun j => decide (j < l) || (!excl && decide (j = l)))

def scanLane (c : Ctx) (x : ScanU) (l : Nat) : Nat × FFlags :=
  let ty := x.h.pfx.ty
  let vs := (scanLanes c (decide (x.h.pfx.imm % 2 = 1)) l).map (redVal c x.op ty x.a)
  let r := reduceOf x.op (32 * regsOf ty) (rndOf x.h.pfx.rnd) vs
  (canonNaN x.op r.1, r.2)

def execScan (x : ScanU) (s : State) :=
  let n := regsOf x.h.pfx.ty
  issue (regUnit x.h (dstW x.d) (refsOf [dstRefs x.d n false, srcRefs x.a n]) 2 (fun c g =>
    (c.put x.d n (fun l => (scanLane c x l).1) g).raise (c.flags (fun l => (scanLane c x l).2)))) s

/-! Major 0x23 (R214). -/

def execVall (x : KRdU) (s : State) :=
  issue (uniUnit x.h (refsOf [sName x.d, msrcRefs x.k]) 2 (fun c =>
    c.putS x.d (btn (c.lanes.all (fun l => mbit (c.rdK x.k) l))))) s
def execVany (x : KRdU) (s : State) :=
  issue (uniUnit x.h (refsOf [sName x.d, msrcRefs x.k]) 2 (fun c =>
    c.putS x.d (btn (c.lanes.any (fun l => mbit (c.rdK x.k) l))))) s

def execVballot (x : BallotU) (s : State) :=
  issue (uniUnit x.h (refsOf [sName x.d, srcRefs x.a 1]) 2 (fun c =>
    c.putS x.d (Sys2Proof.Machine.maskOf (c.lanes.filter (fun l => decide (c.rd (.int 32) x.a l ≠ 0))) |>.toNat |>
      (fun m => if x.hi then m / 2 ^ 64 else m % 2 ^ 64)))) s

/-- Mask logic over two masks; only the bits of active lanes change. -/
def maskUnit (x : K3U) (r : Bool → Bool → Bool) : UnitOp :=
  regUnit x.h false (refsOf [msrcRefs x.a, msrcRefs x.b]) 1 (fun c =>
    c.putK x.k (fun l => r (mbit (c.rdK x.a) l) (mbit (c.rdK x.b) l)))

def execKand (x : K3U) (s : State) := issue (maskUnit x (· && ·)) s
def execKor (x : K3U) (s : State) := issue (maskUnit x (· || ·)) s
def execKxor (x : K3U) (s : State) := issue (maskUnit x (· != ·)) s
def execKandn (x : K3U) (s : State) := issue (maskUnit x (fun a b => a && !b)) s
def execKnot (x : K2U) (s : State) :=
  issue (regUnit x.h false (msrcRefs x.a) 1 (fun c => c.putK x.k (fun l => !mbit (c.rdK x.a) l))) s
def execKfirst (x : K2U) (s : State) :=
  issue (regUnit x.h false (msrcRefs x.a) 1 (fun c =>
    c.putK x.k (fun l => decide ((c.lanes.find? (fun j => mbit (c.rdK x.a) j)) = some l)))) s

/-! Major 0x24 (R215). -/

/-- The window base that WBASE asks for. -/
def wbaseOf (c : Ctx) (x : WbaseU) : Nat :=
  8 * (x.sel + (match x.a with | .s i => readS c.g i % 256 | _ => 0))

def execWbase (x : WbaseU) (s : State) :=
  issue { h := x.h, refs := ssrcRefs x.a
          gate := fun c _ =>
            if c.team.vregs ≤ wbaseOf c x then
              .trap { code := 0x02, mask := c.act, detail := at_ c.team.vregs 12 12 + at_ (wbaseOf c x) 0 12 }
            else .go
          effect := fun c s => c.commit s (fun g => { g with wb := wbaseOf c x }) } s

end Sys2Proof.Machine
end

