-- ==== Sys2Proof/Machine/Pages.lean ====
section
/-! DEFINITION. Pages that come and go: PAGEIN's actions, the press sweep, and early write-backs (R76, R77, R81, R224, R302,
R429, R430, R471, R473). -/
namespace Sys2Proof.Machine

/-! Frames. -/

/-- The frame of 64 KiB at a physical address becomes zeros without marks or tags, and no cache keeps a line of it. -/
def clearFrame (s : State) (a : Nat) : State :=
  let out := fun (x size : Nat) => decide (x < a / size) || decide ((a + 65536) / size ≤ x)
  { s with hbm := s.hbm.filter (fun e => out e.1 1), hbmPoison := s.hbmPoison.filter (fun x => out x 1)
           hbmTags := s.hbmTags.filter (fun x => out x 16), lines := s.lines.filter (fun c => out c.line 128) }

/-- The bytes, marks and tags of a frame, by offset in it. -/
def frameImage (s : State) (a : Nat) : List Host.Cell × List Nat × List Nat :=
  let inn := fun (x size : Nat) => decide (a / size ≤ x) && decide (x < (a + 65536) / size)
  ((s.hbm.filter (fun e => inn e.1 1)).map (fun e => (e.1 - a, e.2)), (s.hbmPoison.filter (fun x => inn x 1)).map (· - a),
    (s.hbmTags.filter (fun x => inn x 16)).map (· - a / 16))

/-- A frame that holds an image. -/
def putImage (s : State) (a : Nat) (m : List Host.Cell × List Nat × List Nat) : State :=
  let s := clearFrame s a
  { s with hbm := m.1.foldl (fun h e => wrByte h (a + e.1) e.2) s.hbm
           hbmPoison := m.2.1.foldl (fun l x => sIns l (a + x)) s.hbmPoison
           hbmTags := m.2.2.foldl (fun l x => sIns l (a / 16 + x)) s.hbmTags }

/-- 64 KiB of host memory as an image. -/
def hostImage (s : State) (a : Nat) : List Host.Cell × List Nat × List Nat :=
  ((s.host.filter (fun e => decide (a ≤ e.1 ∧ e.1 < a + 65536))).map (fun e => (e.1 - a, e.2)), [], [])

/-! PAGEIN (R76, R224). -/

/-- The page becomes RESIDENT in a frame of the context's list, with an image; NOFRAME when the list is empty. -/
def makeResident (s : State) (ctx : Nat) (o : ObjEntry) (p : Nat) (m : List Host.Cell × List Nat × List Nat) : Nat × State :=
  match takeFrame s ctx o.hstk with
  | none => (1, s)
  | some (f, s) =>
    let e := readPage s o p
    let s := putImage s (65536 * f) m
    let s := if pageState e = 2 then { s with pressed := tdel s.pressed (pageFrame e) } else s
    (0, putPage s o p f 1 1 (bits e 16 16) 0)

/-- A damaged image: the page is UNBACKED and its regions are POISONED (R429). -/
def damagedPage (s : State) (ctx oid : Nat) (o : ObjEntry) (p : Nat) : State :=
  let e := readPage s o p
  let s := putPage { s with pressed := tdel s.pressed (pageFrame e) } o p 0 0 0 0 0
  ((regionsIn s ctx oid (65536 * p) 65536).filter (fun d => decide (d.state ≠ 5))).foldl
    (fun s d => poisonRegion s o.hstk 2 (mgmtParty o.hstk 0) d.holder d) s

/-- The action for one page: its receipt value, and the state. -/
def pageAction (s : State) (ctx oid p : Nat) (out : PageOutcome) : Nat × State :=
  let o := readObj s ctx oid
  let e := readPage s o p
  if pageState e = 1 then ((if s.running (bits (pageFrame e) 23 20) then 0 else 1), s)
  else if !s.running o.hstk ∨ (readList s ctx o.hstk).empty then (1, s)
  else
    match pageState e with
    | 2 =>
      if out = .damaged then (3, damagedPage s ctx oid o p)
      else makeResident s ctx o p (tget s.pressed (pageFrame e) ([], [], []))
    | 3 =>
      if out = .hostFail ∨ s.hostLinkDown = true then (2, s)
      else makeResident s ctx o p (hostImage s (65536 * pageFrame e))
    | _ => makeResident s ctx o p ([], [], [])

/-- The lowest nonzero receipt. -/
def worse (a b : Nat) : Nat := if a = 0 then b else if b = 0 then a else min a b

/-- One page of a PAGEIN, and the receipt after the last. -/
def pageinStep (s : State) (id : Nat) (out : PageOutcome) : State :=
  match s.pageins.find? (fun o => decide (o.id = id)) with
  | none => s
  | some o =>
    let (r, s) := match o.pages with
      | [] => (0, s)
      | p :: _ => let (r, s) := pageAction s o.ctx o.oid p out; (r, releaseDeps s)
    let w := worse o.worst r
    if 2 ≤ o.pages.length then
      { s with pageins := updWhere (fun x => decide (x.id = id)) (fun x => { x with pages := x.pages.drop 1, worst := w }) s.pageins }
    else
      let s := { s with pageins := s.pageins.filter (fun x => decide (x.id ≠ id)) }
      settleTeam (writeReceipt s o.die o.handle o.grp o.reg w) o.die o.handle

def execPageinPageAction (s : State) : Host.Outcome State Fault Refusal := .next (pageinStep s s.arg.id s.arg.outcome)

/-! The sweep (R77, R430). -/

/-- An engine operation whose receipt is not written names the object (R235, R241; log 29). -/
def engineOn (s : State) (ctx oid : Nat) : Bool :=
  s.engines.any (fun e => decide (e.ctx = ctx) && (decide (e.src.oid.toNat = oid) || decide (e.dst.oid.toNat = oid)))

/-- The page meets every condition but room. -/
def pressable (s : State) (ctx oid p age : Nat) (o : ObjEntry) : Bool :=
  let t := (readCtx s ctx).press
  decide (t ≠ 0) && decide (t ≤ age) && !o.nopress && !engineOn s ctx oid &&
    (regionsIn s ctx oid (65536 * p) 65536).all (fun d => decide (d.state = 2))

/-- A skip for want of room: counted, and reported once in 2^20 counts. -/
def pressSkip (s : State) (d ctx : Nat) : State :=
  let s := s.setReg 0x350000 (BitVec.ofNat 64 (at_ ((s.reg 0x350000).toNat / 2 ^ 40 + 1) 40 24))
  let x := s.die d
  let (last, n) := tget x.pressReport ctx (0, 0)
  let put := fun (s : State) (v : Nat × Nat) => s.updDie d (fun y => { y with pressReport := tset y.pressReport ctx v (0, 0) })
  if last = 0 ∨ last - 1 + 2 ^ 20 ≤ x.cycle then
    put (regionEvent s d { code := 0x2D, ctx := ctx, len := n + 1, party := mgmtParty d 0 }) (x.cycle + 1, 0)
  else put s (last, n + 1)

/-- The bytes of the press zone: at most 128 GiB (R16). -/
def pressRoom : Nat := Config.pressZone % (2 ^ 37 + 1)

/-- A visit of a page entry by its home die; image is the press-zone record taken. -/
def sweepVisit (s : State) (ctx oid p image : Nat) : State :=
  let o := readObj s ctx oid
  let e := readPage s o p
  let a := 65536 * bits (pageFrame e) 23 0
  let d := stackOf a
  let key := pageAddr o p
  let last := tget s.pressVisits key 0
  if !o.valid ∨ o.far ∨ o.size ≤ 65536 * p ∨ pageState e ≠ 1 ∨ !s.running d ∨
      (last ≠ 0 ∧ (s.die d).cycle < last - 1 + 2 ^ 20) then s
  else
    let s := { s with pressVisits := tset s.pressVisits key ((s.die d).cycle + 1) 0 }
    let aged := fun (s : State) (acc age : Nat) =>
      wrHomeNat s key 8 (e - at_ (bits e 17 12) 12 6 + at_ acc 17 1 + at_ (bits e 16 16) 16 1 + at_ age 12 4)
    if bits e 17 17 = 1 then aged s 0 0
    else
      let age := min (bits e 15 12 + 1) 15
      let s := aged s 0 age
      if !pressable s ctx oid p age o || (tfind s.pressed image).isSome then s
      else
        let m := frameImage s a
        if pressRoom < zoneUsed s + Config.imageSize m.1 ∨ (readList s ctx d).full = true then
          pressSkip s d ctx
        else
          let s := { s with pressed := tput s.pressed image m, lines := s.lines.filter (fun c => !decide (a ≤ 128 * c.line ∧ 128 * c.line < a + 65536)) }
          appendFrame (putPage s o p image 2 0 (bits e 16 16) age) ctx d a

/-- The pages homed on a die's stack, as numbers in the order of the sweep: context, object, page (R77; log 53). -/
def sweepList (s : State) (d : Nat) : List Nat :=
  (keysIn s.hbm (s.reg 0x108).toNat 128 4096).flatMap (fun c =>
    let x := readCtx s c
    if !x.valid then []
    else
      (keysIn s.hbm x.odbase 32 x.odlen).flatMap (fun oid =>
        let o := readObj s c oid
        if !o.valid || o.far then []
        else
          ((keysIn s.hbm o.plist 8 ((o.size + 65535) / 65536)).filter (fun p =>
            let e := readPage s o p
            decide (pageState e = 1) && decide (bits (pageFrame e) 23 20 = d))).map (fun p => (c * 2 ^ 28 + oid) * 2 ^ 24 + p)))

/-- The entry that a die's sweep comes to next: the first after the one visited last, or the first of all. -/
def nextVisit (s : State) (d : Nat) : Option Nat :=
  let l := sweepList s d
  match minBy id (l.filter (fun k => decide ((s.die d).sweep ≤ k))) with
  | some k => some k
  | none => minBy id l

/-- The next visit of a die's sweep, when its entry may be visited again (R77). -/
def sweepNext (s : State) (d image : Nat) : State :=
  match nextVisit s d with
  | none => s
  | some k =>
    let o := readObj s (k / 2 ^ 52) (k / 2 ^ 24 % 2 ^ 28)
    let last := tget s.pressVisits (pageAddr o (k % 2 ^ 24)) 0
    if last ≠ 0 ∧ (s.die d).cycle < last - 1 + 2 ^ 20 then s
    else (sweepVisit s (k / 2 ^ 52) (k / 2 ^ 24 % 2 ^ 28) (k % 2 ^ 24) image).updDie d (fun x => { x with sweep := k + 1 })

def execPressSweepVisit (s : State) : Host.Outcome State Fault Refusal :=
  .next (if s.running s.arg.die then sweepNext s s.arg.die s.arg.id else s)

/-- One round of a die's sweep: a visit for each of its entries, with press-zone records that are free. -/
def sweepRound (s : State) (d : Nat) : List Act :=
  let n := (sweepList s d).length
  let free := ((upto (s.pressed.length + n)).filter (fun k => (tfind s.pressed k).isNone)).take n
  free.map (fun k => .event .pressSweepVisit { die := d, id := k })

/-! Early write-backs and evictions (R80, R81, R473). -/

/-- A dirty line goes to the next level, if it has a path; otherwise the release carries it. An evicted line leaves its cache. -/
def earlyBack (s : State) (i : Nat) (out : Bool) : State :=
  match s.lines[i]? with
  | none => s
  | some c =>
    if c.l2 && !canLeave s c then s
    else
      let s := writeBack s c
      if out then dropLine s c.l2 c.unit c.line else s

def execEarlyWriteBack (s : State) : Host.Outcome State Fault Refusal := .next (earlyBack s s.arg.idx s.arg.flag)

end Sys2Proof.Machine
end

