-- ==== Sys2Proof/Machine/Scalar.lean ====
section
/-! DEFINITION. Scalar instructions of majors 0x0C to 0x0F (R187, R188). -/
namespace Sys2Proof.Machine

/-- A scalar unit of two 64-bit sources; the literal is sign-extended (R187). -/
def scalarUnit (x : SU) (r : Nat → Nat → Int) : UnitOp :=
  uniUnit x.h (refsOf [sName x.d, ssrcRefs x.a, ssrcRefs x.b]) 0
    (fun c => c.putS x.d (wrapN (r (c.rdS true x.a) (c.rdS true x.b)) 64))

def execSadd (x : SU) (s : State) := issue (scalarUnit x (fun a b => a + b)) s
def execSsub (x : SU) (s : State) := issue (scalarUnit x (fun a b => (a : Int) - b)) s
def execSmul (x : SU) (s : State) := issue (scalarUnit x (fun a b => a * b)) s
def execSmulh (x : SU) (s : State) :=
  issue (scalarUnit x (fun a b => sextN a 64 * sextN b 64 / (2 ^ 64 : Nat))) s
def execSand (x : SU) (s : State) := issue (scalarUnit x (fun a b => (a &&& b : Nat))) s
def execSor (x : SU) (s : State) := issue (scalarUnit x (fun a b => (a ||| b : Nat))) s
def execSxor (x : SU) (s : State) := issue (scalarUnit x (fun a b => (a ^^^ b : Nat))) s
def execSshl (x : SU) (s : State) := issue (scalarUnit x (fun a b => shlN 64 a (b % 64))) s
def execSshr (x : SU) (s : State) := issue (scalarUnit x (fun a b => shrN 64 a (b % 64))) s
def execSsra (x : SU) (s : State) := issue (scalarUnit x (fun a b => sraN 64 a (b % 64))) s
def execSmin (x : SU) (s : State) := issue (scalarUnit x (fun a b => min (sextN a 64) (sextN b 64))) s
def execSmax (x : SU) (s : State) := issue (scalarUnit x (fun a b => max (sextN a 64) (sextN b 64))) s
def execSnmin (x : SU) (s : State) := issue (scalarUnit x (fun a b => (min a b : Nat))) s
def execSnmax (x : SU) (s : State) := issue (scalarUnit x (fun a b => (max a b : Nat))) s

def execSaddi (x : SImmU) (s : State) :=
  issue (uniUnit x.h (refsOf [sName x.d, ssrcRefs x.a]) 0 (fun c =>
    c.putS x.d (wrapN (c.rdS true x.a + sextN x.imm.toNat 11) 64))) s

def execScmp (x : SCmpU) (s : State) :=
  issue (uniUnit x.h (refsOf [sName x.d, ssrcRefs x.a, ssrcRefs x.b]) 0 (fun c =>
    c.putS x.d (btn (icondHolds x.c 64 (c.rdS true x.a) (c.rdS true x.b))))) s

def execSmov (x : SMovU) (s : State) :=
  issue (uniUnit x.h (refsOf [sName x.d, ssrcRefs x.a]) 0 (fun c => c.putS x.d (c.rdS true x.a))) s

/-- Half h of a mask (R188). -/
def maskHalf (m : Mask) (hi : Bool) : Nat := if hi then m.toNat / 2 ^ 64 else m.toNat % 2 ^ 64

def execSrdk (x : SrdkU) (s : State) :=
  issue (uniUnit x.h (refsOf [sName x.d, kRead x.k]) 0 (fun c =>
    c.putS x.d (maskHalf (readK c.g c.x x.k) x.hi))) s

def execSwrk (x : SwrkU) (s : State) :=
  issue (uniUnit x.h (ssrcRefs x.a) 0 (fun c g =>
    let m := tget c.g.masks x.k 0
    let a := c.rdS true x.a
    writeK g x.k (BitVec.ofNat 128 (if x.hi then m.toNat % 2 ^ 64 + a * 2 ^ 64 else m.toNat / 2 ^ 64 * 2 ^ 64 + a)))) s

def execSpopk (x : KRdU) (s : State) :=
  issue (uniUnit x.h (refsOf [sName x.d, msrcRefs x.k]) 0 (fun c =>
    c.putS x.d (popN (c.rdK x.k).toNat 128))) s

end Sys2Proof.Machine
end

