-- ==== Sys2Proof/Machine/Services.lean ====
section
/-! DEFINITION. Service calls after the park: the request, the host's answer, and the restore of the group (R263, R375 to
R377, R480). -/
namespace Sys2Proof.Machine

/-! The ring of a die (R375). -/

def ringBase (d : Die) : Nat := bits d.scring.toNat 63 12 * 4096
def ringSize (d : Die) : Nat := 2 ^ bits d.scring.toNat 11 8
def ringSlots (d : Die) : Nat := 2 ^ bits d.scring.toNat 7 4

/-- The host address of lane l's block in slot k. -/
def slotAddr (d : Die) (k l : Nat) : Nat := ringBase d + 64 * ringSize d + 8192 * k + 64 * l

/-- The lowest-numbered free slot. -/
def freeSlot (d : Die) : Option Nat := (upto (ringSlots d)).find? (fun k => d.slots.all (fun x => decide (x.slot ≠ k)))

/-- The ring has room for a record. -/
def ringRoom (d : Die) : Bool := decide ((d.scTail + 2 ^ 32 - d.scHead.toNat % 2 ^ 32) % 2 ^ 32 < ringSize d)

/-- The request record (R376). -/
def requestRec (d : Die) (mask : Mask) (party ctx svc slot : Nat) : Nat :=
  let v := at_ mask.toNat 384 128 + at_ party 352 32 + at_ ctx 340 12 + at_ svc 332 8 + at_ slot 316 16 +
    at_ (genOf d.scTail (ringSize d)) 308 8
  v + at_ (crc16 (leBytes 64 v)) 292 16

/-- A lane's block copied to the host; what a poisoned byte becomes there is free (log 8). -/
def copyOut (t : Team) (grp addr la : Nat) (s : State) : State :=
  (upto 64).foldl (fun s i =>
    let k := locIndex t grp la + i
    if t.locPoison.contains k then
      let (b, s) := s.drawByte
      { s with host := wrByte s.host (addr + i) b }
    else { s with host := wrByte s.host (addr + i) (tget t.loc k 0) }) s

/-- The oldest request is placed, once a slot and a ring entry are free. -/
def postRequest (s : State) (d : Nat) : State :=
  let x := s.die d
  match x.svcQueue with
  | [] => s
  | (e, h, n) :: rest =>
    let drop := s.updDie d (fun y => { y with svcQueue := rest })
    match s.team? e h with
    | none => drop
    | some t =>
      match t.group? n with
      | none => drop
      | some g =>
        match g.service, freeSlot x with
        | some (svc, act, _, blocks), some k =>
          if s.running d && x.scring.getLsbD 0 && ringRoom x && !s.hostLinkDown then
            let s := blocks.foldl (fun s b => copyOut t n (slotAddr x k b.1) b.2 s) s
            let s := { s with host := wrNat s.host (ringBase x + 64 * (x.scTail % ringSize x)) 64
                                        (requestRec x act (groupParty e h n) t.ctx svc k) }
            let s := s.updDie d (fun y =>
              { y with svcQueue := rest, scTail := (y.scTail + 1) % 2 ^ 32
                       slots := y.slots ++ [({ slot := k, tdie := e, handle := h, grp := n } : SvcSlot)] })
            s.signal (1 + d)
          else s
        | none, _ => drop
        | _, none => s

def execServiceRequestPost (s : State) : Host.Outcome State Fault Refusal := .next (postRequest s s.arg.die)

/-- The host's blocks in the saved argument blocks. -/
def copyIn (s : State) (d k : Nat) (t : Team) (grp : Nat) (blocks : List (Nat × Nat)) : Team :=
  blocks.foldl (fun t b => writeLocal t (locIndex t grp b.2) (rdBytes s.host (slotAddr (s.die d) k b.1) 64)) t

/-- R377: an answer for a busy slot; one that names none, or that has another form, is stray (log 27). -/
def answer (s : State) (d : Nat) (v : Dword) : State :=
  let k := bits v.toNat 31 16
  let st := bits v.toNat 15 0
  let free := s.updDie d (fun y => { y with slots := y.slots.filter (fun x => decide (x.slot ≠ k)) })
  match (s.die d).slots.find? (fun x => decide (x.slot = k)) with
  | none => eventMod s d { code := 0x91, value := v.toNat }
  | some x =>
    if 3 ≤ st then eventMod s d { code := 0x91, value := v.toNat }
    else if x.orphan then free
    else
      match s.team? x.tdie x.handle with
      | none => free
      | some t =>
        match t.group? x.grp with
        | none => free
        | some g =>
          let blocks := match g.service with | some r => r.2.2.2 | none => []
          let t := copyIn s d k t x.grp blocks
          free.setTeam x.tdie x.handle (t.setGroup x.grp { g with serviceStatus := some st })

def execScdone (s : State) : Host.Outcome State Fault Refusal :=
  if s.running s.arg.die then .next (answer s s.arg.die s.arg.v) else .next s

/-- The splits of the group after its TRAP. -/
def Group.served (g : Group) : Group := g.mapSplits (fun x => if x.wait = .service then { x with wait := .none } else x)

/-- R263 steps 4 and 5: the answered group returns to its position, on a core that its team has. -/
def restoreTrapped (s : State) (d h n : Nat) : State :=
  match s.team? d h with
  | none => s
  | some t =>
    match t.group? n with
    | none => s
    | some g =>
      let here := match t.state with | .resident | .deciding | .draining => true | _ => false
      match g.serviceStatus, g.service with
      | some st, some r =>
        if here && decide (g.residence = .trapParked) && s.running g.die then
          let cyc := (s.die g.die).cycle
          let g := { (Group.thaw cyc g.served) with residence := .resident, service := none, serviceStatus := none, lastIssue := cyc }
          let core := 128 * g.die + g.core
          let s := holdCounters (s.setGroup d h n g) t.ctx core
          let s := charge s t.ctx core (kib (4 * t.vregs * g.width + 1024))
          let s := writeReceipt s d h n r.2.2.1 st
          match s.team? d h with
          | some t => settleTeam (pendingDebug s t) d h
          | none => s
        else s
      | _, _ => s

def execTrapGroupRestore (s : State) : Host.Outcome State Fault Refusal :=
  .next (restoreTrapped s s.arg.die s.arg.handle s.arg.grp)

end Sys2Proof.Machine
end

