-- ==== Sys2Proof/Machine/Sync.lean ====
section
/-! DEFINITION. Synchronisation: major 0x3C, mailbox messages and the end of a DWAIT (R252 to R257, R327). -/
namespace Sys2Proof.Machine

/-- GLEANBAR: a barrier or DWAIT by a gleaned group (R52, R435). -/
def gleanBar (f : Nat) (c : Ctx) (_ : State) : Option TrapInfo :=
  if c.team.gleaner.isSome then some { code := 0x43, mask := c.act, detail := f } else none

/-! Team barriers (R254). -/

/-- The split executes an arriving instruction at barrier b; wait tells BAR from BARA. -/
def atBar (b : Nat) (wait : Bool) (c : Ctx) (g : Group) : Group :=
  let n := tget g.barCount b 0
  if c.team.phaseDone b n then
    let g := { g with barMask := tset g.barMask b (tget g.barMask b 0 ||| c.x.mask) 0 }
    if wait then g.updSlot c.slot (fun x => { x with wait := .bar b (n + 1) }) else g
  else g.updSlot c.slot (fun x => { x with wait := .barHold b wait })

/-- The split waits for the phase of its group's latest arrival (R254). -/
def waitBar (b : Nat) (c : Ctx) (g : Group) : Group :=
  let n := tget g.barCount b 0
  if c.team.phaseDone b n then g else g.updSlot c.slot (fun x => { x with wait := .bar b n })

def barUnit (x : BarU) (f : Nat) (release : Bool) (e : Ctx → Group → Group) : UnitOp :=
  { h := x.h, uniform := true, row3 := gleanBar f
    gate := fun c s => if release then stuckGate s c 1 else Gate.go
    effect := fun c s =>
      sweepTeam (c.commit (if release then releaseAll s c 1 else s) (e c)) c.die c.handle }

def execBar (x : BarU) (s : State) := issue (barUnit x 0 true (atBar x.b true)) s
def execBara (x : BarU) (s : State) := issue (barUnit x 1 true (atBar x.b false)) s

/-- BARW departs at once when its phase is complete, and acquires (R108). -/
def execBarw (x : BarU) (s : State) :=
  issue { h := x.h, uniform := true, row3 := gleanBar 2
          effect := fun c s =>
            let done := c.team.phaseDone x.b (tget c.g.barCount x.b 0)
            c.commit (if done then acquireAll s c 1 else s) (waitBar x.b c) } s

/-! The die barrier (R53, R254). -/

def noCohort (c : Ctx) (s : State) : Option TrapInfo :=
  match gleanBar 3 c s with
  | some t => some t
  | none =>
    match teamLaunch s c.team with
    | some l => if l.cohort then none else some { code := 0x44, mask := c.act }
    | none => some { code := 0x44, mask := c.act }

def atDbar (done : Bool) (c : Ctx) (g : Group) : Group :=
  if done then
    ({ g with dbarMask := g.dbarMask ||| c.x.mask } : Group).updSlot c.slot (fun x => { x with wait := .dbar (g.dbarCount + 1) })
  else g.updSlot c.slot (fun x => { x with wait := .dbarHold })

def execDbar (x : NoneU) (s : State) :=
  issue { h := x.h, uniform := true, row3 := noCohort
          gate := fun c s => stuckGate s c 5
          effect := fun c s =>
            let done := dbarDone s c.die c.team.grid c.g.dbarCount
            sweepTeam (c.commit (releaseAll s c 5) (atDbar done c)) c.die c.handle } s

/-! DSIG (R255). -/

def sigPos (c : Ctx) (x : DsigU) : Nat := c.rdS false x.a % 16

/-- The scope of a DSIG's release: the issuer's die, its twin, or the module. -/
def sigScope (s : State) (c : Ctx) (pos : Nat) : Nat :=
  match (s.grid? c.team.grid).bind (fun g => g.dies[pos]?) with
  | some d => if d = c.g.die then 5 else if d / 2 = c.g.die / 2 then 6 else 7
  | none => 7

def execDsig (x : DsigU) (s : State) :=
  issue { h := x.h, refs := refsOf [ssrcRefs x.a, ssrcRefs x.b], uniform := true
          gate := fun c s =>
            let n := ndieOf s c.team.grid
            if n ≤ sigPos c x then .trap { code := 0x42, mask := c.act, detail := at_ (sigPos c x) 0 4 + at_ n 8 5 }
            else releaseGate s c (sigScope s c (sigPos c x))
          effect := fun c s =>
            sendDsig (releaseAll s c (sigScope s c (sigPos c x))) c.team.grid (sigPos c x) x.w x.op (c.rdS false x.b) (groupParty c.die c.handle c.grp) } s

/-! DWAIT (R54, R256). -/

def atDwait (x : DwaitU) (c : Ctx) (g : Group) : Group :=
  let o : DwaitSt := { word := x.w, cond := x.cond, value := BitVec.ofNat 64 (c.rdS false x.a),
                       deadline := readS c.g x.r, reg := x.r }
  ({ g with dwaitMask := g.dwaitMask ||| c.x.mask, dwaitOp := some o } : Group).updSlot c.slot (fun y => { y with wait := .dwait })

def execDwait (x : DwaitU) (s : State) :=
  issue { h := x.h, refs := refsOf [ssrcRefs x.a, sRead x.r], uniform := true, row3 := gleanBar 5
          gate := fun c s => stuckGate s c 1
          effect := fun c s =>
            if gridBroken s c.team.grid then c.commit s (c.putS x.r 2)
            else sweepTeam (c.commit (releaseAll s c 1) (atDwait x c)) c.die c.handle } s

/-! RTEST (R257). -/

/-- RTEST names its receipt without waiting for it. -/
def execRtest (x : RtestU) (s : State) :=
  issue { h := x.h, refs := { s := [x.d], rs := [x.a] }, uniform := true
          effect := fun c s => c.commit s (c.putS x.d (btn !(c.g.pendScalars.getLsbD x.a))) } s

/-! Messages (R255, R256, R327). -/

def SigOp.eval (o : SigOp) (w v : Nat) : Nat :=
  match o with
  | .add => (w + v) % 2 ^ 64
  | .or => w ||| v
  | .max => max w v
  | .set => v

/-- After a change of a word, the teams of the die that wait on it are looked at again (R256). -/
def wakeDwaits (s : State) (grid pos word : Nat) : State :=
  s.teams.foldl (fun s t =>
    if t.grid = grid ∧ t.pos = pos ∧ t.state ≠ .resident ∧ t.gleaner = none then
      match t.dwait with
      | some o =>
        if o.word = word ∧ o.status = none ∧ condHolds o.cond (dieWord s grid pos word) o.value.toNat = true then
          releaseDwait s t.die t.handle 0
        else s
      | none => s
    else s) s

/-- A message at its die: messages of one issuer arrive in order; words of a grid that is gone are free (R327). -/
def arriveDsig (s : State) (d i : Nat) : State :=
  match (s.die d).dsigs[i]? with
  | none => s
  | some m =>
    if ((s.die d).dsigs.take i).any (fun e => decide (e.from_ = m.from_) && decide (e.grid = m.grid)) then s
    else
      let s := s.updDie d (fun x => { x with dsigs := x.dsigs.eraseIdx i })
      let k := 64 * m.pos + m.word
      let live := match s.grid? m.grid with | some g => g.wordsHeld | none => false
      if live then
        let s := s.updGrid m.grid (fun g =>
          { g with words := tset g.words k (BitVec.ofNat 64 (Sys2Proof.Machine.SigOp.eval m.op (tget g.words k 0).toNat m.value.toNat)) 0 })
        wakeDwaits s m.grid m.pos m.word
      else s

def execDsigMessage (s : State) : Host.Outcome State Fault Refusal := .next (arriveDsig s s.arg.die s.arg.idx)

/-- A DWAIT's deadline passes (R256), or its grid was marked broken (R457). -/
def execDwaitTimeout (s : State) : Host.Outcome State Fault Refusal :=
  match s.team? s.arg.die s.arg.handle with
  | none => .next s
  | some t =>
    match t.dwait with
    | none => .next s
    | some o =>
      if o.status.isSome then .next s
      else
        match dwaitStatus s t o with
        | some st => .next (releaseDwait s t.die t.handle st)
        | none => .next s

end Sys2Proof.Machine
end

