-- ==== Sys2Proof/Machine/Work.lean ====
section
/-! DEFINITION. Work and steps: major 0x3D and the delivery of observations (R258 to R261, R443). -/
namespace Sys2Proof.Machine

/-! CONT (R259). -/

/-- The record of a lane: word i is v(A + i). -/
def contRec (c : Ctx) (a l : Nat) : BitVec 512 :=
  BitVec.ofNat 512 ((upto 16).foldl (fun v i => v + readReg c.g (c.g.wb + a + i) l * 2 ^ (32 * i)) 0)

def execCont (x : ContU) (s : State) :=
  issue { h := x.h, refs := vRead x.a 16, price := 2
          effect := fun c s => emitRecs s c.g.die c.team.ctx c.team.grid (c.lanes.map (contRec c x.a)) } s

/-! STEP.SEND (R260). -/

/-- The mailbox that a lane names. -/
def laneMbox (c : Ctx) (a : Src) (l : Nat) : Nat := c.rd (.int 32) a l % 256

/-- No lower lane of the instruction named the lane's mailbox. -/
def firstNamer (c : Ctx) (a : Src) (l : Nat) : Bool :=
  c.lanes.all (fun j => decide (l ≤ j) || decide (laneMbox c a j ≠ laneMbox c a l))

/-- A group of a higher party has used one of the mailboxes in this count: the lanes reach it in a later one (R356; log 53). -/
def mboxGate (s : State) (c : Ctx) (a : Src) : Gate :=
  let now := (s.die c.g.die).cycle + 1
  let me := groupParty c.die c.handle c.grp
  if c.lanes.any (fun l => let b := s.mbox c.g.die (laneMbox c a l); decide (b.usedAt = now) && decide (me < b.usedBy)) then .wait else .go

/-- The lanes' operations stand in the mailbox order of this count. -/
def useMboxes (s : State) (c : Ctx) (a : Src) : State :=
  let now := (s.die c.g.die).cycle + 1
  (dedup (c.lanes.map (laneMbox c a))).foldl (fun s m =>
    s.setMbox c.g.die m { s.mbox c.g.die m with usedAt := now, usedBy := groupParty c.die c.handle c.grp }) s

def sendVersion (c : Ctx) (x : SendU) : Nat := readS c.g x.s % 65536

/-- The lanes that the mailboxes accept as they stand. -/
def acceptedLanes (s : State) (c : Ctx) (x : SendU) : List Nat :=
  c.lanes.filter (fun l => firstNamer c x.a l && mayAccept s c.g.die (laneMbox c x.a l) (sendVersion c x))

def actionBytes (c : Ctx) (b l : Nat) : List Byte :=
  (upto 16).flatMap (fun i => leBytes 4 (readReg c.g (c.g.wb + b + i) l))

def execStepSend (x : SendU) (s : State) :=
  issue { h := x.h, refs := refsOf [srcRefs x.a 1, vRead x.b 16, sRead x.s], price := 2
          gate := fun c s => (mboxGate s c x.a).both fun _ => if (acceptedLanes s c x).isEmpty then Gate.go else releaseGate s c 5
          effect := fun c s =>
            let ok := acceptedLanes s c x
            let s := useMboxes s c x.a
            let s := if ok.isEmpty then s else releaseAll s c 5
            let s := ok.foldl (fun s l => acceptAction s c.g.die (laneMbox c x.a l) (sendVersion c x) (actionBytes c x.b l)) s
            c.commit s (c.putK x.k (fun l => !ok.contains l)) } s

/-! STEP.TAKE (R261, R443). -/

/-- Registers a take writes. -/
def takeRegs (hd : Bool) : Nat := if hd then 36 else 32

def execStepTake (x : TakeU) (s : State) :=
  issue { h := x.h, refs := refsOf [srcRefs x.a 1, vName x.b (takeRegs x.hd), sName x.r], price := 2
          gate := fun c s => mboxGate s c x.a
          effect := fun c s =>
            let s := useMboxes s c x.a
            let base := c.g.wb + x.b
            let (id, s) := s.fresh
            let op : TakeOp := { id := id, die := c.die, handle := c.handle, grp := c.grp, reg := x.r, base := base,
                                 header := x.hd, lanes := c.lanes.map (fun l => (l, laneMbox c x.a l)), at_ := (s.die c.g.die).cycle + 1 }
            c.commit { s with takes := s.takes ++ [op] } (fun g =>
              setPending { g with pendRegs := g.pendRegs ++ (upto (takeRegs x.hd)).map (base + ·) } x.r) } s

/-- An observation, or zeros, into a lane's registers. -/
def putObs (o : TakeOp) (g : Group) (l : Nat) (obs : BitVec 128 × List Byte) : Group :=
  let v := leNat obs.2
  let g := (upto 32).foldl (fun g i => writeReg g (o.base + i) l (v / 2 ^ (32 * i) % 2 ^ 32)) g
  if o.header then (upto 4).foldl (fun g i => writeReg g (o.base + 32 + i) l (obs.1.toNat / 2 ^ (32 * i) % 2 ^ 32)) g else g

/-- An earlier take, or one of a lower party issued in the same count, stands before this one at a mailbox (R356). -/
def takeBefore (s : State) (d : Nat) (o : TakeOp) (m : Nat) : Bool :=
  let party := fun p : TakeOp => groupParty p.die p.handle p.grp
  s.takes.any (fun p => decide (p.at_ < o.at_ ∨ (p.at_ = o.at_ ∧ (party p < party o ∨ (party p = party o ∧ p.id < o.id)))) && p.lanes.any (fun l => decide (l.2 = m)) &&
    decide (((s.group? p.die p.handle p.grp).map (·.die)) = some d))

/-- The lanes of one mailbox served, if it can serve them. -/
def takeMbox (d m : Nat) (s : State) (o : TakeOp) : State × TakeOp :=
  let ls := (o.lanes.filter (fun l => decide (l.2 = m))).map (·.1)
  let b := s.mbox d m
  let give := fun (s : State) (obs : BitVec 128 × List Byte) =>
    s.updGroup o.die o.handle o.grp (fun g => ls.foldl (fun g l => putObs o g l obs) g)
  let rest := { o with lanes := o.lanes.filter (fun l => decide (l.2 ≠ m)) }
  if takeBefore s d o m then (s, o)
  else
    match b.obs with
    | some obs => (refillSlot ((give s (formHeader s d m obs.1, obs.2)).setMbox d m { b with obs := none }) d m, rest)
    | none => if deadMbox s d m then (give s (0, []), { rest with missing := true }) else (s, o)

/-- Every mailbox that can serve the take does, in a count after its issue; the receipt follows the last. The group's caches acquire
what the posts released, before it reads the receipt (R360). -/
def deliverTake (s : State) (id : Nat) : State :=
  match s.takes.find? (fun o => decide (o.id = id)) with
  | none => s
  | some o =>
    let d := ((s.group? o.die o.handle o.grp).map (·.die)).getD o.die
    if (s.die d).cycle < o.at_ then s else
    let (s, o) := (dedup (o.lanes.map (·.2))).foldl (fun r m => takeMbox d m r.1 r.2) (s, o)
    if o.lanes.isEmpty then
      let s := { s with takes := s.takes.filter (fun p => decide (p.id ≠ id)) }
      let mine := (upto (takeRegs o.header)).map (o.base + ·)
      let s := s.updGroup o.die o.handle o.grp (fun g => { g with pendRegs := g.pendRegs.filter (fun r => !mine.contains r) })
      let s := acquireLines s (partyCores s (groupParty o.die o.handle o.grp)) 2 (fun _ => true)
      settleTeam (writeReceipt s o.die o.handle o.grp o.reg (btn o.missing)) o.die o.handle
    else { s with takes := updWhere (fun p => decide (p.id = id)) (fun _ => o) s.takes }

def execStepTakeDelivery (s : State) : Host.Outcome State Fault Refusal := .next (deliverTake s s.arg.id)

end Sys2Proof.Machine
end

