-- ==== Sys2Proof/Machine/Dispatch.lean ====
section
/-! DEFINITION. One arm per step of the table: each is one call of its meaning. -/
namespace Sys2Proof.Machine

def exec (i : Instr) (s : State) : Host.Outcome State Fault Refusal :=
  match i with
  | .iadd x => Sys2Proof.Machine.execIadd x s
  | .isub x => Sys2Proof.Machine.execIsub x s
  | .iadds x => Sys2Proof.Machine.execIadds x s
  | .isubs x => Sys2Proof.Machine.execIsubs x s
  | .imin x => Sys2Proof.Machine.execImin x s
  | .imax x => Sys2Proof.Machine.execImax x s
  | .nmin x => Sys2Proof.Machine.execNmin x s
  | .nmax x => Sys2Proof.Machine.execNmax x s
  | .iabs x => Sys2Proof.Machine.execIabs x s
  | .ineg x => Sys2Proof.Machine.execIneg x s
  | .iavg x => Sys2Proof.Machine.execIavg x s
  | .idiff x => Sys2Proof.Machine.execIdiff x s
  | .iaddc x => Sys2Proof.Machine.execIaddc x s
  | .isubb x => Sys2Proof.Machine.execIsubb x s
  | .imul x => Sys2Proof.Machine.execImul x s
  | .imulh x => Sys2Proof.Machine.execImulh x s
  | .nmulh x => Sys2Proof.Machine.execNmulh x s
  | .imad x => Sys2Proof.Machine.execImad x s
  | .imadh x => Sys2Proof.Machine.execImadh x s
  | .idot4 x => Sys2Proof.Machine.execIdot4 x s
  | .idot2 x => Sys2Proof.Machine.execIdot2 x s
  | .idiv x => Sys2Proof.Machine.execIdiv x s
  | .irem x => Sys2Proof.Machine.execIrem x s
  | .ndiv x => Sys2Proof.Machine.execNdiv x s
  | .nrem x => Sys2Proof.Machine.execNrem x s
  | .and x => Sys2Proof.Machine.execAnd x s
  | .or x => Sys2Proof.Machine.execOr x s
  | .xor x => Sys2Proof.Machine.execXor x s
  | .andn x => Sys2Proof.Machine.execAndn x s
  | .orn x => Sys2Proof.Machine.execOrn x s
  | .xnor x => Sys2Proof.Machine.execXnor x s
  | .not x => Sys2Proof.Machine.execNot x s
  | .lcomb x => Sys2Proof.Machine.execLcomb x s
  | .shl x => Sys2Proof.Machine.execShl x s
  | .shr x => Sys2Proof.Machine.execShr x s
  | .sra x => Sys2Proof.Machine.execSra x s
  | .rol x => Sys2Proof.Machine.execRol x s
  | .ror x => Sys2Proof.Machine.execRor x s
  | .fshl x => Sys2Proof.Machine.execFshl x s
  | .fshr x => Sys2Proof.Machine.execFshr x s
  | .popc x => Sys2Proof.Machine.execPopc x s
  | .clz x => Sys2Proof.Machine.execClz x s
  | .ctz x => Sys2Proof.Machine.execCtz x s
  | .brev x => Sys2Proof.Machine.execBrev x s
  | .bfx x => Sys2Proof.Machine.execBfx x s
  | .bfxn x => Sys2Proof.Machine.execBfxn x s
  | .bfi x => Sys2Proof.Machine.execBfi x s
  | .bmsk x => Sys2Proof.Machine.execBmsk x s
  | .permb x => Sys2Proof.Machine.execPermb x s
  | .sext x => Sys2Proof.Machine.execSext x s
  | .zext x => Sys2Proof.Machine.execZext x s
  | .icmp x => Sys2Proof.Machine.execIcmp x s
  | .sel x => Sys2Proof.Machine.execSel x s
  | .mov x => Sys2Proof.Machine.execMov x s
  | .movk x => Sys2Proof.Machine.execMovk x s
  | .kmov x => Sys2Proof.Machine.execKmov x s
  | .iaddi x => Sys2Proof.Machine.execIaddi x s
  | .andi x => Sys2Proof.Machine.execAndi x s
  | .ori x => Sys2Proof.Machine.execOri x s
  | .xori x => Sys2Proof.Machine.execXori x s
  | .shli x => Sys2Proof.Machine.execShli x s
  | .shri x => Sys2Proof.Machine.execShri x s
  | .srai x => Sys2Proof.Machine.execSrai x s
  | .roli x => Sys2Proof.Machine.execRoli x s
  | .movi x => Sys2Proof.Machine.execMovi x s
  | .sadd x => Sys2Proof.Machine.execSadd x s
  | .ssub x => Sys2Proof.Machine.execSsub x s
  | .smul x => Sys2Proof.Machine.execSmul x s
  | .smulh x => Sys2Proof.Machine.execSmulh x s
  | .sand x => Sys2Proof.Machine.execSand x s
  | .sor x => Sys2Proof.Machine.execSor x s
  | .sxor x => Sys2Proof.Machine.execSxor x s
  | .sshl x => Sys2Proof.Machine.execSshl x s
  | .sshr x => Sys2Proof.Machine.execSshr x s
  | .ssra x => Sys2Proof.Machine.execSsra x s
  | .smin x => Sys2Proof.Machine.execSmin x s
  | .smax x => Sys2Proof.Machine.execSmax x s
  | .snmin x => Sys2Proof.Machine.execSnmin x s
  | .snmax x => Sys2Proof.Machine.execSnmax x s
  | .saddi x => Sys2Proof.Machine.execSaddi x s
  | .scmp x => Sys2Proof.Machine.execScmp x s
  | .smov x => Sys2Proof.Machine.execSmov x s
  | .srdk x => Sys2Proof.Machine.execSrdk x s
  | .swrk x => Sys2Proof.Machine.execSwrk x s
  | .spopk x => Sys2Proof.Machine.execSpopk x s
  | .fadd x => Sys2Proof.Machine.execFadd x s
  | .fsub x => Sys2Proof.Machine.execFsub x s
  | .fmul x => Sys2Proof.Machine.execFmul x s
  | .fmin x => Sys2Proof.Machine.execFmin x s
  | .fmax x => Sys2Proof.Machine.execFmax x s
  | .fminn x => Sys2Proof.Machine.execFminn x s
  | .fmaxn x => Sys2Proof.Machine.execFmaxn x s
  | .fabs x => Sys2Proof.Machine.execFabs x s
  | .fneg x => Sys2Proof.Machine.execFneg x s
  | .fcpys x => Sys2Proof.Machine.execFcpys x s
  | .fscale x => Sys2Proof.Machine.execFscale x s
  | .ffrac x => Sys2Proof.Machine.execFfrac x s
  | .ffloor x => Sys2Proof.Machine.execFfloor x s
  | .fceil x => Sys2Proof.Machine.execFceil x s
  | .ftrunc x => Sys2Proof.Machine.execFtrunc x s
  | .frint x => Sys2Proof.Machine.execFrint x s
  | .ffma x => Sys2Proof.Machine.execFfma x s
  | .ffms x => Sys2Proof.Machine.execFfms x s
  | .ffnma x => Sys2Proof.Machine.execFfnma x s
  | .ffnms x => Sys2Proof.Machine.execFfnms x s
  | .frcp x => Sys2Proof.Machine.execFrcp x s
  | .frsq x => Sys2Proof.Machine.execFrsq x s
  | .fsqrt x => Sys2Proof.Machine.execFsqrt x s
  | .fdiv x => Sys2Proof.Machine.execFdiv x s
  | .fexp2 x => Sys2Proof.Machine.execFexp2 x s
  | .flog2 x => Sys2Proof.Machine.execFlog2 x s
  | .fsin x => Sys2Proof.Machine.execFsin x s
  | .fcos x => Sys2Proof.Machine.execFcos x s
  | .ftanh x => Sys2Proof.Machine.execFtanh x s
  | .fsigm x => Sys2Proof.Machine.execFsigm x s
  | .fcmp x => Sys2Proof.Machine.execFcmp x s
  | .fclass x => Sys2Proof.Machine.execFclass x s
  | .fdot2 x => Sys2Proof.Machine.execFdot2 x s
  | .fdot4 x => Sys2Proof.Machine.execFdot4 x s
  | .cvt x => Sys2Proof.Machine.execCvt x s
  | .cvt8 x => Sys2Proof.Machine.execCvt8 x s
  | .cvt8x x => Sys2Proof.Machine.execCvt8x x s
  | .cvt4 x => Sys2Proof.Machine.execCvt4 x s
  | .cvt4x x => Sys2Proof.Machine.execCvt4x x s
  | .pack8 x => Sys2Proof.Machine.execPack8 x s
  | .unpk8 x => Sys2Proof.Machine.execUnpk8 x s
  | .bscan x => Sys2Proof.Machine.execBscan x s
  | .qnt8 x => Sys2Proof.Machine.execQnt8 x s
  | .dqnt8 x => Sys2Proof.Machine.execDqnt8 x s
  | .qnt4 x => Sys2Proof.Machine.execQnt4 x s
  | .dqnt4 x => Sys2Proof.Machine.execDqnt4 x s
  | .shfli x => Sys2Proof.Machine.execShfli x s
  | .shflu x => Sys2Proof.Machine.execShflu x s
  | .shfld x => Sys2Proof.Machine.execShfld x s
  | .shflx x => Sys2Proof.Machine.execShflx x s
  | .bcast x => Sys2Proof.Machine.execBcast x s
  | .rdlane x => Sys2Proof.Machine.execRdlane x s
  | .wrlane x => Sys2Proof.Machine.execWrlane x s
  | .redux x => Sys2Proof.Machine.execRedux x s
  | .scan x => Sys2Proof.Machine.execScan x s
  | .vall x => Sys2Proof.Machine.execVall x s
  | .vany x => Sys2Proof.Machine.execVany x s
  | .vballot x => Sys2Proof.Machine.execVballot x s
  | .kand x => Sys2Proof.Machine.execKand x s
  | .kor x => Sys2Proof.Machine.execKor x s
  | .kxor x => Sys2Proof.Machine.execKxor x s
  | .kandn x => Sys2Proof.Machine.execKandn x s
  | .knot x => Sys2Proof.Machine.execKnot x s
  | .kfirst x => Sys2Proof.Machine.execKfirst x s
  | .wbase x => Sys2Proof.Machine.execWbase x s
  | .ld x => Sys2Proof.Machine.execLd x s
  | .st x => Sys2Proof.Machine.execSt x s
  | .ldl x => Sys2Proof.Machine.execLdl x s
  | .stl x => Sys2Proof.Machine.execStl x s
  | .ldu x => Sys2Proof.Machine.execLdu x s
  | .stu x => Sys2Proof.Machine.execStu x s
  | .atom x => Sys2Proof.Machine.execAtom x s
  | .red x => Sys2Proof.Machine.execRed x s
  | .fence x => Sys2Proof.Machine.execFence x s
  | .pref x => Sys2Proof.Machine.execPref x s
  | .pagein x => Sys2Proof.Machine.execPagein x s
  | .cderive x => Sys2Proof.Machine.execCderive x s
  | .crights x => Sys2Proof.Machine.execCrights x s
  | .cgetb x => Sys2Proof.Machine.execCgetb x s
  | .cgetl x => Sys2Proof.Machine.execCgetl x s
  | .cgetr x => Sys2Proof.Machine.execCgetr x s
  | .ctest x => Sys2Proof.Machine.execCtest x s
  | .cldc x => Sys2Proof.Machine.execCldc x s
  | .cstc x => Sys2Proof.Machine.execCstc x s
  | .cnull x => Sys2Proof.Machine.execCnull x s
  | .cmov x => Sys2Proof.Machine.execCmov x s
  | .dclaim x => Sys2Proof.Machine.execDclaim x s
  | .dpark x => Sys2Proof.Machine.execDpark x s
  | .dlend x => Sys2Proof.Machine.execDlend x s
  | .dreturn x => Sys2Proof.Machine.execDreturn x s
  | .dsplit x => Sys2Proof.Machine.execDsplit x s
  | .djoin x => Sys2Proof.Machine.execDjoin x s
  | .dshare x => Sys2Proof.Machine.execDshare x s
  | .dunshare x => Sys2Proof.Machine.execDunshare x s
  | .datom x => Sys2Proof.Machine.execDatom x s
  | .dquery x => Sys2Proof.Machine.execDquery x s
  | .dquerySelf x => Sys2Proof.Machine.execDquerySelf x s
  | .nmred x => Sys2Proof.Machine.execNmred x s
  | .nmscat x => Sys2Proof.Machine.execNmscat x s
  | .cpy x => Sys2Proof.Machine.execCpy x s
  | .cpyc x => Sys2Proof.Machine.execCpyc x s
  | .blease x => Sys2Proof.Machine.execBlease x s
  | .bfree x => Sys2Proof.Machine.execBfree x s
  | .bfork x => Sys2Proof.Machine.execBfork x s
  | .brdv x => Sys2Proof.Machine.execBrdv x s
  | .barv x => Sys2Proof.Machine.execBarv x s
  | .bstat x => Sys2Proof.Machine.execBstat x s
  | .bra x => Sys2Proof.Machine.execBra x s
  | .call x => Sys2Proof.Machine.execCall x s
  | .jmp x => Sys2Proof.Machine.execJmp x s
  | .ret x => Sys2Proof.Machine.execRet x s
  | .join x => Sys2Proof.Machine.execJoin x s
  | .exit x => Sys2Proof.Machine.execExit x s
  | .brx x => Sys2Proof.Machine.execBrx x s
  | .callx x => Sys2Proof.Machine.execCallx x s
  | .yield x => Sys2Proof.Machine.execYield x s
  | .nop x => Sys2Proof.Machine.execNop x s
  | .sleep x => Sys2Proof.Machine.execSleep x s
  | .bar x => Sys2Proof.Machine.execBar x s
  | .bara x => Sys2Proof.Machine.execBara x s
  | .barw x => Sys2Proof.Machine.execBarw x s
  | .dbar x => Sys2Proof.Machine.execDbar x s
  | .dsig x => Sys2Proof.Machine.execDsig x s
  | .dwait x => Sys2Proof.Machine.execDwait x s
  | .rtest x => Sys2Proof.Machine.execRtest x s
  | .cont x => Sys2Proof.Machine.execCont x s
  | .stepSend x => Sys2Proof.Machine.execStepSend x s
  | .stepTake x => Sys2Proof.Machine.execStepTake x s
  | .trap x => Sys2Proof.Machine.execTrap x s
  | .brk x => Sys2Proof.Machine.execBrk x s
  | .sread x => Sys2Proof.Machine.execSread x s
  | .swrite x => Sys2Proof.Machine.execSwrite x s
  | .evt x => Sys2Proof.Machine.execEvt x s
  | .enrg x => Sys2Proof.Machine.execEnrg x s
  | .mfmt laddr => Sys2Proof.Machine.execMfmt laddr s
  | .mzero t => Sys2Proof.Machine.execMzero t s
  | .mloadb p => Sys2Proof.Machine.execMloadb p s
  | .mmac t p m => Sys2Proof.Machine.execMmac t p m s
  | .mmact t p m => Sys2Proof.Machine.execMmact t p m s
  | .mdrain t off m => Sys2Proof.Machine.execMdrain t off m s
  | .mloop l n d => Sys2Proof.Machine.execMloop l n d s
  | .mend => Sys2Proof.Machine.execMend s
  | .mbar n => Sys2Proof.Machine.execMbar n s
  | .marv n => Sys2Proof.Machine.execMarv n s
  | .msig op w pos v => Sys2Proof.Machine.execMsig op w pos v s
  | .mnop => Sys2Proof.Machine.execMnop s
  | .mwaitf b mask amt => Sys2Proof.Machine.execMwaitf b mask amt s
  | .gmbWait rd rs => Sys2Proof.Machine.execGmbWait rd rs s
  | .gmbRead rd rs => Sys2Proof.Machine.execGmbRead rd rs s
  | .gmbPost rd rs => Sys2Proof.Machine.execGmbPost rd rs s
  | .gepEnd rs => Sys2Proof.Machine.execGepEnd rs s
  | .gepVer rd rs => Sys2Proof.Machine.execGepVer rd rs s
  | .powerUp => Sys2Proof.Machine.execPowerUp s
  | .powerDown => Sys2Proof.Machine.execPowerDown s
  | .bootcmd => Sys2Proof.Machine.execBootcmd s
  | .attestReport => Sys2Proof.Machine.execAttestReport s
  | .attestRaise => Sys2Proof.Machine.execAttestRaise s
  | .doorbellWrite => Sys2Proof.Machine.execDoorbellWrite s
  | .queueFetch => Sys2Proof.Machine.execQueueFetch s
  | .recordRefetch => Sys2Proof.Machine.execRecordRefetch s
  | .gridStart => Sys2Proof.Machine.execGridStart s
  | .teamPlacement => Sys2Proof.Machine.execTeamPlacement s
  | .preemptDecide => Sys2Proof.Machine.execPreemptDecide s
  | .saveComplete => Sys2Proof.Machine.execSaveComplete s
  | .discardComplete => Sys2Proof.Machine.execDiscardComplete s
  | .restoreComplete => Sys2Proof.Machine.execRestoreComplete s
  | .preemptDeadline => Sys2Proof.Machine.execPreemptDeadline s
  | .quantumSpent => Sys2Proof.Machine.execQuantumSpent s
  | .gridDeadlineMiss => Sys2Proof.Machine.execGridDeadlineMiss s
  | .gleanDeadline => Sys2Proof.Machine.execGleanDeadline s
  | .dsigMessage => Sys2Proof.Machine.execDsigMessage s
  | .dwaitTimeout => Sys2Proof.Machine.execDwaitTimeout s
  | .sleepExpiry => Sys2Proof.Machine.execSleepExpiry s
  | .earlyWriteBack => Sys2Proof.Machine.execEarlyWriteBack s
  | .holdListRefill => Sys2Proof.Machine.execHoldListRefill s
  | .deckleOperation => Sys2Proof.Machine.execDeckleOperation s
  | .deckleStatusWrite => Sys2Proof.Machine.execDeckleStatusWrite s
  | .pageinPageAction => Sys2Proof.Machine.execPageinPageAction s
  | .pressSweepVisit => Sys2Proof.Machine.execPressSweepVisit s
  | .copyEngineTransfer => Sys2Proof.Machine.execCopyEngineTransfer s
  | .engineInstallment => Sys2Proof.Machine.execEngineInstallment s
  | .feedUnitAppend => Sys2Proof.Machine.execFeedUnitAppend s
  | .seamUnitCopy => Sys2Proof.Machine.execSeamUnitCopy s
  | .memoryPortInstallment => Sys2Proof.Machine.execMemoryPortInstallment s
  | .siloBurstApply => Sys2Proof.Machine.execSiloBurstApply s
  | .engineReceipt => Sys2Proof.Machine.execEngineReceipt s
  | .collectiveContribution => Sys2Proof.Machine.execCollectiveContribution s
  | .collectiveRootResult => Sys2Proof.Machine.execCollectiveRootResult s
  | .bondStreamStart => Sys2Proof.Machine.execBondStreamStart s
  | .sequencerCharge => Sys2Proof.Machine.execSequencerCharge s
  | .serviceRequestPost => Sys2Proof.Machine.execServiceRequestPost s
  | .scdone => Sys2Proof.Machine.execScdone s
  | .trapGroupRestore => Sys2Proof.Machine.execTrapGroupRestore s
  | .stepTakeDelivery => Sys2Proof.Machine.execStepTakeDelivery s
  | .lapStart => Sys2Proof.Machine.execLapStart s
  | .ringStopVisit => Sys2Proof.Machine.execRingStopVisit s
  | .lapEndStaticCharge => Sys2Proof.Machine.execLapEndStaticCharge s
  | .energyReadClear => Sys2Proof.Machine.execEnergyReadClear s
  | .eplanWrite => Sys2Proof.Machine.execEplanWrite s
  | .islctlWrite => Sys2Proof.Machine.execIslctlWrite s
  | .ratioChangeComplete => Sys2Proof.Machine.execRatioChangeComplete s
  | .droopDetect => Sys2Proof.Machine.execDroopDetect s
  | .droopRecover => Sys2Proof.Machine.execDroopRecover s
  | .canaryWarning => Sys2Proof.Machine.execCanaryWarning s
  | .canaryRelax => Sys2Proof.Machine.execCanaryRelax s
  | .thermalSample => Sys2Proof.Machine.execThermalSample s
  | .gstart => Sys2Proof.Machine.execGstart s
  | .gstopNow => Sys2Proof.Machine.execGstopNow s
  | .gstopForbidRestart => Sys2Proof.Machine.execGstopForbidRestart s
  | .cycleBudgetExpiry => Sys2Proof.Machine.execCycleBudgetExpiry s
  | .instructionBudgetRunaway => Sys2Proof.Machine.execInstructionBudgetRunaway s
  | .gmbWaitTimeout => Sys2Proof.Machine.execGmbWaitTimeout s
  | .hartException => Sys2Proof.Machine.execHartException s
  | .hartFailure => Sys2Proof.Machine.execHartFailure s
  | .mailboxError => Sys2Proof.Machine.execMailboxError s
  | .apertureAccess => Sys2Proof.Machine.execApertureAccess s
  | .circuitSet => Sys2Proof.Machine.execCircuitSet s
  | .circuitClear => Sys2Proof.Machine.execCircuitClear s
  | .circuitUp => Sys2Proof.Machine.execCircuitUp s
  | .circuitDown => Sys2Proof.Machine.execCircuitDown s
  | .pathTimeout => Sys2Proof.Machine.execPathTimeout s
  | .wavelengthLoss => Sys2Proof.Machine.execWavelengthLoss s
  | .seamRetrain => Sys2Proof.Machine.execSeamRetrain s
  | .farAccessArrival => Sys2Proof.Machine.execFarAccessArrival s
  | .farOwnershipMessage => Sys2Proof.Machine.execFarOwnershipMessage s
  | .flitReplay => Sys2Proof.Machine.execFlitReplay s
  | .fabricLinkDown => Sys2Proof.Machine.execFabricLinkDown s
  | .hostLinkFailure => Sys2Proof.Machine.execHostLinkFailure s
  | .peercmd => Sys2Proof.Machine.execPeercmd s
  | .modnumWrite => Sys2Proof.Machine.execModnumWrite s
  | .muObjectEntry => Sys2Proof.Machine.execMuObjectEntry s
  | .muPageEntry => Sys2Proof.Machine.execMuPageEntry s
  | .muContextDescriptor => Sys2Proof.Machine.execMuContextDescriptor s
  | .muQueueDescriptor => Sys2Proof.Machine.execMuQueueDescriptor s
  | .muFrameAppend => Sys2Proof.Machine.execMuFrameAppend s
  | .muHostShare => Sys2Proof.Machine.execMuHostShare s
  | .muHostUnshare => Sys2Proof.Machine.execMuHostUnshare s
  | .muDomainImport => Sys2Proof.Machine.execMuDomainImport s
  | .muReadOnly => Sys2Proof.Machine.execMuReadOnly s
  | .deckleLookup => Sys2Proof.Machine.execDeckleLookup s
  | .drclKeep => Sys2Proof.Machine.execDrclKeep s
  | .drclZero => Sys2Proof.Machine.execDrclZero s
  | .qerrWrite => Sys2Proof.Machine.execQerrWrite s
  | .collectiveSlotWrite => Sys2Proof.Machine.execCollectiveSlotWrite s
  | .dbgctlWrite => Sys2Proof.Machine.execDbgctlWrite s
  | .gstop => Sys2Proof.Machine.execGstop s
  | .tstop => Sys2Proof.Machine.execTstop s
  | .resume => Sys2Proof.Machine.execResume s
  | .step => Sys2Proof.Machine.execStep s
  | .select => Sys2Proof.Machine.execSelect s
  | .tresume => Sys2Proof.Machine.execTresume s
  | .divergenceWindowWrite => Sys2Proof.Machine.execDivergenceWindowWrite s
  | .trapReport => Sys2Proof.Machine.execTrapReport s
  | .gwatch => Sys2Proof.Machine.execGwatch s
  | .twatch => Sys2Proof.Machine.execTwatch s
  | .spillwait => Sys2Proof.Machine.execSpillwait s
  | .holdfull => Sys2Proof.Machine.execHoldfull s
  | .cfence => Sys2Proof.Machine.execCfence s
  | .converterFault => Sys2Proof.Machine.execConverterFault s
  | .heartbeat => Sys2Proof.Machine.execHeartbeat s
  | .diefail => Sys2Proof.Machine.execDiefail s
  | .dfence => Sys2Proof.Machine.execDfence s
  | .brokenGridAbort => Sys2Proof.Machine.execBrokenGridAbort s
  | .cacheLineUe => Sys2Proof.Machine.execCacheLineUe s
  | .hbmWordUe => Sys2Proof.Machine.execHbmWordUe s
  | .deckleEntryUe => Sys2Proof.Machine.execDeckleEntryUe s
  | .purseUe => Sys2Proof.Machine.execPurseUe s
  | .energyCounterUe => Sys2Proof.Machine.execEnergyCounterUe s
  | .patrolScrub => Sys2Proof.Machine.execPatrolScrub s
  | .registerWrite => Sys2Proof.Machine.execRegisterWrite s
  | .hartInstruction => Sys2Proof.Machine.execHartInstruction s
  | .driverPreemptionRequest => Sys2Proof.Machine.execDriverPreemptionRequest s
  | .bondOperationComplete => Sys2Proof.Machine.execBondOperationComplete s
  | .seamRetrainComplete => Sys2Proof.Machine.execSeamRetrainComplete s
  | .coreStateUe => Sys2Proof.Machine.execCoreStateUe s
  | .siloUnitUe => Sys2Proof.Machine.execSiloUnitUe s
  | .localStoreUe => Sys2Proof.Machine.execLocalStoreUe s

end Sys2Proof.Machine
end

