-- ==== Sys2Proof/Machine/Fetch.lean ====
section
/-! DEFINITION. The fetch of a unit through the code capability, and the traps of rows 1 and 2 of R436 (R144, R146, R248,
R398, R436 to R438). -/
namespace Sys2Proof.Machine

/-- Why a word is not fetched. -/
inductive FetchStop where
  /-- FETCH, with the cause of R398 and the word's address. -/
  | bad (cause at_ : Nat)
  /-- The word's stack is never reached, or not now (R379, R471). -/
  | lost (endpoint : Nat)
  | noPath (endpoint : Nat)
  deriving DecidableEq, Repr

/-- One word of a unit, through the team's code capability: checks 1 to 5 of R67 as a 4-byte access needing X, the page,
the path, and the marks of its bytes. Code addresses are object offsets, as BASE is the first PC (R308). Words are read at
their home (log 12). -/
def fetchWord (s : State) (t : Team) (die a : Nat) : Except FetchStop Nat :=
  let o := readObj s t.ctx t.code.oid.toNat
  let acc : Access := { c := t.code, need := rX, n := 4 }
  let off := if a < t.code.base.toNat then t.code.len.toNat else a - t.code.base.toNat
  match capCheck o acc off with
  | some k => .error (.bad k a)
  | none =>
    match placeOf s o a with
    | none => .error (.bad 6 a)
    | some p =>
      match reach s die p with
      | .never e => .error (.lost e)
      | .noPath e => .error (.noPath e)
      | .ok => if (upto 4).any (fun i => homePoison s (p + i)) then .error (.bad 7 a) else .ok (homeNat s p 4)

def isX (w : Nat) : Bool := decide (fld w 31 26 = 0x3F)

/-- The literal word at an address, if the instruction word asks for one. -/
def fetchLit (s : State) (t : Team) (die a w : Nat) : Except FetchStop (Option Nat) :=
  if takesLiteral w then (fetchWord s t die a).map some else .ok none

/-- The words of the unit at an address (R144); an X word after an X word ends it. -/
def fetchUnit (s : State) (t : Team) (die a : Nat) : Except FetchStop UnitWords :=
  match fetchWord s t die a with
  | .error e => .error e
  | .ok w =>
    if isX w then
      match fetchWord s t die (a + 4) with
      | .error e => .error e
      | .ok w2 =>
        if isX w2 then .ok { px := some w, w := w2, lit := none }
        else (fetchLit s t die (a + 8) w2).map (fun l => { px := some w, w := w2, lit := l })
    else (fetchLit s t die (a + 4) w).map (fun l => { px := none, w := w, lit := l })

/-- The instruction of a unit; two X words are unassigned (R146). -/
def readUnit (u : UnitWords) : Except DecodeError Instr := if isX u.w then .error .doublePrefix else decodeUnit u

/-- FETCH's DETAIL for one split (R398). -/
def fetchDetail (cause : Nat) (x : Split) : Nat :=
  (match x.last with | none => 2 ^ 43 | some a => at_ a 0 40) + at_ cause 40 3

/-- A split's FETCH: PC and RPC both hold the address that was fetched (R398). -/
def takeFetch (s : State) (cause a : Nat) (c : Ctx) : State :=
  let s := s.updGroup c.die c.handle c.grp (fun g => { g with run := none })
  takeTrap s c.die c.handle c.grp c.slot a { code := 0x09, mask := c.x.mask, detail := fetchDetail cause c.x }

/-- The issue with its packed mates (R437). -/
def packWhole (s : State) (c : Ctx) : List Ctx := (packMates c).filterMap (fun i => mkCtx s i { px := none, lit := none }) ++ [c]

def fetchTrap (s : State) (c : Ctx) (cause a : Nat) : State := (packWhole s c).foldl (fun s m => takeFetch s cause a m) s

/-- UNASSIGNED's DETAIL (R398, R438): an unassigned major carries no literal. -/
def unassignedDetail (u : UnitWords) : Nat :=
  (match u.px with | some p => 2 ^ 96 + at_ p 64 32 | none => 0) + at_ u.w 32 32 +
    (match u.lit with | some l => 2 ^ 97 + at_ l 0 32 | none => 0)

/-- The active lanes of an unassigned unit: its prefix's guard applies (R154). -/
def unassignedMask (u : UnitWords) (c : Ctx) : Mask :=
  activeSet c.g c.x ((u.px.map decodePrefix).getD {})

def unassignedTrap (s : State) (c : Ctx) (u : UnitWords) : State :=
  trapIssue s c (fun m => { code := 0x01, mask := unassignedMask u m, detail := unassignedDetail u })

/-- What the group's next unit is: an instruction, or the state after a stop of rows 1 and 2 or a wait for a path. -/
def nextUnit (s : State) (c : Ctx) : State ⊕ Instr :=
  match fetchUnit s c.team c.g.die c.unit with
  | .error (.bad k a) => .inl (fetchTrap s c k a)
  | .error (.lost e) => .inl (takeTrap s c.die c.handle c.grp c.slot c.unit { code := 0x80, mask := c.x.mask, detail := pathDetail 0 0 e c.unit })
  | .error (.noPath e) => .inl (pathWaits s c e 0 0 c.unit c.x.mask)
  | .ok u =>
    match readUnit u with
    | .ok i => .inr i
    | .error _ => .inl (unassignedTrap s c u)

/-- What the sequencer's next word is (R284, R445). -/
def nextQ (s : State) (b : Bond) : State ⊕ Instr :=
  match fetchQ s (bondTeam s b).ctx b b.qpc with
  | .bad => .inl (bondStop s b 2)
  | .noPath => .inl s
  | .word w =>
    match decodeQ w with
    | .ok i => .inr i
    | .error _ => .inl (bondStop s b 1)

/-- What the running episode's next instruction is, or the state after its exception (R346, R467). An ordinary one is
latched with its length and bits. -/
def nextHart (s : State) (d m : Nat) (e : Episode) : State ⊕ (Instr × StepArgs) :=
  match hartFetch s d e with
  | .error (cause, tval) => .inl (budgeted s (fun d m _ => hartFault s d m cause tval) d m e)
  | .ok w =>
    match decodeHart w with
    | none => .inl (budgeted s (fun d m _ => hartFault s d m 2 w) d m e)
    | some (.custom i) => .inr (i, {})
    | some (.rv r len) => .inr (.hartInstruction, { rv := r, num := len, v := BitVec.ofNat 64 w })

end Sys2Proof.Machine
end

