-- ==== Sys2Proof/Machine/Time.lean ====
section
/-! DEFINITION. Counts of %cycle, the steps that a count makes due, and the model's choice of who acts when nothing else is
asked of it (R18, R315 to R318, R329, R332, R359, R412, R413, R470; log 2, 10). -/
namespace Sys2Proof.Machine

/-! One count (R18). -/

/-- A group's watchdog counts (R412). -/
def countGroup (s : State) (t : Team) (g : Group) : Group := if gwatchRuns s t g then { g with idle := g.idle + 1 } else g

/-- The values of IR that irGain may ask for: those of the last 4096 counts, and the latest before them. -/
def keepHist (now : Nat) : List (Nat × Nat) → List (Nat × Nat)
  | [] => []
  | e :: r => if e.1 + 4096 ≤ now then [e] else e :: keepHist now r

/-- A team's count: IR's history (R322), residency while no group is stopped (R413), and its groups' counters. -/
def countTeam (s : State) (now : Nat) (t : Team) : Team :=
  let last := (t.irHist.head?.map (·.2)).getD 0
  let hist := if t.ir = last then t.irHist else (now, t.ir) :: t.irHist
  let runs := (match t.state with | .resident | .deciding | .draining | .saving | .discarding => true | _ => false) &&
    !t.groupList.any (fun g => g.splits.any (·.stopped))
  { t with irHist := keepHist now hist, watched := if runs then t.watched + 1 else t.watched, groups := tmap (countGroup s t) t.groups }

/-- An episode's Granary cycle: those blocked in GMB.WAIT and GMB.POST are not counted as the step's (R359). -/
def countEpisode (e : Episode) : Episode :=
  match e.state with
  | .run => { e with cycles := e.cycles + 1, stepCycles := e.stepCycles + 1 }
  | .post .. => { e with cycles := e.cycles + 1 }
  | _ => e

/-- One count of a die. -/
def countDie (s : State) (d : Nat) : State :=
  let x := s.die d
  let now := x.cycle + 1
  s.setDie d { x with cycle := now, teams := tmap (countTeam s x.cycle) x.teams
                      episodes := if now % 2 = 0 then tmap countEpisode x.episodes else x.episodes }

/-- A die whose count passes: RUNNING, or FAILED since (R18). -/
def State.counts (s : State) (d : Nat) : Bool := decide ((s.die d).boot = 1) || decide ((s.die d).boot = 3)

/-- One count of every such die. No two dies share a time base; the model lets their counts pass together (log 10). -/
def passCount (s : State) : State := ((upto 16).filter s.counts).foldl countDie s

/-! Steps that a count makes due. Each meaning looks at its own instant again. -/

def ev (i : Instr) (a : StepArgs) : Act := .event i a

def dueTeam (t : Team) : List Act :=
  let a : StepArgs := { die := t.die, handle := t.handle }
  [ev .quantumSpent a, ev .twatch a] ++ (if t.preempt.isSome then [ev .preemptDeadline a] else []) ++
    (if t.dwait.isSome then [ev .dwaitTimeout a] else []) ++
    t.groupList.flatMap (fun g =>
      let b : StepArgs := { die := t.die, handle := t.handle, grp := g.num }
      (if g.splits.any (·.sleeping) then [ev .sleepExpiry b] else []) ++ [ev .gwatch b])

def dueIslands (x : Die) (d : Nat) : List Act :=
  x.islands.flatMap (fun e =>
    let a : StepArgs := { die := d, p := e.1 }
    (if e.2.change.isSome then [ev .ratioChangeComplete a] else []) ++ (if e.2.droopAt.isSome then [ev .droopRecover a] else []) ++
      (if e.2.off then [ev .canaryRelax a] else []))

def dueDie (s : State) (d : Nat) : List Act :=
  let x := s.die d
  let a : StepArgs := { die := d }
  let k := x.cycle % 64
  (if k = 0 then [ev .lapStart a] else []) ++ [ev .ringStopVisit { die := d, p := k }] ++
    (if k = 63 then [ev .lapEndStaticCharge a] else []) ++ (if x.cycle % 2 ^ 20 = 0 then sweepRound s d else []) ++ (if x.cycle % 65536 = 0 then [ev .heartbeat a] else []) ++
    x.teams.flatMap (fun e => dueTeam e.2) ++ dueIslands x d ++
    x.gleans.map (fun g => ev .gleanDeadline { die := d, ctx := g.ctx, idx := g.entry }) ++
    x.episodes.flatMap (fun e => [ev .gmbWaitTimeout { die := d, mbox := e.1 }, ev .cycleBudgetExpiry { die := d, mbox := e.1 }])

def dueGrid (e : Nat × Grid) : List Act :=
  let a : StepArgs := { id := e.1 }
  (if e.2.deadline.isSome && !e.2.missed then [ev .gridDeadlineMiss a] else []) ++ (if e.2.spillSince.isSome then [ev .spillwait a] else []) ++
    (if e.2.brokenAt.isSome then [ev .brokenGridAbort a] else [])

/-- What the count just passed may have made due. -/
def dueActs (s : State) : List Act :=
  ((upto 16).filter s.running).flatMap (dueDie s) ++ s.grids.flatMap dueGrid ++
    (s.ownOps.filter (fun o => o.holdSince.isSome)).map (fun o => ev .holdfull { id := o.id }) ++
    (s.engines.filter (fun e => e.holdSince.isSome)).map (fun e => ev .holdfull { id := e.id }) ++
    s.paths.map (fun w => ev .pathTimeout { id := w.id }) ++
    (s.seams.filter (fun e => match e.2.till with | some t => decide (t ≤ (s.die (2 * e.1)).cycle) | none => false)).map
      (fun e => ev .seamRetrainComplete { unit := e.1 })

/-! Who acts when nothing else is asked (log 2). -/

/-- Engine work that may go on. -/
def planEngine (e : EngOp) : List Act :=
  let a : StepArgs := { id := e.id }
  match e.kind with
  | .cpy | .cpyc =>
    (if e.kind = .cpyc ∧ e.result.isNone = true then
      [ev .collectiveContribution { unit := (cpycRec e.record).cslot, num := (cpycRec e.record).seq }] else []) ++
    [ev .copyEngineTransfer a, ev .engineInstallment a, ev .feedUnitAppend a, ev .engineReceipt a]
  | _ => [ev .memoryPortInstallment a] ++ (upto 256).map (fun k => ev .siloBurstApply { id := e.id, unit := k }) ++ [ev .engineReceipt a]

/-- A collective's contributions carry the member's rank. -/
def withRank (s : State) (e : EngOp) (x : Act) : Act :=
  match x with
  | .event .collectiveContribution a => .event .collectiveContribution { a with idx := opRank s e }
  | x => x

def planTeam (t : Team) : List Act :=
  let a : StepArgs := { die := t.die, handle := t.handle }
  (match t.state with
   | .deciding => [ev .preemptDecide a]
   | .saving => [ev .saveComplete a]
   | .discarding => [ev .discardComplete a]
   | .restoring => [ev .restoreComplete a]
   | .parked => if t.preempt.isSome then [ev .saveComplete a] else []
   | _ => []) ++
    (t.groupList.filter (fun g => decide (g.residence = .trapParked))).map (fun g =>
      ev .trapGroupRestore { die := t.die, handle := t.handle, grp := g.num })

def planBond (d : Nat) (b : Bond) : List Act :=
  let a : StepArgs := { die := d, cl := b.cluster }
  [ev .bondStreamStart a, .seq d b.cluster, ev .sequencerCharge a] ++
    (if b.twin then (upto 8).map (fun q => ev .seamUnitCopy { die := d, cl := b.cluster, q := q }) else []) ++
    (if b.op.isSome then [ev .bondOperationComplete a] else [])

/-- Harts before groups (R356). -/
def planHarts (s : State) (d : Nat) : List Act :=
  let x := s.die d
  if x.cycle % 2 = 0 then (x.episodes.filter (fun e => decide (e.2.state = .run))).map (fun e => .hart d e.1) else []

def planDie (s : State) (d : Nat) : List Act :=
  let x := s.die d
  let a : StepArgs := { die := d }
  [ev .trapReport a, ev .serviceRequestPost a, ev .queueFetch a, ev .teamPlacement a] ++ x.dsigs.map (fun _ => ev .dsigMessage a) ++
    x.teams.flatMap (fun e => planTeam e.2) ++ x.bonds.flatMap (fun e => planBond d e.2)

/-- The waiting management update, tried again. -/
def planMu (s : State) : List Act :=
  match s.muWait with
  | none => []
  | some u =>
    let a : StepArgs := { mu := u, flag := true }
    [ev (match muKind u with | 0 => .muObjectEntry | 5 => .muHostShare | _ => .muHostUnshare) a]

/-- What count 0 of a die that has just begun to run makes due (R329). -/
def planFirst (s : State) : List Act :=
  ((upto 16).filter (fun d => s.running d && decide ((s.die d).cycle = 0))).flatMap (dueDie s)

/-- Every agent once, then one count. -/
def plan (s : State) : List Act :=
  planFirst s ++ planMu s ++ ((upto 16).filter s.running).flatMap (planHarts s) ++ [.serve] ++ s.ownOps.flatMap (fun o => [ev .deckleOperation { id := o.id }, ev .deckleStatusWrite { id := o.id }]) ++
    s.pageins.map (fun o => ev .pageinPageAction { id := o.id }) ++ s.takes.map (fun o => ev .stepTakeDelivery { id := o.id }) ++
    s.engines.flatMap (fun e => (planEngine e).map (withRank s e)) ++
    s.collectives.map (fun k => ev .collectiveRootResult { unit := k.slot, num := k.seq }) ++
    s.grids.map (fun e => ev .gridStart { id := e.1 }) ++
    (s.queues.filter (fun e => decide (e.2.refetch ≠ 0))).map (fun e => ev .recordRefetch { q := e.1 }) ++
    s.circuits.map (fun e => if e.2.getLsbD 63 then ev .circuitUp { idx := e.1 } else ev .circuitDown { idx := e.1 }) ++
    ((upto 16).filter s.running).flatMap (planDie s) ++ [.tick 1]

end Sys2Proof.Machine
end

