-- ==== Sys2Proof/Machine/Run.lean ====
section
/-! DEFINITION. One act of an agent: a group's issue, a sequencer's word, a hart's instruction, another step of the table,
a write of the host, or a count (log 2). -/
namespace Sys2Proof.Machine

/-- The pages of a unit's words are accessed (R71). -/
def markUnit (s : State) (c : Ctx) : State :=
  let o := readObj s c.team.ctx c.team.code.oid.toNat
  markPage (markPage s o false c.unit) o false (c.unit + 4)

/-- A group issues its next unit when it is the choice of the scheduler whose turn it is (R315, R316). -/
def issueAct (i : Issuer) (s : State) : Host.Outcome State Fault Refusal :=
  match s.group? i.die i.handle i.grp with
  | none => .next s
  | some g =>
    match serve s g.die (g.core / 2) with
    | (_, none) => .next s
    | (t, some j) =>
      if j ≠ i then .next s
      else
        let t := tryIssue t g.die (g.core / 2) i
        match mkCtx t i { px := none, lit := none } with
        | none => .next s
        | some c =>
          match nextUnit t c with
          | .inl u => .next u
          | .inr k => exec k { (markUnit t c) with cur := some i }

/-- Every choice of this count is tried before what follows. -/
def serveAct (s : State) : State :=
  match nextChoice s (busyPairs s) with
  | (_, some i) => { s with agenda := .issue i :: .serve :: s.agenda }
  | (t, none) => t

/-- A sequencer takes its next word. -/
def seqAct (d cl : Nat) (s : State) : Host.Outcome State Fault Refusal :=
  match tfind (s.die d).bonds cl with
  | none => .next s
  | some b =>
    if !seqReady s b then .next s
    else
      match nextQ s b with
      | .inl s => .next s
      | .inr k => exec k { (markPage s (readObj s (bondTeam s b).ctx b.code.oid.toNat) false b.qpc) with curSeq := some (d, cl) }

/-- A hart executes the next instruction of its running episode, unless a group has used its mailbox in this count: a cycle's
operations of harts come first (R356; log 53). -/
def hartAct (d m : Nat) (s : State) : Host.Outcome State Fault Refusal :=
  match s.ep? d m with
  | none => .next s
  | some e =>
    if e.state ≠ .run ∨ (s.mbox d m).usedAt = (s.die d).cycle + 1 then .next s
    else
      match nextHart s d m e with
      | .inl s => .next s
      | .inr (k, a) => exec k { s with curHart := some (d, m), arg := a }

/-- An unpowered module takes no step but its power-up (R23). -/
def eventAct (k : Instr) (a : StepArgs) (s : State) : Host.Outcome State Fault Refusal :=
  if s.powered || k == .powerUp then exec k { s with arg := a, cur := none, curSeq := none, curHart := none } else .next s

/-- One count, once no scheduler has a choice left in the present one, and what it makes due before anything else. -/
def tickAct (n : Nat) (s : State) : State :=
  if n = 0 then s
  else
    match nextChoice s (busyPairs s) with
    | (_, some _) => { s with agenda := .serve :: .tick n :: s.agenda }
    | (t, none) =>
      let s := passCount (spillOut (launchAll t))
      { s with agenda := dueActs s ++ (if n = 1 then [] else [.tick (n - 1)]) ++ s.agenda }

def runAct (a : Act) (s : State) : Host.Outcome State Fault Refusal :=
  match a with
  | .issue i => issueAct i s
  | .serve => .next (serveAct s)
  | .seq d cl => seqAct d cl s
  | .hart d m => hartAct d m s
  | .event k a => eventAct k a s
  | .hostWrite at_ bs => .next { s with host := wrBytes s.host at_ bs }
  | .tick n => .next (tickAct n s)

/-! A machine that is about to run one instruction (log 11). -/

/-- The tables of context 0 and its object 0: one page at frame 16, its code. CTXTAB is 0. -/
def probeMemory (m : List Host.Cell) : List Host.Cell :=
  let ctx := at_ 0x1000 984 40 + at_ 1 956 28 + at_ 1 424 1
  let obj := at_ 0x2000 160 40 + at_ 65536 120 40 + at_ 1 100 12 + at_ 1 96 4
  let page := at_ 16 20 44 + at_ 1 18 2
  wrNat (wrNat (wrNat m 0 128 ctx) 0x1000 32 obj) 0x2000 8 page

/-- The code capability of the probe. -/
def probeCode : Cap := { oid := 0, rights := 5, base := 0, len := 65536, gen := 1, tag := true }

def probeGroup (cycle : Nat) : Group :=
  { num := 0, width := 128, live := allOnes128, s0 := some { mask := allOnes128 }, lastIssue := cycle }

def probeTeam (cycle : Nat) : Team :=
  { ctx := 0, grid := 0, index := 0, die := 0, handle := 0, span := 0, place := 0, ngroups := 1, width := 128, vregs := 128,
    localBytes := 4096, bond := 1, code := probeCode, groups := [(0, probeGroup cycle)] }

def probeBond : Bond := { die := 0, handle := 0, cluster := 0, shape := 1, state := 1, code := probeCode }

def probeEpisode : Episode := { mbox := 0, ctx := 0, hart := 0, size := 1, pc := 0x10000000, state := .run }

/-- Die 0 runs, at count 1, with one team on core 0 and sheaves in its purse. -/
def probeDie (x : Die) : Die :=
  { x with boot := 1, cycle := 1, teams := [(0, probeTeam 1)], pairs := [(0, { purse := 4096 })] }

/-- A unit's words at the code object's first byte. -/
def probeUnit (s : State) (v : Nat) : State :=
  { s with hbm := wrNat (probeMemory s.hbm) 0x100000 12 v
           dies := tput s.dies 0 (probeDie (s.die 0)), grids := tput s.grids 0 { state := .running, dies := [0] }
           agenda := [.issue { die := 0, handle := 0, grp := 0, slot := 0 }] }

/-- A Q word at the first byte of the code object, and a bond that has just been started there. -/
def probeQ (s : State) (v : Nat) : State :=
  let t := probeUnit s v
  { t with dies := tput s.dies 0 { probeDie (s.die 0) with bonds := [(0, probeBond)] }, agenda := [.seq 0 0] }

/-- A hart's word at the first byte of an episode's window. -/
def probeHart (s : State) (v : Nat) : State :=
  let x := probeDie (s.die 0)
  let i := { x with episodes := [(0, probeEpisode)], harts := [(0, { running := some 0, pmp := probeEpisode.pmp })]
                    mboxes := [(0, { state := .owe 0 })]
                    sram := ((upto 4).zip (leBytes 4 v)).foldl (fun m p => tset m p.1 p.2 0) [] : Die }
  { probeUnit s 0 with dies := tput s.dies 0 i, agenda := [.hart 0 0] }

end Sys2Proof.Machine
end

