-- ==== Sys2Proof/Machine/Step.lean ====
section
/-! DEFINITION. One step of the module, and the placing of one instruction where the next step fetches it. -/
namespace Sys2Proof.Machine

/-- One step: the first act of the agenda, or with none the model's plan for this count (log 2). -/
def step (s : State) : Host.Outcome State Fault Refusal :=
  match s.agenda with
  | [] => .next { s with agenda := plan s }
  | a :: r => runAct a { s with agenda := r }

/-- The state in which the next step fetches and runs the instruction of a table word: a unit of a group, or where the word
is no unit a Q word of a sequencer, or a word of a hart (log 11). -/
def State.withFetchWord (s : State) (nbits w : Nat) : State :=
  let v := w % 2 ^ nbits
  match decode [v % 2 ^ 32, v / 2 ^ 32 % 2 ^ 32, v / 2 ^ 64 % 2 ^ 32] with
  | .ok _ => probeUnit s v
  | .error _ =>
    match decodeQ (v % 2 ^ 32) with
    | .ok _ => probeQ s v
    | .error _ =>
      match decodeCustom (v % 2 ^ 32) with
      | .ok _ => probeHart s v
      | .error _ => probeUnit s v

end Sys2Proof.Machine
end

