-- ==== Sys2Proof/Safety.lean ====
section
/-! DEFINITION. The terms that the statements are written in: when a group performs a unit, what an issue leaves as it was,
and what a destination then holds. -/
namespace Sys2Proof.Machine

/-! A unit that is performed (R34, R204, R315, R436). -/

/-- The group that the state names for its next unit, with the prefix and literal of the unit's words. -/
def issuerCtx (s : State) (h : Hdr) : Option Ctx := s.cur.bind (fun i => mkCtx s i h)

/-- No row of R436 from WINDOW to SOFTERR stops the unit: the registers named stand inside the allocation, the latches read
are valid in an open run, the run has room, and nothing that the unit reads is damaged. -/
def rowsClear (c : Ctx) (h : Hdr) (w : Bool) (r : Refs) (ret : Bool) : Bool :=
  r.v.all (fun i => decide (c.g.wb + i < c.team.vregs)) &&
  r.y.all (fun j => c.g.run.isSome && c.g.latchValid.getLsbD j) &&
  !(w && (match c.g.run with | some u => decide (15 ≤ u.count) | none => false)) &&
  (softHit c { h := h, refs := r, ret := ret }).isNone

/-- The groups packed with the issuing group in an open run wait for nothing that the unit names (R35, R158). -/
def packReady (s : State) (c : Ctx) (h : Hdr) (r : Refs) : Bool :=
  c.g.run.isNone || (packMates c).all (fun i => match mkCtx s i h with | some m => !pendingHit m.g r | none => true)

/-- The group may issue the unit: it is a candidate (R40, R158), nothing it names is pending (R204, R443), in it or in a group
packed with it (R35), its pair's purse grants the price (R315, R331), and the rows of R436 from WINDOW to SOFTERR pass. -/
def mayPerform (s : State) (c : Ctx) (h : Hdr) (w : Bool) (r : Refs) (price : Nat) (ret : Bool := false) : Bool :=
  mayIssue s c.team c.g c.slot && !pendingHit c.g r && packReady s c h r && grantable s c.g c.slot price && rowsClear c h w r ret

/-- The state names a group, c is its context, and it may issue the unit. -/
def Performs (s : State) (c : Ctx) (h : Hdr) (w : Bool) (r : Refs) (price : Nat) : Prop :=
  issuerCtx s h = some c ∧ mayPerform s c h w r price = true

/-- No other group stands packed with the issuing group (R34, R437). -/
def Ctx.alone (c : Ctx) : Bool := (packMates c).isEmpty

/-! What an issue leaves as it was. -/

/-- The eight bytes of the energy counter of the issuer's context and core, where no core holds it (R337). -/
def counterAddr (s : State) (c : Ctx) : Nat := (readCtx s c.team.ctx).svbase + 8 * c.core

/-- Local store, its tags and its marks. -/
def Team.store (t : Team) : Table Byte × List Nat × List Nat := (t.loc, t.locTags, t.locPoison)

/-- Everything outside the issuing group and the groups packed with it: every byte of memory but the energy counter's, the
caches, local stores, ownership, engines, grids, registers of the module block, and every other group's state. -/
def RestKept (s t : State) (c : Ctx) : Prop :=
  (∀ a, (∀ k < 8, a ≠ counterAddr s c + k) → homeByte t a = homeByte s a) ∧
  t.host = s.host ∧ t.lines = s.lines ∧ t.grids = s.grids ∧ t.deckles = s.deckles ∧ t.holds = s.holds ∧
  t.ownOps = s.ownOps ∧ t.engines = s.engines ∧ t.mreg = s.mreg ∧ t.queues = s.queues ∧ t.coreEvents = s.coreEvents ∧
  (∀ d h, (t.team? d h).map Team.store = (s.team? d h).map Team.store) ∧
  (∀ d h k, (d, h) ≠ (c.die, c.handle) ∨ (k ≠ c.grp ∧ ∀ m ∈ packMates c, m.grp ≠ k) → t.group? d h k = s.group? d h k)

/-! The registers of the issuing group after a unit. -/

/-- The vector registers: as before but for the lanes of the active set in the n registers of a destination. -/
def VregsKept (c : Ctx) (g' : Group) (d : Dst) (n : Nat) : Prop :=
  ∀ r l, l < 128 → (∀ q i, d = .v q false → i < n → r = c.g.wb + q + i → l ∉ c.lanes) → readReg g' r l = readReg c.g r l

/-- Scalars, masks, capabilities, the window base and the sticky flags. -/
def ScalarsKept (c : Ctx) (g' : Group) : Prop := g'.scalars = c.g.scalars
def MasksKept (c : Ctx) (g' : Group) : Prop := g'.masks = c.g.masks
def CapsKept (c : Ctx) (g' : Group) : Prop := g'.caps = c.g.caps ∧ g'.wb = c.g.wb
def FlagsKept (c : Ctx) (g' : Group) : Prop := g'.fflags = c.g.fflags

/-- A unit with W = 1 leaves its run open with the latches of its destination valid; one with W = 0 ends its run and with it
the latches (R156 to R158). -/
def RunAfter (g' : Group) (d : Dst) (n : Nat) : Prop :=
  if dstW d then g'.run.isSome = true ∧ ∀ i < n, g'.latchValid.getLsbD (dstLatch d + i) = true
  else g'.run = none ∧ g'.latchValid = 0

/-- A vector-class destination of n words is all of the group's registers that the unit changes: the frame of a unit with one
vector result (the sticky flags apart). -/
def OnlyDest (c : Ctx) (g' : Group) (d : Dst) (n : Nat) : Prop :=
  VregsKept c g' d n ∧ ScalarsKept c g' ∧ MasksKept c g' ∧ CapsKept c g' ∧ RunAfter g' d n

/-- Word i of a destination in a lane: the register, or with W = 1 the latch (R153, R156). -/
def dstWord (c : Ctx) (g' : Group) (d : Dst) (i l : Nat) : Nat :=
  match d with
  | .v q false => readReg g' (c.g.wb + q + i) l
  | .v q true => readLatch g' (q % 8 + i) l
  | .y j => readLatch g' (j + i) l

/-- Element e of a source, of the prior destination and of the destination for an integer TYPE (R162, R172, R173). -/
def srcElem (c : Ctx) (ty : Nat) (sg : Bool) (a : Src) (l e : Nat) : Nat :=
  if ty = 1 then c.rd64 sg a l else elem (c.rd (.int (intTy ty).1) a l) (intTy ty).1 e
def oldElem (c : Ctx) (ty : Nat) (d : Dst) (l e : Nat) : Nat :=
  if ty = 1 then c.old64 d l else elem (c.old d l) (intTy ty).1 e
def dstElem (c : Ctx) (g' : Group) (ty : Nat) (d : Dst) (l e : Nat) : Nat :=
  if ty = 1 then dstWord c g' d 0 l + 2 ^ 32 * dstWord c g' d 1 l else elem (dstWord c g' d 0 l) (intTy ty).1 e

/-! Units whose result is a scalar or a mask. -/

/-- The unit ended its run (R156, R158). -/
def RunEnds (g' : Group) : Prop := g'.run = none ∧ g'.latchValid = 0

/-- Scalar i holds v where the active set is not empty, every other scalar and register is as before: the frame of a
group-uniform unit with a scalar result, which is not performed when its active set is empty (R154). -/
def OnlyScalar (c : Ctx) (g' : Group) (i v : Nat) : Prop :=
  (∀ j, readS g' j = if j = i ∧ c.act ≠ 0 then v else readS c.g j) ∧
  g'.vregs = c.g.vregs ∧ MasksKept c g' ∧ CapsKept c g' ∧ RunEnds g'

/-- In mask k the bits of active lanes hold f, the other bits below the width are as before and those at and above it are 0
(R188); every other mask and register is as before. -/
def OnlyMask (c : Ctx) (g' : Group) (k : Nat) (f : Nat → Bool) : Prop :=
  (∀ l, mbit (tget g'.masks k 0) l =
    if l ∈ c.lanes then f l else decide (l < c.g.width) && mbit (tget c.g.masks k 0) l) ∧
  (∀ j, j ≠ k → tget g'.masks j 0 = tget c.g.masks j 0) ∧
  g'.vregs = c.g.vregs ∧ ScalarsKept c g' ∧ CapsKept c g' ∧ RunEnds g'

/-! Completions. -/

/-- The mnemonic's step completes: exec answers a next state t in which the issuing group is g'. -/
def Completes (i : Instr) (s t : State) (c : Ctx) (g' : Group) : Prop :=
  exec i s = .next t ∧ t.group? c.die c.handle c.grp = some g'

/-- It completes with one vector-class result of n words: f gives the value in each active lane, lowest word first, and fl the
sticky flags that it raises. Nothing else changes. -/
def VecDone (i : Instr) (s : State) (c : Ctx) (d : Dst) (n : Nat) (f : Nat → Nat) (fl : FFlags) : Prop :=
  ∃ t g', Completes i s t c g' ∧ RestKept s t c ∧
    (∀ l ∈ c.lanes, ∀ k < n, dstWord c g' d k l = f l / 2 ^ (32 * k) % 2 ^ 32) ∧
    OnlyDest c g' d n ∧ g'.fflags = c.g.fflags ||| fl

/-- It completes with one integer result: element e of each active lane is r of the elements of the width that the TYPE
gives, reduced modulo 2^w (R172). -/
def IntDone (i : Instr) (s : State) (c : Ctx) (ty : Nat) (sg : Bool) (d : Dst) (a b : Src)
    (r : Nat → Nat → Nat → Nat → Int) : Prop :=
  ∃ t g', Completes i s t c g' ∧ RestKept s t c ∧
    (∀ l ∈ c.lanes, ∀ e < (intTy ty).2, (dstElem c g' ty d l e : Int) =
      r (intTy ty).1 (srcElem c ty sg a l e) (srcElem c ty sg b l e) (oldElem c ty d l e) % 2 ^ (intTy ty).1) ∧
    OnlyDest c g' d (regsOf ty) ∧ FlagsKept c g'

/-- It completes with one scalar result. -/
def ScalarDone (i : Instr) (s : State) (c : Ctx) (d v : Nat) (fl : FFlags) : Prop :=
  ∃ t g', Completes i s t c g' ∧ RestKept s t c ∧ OnlyScalar c g' d v ∧
    g'.fflags = c.g.fflags ||| (if c.act = 0 then 0 else fl)

/-- It completes with one mask result. -/
def MaskDone (i : Instr) (s : State) (c : Ctx) (k : Nat) (f : Nat → Bool) : Prop :=
  ∃ t g', Completes i s t c g' ∧ RestKept s t c ∧ OnlyMask c g' k f ∧ FlagsKept c g'

/-! Frames by parts of the state. -/

/-- The parts of the state. -/
inductive StatePart where
  | power | bytes | host | lines | stores | teams | pairs | dies | grids | deckles | holds | ownOps | engines | pageins | takes
  | collectives | fabric | queues | mreg | update | circuits | pressed | counters | msix
  deriving DecidableEq, Repr

/-- A die's own state, apart from its teams, its pairs' purses and the debugger's result register. -/
def Die.own (d : Die) : Die := { d with teams := [], pairs := [], dsts := 0 }

/-- A part is as before. -/
def Same : StatePart → State → State → Prop
  | .power, s, t => t.powered = s.powered ∧ t.fuseDigest = s.fuseDigest ∧ t.fuseSeed = s.fuseSeed ∧ t.rollback = s.rollback ∧
      t.report = s.report
  | .bytes, s, t => ∀ a, homeByte t a = homeByte s a
  | .host, s, t => t.host = s.host
  | .lines, s, t => t.lines = s.lines
  | .stores, s, t => ∀ d h, (t.team? d h).map Team.store = (s.team? d h).map Team.store
  | .teams, s, t => ∀ d h, t.team? d h = s.team? d h
  | .pairs, s, t => ∀ d p, t.pair d p = s.pair d p
  | .dies, s, t => ∀ d, (t.die d).own = (s.die d).own
  | .grids, s, t => t.grids = s.grids
  | .deckles, s, t => t.deckles = s.deckles
  | .holds, s, t => t.holds.map (fun h => { h with used := 0 }) = s.holds.map (fun h => { h with used := 0 })
  | .ownOps, s, t => t.ownOps = s.ownOps
  | .engines, s, t => t.engines = s.engines
  | .pageins, s, t => t.pageins = s.pageins
  | .takes, s, t => t.takes = s.takes
  | .collectives, s, t => t.collectives = s.collectives
  | .fabric, s, t => t.imports = s.imports ∧ t.farReplies = s.farReplies ∧ t.farOut = s.farOut ∧ t.lostPeers = s.lostPeers
  | .queues, s, t => t.queues = s.queues
  | .mreg, s, t => t.mreg = s.mreg
  | .update, s, t => t.muWait = s.muWait
  | .circuits, s, t => t.circuits = s.circuits ∧ t.circDrain = s.circDrain ∧ t.circLost = s.circLost ∧ t.seams = s.seams ∧
      t.ports = s.ports ∧ t.replays = s.replays ∧ t.hostLinkDown = s.hostLinkDown ∧ t.hostOut = s.hostOut
  | .pressed, s, t => t.pressed = s.pressed ∧ t.pressVisits = s.pressVisits
  | .counters, s, t => t.coreHeld = s.coreHeld ∧ t.coreEnergy = s.coreEnergy ∧ t.coreEvents = s.coreEvents ∧
      t.energyRead = s.energyRead
  | .msix, s, t => t.msix = s.msix

/-- Every part but those listed is as before. -/
def Kept (xs : List StatePart) (s t : State) : Prop := ∀ p, p ∉ xs → Same p s t

/-- Every byte of memory outside x is as before. -/
def BytesKept (s t : State) (x : Nat → Prop) : Prop := ∀ a, ¬x a → homeByte t a = homeByte s a

/-- Every group but the issuing one is as before. -/
def OthersKept (s t : State) (c : Ctx) : Prop :=
  ∀ d h k, (d, h, k) ≠ (c.die, c.handle, c.grp) → t.group? d h k = s.group? d h k

/-- The frame of a unit issued alone: the parts listed, the group, and its pair's purse may change. -/
def UnitKept (xs : List StatePart) (s t : State) (c : Ctx) : Prop := Kept (.teams :: .pairs :: xs) s t ∧ OthersKept s t c

/-- Every register that instructions name is as before, and the run ends. -/
def RegsKept (c : Ctx) (g' : Group) : Prop :=
  g'.vregs = c.g.vregs ∧ ScalarsKept c g' ∧ MasksKept c g' ∧ CapsKept c g' ∧ FlagsKept c g' ∧ RunEnds g'

/-- The scalars whose write by the device is outstanding: one more (R204). -/
def PendingToo (c : Ctx) (g' : Group) (r : Nat) : Prop :=
  ∀ i, g'.pendScalars.getLsbD i = (c.g.pendScalars.getLsbD i || (decide (i = r) && decide (i < 16)))

/-! Memory (R80, R216). -/

/-- The byte that a core's loads find at a place: its L1, its L2, or the home (R80). -/
def seesByte (s : State) (core a : Nat) : Byte := ((loadCached s core a 1).1.headD (0, false)).1

/-- The byte at an address after a list of writes in order. -/
def lastByte (ws : List (Nat × List Byte)) (a : Nat) : Option Byte :=
  ws.reverse.findSome? (fun w => if w.1 ≤ a then w.2[a - w.1]? else none)

/-- The eight bytes of the energy counter that the issue charges (R335). -/
def chargedByte (s : State) (c : Ctx) (a : Nat) : Prop := ∃ k < 8, a = counterAddr s c + k

/-- A byte of the page entry of a page that an access touches (R71). -/
def entryByte (s : State) (ctx : Nat) (a : Access) (b : Nat) : Prop :=
  ∃ p ∈ a.offs, ∃ k < 8, b = pageAddr (readObj s ctx a.c.oid.toNat) (a.objOff p.2 / 65536) + k

/-- The number that a global load finds for a lane, little-endian; none where the lane's page is not resident (R75, R216). -/
def loadedLane (s : State) (c : Ctx) (a : Access) (l : Nat) : Option Nat :=
  ((loadLanes s c.core c.team.ctx a).1.find? (fun r => r.1 == l)).map (fun r => leNat (r.2.2.map (·.1)))

/-- Mask k(res) tells the active lanes whose page is not resident; without a k(res) no mask changes (R75). -/
def ResidenceMask (c : Ctx) (g' : Group) (res : Nat) (absent : Nat → Bool) : Prop :=
  (∀ j, j ≠ res ∨ res = 0 → tget g'.masks j 0 = tget c.g.masks j 0) ∧
  (res ≠ 0 → ∀ l < 128, mbit (tget g'.masks res 0) l =
    if l ∈ c.lanes then absent l else decide (l < c.g.width) && mbit (tget c.g.masks res 0) l)

/-- Every byte of memory outside x is as before, or is one that some cache line held dirty and that has gone home: a release puts
it there, or a full cache makes room (R80, R82). -/
def HomesKept (s t : State) (x : Nat → Prop) : Prop :=
  ∀ a, ¬x a → homeByte t a = homeByte s a ∨
    ∃ l ∈ s.lines, l.line = a / 128 ∧ mbit l.dirty (a % 128) = true ∧ homeByte t a = tget l.data (a % 128) 0

def WrittenBack (s t : State) : Prop := HomesKept s t (fun _ => False)

/-- A core's L1, and its L2, have room for a line of each of 128 lanes (R78). -/
def cacheRoom (s : State) (core : Nat) : Bool :=
  let n := fun (l2 : Bool) (u : Nat) => (s.lines.filter (fun l => l.l2 == l2 && decide (l.unit = u))).length
  decide (n false core + 128 ≤ lineCap false) && decide (n true (l2Of core) + 128 ≤ lineCap true)

/-- The registers that instructions name. -/
def Group.regs (g : Group) : Table Word × Table Dword × Table Mask × Table Cap × Nat × FFlags :=
  (g.vregs, g.scalars, g.masks, g.caps, g.wb, g.fflags)

/-- Every other group's registers are as before; its splits may go on. -/
def OthersRegs (s t : State) (c : Ctx) : Prop :=
  ∀ d h k, (d, h, k) ≠ (c.die, c.handle, c.grp) → (t.group? d h k).map Group.regs = (s.group? d h k).map Group.regs

/-- A split of the group stands at the next unit with the lanes of the issuing split, and a wait. -/
def StandsNext (c : Ctx) (g' : Group) (w : Wait) : Prop := ∃ y ∈ g'.splits, y.mask = c.x.mask ∧ y.pc = c.next ∧ y.wait = w

/-- No group of the team waits for, or has executed, a DWAIT. -/
def Team.noDwait (t : Team) : Bool := t.groupList.all (fun g => decide (g.dwaitMask = 0))

end Sys2Proof.Machine
end

