-- ==== Sys2Proof/Certificates/Slice0/Obligations.lean ====
section
/-! DEFINITION. The statements for the provers: what the numbered rules say that each instruction and the module do. -/
open Sys2Proof Sys2Proof.Machine

/-! Integer units (07, R172 to R188). -/

/-- A row of the integer tables: its constructor, whether it reads D, its price in sheaves for one register, whether the Sign
column is S, and its result r from the width and the elements u(a), u(b) and u(d). -/
structure IntRule where
  k : V3 → Instr
  readsD : Bool
  price : Nat
  signed : Bool
  r : Nat → Nat → Nat → Nat → Int

/-- s(x) of R172: the low w bits as two's complement. -/
def sOf (w x : Nat) : Int := sextN x w
/-- ~x within w bits. -/
def inv (w x : Nat) : Nat := 2 ^ w - 1 - x

/-- Rows of R176, R178, R179 that take two operands, and the signed saturation of R113. -/
def arithmeticRules : List IntRule :=
  [⟨.iadd, false, 1, false, fun _ a b _ => a + b⟩,
   ⟨.isub, false, 1, false, fun _ a b _ => (a : Int) - b⟩,
   ⟨.iadds, false, 1, true, fun w a b _ => max (-2 ^ (w - 1)) (min (sOf w a + sOf w b) (2 ^ (w - 1) - 1))⟩,
   ⟨.isubs, false, 1, true, fun w a b _ => max (-2 ^ (w - 1)) (min (sOf w a - sOf w b) (2 ^ (w - 1) - 1))⟩,
   ⟨.imin, false, 1, true, fun w a b _ => min (sOf w a) (sOf w b)⟩,
   ⟨.imax, false, 1, true, fun w a b _ => max (sOf w a) (sOf w b)⟩,
   ⟨.nmin, false, 1, false, fun _ a b _ => min a b⟩,
   ⟨.nmax, false, 1, false, fun _ a b _ => max a b⟩,
   ⟨.iavg, false, 1, true, fun w a b _ => (sOf w a + sOf w b + 1) / 2⟩,
   ⟨.idiff, false, 1, true, fun w a b _ => |sOf w a - sOf w b|⟩,
   ⟨.imul, false, 1, false, fun _ a b _ => a * b⟩,
   ⟨.imulh, false, 1, true, fun w a b _ => sOf w a * sOf w b / 2 ^ w⟩,
   ⟨.nmulh, false, 1, false, fun w a b _ => (a : Int) * b / 2 ^ w⟩,
   ⟨.imad, true, 1, false, fun _ a b d => a * b + d⟩,
   ⟨.imadh, true, 1, true, fun w a b d => (sOf w a * sOf w b + sOf w d) / 2 ^ w⟩]

/-- R179: quotients truncated toward zero, a remainder with the dividend's sign, a divisor of 0. -/
def divisionRules : List IntRule :=
  [⟨.idiv, false, 3, true, fun w a b _ => if b = 0 then 2 ^ w - 1 else (sOf w a).tdiv (sOf w b)⟩,
   ⟨.irem, false, 3, true, fun w a b _ => if b = 0 then a else (sOf w a).tmod (sOf w b)⟩,
   ⟨.ndiv, false, 3, false, fun w a b _ => if b = 0 then 2 ^ w - 1 else (a / b : Nat)⟩,
   ⟨.nrem, false, 3, false, fun _ a b _ => if b = 0 then a else (a % b : Nat)⟩]

/-- g(f, x, y) of R180, bit by bit. -/
def combBit (f : Nat) (x y : Bool) : Bool :=
  [x && y, x || y, x != y, x && !y, x || !y, x == y, !(x && y), !(x || y)].getD f false

/-- The two stages of LCOMB on bit i of its operands (R180). -/
def lcombBit (ctl : Nat) (a b d : Bool) : Bool :=
  combBit (bits ctl 5 3) (combBit (bits ctl 2 0) (a != ctl.testBit 6) (b != ctl.testBit 7)) (d != ctl.testBit 8)

/-- The number below 2^w with the given bits. -/
def ofBits (w : Nat) (f : Nat → Bool) : Nat := ((List.range w).map (fun i => if f i then 2 ^ i else 0)).sum

/-- Rows of R180 and R181. -/
def logicRules : List IntRule :=
  [⟨.and, false, 1, false, fun _ a b _ => (a &&& b : Nat)⟩,
   ⟨.or, false, 1, false, fun _ a b _ => (a ||| b : Nat)⟩,
   ⟨.xor, false, 1, false, fun _ a b _ => (a ^^^ b : Nat)⟩,
   ⟨.andn, false, 1, false, fun w a b _ => (a &&& inv w b : Nat)⟩,
   ⟨.orn, false, 1, false, fun w a b _ => (a ||| inv w b : Nat)⟩,
   ⟨.xnor, false, 1, false, fun w a b _ => (inv w (a ^^^ b) : Nat)⟩,
   ⟨.shl, false, 1, false, fun w a b _ => (a <<< (b % w) : Nat)⟩,
   ⟨.shr, false, 1, false, fun w a b _ => (a >>> (b % w) : Nat)⟩,
   ⟨.sra, false, 1, true, fun w a b _ => sOf w a / 2 ^ (b % w)⟩,
   ⟨.rol, false, 1, false, fun w a b _ => (a <<< (b % w) ||| a >>> (w - b % w) : Nat)⟩,
   ⟨.ror, false, 1, false, fun w a b _ => (a >>> (b % w) ||| a <<< (w - b % w) : Nat)⟩,
   ⟨.fshl, true, 1, false, fun _ a b d => (bits ((a <<< 32 ||| b) <<< bits d 4 0) 63 32 : Nat)⟩,
   ⟨.fshr, true, 1, false, fun _ a b d => (bits ((a <<< 32 ||| b) >>> bits d 4 0) 31 0 : Nat)⟩]

/-- src(j) of R183. -/
def permSrc (a b j : Nat) : Nat := if j < 4 then bits a (8 * j + 7) (8 * j) else bits b (8 * j - 25) (8 * j - 32)

/-- Byte i of PERMB's result. -/
def permOut (a b d i : Nat) : Nat :=
  let x := permSrc a b (bits (bits d (4 * i + 3) (4 * i)) 2 0)
  if bits (bits d (4 * i + 3) (4 * i)) 3 3 = 1 then (if bits x 7 7 = 1 then 0xFF else 0) else x

/-- pos, len and m of R183. -/
def fPos (b : Nat) : Nat := bits b 4 0
def fLen (b : Nat) : Nat := min (bits b 13 8) (32 - fPos b)
def fMask (pos len : Nat) : Nat := (2 ^ len - 1) <<< pos

/-- Rows of R182 and R183 with two operands. -/
def bitRules : List IntRule :=
  [⟨.bfx, false, 1, true, fun _ a b _ => if fLen b = 0 then 0 else sOf (fLen b) (a >>> fPos b)⟩,
   ⟨.bfxn, false, 1, false, fun _ a b _ => if fLen b = 0 then 0 else ((a >>> fPos b) % 2 ^ fLen b : Nat)⟩,
   ⟨.bfi, true, 1, false, fun _ a b d =>
     (d &&& inv 32 (fMask (fPos b) (fLen b)) ||| (a <<< fPos b &&& fMask (fPos b) (fLen b)) : Nat)⟩,
   ⟨.bmsk, false, 1, false, fun _ a b _ => (fMask (bits a 4 0) (min (bits b 5 0) (32 - bits a 4 0)) : Nat)⟩,
   ⟨.permb, true, 1, false, fun _ a b d => (permOut a b d 0 + 2 ^ 8 * permOut a b d 1 + 2 ^ 16 * permOut a b d 2 +
     2 ^ 24 * permOut a b d 3 : Nat)⟩,
   ⟨.sext, false, 1, true, fun _ a b _ => if bits b 5 0 = 0 then 0 else if 32 ≤ bits b 5 0 then a else sOf (bits b 5 0) a⟩,
   ⟨.zext, false, 1, false, fun _ a b _ =>
     if bits b 5 0 = 0 then 0 else if 32 ≤ bits b 5 0 then a else (a % 2 ^ bits b 5 0 : Nat)⟩]

/-- Rows of R176, R180, R182 and R185 with one operand: constructor, Sign column, result. -/
def oneOperandRules : List ((V2 → Instr) × Bool × (Nat → Nat → Int)) :=
  [(.iabs, true, fun w a => |sOf w a|),
   (.ineg, false, fun _ a => -(a : Int)),
   (.not, false, fun w a => (inv w a : Nat)),
   (.popc, false, fun w a => (((List.range w).filter (a.testBit ·)).length : Nat)),
   (.clz, false, fun w a => (((List.range w).find? (fun i => a.testBit (w - 1 - i))).getD w : Nat)),
   (.ctz, false, fun w a => (((List.range w).find? (a.testBit ·)).getD w : Nat)),
   (.brev, false, fun w a => (ofBits w (fun i => a.testBit (w - 1 - i)) : Nat)),
   (.mov, false, fun _ a => a)]

/-- The rows of a table complete in every lane and element with the row's result, wherever the unit may be performed: the
frame is that of one vector-class result, and no flag changes. The unit is issued with any prefix TYPE. -/
def IntRows (rows : List IntRule) : Prop :=
  ∀ e ∈ rows, ∀ (x : V3) (s : State) (c : Ctx),
    let n := regsOf x.h.pfx.ty
    Performs s c x.h (dstW x.d) (refsOf [dstRefs x.d n e.readsD, srcRefs x.a n, srcRefs x.b n]) (e.price * n) →
    dstLatch x.d + n ≤ 8 →
    IntDone (e.k x) s c x.h.pfx.ty e.signed x.d x.a x.b e.r

/-- R176, R178: the sums, differences, extrema, averages and products of majors 0x00 and 0x01. -/
def IntegerArithmeticResultsHold : Prop := IntRows arithmeticRules

/-- R179: division. -/
def DivisionResultsHold : Prop := IntRows divisionRules

/-- R180, R181: logic, shifts, rotates and funnel shifts; LCOMB bit by bit. -/
def Obligations.LogicAndShiftResults : Prop :=
  IntRows logicRules ∧
  ∀ (x : V3) (s : State) (c : Ctx), let n := regsOf x.h.pfx.ty
    Performs s c x.h (dstW x.d) (refsOf [dstRefs x.d n true, srcRefs x.a n, srcRefs x.b n]) n →
    dstLatch x.d + n ≤ 8 → x.h.pfx.ty < 2 →
    IntDone (.lcomb x) s c x.h.pfx.ty false x.d x.a x.b (fun w a b d =>
      (ofBits w (fun i => lcombBit x.h.pfx.imm (a.testBit i) (b.testBit i) (d.testBit i)) : Nat))

/-- R182, R183: bit fields, byte permutation and extension; they take TYPE 0. -/
def BitFieldResultsHold : Prop :=
  ∀ e ∈ bitRules, ∀ (x : V3) (s : State) (c : Ctx),
    Performs s c x.h (dstW x.d) (refsOf [dstRefs x.d 1 e.readsD, srcRefs x.a 1, srcRefs x.b 1]) e.price →
    dstLatch x.d < 8 → x.h.pfx.ty = 0 → IntDone (e.k x) s c 0 e.signed x.d x.a x.b e.r

/-- R176, R180, R182, R185: the integer units that read A alone. -/
def OneOperandIntegerResultsHold : Prop :=
  ∀ e ∈ oneOperandRules, ∀ (x : V2) (s : State) (c : Ctx), let n := regsOf x.h.pfx.ty
    Performs s c x.h (dstW x.d) (refsOf [dstRefs x.d n false, srcRefs x.a n]) n → dstLatch x.d + n ≤ 8 →
    IntDone (e.1 x) s c x.h.pfx.ty e.2.1 x.d x.a .zero (fun w a _ _ => e.2.2 w a)

/-- R182, R183: bit fields, byte permutation and extension; they take TYPE 0. R176, R180, R182, R185: the integer units that
read A alone. -/
def Obligations.BitAndOneOperandResults : Prop :=
  BitFieldResultsHold ∧ OneOperandIntegerResultsHold

/-- R177: IADDC and ISUBB chain carries through mask k7, and R178: IDOT4 and IDOT2 add the signed products of packed bytes or
halfwords to the destination. k7 takes the carry or borrow in the active lanes, and no other mask changes. -/
def CarryAndDotResultsHold : Prop :=
  (∀ (x : V3) (s : State) (c : Ctx),
    Performs s c x.h (dstW x.d) (refsOf [dstRefs x.d 1 false, srcRefs x.a 1, srcRefs x.b 1, kRead 7]) 1 →
    dstLatch x.d < 8 → c.g.width ≤ 128 →
    let u := fun l => c.rd (.int 32) x.a l
    let v := fun l => c.rd (.int 32) x.b l
    let k := fun l => btn (mbit (tget c.g.masks 7 0) l)
    ∀ e ∈ ([(.iaddc, fun l => (u l + v l + k l) % 2 ^ 32, fun l => decide (2 ^ 32 ≤ u l + v l + k l)),
            (.isubb, fun l => (((u l : Int) - v l - k l) % 2 ^ 32).toNat, fun l => decide ((u l : Int) - v l - k l < 0))] :
          List ((V3 → Instr) × (Nat → Nat) × (Nat → Bool))),
      ∃ t g', Completes (e.1 x) s t c g' ∧ RestKept s t c ∧ (∀ l ∈ c.lanes, dstWord c g' x.d 0 l = e.2.1 l) ∧
        VregsKept c g' x.d 1 ∧ ScalarsKept c g' ∧ CapsKept c g' ∧ FlagsKept c g' ∧ RunAfter g' x.d 1 ∧
        (∀ l < 128, mbit (tget g'.masks 7 0) l =
          if l ∈ c.lanes then e.2.2 l else decide (l < c.g.width) && mbit (tget c.g.masks 7 0) l) ∧
        ∀ j, j ≠ 7 → tget g'.masks j 0 = tget c.g.masks j 0) ∧
  (∀ (x : V3) (s : State) (c : Ctx),
    Performs s c x.h (dstW x.d) (refsOf [dstRefs x.d 1 true, srcRefs x.a 1, srcRefs x.b 1]) 1 → dstLatch x.d < 8 →
    ∀ e ∈ ([(.idot4, 8, 4), (.idot2, 16, 2)] : List ((V3 → Instr) × Nat × Nat)),
      VecDone (e.1 x) s c x.d 1 (fun l => (((c.old x.d l : Int) + ((List.range e.2.2).map (fun i =>
        sOf e.2.1 (elem (c.rd (.int e.2.1) x.a l) e.2.1 i) * sOf e.2.1 (elem (c.rd (.int e.2.1) x.b l) e.2.1 i))).sum) %
          2 ^ 32).toNat) 0)

/-- R176, R178: the sums, differences, extrema, averages and products of majors 0x00 and 0x01. R179: division. R177: IADDC and
ISUBB chain carries through mask k7, and R178: IDOT4 and IDOT2 add the signed products of packed bytes or halfwords to the
destination. k7 takes the carry or borrow in the active lanes, and no other mask changes. -/
def Obligations.IntegerArithmeticResults : Prop :=
  IntegerArithmeticResultsHold ∧ DivisionResultsHold ∧ CarryAndDotResultsHold

/-- R186: the immediate forms; a shift amount is reduced modulo the width. -/
def Obligations.ImmediateFormResults : Prop :=
  (∀ e ∈ ([(.iaddi, fun _ a i => a + i), (.andi, fun w a i => (a &&& (i % 2 ^ w).toNat : Nat)),
           (.ori, fun w a i => (a ||| (i % 2 ^ w).toNat : Nat)), (.xori, fun w a i => (a ^^^ (i % 2 ^ w).toNat : Nat))] :
        List ((ImmU → Instr) × (Nat → Nat → Int → Int))), ∀ (x : ImmU) (s : State) (c : Ctx),
    let n := regsOf x.h.pfx.ty
    Performs s c x.h (dstW x.d) (refsOf [dstRefs x.d n false, srcRefs x.a n]) n → dstLatch x.d + n ≤ 8 →
    IntDone (e.1 x) s c x.h.pfx.ty false x.d x.a .zero (fun w a _ _ => e.2 w a (sOf 11 x.imm.toNat))) ∧
  (∀ e ∈ ([(.shli, false, fun _ a n => (a <<< n : Nat)), (.shri, false, fun _ a n => (a >>> n : Nat)),
           (.srai, true, fun w a n => sOf w a / 2 ^ n), (.roli, false, fun w a n => (a <<< n ||| a >>> (w - n) : Nat))] :
        List ((ShU → Instr) × Bool × (Nat → Nat → Nat → Int))), ∀ (x : ShU) (s : State) (c : Ctx),
    let n := regsOf x.h.pfx.ty
    Performs s c x.h (dstW x.d) (refsOf [dstRefs x.d n false, srcRefs x.a n]) n → dstLatch x.d + n ≤ 8 →
    IntDone (e.1 x) s c x.h.pfx.ty e.2.1 x.d x.a .zero (fun w a _ _ => e.2.2 w a (x.n % w))) ∧
  (∀ (x : MoviU) (s : State) (c : Ctx), let n := regsOf x.h.pfx.ty
    Performs s c x.h (dstW x.d) (dstRefs x.d n false) n → dstLatch x.d + n ≤ 8 →
    VecDone (.movi x) s c x.d n (fun _ => (sOf 11 x.imm.toNat % 2 ^ (32 * n)).toNat) 0)

/-- The relations of R184 on u(a) and u(b). -/
def conditionTable : List (ICond × Bool × (Nat → Nat → Nat → Bool)) :=
  [(.eq, false, fun _ a b => decide (a = b)), (.ne, false, fun _ a b => decide (a ≠ b)),
   (.lt, true, fun w a b => decide (sOf w a < sOf w b)), (.le, true, fun w a b => decide (sOf w a ≤ sOf w b)),
   (.gt, true, fun w a b => decide (sOf w a > sOf w b)), (.ge, true, fun w a b => decide (sOf w a ≥ sOf w b)),
   (.ltn, false, fun _ a b => decide (a < b)), (.len, false, fun _ a b => decide (a ≤ b)),
   (.gtn, false, fun _ a b => decide (a > b)), (.gen, false, fun _ a b => decide (a ≥ b))]

/-- The relations of R197: whether the condition holds of unordered operands, of a < b, of a = b and of a > b. -/
def floatConditionTable : List (FCond × Bool × Bool × Bool × Bool) :=
  [(.eq, false, false, true, false), (.ne, false, true, false, true), (.lt, false, true, false, false),
   (.le, false, true, true, false), (.gt, false, false, false, true), (.ge, false, false, true, true),
   (.uneq, true, false, true, false), (.unne, true, true, false, true), (.unlt, true, true, false, false),
   (.unle, true, true, true, false), (.ungt, true, false, false, true), (.unge, true, false, true, true),
   (.anynan, true, false, false, false), (.bothnum, false, true, true, true)]

/-- Which of the four relations holds, −0 equal to +0. -/
def floatRelation (e : Bool × Bool × Bool × Bool) (a b : FVal) : Bool :=
  if a = .nan ∨ b = .nan then e.1 else if fcmpLt a b then e.2.1 else if fcmpLt b a then e.2.2.2 else e.2.2.1

/-- R184, R185, R197: compares and moves between lanes and masks. A compare or KMOV sets the bits of active lanes of its mask
alone; SEL and MOVK read a mask. -/
def Obligations.CompareAndSelectResults : Prop :=
  (∀ e ∈ conditionTable, ∀ (x : ICmpU) (s : State) (c : Ctx), let n := regsOf x.h.pfx.ty
    x.c = e.1 → Performs s c x.h false (refsOf [srcRefs x.a n, srcRefs x.b n]) n → c.g.width ≤ 128 → x.h.pfx.ty < 2 →
    MaskDone (.icmp x) s c x.k (fun l =>
      e.2.2 (32 * n) (srcElem c x.h.pfx.ty e.2.1 x.a l 0) (srcElem c x.h.pfx.ty e.2.1 x.b l 0))) ∧
  (∀ (x : KmovU) (s : State) (c : Ctx), Performs s c x.h false (srcRefs x.a 1) 1 → c.g.width ≤ 128 →
    MaskDone (.kmov x) s c x.k (fun l => decide (c.rd (.int 32) x.a l ≠ 0))) ∧
  (∀ e ∈ floatConditionTable, ∀ (x : FCmpU) (s : State) (c : Ctx), x.c = e.1 →
    Performs s c x.h false (refsOf [srcRefs x.a 1, srcRefs x.b 1]) 1 → c.g.width ≤ 128 →
    MaskDone (.fcmp x) s c x.k (fun l =>
      floatRelation e.2 (Fmt.f32.dec (c.rd (.flt .f32) x.a l)) (Fmt.f32.dec (c.rd (.flt .f32) x.b l)))) ∧
  (∀ (x : SelU) (s : State) (c : Ctx), let n := regsOf x.h.pfx.ty
    Performs s c x.h (dstW x.d) (refsOf [dstRefs x.d n true, srcRefs x.a n, msrcRefs x.k]) n → dstLatch x.d + n ≤ 8 →
    x.h.pfx.ty < 2 →
    VecDone (.sel x) s c x.d n (fun l =>
      if mbit (c.rdK x.k) l then srcElem c x.h.pfx.ty false x.a l 0 else oldElem c x.h.pfx.ty x.d l 0) 0) ∧
  (∀ (x : MovkU) (s : State) (c : Ctx), Performs s c x.h (dstW x.d) (refsOf [dstRefs x.d 1 false, msrcRefs x.k]) 1 →
    dstLatch x.d < 8 → VecDone (.movk x) s c x.d 1 (fun l => if mbit (c.rdK x.k) l then 1 else 0) 0)

/-- Rows of R187 with two 64-bit operands. -/
def scalarRules : List ((SU → Instr) × (Nat → Nat → Int)) :=
  [(.sadd, fun a b => a + b), (.ssub, fun a b => (a : Int) - b), (.smul, fun a b => a * b),
   (.smulh, fun a b => sOf 64 a * sOf 64 b / 2 ^ 64), (.sand, fun a b => (a &&& b : Nat)), (.sor, fun a b => (a ||| b : Nat)),
   (.sxor, fun a b => (a ^^^ b : Nat)), (.sshl, fun a b => (a <<< (b % 64) : Nat)), (.sshr, fun a b => (a >>> (b % 64) : Nat)),
   (.ssra, fun a b => sOf 64 a / 2 ^ (b % 64)), (.smin, fun a b => min (sOf 64 a) (sOf 64 b)),
   (.smax, fun a b => max (sOf 64 a) (sOf 64 b)), (.snmin, fun a b => min a b), (.snmax, fun a b => max a b)]

/-- R187, R188: scalar units are performed once for the group when its active set is not empty, free of charge, and wrap modulo
2^64; SRDK and SPOPK read a mask. -/
def ScalarResultsHold : Prop :=
  (∀ e ∈ scalarRules, ∀ (x : SU) (s : State) (c : Ctx),
    Performs s c x.h false (refsOf [sName x.d, ssrcRefs x.a, ssrcRefs x.b]) 0 →
    ScalarDone (e.1 x) s c x.d (e.2 (c.rdS true x.a) (c.rdS true x.b) % 2 ^ 64).toNat 0) ∧
  (∀ (x : SImmU) (s : State) (c : Ctx), Performs s c x.h false (refsOf [sName x.d, ssrcRefs x.a]) 0 →
    ScalarDone (.saddi x) s c x.d (((c.rdS true x.a : Int) + sOf 11 x.imm.toNat) % 2 ^ 64).toNat 0) ∧
  (∀ e ∈ conditionTable, ∀ (x : SCmpU) (s : State) (c : Ctx), x.c = e.1 →
    Performs s c x.h false (refsOf [sName x.d, ssrcRefs x.a, ssrcRefs x.b]) 0 →
    ScalarDone (.scmp x) s c x.d (if e.2.2 64 (c.rdS true x.a) (c.rdS true x.b) then 1 else 0) 0) ∧
  (∀ (x : SMovU) (s : State) (c : Ctx), Performs s c x.h false (refsOf [sName x.d, ssrcRefs x.a]) 0 →
    ScalarDone (.smov x) s c x.d (c.rdS true x.a % 2 ^ 64) 0) ∧
  (∀ (x : SrdkU) (s : State) (c : Ctx), Performs s c x.h false (refsOf [sName x.d, kRead x.k]) 0 →
    ScalarDone (.srdk x) s c x.d (bits (readK c.g c.x x.k).toNat (if x.hi then 127 else 63) (if x.hi then 64 else 0)) 0) ∧
  (∀ (x : KRdU) (s : State) (c : Ctx), Performs s c x.h false (refsOf [sName x.d, msrcRefs x.k]) 0 →
    ScalarDone (.spopk x) s c x.d ((List.range 128).filter (mbit (c.rdK x.k) ·)).length 0)

/-- R188: SWRK replaces the selected half of a mask in every lane of the group; bits at and above the width become 0. -/
def MaskHalfWriteHold : Prop :=
  ∀ (x : SwrkU) (s : State) (c : Ctx), Performs s c x.h false (ssrcRefs x.a) 0 → c.g.width ≤ 128 → c.act ≠ 0 →
    ∃ t g', Completes (.swrk x) s t c g' ∧ RestKept s t c ∧
      (∀ l < 128, mbit (tget g'.masks x.k 0) l = (decide (l < c.g.width) &&
        if x.hi then (if 64 ≤ l then (c.rdS true x.a).testBit (l - 64) else mbit (tget c.g.masks x.k 0) l)
        else (if l < 64 then (c.rdS true x.a).testBit l else mbit (tget c.g.masks x.k 0) l))) ∧
      (∀ j, j ≠ x.k → tget g'.masks j 0 = tget c.g.masks j 0) ∧
      g'.vregs = c.g.vregs ∧ ScalarsKept c g' ∧ CapsKept c g' ∧ FlagsKept c g' ∧ RunEnds g'

/-- R187, R188: scalar units are performed once for the group when its active set is not empty, free of charge, and wrap modulo
2^64; SRDK and SPOPK read a mask. R188: SWRK replaces the selected half of a mask in every lane of the group; bits at and above
the width become 0. -/
def Obligations.ScalarResults : Prop :=
  ScalarResultsHold ∧ MaskHalfWriteHold

/-! Float units (07, R189 to R199). -/

/-- Every packed element of the active lanes is the code that r gives from the element codes of A, B and the prior destination;
the flags of all of them are ORed into the sticky flags (R118, R189). -/
def FltDone (i : Instr) (s : State) (c : Ctx) (ty : Nat) (d : Dst) (a b : Src) (r : Nat → Nat → Nat → Nat × FFlags) : Prop :=
  let f := (fltTy ty).1
  let w := f.width
  let el := fun l e => r (elem (c.rd (.flt f) a l) w e) (elem (c.rd (.flt f) b l) w e) (elem (c.old d l) w e)
  ∃ t g', Completes i s t c g' ∧ RestKept s t c ∧
    (∀ l ∈ c.lanes, ∀ e < (fltTy ty).2, elem (dstWord c g' d 0 l) w e = (el l e).1 % 2 ^ w) ∧ OnlyDest c g' d 1 ∧
    ∀ k < 5, g'.fflags.getLsbD k =
      (c.g.fflags.getLsbD k || c.lanes.any (fun l => (List.range (fltTy ty).2).any (fun e => (el l e).2.getLsbD k)))

/-- A result infinite because an operand is infinite is that infinity whatever SAT is; every other exact result is converted
once (R189). fl are the flags that forming it set. -/
def delivered (v : FEnv) (x : FVal × FFlags) : Nat × FFlags :=
  match x.1 with
  | .inf s => (v.f.infCode s, x.2)
  | y => ((convert y v.f v.md v.sb).1, x.2 ||| (convert y v.f v.md v.sb).2)

/-- The lesser, or with gr the greater, of two numbers, −0 before +0 (R191); num passes over one NaN. -/
def extremum (f : Fmt) (gr num : Bool) (a b : Nat) : Nat :=
  let less := fun x y => fcmpLt (f.dec x) (f.dec y) || ((f.dec x).isZero && (f.dec y).isZero && decide (f.signBit ≤ x) && decide (y < f.signBit))
  if f.dec a = .nan then (if f.dec b = .nan ∨ !num then f.nanCode else b)
  else if f.dec b = .nan then (if num then a else f.nanCode)
  else if less (if gr then a else b) (if gr then b else a) then b else a

/-- I(rnd(md, x, integer)) of R192, and whether it differs from x. -/
def integralPart (f : Fmt) (md : Rnd) (a : Nat) : Nat × Bool :=
  match f.dec a with
  | .nan => (f.nanCode, false)
  | .inf _ => (a, false)
  | .fin neg m e => (f.encFin neg (roundInt md neg m e).k (roundInt md neg m e).q, (roundInt md neg m e).inexact)

/-- Rows of R190, R191, R193, R194 and R199's dot product aside: constructor, whether D is read, price, and the result. -/
def floatRules : List ((V3 → Instr) × Bool × Nat × (FEnv → Nat → Nat → Nat → Nat × FFlags)) :=
  [(.fadd, false, 1, fun v a b _ => delivered v (fsum v.md [v.f.dec a, v.f.dec b])),
   (.fsub, false, 1, fun v a b _ => delivered v (fsum v.md [v.f.dec a, (v.f.dec b).neg])),
   (.fmul, false, 1, fun v a b _ => delivered v (fprod (v.f.dec a) (v.f.dec b))),
   (.fmin, false, 1, fun v a b _ => (extremum v.f false false a b, 0)),
   (.fmax, false, 1, fun v a b _ => (extremum v.f true false a b, 0)),
   (.fminn, false, 1, fun v a b _ => (extremum v.f false true a b, 0)),
   (.fmaxn, false, 1, fun v a b _ => (extremum v.f true true a b, 0)),
   (.fcpys, false, 1, fun v a b _ => (a % v.f.signBit + (if v.f.signBit ≤ b then v.f.signBit else 0), 0)),
   (.ffma, true, 1, fun v a b d => fmaOf false false v a b d),
   (.ffms, true, 1, fun v a b d => fmaOf false true v a b d),
   (.ffnma, true, 1, fun v a b d => fmaOf true true v a b d),
   (.ffnms, true, 1, fun v a b d => fmaOf true false v a b d),
   (.fdiv, false, 3, fun v a b _ => fdivOf v a b)]

/-- Rows with one operand. -/
def floatRules1 : List ((V2 → Instr) × Nat × (FEnv → Nat → Nat × FFlags)) :=
  [(.fabs, 1, fun v a => (a % v.f.signBit, 0)),
   (.fneg, 1, fun v a => (if a < v.f.signBit then a + v.f.signBit else a - v.f.signBit, 0)),
   (.ffloor, 1, fun v a => ((integralPart v.f .dn a).1, 0)),
   (.fceil, 1, fun v a => ((integralPart v.f .up a).1, 0)),
   (.ftrunc, 1, fun v a => ((integralPart v.f .tz a).1, 0)),
   (.frint, 1, fun v a => ((integralPart v.f v.md a).1, if (integralPart v.f v.md a).2 then fNX else 0)),
   (.ffrac, 1, fun v a =>
     match v.f.dec a with
     | .nan => (v.f.nanCode, 0)
     | .inf _ => (v.f.nanCode, fNV)
     | .fin neg m e => delivered { f := v.f, md := .ne, sb := false }
         (fsum .ne [.fin neg m e, .fin (!neg) (roundInt .dn neg m e).k (roundInt .dn neg m e).q])),
   (.fclass, 1, fun v a => (fclassOf v.f a, 0)),
   (.frcp, 3, fun _ a => frcpOf a), (.frsq, 3, fun _ a => frsqOf a), (.fsqrt, 3, fun v a => fsqrtOf v a),
   (.fexp2, 3, fun _ a => fexp2Of a), (.flog2, 3, fun _ a => flog2Of a), (.fsin, 3, fun _ a => fsinOf a),
   (.fcos, 3, fun _ a => fcosOf a), (.ftanh, 3, fun _ a => ftanhOf a), (.fsigm, 3, fun _ a => fsigmOf a)]

/-- R189 to R194: float results with two operands, element by element, with the prefix's mode and SAT. -/
def Obligations.FloatTwoOperandResults : Prop :=
  ∀ e ∈ floatRules, ∀ (x : V3) (s : State) (c : Ctx),
    Performs s c x.h (dstW x.d) (refsOf [dstRefs x.d 1 e.2.1, srcRefs x.a 1, srcRefs x.b 1]) e.2.2.1 → dstLatch x.d < 8 →
    FltDone (e.1 x) s c x.h.pfx.ty x.d x.a x.b (e.2.2.2 (fenv x.h))

/-- R190, R192, R194, R198: float results with one operand. -/
def Obligations.FloatOneOperandResults : Prop :=
  ∀ e ∈ floatRules1, ∀ (x : V2) (s : State) (c : Ctx),
    Performs s c x.h (dstW x.d) (refsOf [dstRefs x.d 1 false, srcRefs x.a 1]) e.2.1 → dstLatch x.d < 8 →
    FltDone (e.1 x) s c x.h.pfx.ty x.d x.a .zero (fun a _ _ => e.2.2 (fenv x.h) a)

/-- The sticky flags that the active lanes raise. -/
def laneFlags (c : Ctx) (f : Nat → FFlags) : FFlags := c.lanes.foldl (fun a l => a ||| f l) 0

/-- R192: FSCALE multiplies by a power of two with one rounding, reading B as integers. R199: FDOT2 and FDOT4 round the exact sum
of their products and of the prior destination once, to f32. -/
def Obligations.ScaleAndDotResults : Prop :=
  (∀ (x : V3) (s : State) (c : Ctx),
    Performs s c x.h (dstW x.d) (refsOf [dstRefs x.d 1 false, srcRefs x.a 1, srcRefs x.b 1]) 1 → dstLatch x.d < 8 →
    let f := (fltTy x.h.pfx.ty).1
    let el := fun l e =>
      let a := elem (c.rd (.flt f) x.a l) f.width e
      match f.dec a with
      | .nan => (f.nanCode, 0)
      | .inf _ => (a, 0)
      | .fin neg m k => if m = 0 then (a, 0) else
          convert (.fin neg m (k + sOf f.width (elem (c.rd (.int f.width) x.b l) f.width e))) f (rndOf x.h.pfx.rnd) x.h.pfx.sat
    ∃ t g', Completes (.fscale x) s t c g' ∧ RestKept s t c ∧ OnlyDest c g' x.d 1 ∧
      (∀ l ∈ c.lanes, ∀ e < (fltTy x.h.pfx.ty).2, elem (dstWord c g' x.d 0 l) f.width e = (el l e).1 % 2 ^ f.width) ∧
      ∀ k < 5, g'.fflags.getLsbD k =
        (c.g.fflags.getLsbD k || c.lanes.any (fun l => (List.range (fltTy x.h.pfx.ty).2).any (fun e => (el l e).2.getLsbD k)))) ∧
  (∀ e ∈ ([(.fdot2, fun x => (fltTy x.h.pfx.ty).1), (.fdot4, fun x => immFmt x.h)] : List ((V3 → Instr) × (V3 → Fmt))),
    ∀ (x : V3) (s : State) (c : Ctx),
    Performs s c x.h (dstW x.d) (refsOf [dstRefs x.d 1 true, srcRefs x.a 1, srcRefs x.b 1]) 1 → dstLatch x.d < 8 →
    let f := e.2 x
    let v := fun l => fdotf .f32 (rndOf x.h.pfx.rnd) x.h.pfx.sat ((List.range (32 / f.width)).map (fun i =>
      (f.dec (elem (c.rd (.flt f) x.a l) f.width i), f.dec (elem (c.rd (.flt f) x.b l) f.width i)))) [Fmt.f32.dec (c.old x.d l)]
    VecDone (e.1 x) s c x.d 1 (fun l => (v l).1) (laneFlags c (fun l => (v l).2)))

/-! The number formats (05, R113 to R143). -/

/-- Every finite code of a format of R129 converts to itself without a flag, in every mode (R135: a value of the format is its
own rounding). -/
def RepresentableValuesConvertExactlyHold : Prop :=
  ∀ (k : Nat) (f : Fmt) (md : Rnd) (sb : Bool) (a : Nat) (neg : Bool) (m : Nat) (e : Int),
    fmtOfCode k = some f → a < 2 ^ f.width → f.dec a = .fin neg m e → convert (.fin neg m e) f md sb = (a, 0)

/-- The exact sum of two finite numbers as a number at the lower exponent. -/
def exactSum (x y : Bool × Nat × Int) : Int :=
  let low := min x.2.2 y.2.2
  (if x.1 then -1 else 1) * (x.2.1 * 2 ^ (x.2.2 - low).toNat : Nat) + (if y.1 then -1 else 1) * (y.2.1 * 2 ^ (y.2.2 - low).toNat : Nat)

/-- R116, R189, R190, R193: what the sum of two codes and the product of two codes deliver, case by case: NaN, opposite
infinities, an infinity, and the exact value rounded once; a zero sum is −0 for two negative zeros, and for others under .rd
unless both are +0. -/
def SumsAndProductsRoundOnceHold : Prop :=
  ∀ (f : Fmt) (md : Rnd) (sb : Bool) (a b : Nat), f = .f32 ∨ f = .f16 ∨ f = .bf16 →
    let v : FEnv := { f := f, md := md, sb := sb }
    (f.dec a = .nan ∨ f.dec b = .nan → faddOf v a b = (f.nanCode, 0) ∧ fmulOf v a b = (f.nanCode, 0)) ∧
    (∀ p q, f.dec a = .inf p → f.dec b = .inf q →
      faddOf v a b = (if p = q then (f.infCode p, 0) else (f.nanCode, fNV)) ∧ fmulOf v a b = (f.infCode (p != q), 0)) ∧
    (∀ p q m e, f.dec a = .inf p → f.dec b = .fin q m e →
      faddOf v a b = (f.infCode p, 0) ∧ fmulOf v a b = (if m = 0 then (f.nanCode, fNV) else (f.infCode (p != q), 0))) ∧
    (∀ p m e q n g, f.dec a = .fin p m e → f.dec b = .fin q n g →
      fmulOf v a b = convert (.fin (p != q) (m * n) (e + g)) f md sb ∧
      (exactSum (p, m, e) (q, n, g) ≠ 0 → faddOf v a b = convert (.fin (decide (exactSum (p, m, e) (q, n, g) < 0))
        (exactSum (p, m, e) (q, n, g)).natAbs (min e g)) f md sb) ∧
      (exactSum (p, m, e) (q, n, g) = 0 → faddOf v a b =
        (if m = 0 ∧ n = 0 ∧ p = q then f.encFin p 0 0 else f.encFin (decide (md = .dn)) 0 0, 0)))

/-- Every finite code of a format of R129 converts to itself without a flag, in every mode (R135: a value of the format is its
own rounding). R116, R189, R190, R193: what the sum of two codes and the product of two codes deliver, case by case: NaN,
opposite infinities, an infinity, and the exact value rounded once; a zero sum is −0 for two negative zeros, and for others
under .rd unless both are +0. -/
def Obligations.CorrectRounding : Prop :=
  RepresentableValuesConvertExactlyHold ∧ SumsAndProductsRoundOnceHold

/-- R195: the special cases of the special functions on f32 codes: infinities, zeros, negative operands, and the exact powers of
two. -/
def Obligations.SpecialFunctionCases : Prop :=
  (frcpOf 0 = (0x7F800000, fDZ) ∧ frcpOf 0x80000000 = (0xFF800000, fDZ) ∧ frcpOf 0x7F800000 = (0, 0) ∧
    frcpOf 0xFF800000 = (0x80000000, 0) ∧ ∀ k < 253, frcpOf ((k + 1) * 2 ^ 23) = ((253 - k) * 2 ^ 23, 0)) ∧
  (frsqOf 0 = (0x7F800000, fDZ) ∧ frsqOf 0x80000000 = (0xFF800000, fDZ) ∧ frsqOf 0x7F800000 = (0, 0) ∧
    ∀ a, 0x80000000 < a → a ≤ 0xFF800000 → frsqOf a = (0x7FC00000, fNV)) ∧
  (∀ (md : Rnd) (sb : Bool), let v : FEnv := { f := .f32, md := md, sb := sb }
    fsqrtOf v 0x80000000 = (0x80000000, 0) ∧ fsqrtOf v 0x7F800000 = (0x7F800000, 0) ∧
    (∀ a, 0x80000000 < a → a ≤ 0xFF800000 → fsqrtOf v a = (0x7FC00000, fNV)) ∧
    fdivOf v 0 0x80000000 = (0x7FC00000, fNV) ∧ fdivOf v 0x7F800000 0xFF800000 = (0x7FC00000, fNV) ∧
    ∀ a, 0 < a → a < 0x7F800000 → fdivOf v a 0 = (0x7F800000, fDZ) ∧ fdivOf v a 0x80000000 = (0xFF800000, fDZ)) ∧
  (fexp2Of 0xFF800000 = (0, 0) ∧ fexp2Of 0x7F800000 = (0x7F800000, 0) ∧ flog2Of 0 = (0xFF800000, fDZ) ∧
    flog2Of 0x80000000 = (0xFF800000, fDZ) ∧ flog2Of 0x7F800000 = (0x7F800000, 0) ∧
    ∀ a, 0x80000000 < a → a ≤ 0xFF800000 → flog2Of a = (0x7FC00000, fNV)) ∧
  (∀ a, a = 0x7F800000 ∨ a = 0xFF800000 → fsinOf a = (0x7FC00000, 0) ∧ fcosOf a = (0x7FC00000, 0)) ∧
  (∀ a, a = 0 ∨ a = 0x80000000 → fsinOf a = (a, 0) ∧ fcosOf a = (0x3F800000, 0) ∧ ftanhOf a = (a, 0) ∧
    fsigmOf a = (0x3F000000, 0)) ∧
  (ftanhOf 0x7F800000 = (0x3F800000, 0) ∧ ftanhOf 0xFF800000 = (0xBF800000, 0) ∧ fsigmOf 0xFF800000 = (0, 0) ∧
    fsigmOf 0x7F800000 = (0x3F800000, 0))

/-! Conversions and block scaling (07, R200 to R209). -/

/-- x of R202 as a float value: the element of a 16-bit type, the f32 word, or the integer. -/
def cvtSource (c : Ctx) (x : CvtU) (l : Nat) : FVal :=
  match cvtTy x.h.pfx.ty with
  | .f32 => Fmt.f32.dec (c.rd (.flt .f32) x.a l)
  | .f16 => Fmt.f16.dec (elem (c.rd (.flt .f16) x.a l) 16 (if x.hsel then 1 else 0))
  | .bf16 => Fmt.bf16.dec (elem (c.rd (.flt .bf16) x.a l) 16 (if x.hsel then 1 else 0))
  | .i32 => ofIntF (sOf 32 (c.rd (.int 32) x.a l))
  | .n32 => ofIntF (c.rd (.int 32) x.a l)
  | .i64 => ofIntF (sOf 64 (c.rd64 true x.a l))
  | .n64 => ofIntF (c.rd64 false x.a l)

/-- The integer of an integer source type. -/
def cvtInteger (c : Ctx) (x : CvtU) (l : Nat) : Int :=
  match cvtTy x.h.pfx.ty with
  | .i32 => sOf 32 (c.rd (.int 32) x.a l)
  | .n32 => c.rd (.int 32) x.a l
  | .i64 => sOf 64 (c.rd64 true x.a l)
  | .n64 => c.rd64 false x.a l
  | _ => 0

/-- The range of an integer type. -/
def typeRange : CvtTy → Int × Int
  | .i32 => (-2 ^ 31, 2 ^ 31 - 1)
  | .n32 => (0, 2 ^ 32 - 1)
  | .i64 => (-2 ^ 63, 2 ^ 63 - 1)
  | .n64 => (0, 2 ^ 64 - 1)
  | _ => (0, 0)

/-- A clamped integer with its OF and NX of R202: z is x rounded and inexact says that they differ. -/
def clampFlags (t : CvtTy) (z : Int) (inexact : Bool) : Int × FFlags :=
  let y := max (typeRange t).1 (min z (typeRange t).2)
  (y, (if y ≠ z then fOF else 0) ||| (if inexact || decide (y ≠ z) then fNX else 0))

/-- Float to integer of R202. -/
def floatToInteger (t : CvtTy) (md : Rnd) (x : FVal) : Int × FFlags :=
  match x with
  | .nan => (0, 0)
  | .inf neg =>
    if neg ∧ (typeRange t).1 = 0 then (0, fNV ||| fNX) else (if neg then (typeRange t).1 else (typeRange t).2, fOF ||| fNX)
  | .fin neg m e =>
    let r := roundInt md neg m e
    let z : Int := (if neg then -1 else 1) * (r.k * 2 ^ r.q.toNat : Nat)
    if (typeRange t).1 = 0 ∧ neg ∧ m ≠ 0 ∧ z ≠ 0 then (0, fNV ||| fNX) else clampFlags t z r.inexact

/-- D[l] of R202: a 16-bit destination keeps the other half of the register. -/
def cvtResult (c : Ctx) (x : CvtU) (l : Nat) : Nat × FFlags :=
  let half := fun y : Nat => if x.hsel then c.old x.d l % 2 ^ 16 + y % 2 ^ 16 * 2 ^ 16 else c.old x.d l / 2 ^ 16 * 2 ^ 16 + y % 2 ^ 16
  let md := rndOf x.h.pfx.rnd
  match x.t with
  | .f32 => convert (cvtSource c x l) .f32 md x.h.pfx.sat
  | .f16 => (half (convert (cvtSource c x l) .f16 md x.h.pfx.sat).1, (convert (cvtSource c x l) .f16 md x.h.pfx.sat).2)
  | .bf16 => (half (convert (cvtSource c x l) .bf16 md x.h.pfx.sat).1, (convert (cvtSource c x l) .bf16 md x.h.pfx.sat).2)
  | t =>
    let w := if t = .i64 ∨ t = .n64 then 64 else 32
    let r := if x.h.pfx.ty < 3 then floatToInteger t md (cvtSource c x l)
      else (max (typeRange t).1 (min (cvtInteger c x l) (typeRange t).2), 0)
    ((r.1 % 2 ^ w).toNat, r.2)

/-- R202: CVT, from each type to each other. -/
def Obligations.ConversionResults : Prop :=
  ∀ (x : CvtU) (s : State) (c : Ctx),
    let wide := fun t : CvtTy => decide (t = .i64 ∨ t = .n64)
    let n := if wide x.t then 2 else 1
    let m := if wide (cvtTy x.h.pfx.ty) then 2 else 1
    x.h.pfx.ty ≤ 6 →
    Performs s c x.h (dstW x.d) (refsOf [dstRefs x.d n (decide (x.t = .f16 ∨ x.t = .bf16)), srcRefs x.a m]) (max n m) →
    dstLatch x.d + n ≤ 8 →
    VecDone (.cvt x) s c x.d n (fun l => (cvtResult c x l).1) (laneFlags c (fun l => (cvtResult c x l).2))

/-- Part j of width w of the destination replaced by a code. -/
def partPut (w d j v : Nat) : Nat := ofBits 32 (fun i => if w * j ≤ i ∧ i < w * j + w then v.testBit (i - w * j) else d.testBit i)

/-- A code of f as a code of g, exact (R206). -/
def widened (f g : Fmt) (a : Nat) : Nat := (convert (f.dec a) g .ne false).1

/-- R205 to R209: the narrow conversions and block scaling. The narrowing forms round once into one part of the destination and
raise the flags of R135; the expanding forms are exact and raise none; BSCAN writes one scale for each 32 lanes. -/
def Obligations.NarrowAndBlockResults : Prop :=
  ∀ (s : State) (c : Ctx),
    (∀ e ∈ ([(.cvt8, fun x => immFmt x.h), (.cvt4, fun _ => .fp4)] : List ((V2 → Instr) × (V2 → Fmt))), ∀ x : V2,
      Performs s c x.h (dstW x.d) (refsOf [dstRefs x.d 1 true, srcRefs x.a 1]) 1 → dstLatch x.d < 8 →
      (e.2 x).width * (immPos x.h + 1) ≤ 32 → (e.2 x).isB8 ∨ e.2 x = .fp4 →
      let v := fun l => convert (Fmt.f32.dec (c.rd (.flt .f32) x.a l)) (e.2 x) (rndOf x.h.pfx.rnd) x.h.pfx.sat
      VecDone (e.1 x) s c x.d 1 (fun l => partPut (e.2 x).width (c.old x.d l) (immPos x.h) (v l).1)
        (laneFlags c (fun l => (v l).2))) ∧
    (∀ e ∈ ([(.cvt8x, fun x => immFmt x.h), (.cvt4x, fun _ => .fp4)] : List ((V2 → Instr) × (V2 → Fmt))), ∀ x : V2,
      Performs s c x.h (dstW x.d) (refsOf [dstRefs x.d 1 false, srcRefs x.a 1]) 1 → dstLatch x.d < 8 →
      fmtOfCode (x.h.pfx.imm % 256) = some (e.2 x) ∨ e.2 x = .fp4 →
      VecDone (e.1 x) s c x.d 1 (fun l =>
        widened (e.2 x) .f32 (elem (c.rd (.flt (e.2 x)) x.a l) (e.2 x).width (immPos x.h))) 0) ∧
    (∀ x : V3, Performs s c x.h (dstW x.d) (refsOf [dstRefs x.d 1 true, srcRefs x.a 1, srcRefs x.b 1]) 1 → dstLatch x.d < 8 →
      (immFmt x.h).isB8 → immPos x.h < 2 →
      let p := fun l => convert (Fmt.f32.dec (c.rd (.flt .f32) x.a l)) (immFmt x.h) (rndOf x.h.pfx.rnd) x.h.pfx.sat
      let q := fun l => convert (Fmt.f32.dec (c.rd (.flt .f32) x.b l)) (immFmt x.h) (rndOf x.h.pfx.rnd) x.h.pfx.sat
      VecDone (.pack8 x) s c x.d 1 (fun l => partPut 8 (partPut 8 (c.old x.d l) (2 * immPos x.h) (p l).1) (2 * immPos x.h + 1) (q l).1)
        (laneFlags c (fun l => (p l).2 ||| (q l).2))) ∧
    (∀ x : V2, Performs s c x.h (dstW x.d) (refsOf [dstRefs x.d 1 false, srcRefs x.a 1]) 1 → dstLatch x.d < 8 →
      fmtOfCode (x.h.pfx.imm % 256) = some (immFmt x.h) → (immFmt x.h).isB8 →
      let a := fun l k => widened (immFmt x.h) .bf16 (elem (c.rd (.flt (immFmt x.h)) x.a l) 8 (2 * immPos x.h + k))
      VecDone (.unpk8 x) s c x.d 1 (fun l => a l 0 + 2 ^ 16 * a l 1) 0) ∧
    (∀ x : V2, Performs s c x.h (dstW x.d) (refsOf [dstRefs x.d 1 false, srcRefs x.a 1]) 2 → dstLatch x.d < 8 →
      VecDone (.bscan x) s c x.d 1 (fun l => blockScale (immFmt x.h)
        ((c.lanes.filter (fun j => decide (j / 32 = l / 32))).map (fun j => c.rd (.flt .f32) x.a j))) 0) ∧
    (∀ e ∈ ([(.qnt8, fun x => immFmt x.h), (.qnt4, fun _ => .fp4)] : List ((V3 → Instr) × (V3 → Fmt))), ∀ x : V3,
      Performs s c x.h (dstW x.d) (refsOf [dstRefs x.d 1 true, srcRefs x.a 1, srcRefs x.b 1]) 1 → dstLatch x.d < 8 →
      (e.2 x).width * (immPos x.h + 1) ≤ 32 → (e.2 x).isB8 ∨ e.2 x = .fp4 →
      let sc := fun l => c.rd (.int 32) x.b l % 256
      let v := fun l => convert (if sc l = 255 then .nan else (Fmt.f32.dec (c.rd (.flt .f32) x.a l)).scale (127 - sc l)) (e.2 x)
        (rndOf x.h.pfx.rnd) x.h.pfx.sat
      VecDone (e.1 x) s c x.d 1 (fun l => partPut (e.2 x).width (c.old x.d l) (immPos x.h) (v l).1)
        (laneFlags c (fun l => (v l).2))) ∧
    (∀ e ∈ ([(.dqnt8, fun x => immFmt x.h), (.dqnt4, fun _ => .fp4)] : List ((V3 → Instr) × (V3 → Fmt))), ∀ x : V3,
      Performs s c x.h (dstW x.d) (refsOf [dstRefs x.d 1 false, srcRefs x.a 1, srcRefs x.b 1]) 1 → dstLatch x.d < 8 →
      let f := e.2 x
      let sc := fun l => c.rd (.int 32) x.b l % 256
      let v := fun l => convert (if sc l = 255 then .nan
        else (f.dec (elem (c.rd (.flt f) x.a l) f.width (immPos x.h))).scale ((sc l : Int) - 127)) .f32 (rndOf x.h.pfx.rnd) x.h.pfx.sat
      VecDone (e.1 x) s c x.d 1 (fun l => (v l).1) (laneFlags c (fun l => (v l).2)))

/-! Lanes, reductions, votes, masks and the window (08, R210 to R215). -/

/-- R210, R211: each active lane takes A from the lane that B names, whether or not that lane is active. -/
def Obligations.LaneMovementResults : Prop :=
  ∀ (s : State) (c : Ctx),
    (∀ e ∈ ([(.shfli, fun g _ n => n % g), (.shflu, fun _ l n => if n ≤ l then l - n else l),
             (.shfld, fun g l n => if l + n < g then l + n else l), (.shflx, fun g l n => if l ^^^ n < g then l ^^^ n else l)] :
          List ((V3 → Instr) × (Nat → Nat → Nat → Nat))), ∀ x : V3, let n := regsOf x.h.pfx.ty
      Performs s c x.h (dstW x.d) (refsOf [dstRefs x.d n false, srcRefs x.a n, srcRefs x.b n]) 2 → dstLatch x.d + n ≤ 8 →
      x.h.pfx.ty < 2 →
      VecDone (e.1 x) s c x.d n (fun l =>
        srcElem c x.h.pfx.ty false x.a (e.2 c.g.width l (bits (srcElem c x.h.pfx.ty false x.b l 0) 6 0)) 0) 0) ∧
    (∀ x : BcastU, let n := regsOf x.h.pfx.ty
      Performs s c x.h (dstW x.d) (refsOf [dstRefs x.d n false, srcRefs x.a n, ssrcRefs x.b]) 2 → dstLatch x.d + n ≤ 8 →
      x.h.pfx.ty < 2 →
      VecDone (.bcast x) s c x.d n (fun _ => srcElem c x.h.pfx.ty false x.a (bits (c.rdS false x.b) 6 0 % c.g.width) 0) 0) ∧
    (∀ x : RdlaneU, Performs s c x.h false (refsOf [sName x.d, srcRefs x.a (regsOf x.h.pfx.ty), ssrcRefs x.b]) 2 →
      x.h.pfx.ty < 2 →
      ScalarDone (.rdlane x) s c x.d (srcElem c x.h.pfx.ty false x.a (bits (c.rdS false x.b) 6 0 % c.g.width) 0) 0) ∧
    (∀ x : WrlaneU, let n := regsOf x.h.pfx.ty
      Performs s c x.h (dstW x.d) (refsOf [dstRefs x.d n true, ssrcRefs x.a, ssrcRefs x.b]) 2 → dstLatch x.d + n ≤ 8 →
      x.h.pfx.ty < 2 →
      VecDone (.wrlane x) s c x.d n (fun l => if l = bits (c.rdS false x.b) 6 0 % c.g.width then c.rdS false x.a
        else oldElem c x.h.pfx.ty x.d l 0) 0)

/-- op over a list of values, from its identity (R212, R213). -/
def reduced (o : RedOp) (w : Nat) (md : Rnd) (vs : List Nat) : Nat × FFlags :=
  match o with
  | .add => (vs.sum % 2 ^ w, 0)
  | .min => (((vs.map (sOf w)).foldl min (2 ^ (w - 1) - 1) % 2 ^ w).toNat, 0)
  | .max => (((vs.map (sOf w)).foldl max (-2 ^ (w - 1)) % 2 ^ w).toNat, 0)
  | .nmin => (vs.foldl min (2 ^ w - 1), 0)
  | .nmax => (vs.foldl max 0, 0)
  | .and => (vs.foldl (· &&& ·) (2 ^ w - 1), 0)
  | .or => (vs.foldl (· ||| ·) 0, 0)
  | .xor => (vs.foldl (· ^^^ ·) 0, 0)
  | .fadd => if vs = [] then (0x80000000, 0) else delivered { f := .f32, md := md, sb := false } (fsum md (vs.map Fmt.f32.dec))
  | .fmin => (vs.foldl (extremum .f32 false false) 0x7F800000, 0)
  | .fmax => (vs.foldl (extremum .f32 true false) 0xFF800000, 0)

/-- a[l] of R213 for an operation. -/
def reduceSource (c : Ctx) (o : RedOp) (ty : Nat) (a : Src) (l : Nat) : Nat :=
  if o = .fadd ∨ o = .fmin ∨ o = .fmax then c.rd (.flt .f32) a l % 2 ^ 32 else srcElem c ty (decide (o = .min ∨ o = .max)) a l 0

/-- R212, R213: reductions over the active lanes into every active lane or a scalar, and prefix scans. -/
def Obligations.ReductionAndScanResults : Prop :=
  ∀ (s : State) (c : Ctx),
    (∀ (x : ReduxU) (d : Dst), x.d = .vec d → let n := regsOf x.h.pfx.ty
      Performs s c x.h (dstW d) (refsOf [dstRefs d n false, srcRefs x.a n]) 2 → dstLatch d + n ≤ 8 → x.h.pfx.ty < 2 →
      let r := reduced x.op (32 * n) (rndOf x.h.pfx.rnd) (c.lanes.map (reduceSource c x.op x.h.pfx.ty x.a))
      VecDone (.redux x) s c d n (fun _ => r.1) (if c.act = 0 then 0 else r.2)) ∧
    (∀ (x : ReduxU) (d : Nat), x.d = .sc d → let n := regsOf x.h.pfx.ty
      Performs s c x.h false (refsOf [sName d, srcRefs x.a n]) 2 → x.h.pfx.ty < 2 →
      let r := reduced x.op (32 * n) (rndOf x.h.pfx.rnd) (c.lanes.map (reduceSource c x.op x.h.pfx.ty x.a))
      ScalarDone (.redux x) s c d r.1 r.2) ∧
    (∀ x : ScanU, let n := regsOf x.h.pfx.ty
      Performs s c x.h (dstW x.d) (refsOf [dstRefs x.d n false, srcRefs x.a n]) 2 → dstLatch x.d + n ≤ 8 → x.h.pfx.ty < 2 →
      let r := fun l => reduced x.op (32 * n) (rndOf x.h.pfx.rnd)
        ((c.lanes.filter (fun j => decide (if x.h.pfx.imm % 2 = 1 then j < l else j ≤ l))).map (reduceSource c x.op x.h.pfx.ty x.a))
      VecDone (.scan x) s c x.d n (fun l => (r l).1) (laneFlags c (fun l => (r l).2)))

/-- R214: votes write a scalar once; mask logic changes the bits of active lanes alone. -/
def Obligations.VoteAndMaskResults : Prop :=
  ∀ (s : State) (c : Ctx),
    (∀ x : KRdU, Performs s c x.h false (refsOf [sName x.d, msrcRefs x.k]) 2 →
      ScalarDone (.vall x) s c x.d (if ∀ l ∈ c.lanes, mbit (c.rdK x.k) l = true then 1 else 0) 0 ∧
      ScalarDone (.vany x) s c x.d (if ∃ l ∈ c.lanes, mbit (c.rdK x.k) l = true then 1 else 0) 0) ∧
    (∀ x : BallotU, Performs s c x.h false (refsOf [sName x.d, srcRefs x.a 1]) 2 →
      ScalarDone (.vballot x) s c x.d (ofBits 64 (fun i =>
        decide ((if x.hi then 64 + i else i) ∈ c.lanes) && decide (c.rd (.int 32) x.a (if x.hi then 64 + i else i) ≠ 0))) 0) ∧
    (c.g.width ≤ 128 →
      (∀ e ∈ ([(.kand, fun p q => p && q), (.kor, fun p q => p || q), (.kxor, fun p q => p != q), (.kandn, fun p q => p && !q)] :
            List ((K3U → Instr) × (Bool → Bool → Bool))), ∀ x : K3U,
        Performs s c x.h false (refsOf [msrcRefs x.a, msrcRefs x.b]) 1 →
        MaskDone (e.1 x) s c x.k (fun l => e.2 (mbit (c.rdK x.a) l) (mbit (c.rdK x.b) l))) ∧
      (∀ x : K2U, Performs s c x.h false (msrcRefs x.a) 1 →
        MaskDone (.knot x) s c x.k (fun l => !mbit (c.rdK x.a) l) ∧
        MaskDone (.kfirst x) s c x.k (fun l =>
          mbit (c.rdK x.a) l && (c.lanes.all (fun j => decide (l ≤ j) || !mbit (c.rdK x.a) j)))))

/-- R215: WBASE moves the group's window base, whatever the active set; past the allocation it traps and the base stays. -/
def WindowBaseMovesHold : Prop :=
  ∀ (x : WbaseU) (s : State) (c : Ctx), Performs s c x.h false (ssrcRefs x.a) 0 → (x.a = .zero ∨ ∃ i, x.a = .s i) →
    let wb := 8 * (x.sel + (match x.a with | .s i => bits (readS c.g i) 7 0 | _ => 0))
    (wb < c.team.vregs → c.alone = true → ∃ t g', Completes (.wbase x) s t c g' ∧ RestKept s t c ∧ g'.wb = wb ∧
      g'.vregs = c.g.vregs ∧ ScalarsKept c g' ∧ MasksKept c g' ∧ g'.caps = c.g.caps ∧ FlagsKept c g' ∧ RunEnds g') ∧
    (c.team.vregs ≤ wb → c.alone = true → exec (.wbase x) s = .next (takeTrap s c.die c.handle c.grp c.slot c.unit
      { code := 0x02, mask := c.act, detail := at_ c.team.vregs 12 12 + at_ wb 0 12 }))

/-! Capability registers (08, R225). -/

/-- Capability ct holds v where the active set is not empty; every other register is as before. -/
def CapDone (i : Instr) (s : State) (c : Ctx) (ct : Nat) (v : Cap) : Prop :=
  ∃ t g', Completes i s t c g' ∧ RestKept s t c ∧
    (∀ j, tget g'.caps j {} = if j = ct ∧ c.act ≠ 0 then v else c.cap j) ∧
    g'.vregs = c.g.vregs ∧ ScalarsKept c g' ∧ MasksKept c g' ∧ g'.wb = c.g.wb ∧ FlagsKept c g' ∧ RunEnds g'

/-- R225: narrowing never widens: the tag survives only where the new range stays inside the old one. -/
def CapabilityRegisterResultsHold : Prop :=
  ∀ (s : State) (c : Ctx),
    (∀ x : CderiveU, Performs s c x.h false (refsOf [cRead x.cf, ssrcRefs x.a, ssrcRefs x.b]) 0 →
      let f := c.cap x.cf
      let a := c.rdS false x.a
      let b := c.rdS false x.b
      CapDone (.cderive x) s c x.ct { oid := f.oid, rights := f.rights, gen := f.gen
                                      base := BitVec.ofNat 40 (f.base.toNat + a), len := BitVec.ofNat 40 b
                                      tag := f.tag && decide (a + b ≤ f.len.toNat) }) ∧
    (∀ x : CrightsU, Performs s c x.h false (refsOf [cRead x.cf, ssrcRefs x.a]) 0 →
      CapDone (.crights x) s c x.ct { c.cap x.cf with rights := (c.cap x.cf).rights &&& BitVec.ofNat 8 (c.rdS false x.a) }) ∧
    (∀ x : CmovU, (Performs s c x.h false {} 0 → CapDone (.cnull x) s c x.ct {}) ∧
      (Performs s c x.h false (cRead x.cf) 0 → CapDone (.cmov x) s c x.ct (c.cap x.cf))) ∧
    (∀ x : CgetU, Performs s c x.h false (refsOf [cRead x.cf, sName x.d]) 0 →
      let f := c.cap x.cf
      ScalarDone (.cgetb x) s c x.d f.base.toNat 0 ∧ ScalarDone (.cgetl x) s c x.d f.len.toNat 0 ∧
      ScalarDone (.cgetr x) s c x.d
        (f.rights.toNat + 2 ^ 8 * (if f.tag then 1 else 0) + 2 ^ 16 * f.gen.toNat + 2 ^ 36 * f.oid.toNat) 0)

/-- R225: CTEST writes the tag, whether the object's entry is valid with an equal generation, and whether LEN is not 0. -/
def CapabilityTestResultHold : Prop :=
  ∀ (x : CgetU) (s : State) (c : Ctx), Performs s c x.h false (refsOf [cRead x.cf, sName x.d]) 0 → c.alone = true →
    let f := c.cap x.cf
    let o := readObj s c.team.ctx f.oid.toNat
    ScalarDone (.ctest x) s c x.d ((if f.tag then 1 else 0) + (if f.tag ∧ o.valid ∧ o.gen = f.gen.toNat then 2 else 0) +
      (if f.len ≠ 0 then 4 else 0)) 0

/-- R215: WBASE moves the group's window base, whatever the active set; past the allocation it traps and the base stays. R225:
narrowing never widens: the tag survives only where the new range stays inside the old one. R225: CTEST writes the tag, whether
the object's entry is valid with an equal generation, and whether LEN is not 0. -/
def Obligations.CapabilityRegisterResults : Prop :=
  WindowBaseMovesHold ∧ CapabilityRegisterResultsHold ∧ CapabilityTestResultHold

/-! Memory (08, R216 to R226; 03, R67 to R82). -/

/-- R216, R219, R75: loads. Every active lane whose page is resident gets the little-endian number that the core's caches or the
home hold at its place, other active lanes 0; with RES a mask tells which they are. Memory is as before but for the page
entries' bits (R71) and the energy counter. -/
def LoadResultsHold : Prop :=
  (∀ (x : LdU) (s : State) (c : Ctx), x.sz ≤ 4 →
    Performs s c x.h false (refsOf [vName x.d (regsOfSize x.sz), offRefs x.a x.o40, cRead x.c]) 2 → c.alone = true →
    let a := accessOf c x.c rR x.sz 0 x.o40 x.a
    let p := payIssue s c 2
    loadGate s c a (x.res == 0) = .go → c.g.width ≤ 128 →
    ∃ t g', Completes (.ld x) s t c g' ∧
      (∀ l ∈ c.lanes, ∀ k < regsOfSize x.sz,
        readReg g' (c.g.wb + x.d + k) l = (loadedLane p c a l).getD 0 / 2 ^ (32 * k) % 2 ^ 32) ∧
      VregsKept c g' (.v x.d false) (regsOfSize x.sz) ∧ ScalarsKept c g' ∧ CapsKept c g' ∧ FlagsKept c g' ∧ RunEnds g' ∧
      ResidenceMask c g' x.res (fun l => (loadedLane p c a l).isNone) ∧
      t.lines = (loadLanes p c.core c.team.ctx a).2.lines ∧ UnitKept [.bytes, .lines, .counters] s t c ∧
      HomesKept s t (fun b => chargedByte s c b ∨ entryByte p c.team.ctx a b) ∧
      (cacheRoom s c.core = true → BytesKept s t (fun b => chargedByte s c b ∨ entryByte p c.team.ctx a b))) ∧
  (∀ (x : LduU) (s : State) (c : Ctx), x.sz ≤ 3 →
    Performs s c x.h false (refsOf [sName x.d, ssrcRefs x.a, cRead x.c]) 2 → c.alone = true → c.act ≠ 0 →
    let a := uniAccess c x.c rR x.sz 0 x.o40 x.a
    let one := { a with offs := a.offs.take 1 }
    let p := payIssue s c 2
    loadGate s c a (x.res == 0) = .go → c.g.width ≤ 128 →
    let v := loadedLane p c one (c.lanes.headD 0)
    ∃ t g', Completes (.ldu x) s t c g' ∧
      (∀ j, readS g' j = if j = x.d then v.getD 0 else readS c.g j) ∧
      g'.vregs = c.g.vregs ∧ CapsKept c g' ∧ FlagsKept c g' ∧ RunEnds g' ∧ ResidenceMask c g' x.res (fun _ => v.isNone) ∧
      t.lines = (loadLanes p c.core c.team.ctx one).2.lines ∧ UnitKept [.bytes, .lines, .counters] s t c ∧
      HomesKept s t (fun b => chargedByte s c b ∨ entryByte p c.team.ctx a b) ∧
      (cacheRoom s c.core = true → BytesKept s t (fun b => chargedByte s c b ∨ entryByte p c.team.ctx a b)))

/-- What a store of some lanes' bytes leaves: the homes change in page entries, the energy counter and what a full cache writes
home alone; and where the core's caches have room, the storing core finds the bytes stored, the highest lane's where they overlap,
every byte outside them reads as before from every core, and nothing goes home. -/
def StoreDone (i : Instr) (s : State) (c : Ctx) (a : Access) (res : Nat) (ws : List (Nat × List Byte)) (absent : Nat → Bool) : Prop :=
  ∃ t g', Completes i s t c g' ∧
    g'.vregs = c.g.vregs ∧ ScalarsKept c g' ∧ CapsKept c g' ∧ FlagsKept c g' ∧ RunEnds g' ∧ ResidenceMask c g' res absent ∧
    UnitKept [.bytes, .lines, .counters] s t c ∧
    HomesKept s t (fun b => chargedByte s c b ∨ entryByte (payIssue s c 2) c.team.ctx a b) ∧
    (cacheRoom s c.core = true →
      BytesKept s t (fun b => chargedByte s c b ∨ entryByte (payIssue s c 2) c.team.ctx a b) ∧
      ∀ k b, ¬chargedByte s c b → ¬entryByte (payIssue s c 2) c.team.ctx a b →
        seesByte t k b = (if k = c.core then lastByte ws b else none).getD (seesByte s k b))

/-- R216, R219: stores write each resident active lane's low bytes at its place, in increasing lane order. -/
def StoreResultsHold : Prop :=
  (∀ (x : StU) (s : State) (c : Ctx), x.sz ≤ 4 →
    Performs s c x.h false (refsOf [storeRefs x.d x.sz, offRefs x.a x.o40, cRead x.c]) 2 → c.alone = true →
    let a := accessOf c x.c rW x.sz 1 x.o40 x.a
    storeGate s c a (x.res == 0) = .go → c.g.width ≤ 128 →
    let ps := placed (payIssue s c 2) c.team.ctx a
    StoreDone (.st x) s c a x.res (ps.map (fun q => (q.2.2, storeBytesOf c x.d x.sz q.1)))
      (fun l => !ps.any (fun q => q.1 == l))) ∧
  (∀ (x : StuU) (s : State) (c : Ctx), x.sz ≤ 3 →
    Performs s c x.h false (refsOf [ssrcRefs x.d, ssrcRefs x.a, cRead x.c]) 2 → c.alone = true → c.act ≠ 0 →
    let a := uniAccess c x.c rW x.sz 1 x.o40 x.a
    storeGate s c a (x.res == 0) = .go → c.g.width ≤ 128 →
    let ps := placed (payIssue s c 2) c.team.ctx { a with offs := a.offs.take 1 }
    StoreDone (.stu x) s c a x.res (ps.map (fun q => (q.2.2, leBytes (2 ^ x.sz) (c.rdS false x.d)))) (fun _ => ps.isEmpty))

/-- R218: LDL and STL read and write the team's local store; a store clears the tag of every granule it touches (R63). -/
def LocalStoreResultsHold : Prop :=
  (∀ (x : LdlU) (s : State) (c : Ctx), x.sz ≤ 4 →
    Performs s c x.h false (refsOf [vName x.d (regsOfSize x.sz), srcRefs x.a 1]) 1 → c.alone = true →
    let las := localAddrs c x.a
    localGate c.team 0 (2 ^ x.sz) las = .go → seamGate s c 0 las = .go →
    (∀ p ∈ las, ∀ k < 2 ^ x.sz, locIndex c.team c.grp p.2 + k ∉ c.team.locPoison) →
    ∃ t g', Completes (.ldl x) s t c g' ∧
      (∀ l ∈ c.lanes, ∀ k < regsOfSize x.sz, readReg g' (c.g.wb + x.d + k) l =
        leNat ((List.range (2 ^ x.sz)).map (fun i => tget c.team.loc (locIndex c.team c.grp (c.rd (.int 32) x.a l) + i) 0)) /
          2 ^ (32 * k) % 2 ^ 32) ∧
      VregsKept c g' (.v x.d false) (regsOfSize x.sz) ∧ ScalarsKept c g' ∧ MasksKept c g' ∧ CapsKept c g' ∧ FlagsKept c g' ∧
      RunEnds g' ∧ UnitKept [.bytes, .counters] s t c ∧ BytesKept s t (chargedByte s c)) ∧
  (∀ (x : StlU) (s : State) (c : Ctx), x.sz ≤ 4 →
    Performs s c x.h false (refsOf [storeRefs x.d x.sz, srcRefs x.a 1]) 1 → c.alone = true →
    let las := localAddrs c x.a
    localGate c.team 1 (2 ^ x.sz) las = .go → seamGate s c 1 las = .go →
    let ws := las.map (fun p => (locIndex c.team c.grp p.2, storeBytesOf c x.d x.sz p.1))
    ∃ t g' m, Completes (.stl x) s t c g' ∧ t.team? c.die c.handle = some m ∧
      (∀ b, tget m.loc b 0 = (lastByte ws b).getD (tget c.team.loc b 0)) ∧
      (∀ g, g ∈ m.locTags ↔ g ∈ c.team.locTags ∧ ∀ w ∈ ws, overlaps (16 * g) 16 w.1 w.2.length = false) ∧
      (∀ b, b ∈ m.locPoison ↔ b ∈ c.team.locPoison ∧ lastByte ws b = none) ∧
      RegsKept c g' ∧ UnitKept [.bytes, .counters, .stores] s t c ∧ BytesKept s t (chargedByte s c) ∧
      ∀ d h, (d, h) ≠ (c.die, c.handle) → (t.team? d h).map Team.store = (s.team? d h).map Team.store)

/-- R216, R219, R75: loads. Every active lane whose page is resident gets the little-endian number that the core's caches or the
home hold at its place, other active lanes 0; with RES a mask tells which they are. Memory is as before but for the page
entries' bits (R71) and the energy counter. R216, R219: stores write each resident active lane's low bytes at its place, in
increasing lane order. R218: LDL and STL read and write the team's local store; a store clears the tag of every granule it
touches (R63). -/
def Obligations.LoadAndStoreResults : Prop :=
  LoadResultsHold ∧ StoreResultsHold ∧ LocalStoreResultsHold

/-- The new value of a location by R220. -/
def atomicRules : List (AtomOp × (Nat → Nat → Nat → Nat → Nat)) :=
  [(.add, fun w m v _ => (m + v) % 2 ^ w), (.min, fun w m v _ => if sOf w v < sOf w m then v else m),
   (.max, fun w m v _ => if sOf w m < sOf w v then v else m), (.nmin, fun _ m v _ => if v < m then v else m),
   (.nmax, fun _ m v _ => if m < v then v else m), (.and, fun _ m v _ => m &&& v), (.or, fun _ m v _ => m ||| v),
   (.xor, fun _ m v _ => m ^^^ v), (.exch, fun _ _ v _ => v), (.cas, fun _ m v k => if m = k then v else m),
   (.fadd, fun _ m v _ => (delivered { f := .f32, md := .ne, sb := false } (fsum .ne [Fmt.f32.dec m, Fmt.f32.dec v])).1),
   (.inc, fun _ m v _ => if v ≤ m then 0 else m + 1), (.dec, fun _ m v _ => if m = 0 ∨ v < m then v else m - 1)]

/-- R105, R220: an atomic at its location takes the number that stands there and leaves the operation's result, changing no
other byte. -/
def AtomicOperationResultsHold : Prop :=
  ∀ e ∈ atomicRules, ∀ (s : State) (n place v cmp : Nat), n = 4 ∨ n = 8 → v < 2 ^ (8 * n) → (e.1 = .fadd → n = 4) →
    place + n ≤ 2 ^ 40 ∨ 2 ^ 40 ≤ place →
    let m := homeNat s place n
    let r := atomAt s e.1 n place v cmp
    r.1 = m ∧ homeNat r.2 place n = e.2 (8 * n) m v cmp ∧ ∀ b, b < place ∨ place + n ≤ b → homeByte r.2 b = homeByte s b

/-- The atomics of an instruction's lanes at their homes, in increasing lane order: old values by lane, and the state. -/
def atomics (s : State) (ctx : Nat) (a : Access) (o : AtomOp) (operand : Nat → Nat × Nat) : List (Nat × Nat) × State :=
  (placed s ctx a).foldl (fun r q =>
    (r.1 ++ [(q.1, (atomAt r.2 o a.n q.2.2 (operand q.1).1 (operand q.1).2).1)],
     (atomAt r.2 o a.n q.2.2 (operand q.1).1 (operand q.1).2).2)) ([], s)

/-- R220, R221: ATOM returns each lane's old value, RED none; lanes act in increasing order, after the release that the
ordering asks for. -/
def AtomicInstructionResultsHold : Prop :=
  ∀ (s : State) (c : Ctx), c.alone = true →
    let p := payIssue s c 3
    let after := fun (a : Access) (r : State) (t : State) =>
      UnitKept [.bytes, .lines, .counters, .grids] s t c ∧ BytesKept r t (entryByte r c.team.ctx a)
    (∀ x : AtomU, let k := regsOfSize x.sz
      Performs s c x.h false (refsOf [vRead x.d (atomRegs x.op x.sz), offRefs x.a x.o40, cRead x.c]) 3 →
      let a := accessOf c x.c rA x.sz 2 x.o40 x.a
      let o := orderOf x.h
      atomGate s c a o.1 o.2 = .go →
      let q := if hasRelease o.1 then releaseAll p c o.2 else p
      let r := atomics q c.team.ctx a x.op (fun l =>
        if x.op = .cas then (regWord c (x.d + k) k l, regWord c x.d k l) else (regWord c x.d k l, 0))
      ∃ t g', Completes (.atom x) s t c g' ∧
        (∀ l ∈ c.lanes, ∀ j < k, readReg g' (c.g.wb + x.d + j) l =
          ((r.1.find? (fun m => m.1 == l)).map (·.2)).getD 0 / 2 ^ (32 * j) % 2 ^ 32) ∧
        VregsKept c g' (.v x.d false) k ∧ ScalarsKept c g' ∧ MasksKept c g' ∧ CapsKept c g' ∧ FlagsKept c g' ∧ RunEnds g' ∧
        after a r.2 t) ∧
    (∀ x : RedU, Performs s c x.h false (refsOf [storeRefs x.d x.sz, offRefs x.a x.o40, cRead x.c]) 3 →
      let a := accessOf c x.c rA x.sz 2 x.o40 x.a
      let o := orderOf x.h
      atomGate s c a o.1 o.2 = .go →
      let q := if hasRelease o.1 then releaseAll p c o.2 else p
      let r := atomics q c.team.ctx a x.op (fun l => (redOperand c x l, 0))
      ∃ t g', Completes (.red x) s t c g' ∧ RegsKept c g' ∧ after a r.2 t)

/-- R105, R220: an atomic at its location takes the number that stands there and leaves the operation's result, changing no
other byte. R220, R221: ATOM returns each lane's old value, RED none; lanes act in increasing order, after the release that the
ordering asks for. -/
def Obligations.AtomicResults : Prop :=
  AtomicOperationResultsHold ∧ AtomicInstructionResultsHold

/-- R82, R222 to R224: FENCE releases and acquires the core's lines at its scope. PREF completes with no register changed whatever its
lanes name, and fills the L1 or L2 line of every lane that it does not drop, where the caches have room. PAGEIN leaves with the
pages of its active lanes, its scalar pending; for a far object it asks for no page, which is the model's choice (log 53). -/
def Obligations.MemoryControlResults : Prop :=
  ∀ (s : State) (c : Ctx), c.alone = true →
    (∀ x : NoneU, Performs s c x.h false {} 0 →
      let o := orderOf x.h
      (hasRelease o.1 = true → releaseGate s c o.2 = .go) →
      ∃ t g', Completes (.fence x) s t c g' ∧ RegsKept c g' ∧ UnitKept [.bytes, .lines] s t c ∧
        let r := if hasRelease o.1 then releaseAll s c o.2 else s
        t.lines = (if hasAcquire o.1 then acquireAll r c o.2 else r).lines ∧ ∀ b, homeByte t b = homeByte r b) ∧
    (∀ x : PrefU, Performs s c x.h false (refsOf [offRefs x.a x.o40, cRead x.c]) 1 →
      let a := accessOf c x.c rR 0 0 x.o40 x.a
      let p := payIssue s c 1
      ∃ t g', Completes (.pref x) s t c g' ∧ RegsKept c g' ∧ UnitKept [.bytes, .lines, .counters] s t c ∧
        HomesKept s t (fun b => chargedByte s c b ∨ entryByte p c.team.ctx a b) ∧
        (1 < x.lvl → t.lines = s.lines) ∧
        (cacheRoom s c.core = true → ∀ q ∈ prefLanes p c a,
          (x.lvl = 0 → ((findLine t false c.core (q.2.2 / 128)).map (·.known)) = some allOnes128) ∧
          (x.lvl = 1 → ((findLine t true (l2Of c.core) (q.2.2 / 128)).map (·.known)) = some allOnes128))) ∧
    (∀ x : PageinU, Performs s c x.h false (refsOf [sName x.r, offRefs x.a x.o40, cRead x.c]) 0 →
      let a := accessOf c x.c rR 0 5 x.o40 x.a
      let o := readObj s c.team.ctx a.c.oid.toNat
      capGate s c.team.ctx a = .go → c.act ≠ 0 →
      ∃ t g', Completes (.pagein x) s t c g' ∧ RegsKept c g' ∧ PendingToo c g' x.r ∧ UnitKept [.pageins] s t c ∧
        t.pageins = s.pageins ++ [
          { id := s.nextId, ctx := c.team.ctx, oid := a.c.oid.toNat, die := c.die, handle := c.handle, grp := c.grp, reg := x.r
            pages := if o.far then [] else dedup (a.offs.map (fun p => a.objOff p.2 / 65536)) }])

/-- R226, R63: CLDC reads 16 bytes and their tag into a capability register, the tag kept only through a capability with C;
CSTC stores a register's 16 bytes, in local store with its tag. -/
def Obligations.CapabilityMemoryResults : Prop :=
  ∀ (s : State) (c : Ctx) (x : CmemU), c.alone = true → c.act ≠ 0 →
    (Performs s c x.h false (refsOf ([ssrcRefs x.a] ++ if x.loc then [] else [cRead x.cf])) 0 →
      (x.loc = true → localGate c.team 6 16 (capLocals c x) = .go → seamGate s c 6 (capLocals c x) = .go →
        (∀ p ∈ capLocals c x, ∀ k < 16, locIndex c.team c.grp p.2 + k ∉ c.team.locPoison) →
        let i := locIndex c.team c.grp (capLocal c x)
        CapDone (.cldc x) s c x.ct (capOf (leNat (readLocal c.team i 16)) (c.team.locTags.contains (i / 16)))) ∧
      (x.loc = false → loadGate s c (capAccess c x rR) true = .go →
        let a := capAccess c x rR
        let one := { a with offs := a.offs.take 1 }
        let tag := ((placed s c.team.ctx one).head?.map (fun q =>
          tagCached s c.core q.2.2)).getD false
        ∃ t g', Completes (.cldc x) s t c g' ∧
          (∀ j, tget g'.caps j {} = if j = x.ct then
            capOf ((loadedLane s c one (c.lanes.headD 0)).getD 0) (tag && decide (a.c.rights.toNat &&& rC ≠ 0)) else c.cap j) ∧
          g'.vregs = c.g.vregs ∧ ScalarsKept c g' ∧ MasksKept c g' ∧ g'.wb = c.g.wb ∧ FlagsKept c g' ∧ RunEnds g' ∧
          UnitKept [.bytes, .lines] s t c ∧ HomesKept s t (entryByte s c.team.ctx a))) ∧
    (Performs s c x.h false (refsOf ([ssrcRefs x.a, cRead x.ct] ++ if x.loc then [] else [cRead x.cf])) 0 →
      (x.loc = true → localGate c.team 6 16 (capLocals c x) = .go → seamGate s c 6 (capLocals c x) = .go →
        let i := locIndex c.team c.grp (capLocal c x)
        let ws := [(i, leBytes 16 (capBits (c.cap x.ct)))]
        ∃ t g' m, Completes (.cstc x) s t c g' ∧ t.team? c.die c.handle = some m ∧
          (∀ b, tget m.loc b 0 = (lastByte ws b).getD (tget c.team.loc b 0)) ∧
          (i % 16 = 0 → (i / 16 ∈ m.locTags ↔ (c.cap x.ct).tag = true)) ∧
          RegsKept c g' ∧ UnitKept [.stores] s t c) ∧
      (x.loc = false → let a := capAccess c x rW
        ownGate s c.team.ctx c.parties a = .go → grantGate c x a (capGate s c.team.ctx a) = .go → storeGate s c a true = .go →
        let ws := (placed s c.team.ctx { a with offs := a.offs.take 1 }).map (fun q => (q.2.2, leBytes 16 (capBits (c.cap x.ct))))
        ∃ t g', Completes (.cstc x) s t c g' ∧ RegsKept c g' ∧ UnitKept [.bytes, .lines] s t c ∧
          HomesKept s t (entryByte s c.team.ctx a) ∧
          (cacheRoom s c.core = true → ∀ k b, ¬entryByte s c.team.ctx a b →
            seesByte t k b = (if k = c.core then lastByte ws b else none).getD (seesByte s k b))))

/-- R67: one access against a capability and its object's entry: the first of the five checks, in their order, that fails. -/
def Obligations.CapabilityChecksInOrder : Prop :=
  ∀ (o : ObjEntry) (a : Access) (off : Nat), o.imm = false → a.either = false → a.n ≠ 0 →
    let ok1 := a.c.tag = true
    let ok2 := a.c.rights.toNat &&& a.need = a.need
    let ok3 := off + a.n ≤ a.c.len.toNat ∧ (o.valid = true → a.c.base.toNat + off + a.n ≤ o.size)
    let ok4 := (a.c.base.toNat + off) % a.n = 0
    let ok5 := o.valid = true ∧ a.c.gen.toNat = o.gen
    (¬ok1 → capCheck o a off = some 1) ∧ (ok1 → ¬ok2 → capCheck o a off = some 2) ∧
    (ok1 → ok2 → ¬ok3 → capCheck o a off = some 3) ∧ (ok1 → ok2 → ok3 → ¬ok4 → capCheck o a off = some 4) ∧
    (ok1 → ok2 → ok3 → ok4 → ¬ok5 → capCheck o a off = some 5) ∧
    (ok1 → ok2 → ok3 → ok4 → ok5 → capCheck o a off = none)

/-- R80: a core's loads find its own L1 first, then its L2, and the home otherwise; a store of the core, into a line that its L1
holds or has room for, is found by its next load and touches no other byte. -/
def CachesAnswerNearestFirstHold : Prop :=
  ∀ (s : State) (core a : Nat),
    (∀ l, findLine s false core (a / 128) = some l → mbit l.known (a % 128) = true → seesByte s core a = tget l.data (a % 128) 0) ∧
    (findLine s false core (a / 128) = none → findLine s true (l2Of core) (a / 128) = none → seesByte s core a = homeByte s a) ∧
    (∀ l, findLine s false core (a / 128) = none → findLine s true (l2Of core) (a / 128) = some l → mbit l.dirty (a % 128) = true →
      seesByte s core a = tget l.data (a % 128) 0) ∧
    (∀ (p : Nat) (bs : List Byte) (tag : Bool), p % 128 + bs.length ≤ 128 →
      (findLine s false core (p / 128)).isSome = true ∨ cacheRoom s core = true → ∀ k,
      seesByte (storeCached s core p bs tag) k a =
        (if k = core ∧ p ≤ a then bs[a - p]? else none).getD (seesByte s k a))

/-- R82: after an acquire of L1 and L2, a byte that no line of the core's path has dirty reads as its home holds it; the homes
are as before. -/
def AcquireReadsTheHomeHold : Prop :=
  ∀ (s : State) (core a : Nat),
    let t := acquireLines s [core] 2 (fun _ => true)
    (∀ b, homeByte t b = homeByte s b) ∧
    ((∀ l ∈ s.lines, l.line = a / 128 → mbit l.dirty (a % 128) = false) → seesByte t core a = homeByte s a)

/-- R82: a release of L1 and L2 puts every dirty byte of the core's L1 at its home, and of its L2 where the L1 has none, and
changes no other byte. -/
def ReleaseWritesDirtyBytesHomeHold : Prop :=
  ∀ (s : State) (core : Nat), s.lines.Pairwise (fun l m => ¬(l.l2 = m.l2 ∧ l.unit = m.unit ∧ l.line = m.line)) →
    let t := releaseLines s [core] 2 (fun _ => true)
    ∀ n i, i < 128 →
      homeByte t (128 * n + i) =
        match (findLine s false core n).filter (fun l => mbit l.dirty i), (findLine s true (l2Of core) n).filter (fun l => mbit l.dirty i) with
        | some l, _ => tget l.data i 0
        | none, some l => tget l.data i 0
        | none, none => homeByte s (128 * n + i)

/-- R80: a core's loads find its own L1 first, then its L2, and the home otherwise; a store of the core, into a line that its L1
holds or has room for, is found by its next load and touches no other byte. R82: after an acquire of L1 and L2, a byte that no
line of the core's path has dirty reads as its home holds it; the homes are as before. R82: a release of L1 and L2 puts every
dirty byte of the core's L1 at its home, and of its L2 where the L1 has none, and changes no other byte. -/
def Obligations.CachesAndScopes : Prop :=
  CachesAnswerNearestFirstHold ∧ AcquireReadsTheHomeHold ∧ ReleaseWritesDirtyBytesHomeHold

/-! Ownership (04, R86 to R103; 08, R227 to R229). -/

/-- The ten ownership mnemonics. -/
def ownMnemonics : List (OwnKind × (DopU → Instr)) :=
  [(.claim, .dclaim), (.park, .dpark), (.lend, .dlend), (.dreturn, .dreturn), (.split, .dsplit), (.join, .djoin),
   (.share, .dshare), (.unshare, .dunshare), (.atom, .datom), (.query, .dquery)]

/-- R92, R227 to R229: an ownership instruction that passes its checks leaves for the table home, its scalar pending; the
acting party is the group, or with TEAM the team. DQUERY.self writes the party id at once. -/
def Obligations.OwnershipInstructionsLeave : Prop :=
  ∀ (s : State) (c : Ctx), c.alone = true →
    (∀ e ∈ ownMnemonics, ∀ x : DopU,
      Performs s c x.h false (refsOf [cRead x.c, ssrcRefs x.a, if e.1 = .lend then sRead x.r else sName x.r]) 0 → c.act ≠ 0 →
      ownCheck s c (ownAccess c e.1 x) (ownOff c x.a) = .go →
      ∃ t g', Completes (e.2 x) s t c g' ∧ RegsKept c g' ∧ PendingToo c g' x.r ∧ UnitKept [.ownOps] s t c ∧
        t.ownOps = s.ownOps ++ [
          { id := s.nextId, kind := e.1, ctx := c.team.ctx, die := c.die, handle := c.handle, grp := c.grp, reg := x.r
            party := if x.team then 0x20000000 + c.die * 2 ^ 24 + c.handle * 2 ^ 11
              else 0x10000000 + c.die * 2 ^ 24 + c.handle * 2 ^ 11 + c.grp
            oid := (c.cap x.c).oid.toNat, base := (c.cap x.c).base.toNat + c.offS true x.a
            len := if e.1 = .split ∨ e.1 = .join then 0 else (c.cap x.c).len.toNat - c.offS true x.a
            target := readS c.g x.r % 2 ^ 32, at_ := (s.die c.die).cycle + 1 }]) ∧
    (∀ x : DselfU, Performs s c x.h false (sName x.d) 0 →
      ScalarDone (.dquerySelf x) s c x.d ((if x.team then 0x20000000 + c.die * 2 ^ 24 + c.handle * 2 ^ 11
        else 0x10000000 + c.die * 2 ^ 24 + c.handle * 2 ^ 11 + c.grp) % 2 ^ 64) 0)

/-- The state names an ownership operation that its table home may perform now, in a count after its issue (R90, R471). -/
def HomeTurn (s : State) (o : OwnOp) : Prop :=
  findOwn s s.arg.id = some o ∧ o.result = none ∧ o.at_ ≤ (s.die o.die).cycle ∧ ownReady s o = true ∧ ownLost s o = false

/-- The operation's status is r and what it installs is i. -/
def Answered (s t : State) (o : OwnOp) (r : Nat) (i : Option (Nat × Nat × Nat × Nat)) : Prop :=
  ∃ p, findOwn t o.id = some p ∧ p.result = some (BitVec.ofNat 64 r) ∧ p.install = i ∧ { p with result := none, install := none, scope := 0 } = { o with scope := 0, install := none } ∧
    ∀ q ∈ s.ownOps, q.id ≠ o.id → q ∈ t.ownOps

/-- R89, R90, R94, R228: what the table home does for DCLAIM, DSHARE, DUNSHARE and DQUERY, and the refusals of the others. DQUERY of
an immutable object gives 0. -/
def TableHomeAnswersHold : Prop :=
  ∀ (s : State) (o : OwnOp), HomeTurn s o → isFarObj s o.ctx o.oid = false →
    let rs := regionsIn s o.ctx o.oid o.base o.len
    let kept := fun t : State => Kept [.ownOps] s t
    (o.kind = .claim →
      (rs = [] → (∀ d ∈ s.deckles, ¬(d.ctx = o.ctx ∧ d.oid = o.oid ∧ d.base = o.base)) → ∃ t, exec .deckleOperation s = .next t ∧
        Answered s t o 0 (some (o.party, 0, o.base, o.len)) ∧ Kept [.ownOps, .deckles] s t ∧
        t.deckles = s.deckles ++ [{ ctx := o.ctx, oid := o.oid, base := o.base, len := o.len, state := 1, holder := o.party }]) ∧
      ((∃ d ∈ rs, d.state = 5) → ∃ t, exec .deckleOperation s = .next t ∧ Answered s t o 7 none ∧ kept t) ∧
      (rs ≠ [] → (∀ d ∈ rs, d.state ≠ 5) →
        (∀ d ∈ rs, ¬(d.state = 1 ∧ d.holder = o.party ∧ d.base = o.base ∧ d.len = o.len)) →
        ∃ t, exec .deckleOperation s = .next t ∧ Answered s t o 1 none ∧ kept t)) ∧
    (o.kind = .share → rs = [] → (∀ d ∈ s.deckles, ¬(d.ctx = o.ctx ∧ d.oid = o.oid ∧ d.base = o.base)) →
      ∃ t, exec .deckleOperation s = .next t ∧ Answered s t o 0 (some (o.party, 1, o.base, o.len)) ∧ Kept [.ownOps, .deckles] s t ∧
        t.deckles = s.deckles ++ [{ ctx := o.ctx, oid := o.oid, base := o.base, len := o.len, state := 2, shares := 1 }]) ∧
    (o.kind = .unshare → (∀ d, regionExact s o.ctx o.oid o.base o.len = some d → sharesOf s o.ctx o.party o.oid d.base = none) →
      ∃ t, exec .deckleOperation s = .next t ∧ Answered s t o 8 none ∧ kept t) ∧
    (o.kind = .query → ∃ t, exec .deckleOperation s = .next t ∧ kept t ∧
      Answered s t o (if (readObj s o.ctx o.oid).imm then 0 else match (regionsIn s o.ctx o.oid o.base 1).head? with
        | none => 0
        | some d => d.holder % 2 ^ 32 + d.shares % 2 ^ 16 * 2 ^ 32 + d.state % 2 ^ 4 * 2 ^ 48 + d.lend.length % 2 ^ 4 * 2 ^ 52) none) ∧
    (o.kind = .park ∨ o.kind = .dreturn ∨ o.kind = .atom ∨ o.kind = .split →
      regionExact s o.ctx o.oid o.base o.len = none → regionAt s o.ctx o.oid o.base = none →
      ∃ t, exec .deckleOperation s = .next t ∧ Answered s t o 2 none ∧ Kept (if o.kind = .atom then [.ownOps, .grids] else [.ownOps]) s t) ∧
    (o.kind = .lend → (∀ d ∈ rs, d.state ≠ 5) → regionExact s o.ctx o.oid o.base o.len = none →
      ∃ t, exec .deckleOperation s = .next t ∧ Answered s t o 2 none ∧ kept t)

/-- R94, R95, R99: lending a held region to a live party keeps the lender below it on the stack, and parking one with no
lender on it ends the region; both write back what the former holder's caches hold dirty. -/
def LendAndParkTransferHold : Prop :=
  ∀ (s : State) (o : OwnOp) (d : Deckle), HomeTurn s o → regionExact s o.ctx o.oid o.base o.len = some d → isFarObj s o.ctx o.oid = false →
    d.state = 1 → d.holder = o.party → stuckDirty s (partyCores s o.party) (inRegion s o.ctx o.oid o.base o.len) = none →
    (o.kind = .lend → o.target ≠ o.party → partyLive s o.ctx o.target = true → partyKind o.target ≠ 8 → d.lend.length < 4 →
      (∀ e ∈ regionsIn s o.ctx o.oid o.base o.len, e.state ≠ 5) →
      ∃ t, exec .deckleOperation s = .next t ∧ Answered s t o 0 (some (o.target, 0, o.base, o.len)) ∧
        { d with holder := o.target, lend := d.lend ++ [o.party] } ∈ t.deckles ∧
        (∀ e ∈ s.deckles, ¬(e.ctx = d.ctx ∧ e.oid = d.oid ∧ e.base = d.base) → e ∈ t.deckles) ∧
        (∀ h ∈ t.holds, isHold o.ctx o.party o.oid o.base 0 h = false) ∧ WrittenBack s t ∧
        Kept [.ownOps, .deckles, .holds, .bytes, .lines] s t) ∧
    (o.kind = .park → d.lend = [] →
      ∃ t, exec .deckleOperation s = .next t ∧ Answered s t o 0 none ∧
        (∀ e ∈ t.deckles, ¬(e.ctx = d.ctx ∧ e.oid = d.oid ∧ e.base = d.base)) ∧
        (∀ e ∈ s.deckles, ¬(e.ctx = d.ctx ∧ e.oid = d.oid ∧ e.base = d.base) → e ∈ t.deckles) ∧
        (∀ h ∈ t.holds, isHold o.ctx o.party o.oid o.base 0 h = false) ∧ WrittenBack s t ∧
        Kept [.ownOps, .deckles, .holds, .bytes, .lines] s t)

/-- R89, R90, R94, R228: what the table home does for DCLAIM, DSHARE, DUNSHARE and DQUERY, and the refusals of the others.
DQUERY of an immutable object gives 0. R94, R95, R99: lending a held region to a live party keeps the lender below it on the
stack, and parking one with no lender on it ends the region; both write back what the former holder's caches hold dirty. -/
def Obligations.OwnershipAtTheTableHome : Prop :=
  TableHomeAnswersHold ∧ LendAndParkTransferHold

/-! Engines (08, R230 to R243). -/

/-- What an engine instruction leaves: one more operation, its receipt pending; regions lent to it are IN-FLIGHT. -/
def EngineLeaves (i : Instr) (s : State) (c : Ctx) (reg : Nat) (q : State → EngOp → Prop) : Prop :=
  ∃ t g' e, Completes i s t c g' ∧ RegsKept c g' ∧ PendingToo c g' reg ∧ t.engines = s.engines ++ [e] ∧ q t e ∧ e.ctx = c.team.ctx ∧
    e.die = c.die ∧ e.handle = c.handle ∧ e.grp = c.grp ∧ e.core = c.core ∧ e.reg = reg ∧
    (∀ l ∈ e.lends, ∃ d ∈ t.deckles, d.ctx = e.ctx ∧ d.oid = l.1 ∧ d.base = l.2 ∧ d.state = 4) ∧ WrittenBack s t ∧
    UnitKept [.engines, .deckles, .holds, .bytes, .lines, .dies] s t c

/-- The regions of an object that some ranges meet. -/
def destRegions (s : State) (ctx oid : Nat) (ranges : List (Nat × Nat)) : List Deckle :=
  s.deckles.filter (fun d => decide (d.ctx = ctx) && decide (d.oid = oid) &&
    ranges.any (fun r => decide (0 < r.2) && overlaps d.base d.len r.1 r.2))

/-- R97: the regions that an engine writes are lent to it, HELD by an acting party and IN-FLIGHT after; run then holds of the
operation. Where one of them cannot be lent, or some byte lies in no region, nothing is lent, STATUS is 1 and DSTAT is the status
of a lend that fails. -/
def Lends (s t : State) (c : Ctx) (e : EngOp) (oid : Nat) (ranges : List (Nat × Nat)) (run : Prop) : Prop :=
  let rs := destRegions s c.team.ctx oid ranges
  let mine := fun d : Deckle => d.state = 1 ∧ d.holder ∈ c.parties
  let hole := ∃ r ∈ ranges, ∃ u, r.1 ≤ u ∧ u < r.1 + r.2 ∧ ∀ d ∈ rs, ¬(d.base ≤ u ∧ u < d.base + d.len)
  ((∀ d ∈ rs, mine d ∧ d.lend.length < 4) → ¬hole → run ∧ e.dstat = 0 ∧ ∀ d ∈ rs, (d.oid, d.base) ∈ e.lends ∧
    ∃ p, { d with state := 4, holder := p, lend := d.lend ++ [d.holder] } ∈ t.deckles) ∧
  ((∃ d ∈ rs, ¬(mine d ∧ d.lend.length < 4)) ∨ hole → e.status = some 1 ∧ t.deckles = s.deckles ∧
    (e.dstat = 7 ∧ (∃ d ∈ rs, d.state = 5) ∨ e.dstat = 2 ∧ ((∃ d ∈ rs, ¬mine d) ∨ hole) ∨ e.dstat = 4 ∧ ∃ d ∈ rs, 4 ≤ d.lend.length))

/-- R97, R231, R233, R235, R237, R243, R483: NMRED, NMSCAT, CPY and CPYC read their 64-byte record in local store and leave for
their engine: a bad record with STATUS 3, a feed without a lease 9, an absent page 2, a failed lend 1, a collective of a broken grid
or with a failed member 8, the others running. -/
def Obligations.EngineInstructionsLeave : Prop :=
  ∀ (s : State) (c : Ctx), c.alone = true → c.act ≠ 0 → s.deckles.Pairwise (fun d e => sameEntry d e = false) →
    (∀ (x : NmU) (scat : Bool),
      Performs s c x.h false (refsOf [sRead x.j, vRead x.a (if x.w then 3 else 2), sName x.r]) 0 → nmGate x scat c s = .go →
      let r := recordAt c (nmRecAt c x)
      let d := nmDesc r
      let es := nmEntries c x
      let absent := nmAbsent s c.team.ctx (nmSource c d scat es) || nmAbsent s c.team.ctx (nmDest c d scat es)
      let lost := nmLost s c.team.ctx (nmSource c d scat es) || nmLost s c.team.ctx (nmDest c d scat es)
      let dst := nmDest c d scat es
      EngineLeaves (if scat then .nmscat x else .nmred x) s c x.r (fun t e =>
        e.kind = (if scat then .nmscat else .nmred) ∧ e.record = r ∧
        (d.bad scat = true → e.status = some 3) ∧ (d.bad scat = false → absent = true → e.status = some 2) ∧
        (d.bad scat = false → absent = false → lost = true → e.status = some 7) ∧
        (d.bad scat = false → absent = false → lost = false →
          Lends s t c e dst.cap.oid.toNat (dst.starts.map (fun b => (b, dst.len))) (e.status = none ∧ e.entries = es)))) ∧
    (∀ x : CpyU, Performs s c x.h false (refsOf [ssrcRefs x.a, sName x.r]) 0 →
      let r := cpyRec (cpyRecOf c x)
      recordGate s c (sregLa c x.a) = .go → (r.bad c.team (teamShape s c.team) = false → cpyChecks s c r = .go) →
      EngineLeaves (.cpy x) s c x.r (fun t e => e.kind = .cpy ∧ e.record = cpyRecOf c x ∧
        (r.bad c.team (teamShape s c.team) = true → e.status = some 3) ∧
        (r.bad c.team (teamShape s c.team) = false → cpyNoLease s c r = true → e.status = some 9) ∧
        (r.bad c.team (teamShape s c.team) = false → cpyNoLease s c r = false → cpyAbsent s c r = true → e.status = some 2) ∧
        (r.bad c.team (teamShape s c.team) = false → cpyNoLease s c r = false → cpyAbsent s c r = false →
          Lends s t c e (c.cap r.dcap).oid.toNat
            (if r.dkind = 0 ∨ r.dkind = 4 then [clipRange (c.cap r.dcap) r.dstExtent.1 r.dstExtent.2.1] else [])
            (e.status = none ∧ e.party = copyParty c.g.die (s.die c.g.die).xfer)))) ∧
    (∀ x : CpyU, Performs s c x.h false (refsOf [ssrcRefs x.a, sName x.r]) 0 →
      let r := cpycRec (cpyRecOf c x)
      recordGate s c (sregLa c x.a) = .go → (r.bad s c.g.die = false → cpycChecks s c r = .go) →
      let n := cpycMembers s c.g.die r
      let src := clipRange (c.cap r.scap) (r.extents n).1.1 (r.extents n).1.2.1
      let dst := clipRange (c.cap r.dcap) (r.extents n).2.1 (r.extents n).2.2.1
      let absent := absentPages s (readObj s c.team.ctx (c.cap r.scap).oid.toNat) src.1 src.2 ||
        absentPages s (readObj s c.team.ctx (c.cap r.dcap).oid.toNat) dst.1 dst.2
      EngineLeaves (.cpyc x) s c x.r (fun t e => e.kind = .cpyc ∧ e.record = cpyRecOf c x ∧
        (r.bad s c.g.die = true → e.status = some 3) ∧
        (r.bad s c.g.die = false → absent = true → e.status = some 2) ∧
        (r.bad s c.g.die = false → absent = false → Lends s t c e (c.cap r.dcap).oid.toNat [dst]
          (e.status = if gridBroken s c.team.grid || memberFailed s r.cslot then some 8 else none))))

/-! The bond instructions (08, R244 to R247; 10, R282, R283). -/

/-- R244 to R246, R283: BLEASE grants a free lease, BFREE gives one back, BSTAT reads the bond status word, BFORK sets the bond RUNNING
at its stream's first word, with QPC, events, fault and loops cleared and no rendezvous broken. -/
def BondInstructionResultsHold : Prop :=
  ∀ (s : State) (c : Ctx), c.alone = true → c.act ≠ 0 → c.team.span = 2 ∨ c.team.span = 3 → c.team.bond ≠ 0 →
    c.team.gleaner = none → c.team.die = c.die → c.team.handle = c.handle →
    let held := bondOf s c.die c.handle
    let wrote := fun (i : Instr) (d v : Nat) (xs : List StatePart) (q : State → Prop) =>
      ∃ t g', Completes i s t c g' ∧ (∀ j, readS g' j = if j = d then v else readS c.g j) ∧ g'.vregs = c.g.vregs ∧
        MasksKept c g' ∧ CapsKept c g' ∧ FlagsKept c g' ∧ RunEnds g' ∧ Kept (.teams :: .pairs :: xs) s t ∧ OthersRegs s t c ∧ q t
    (∀ x : RegU, Performs s c x.h false (sName x.d) 0 →
      (held.isSome = true → wrote (.blease x) x.d 3 [] (fun _ => True)) ∧
      (held = none → (leaseSpan c.team).any (fun p => (bondAt s p.1 p.2).isSome) = true → wrote (.blease x) x.d 1 [] (fun _ => True)) ∧
      (held = none → (leaseSpan c.team).any (fun p => (bondAt s p.1 p.2).isSome) = false →
        wrote (.blease x) x.d 0 [.dies] (fun t => tfind (t.die c.die).bonds c.team.place =
          some { die := c.die, handle := c.handle, cluster := c.team.place, shape := c.team.bond, twin := decide (c.team.span = 3) })) ∧
      (held = none → wrote (.bfree x) x.d 2 [] (fun _ => True)) ∧
      (∀ b, held = some b → bondBusy s b = true → wrote (.bfree x) x.d 1 [] (fun _ => True)) ∧
      (∀ b, held = some b → bondBusy s b = false → b.die = c.die →
        wrote (.bfree x) x.d 0 [.dies] (fun t => tfind (t.die c.die).bonds b.key = none)) ∧
      wrote (.bstat x) x.d (match held with
        | some b => b.qlast % 2 ^ 40 * 2 ^ 24 + b.events.toNat * 2 ^ 16 + b.fault % 2 ^ 8 * 2 ^ 8 + b.state % 2 ^ 4
        | none => 0) [] (fun _ => True)) ∧
    (∀ (x : BforkU) (b : Bond), Performs s c x.h false (refsOf [cRead x.c, ssrcRefs x.a, sName x.r]) 0 →
      held = some b → b.state ≠ 1 → b.die = c.die → capGate s c.team.ctx (forkAccess c x) = .go →
      ∃ t g', Completes (.bfork x) s t c g' ∧ RegsKept c g' ∧ PendingToo c g' x.r ∧ UnitKept [.dies] s t c ∧
        tfind (t.die c.die).bonds b.key = some { b with
          state := 1, starting := true, receipt := some (c.grp, x.r), code := c.cap x.c, qlast := 0, events := 0, fault := 0, loops := []
          qpc := ((c.cap x.c).base.toNat + c.rdS false x.a) % 2 ^ 40, broken := false, barWait := none, op := none })

/-- R244, R435: a bond instruction of a team without a bond, or of a Gleaner team, traps BONDUSE. -/
def BondUseTrapsHold : Prop :=
  ∀ (s : State) (c : Ctx) (x : RegU), c.alone = true → c.team.bond = 0 ∨ (c.team.span ≠ 2 ∧ c.team.span ≠ 3) ∨ c.team.gleaner.isSome = true →
    Performs s c x.h false (sName x.d) 0 →
    ∀ e ∈ ([(.blease, 0), (.bfree, 1), (.bstat, 5)] : List ((RegU → Instr) × Nat)),
      exec (e.1 x) s = .next (takeTrap s c.die c.handle c.grp c.slot c.unit
        { code := 0x40, mask := c.act
          detail := e.2 + c.team.span % 4 * 2 ^ 8 + (if c.team.gleaner.isSome then 2 ^ 10 else 0) })

/-- R244 to R246, R283: BLEASE grants a free lease, BFREE gives one back, BSTAT reads the bond status word, BFORK sets the bond
RUNNING at its stream's first word, with QPC, events, fault and loops cleared and no rendezvous broken. R244, R435: a bond
instruction of a team without a bond, or of a Gleaner team, traps BONDUSE. -/
def Obligations.BondInstructionResults : Prop :=
  BondInstructionResultsHold ∧ BondUseTrapsHold

/-! Control (02, R36 to R46; 09, R248 to R251). -/

/-- The target of a J word: the address of the word plus four times its displacement (R145). -/
def jumpTarget (c : Ctx) (disp : BitVec 22) : Nat := (((c.sword : Int) + 4 * disp.toInt) % 2 ^ 40).toNat

/-- A split of the group has these lanes and stands at this address, ready to run. -/
def Ready (g' : Group) (m : Mask) (pc : Nat) (q : Split → Prop) : Prop :=
  ∃ y ∈ g'.splits, y.mask = m ∧ y.pc = pc ∧ y.wait = .none ∧ q y

/-- A free unit that changes the splits of its group and no register. -/
def SplitsDone (i : Instr) (s : State) (c : Ctx) (q : Group → Prop) : Prop :=
  ∃ t g', Completes i s t c g' ∧ RegsKept c g' ∧ UnitKept [] s t c ∧ g'.live = c.g.live ∧ q g'

/-- The return entry of a call: the next unit, linked below to the caller's (R44). -/
def Called (c : Ctx) (g' : Group) (y : Split) : Prop :=
  y.depth = c.x.depth + 1 ∧ ∃ i, y.rsp = some i ∧ tfind g'.rets i = some { rpc := c.next, link := c.x.rsp }

/-- R36, R41, R44, R145, R148, R248: BRA, CALL and JMP: no lane, every lane, or some lanes take the branch. A prefixed BRA that
divides opens a family that joins at the word its IMM15 names. -/
def BranchResultsHold : Prop :=
  ∀ (s : State) (c : Ctx), c.alone = true →
    (∀ x : BraU, Performs s c x.h false (kRead x.k) 0 →
      let k := readK c.g c.x x.k
      let take := c.act &&& (if x.n then ~~~k else k)
      let dest := jumpTarget c x.disp
      (take = 0 → SplitsDone (.bra x) s c (fun g' => Ready g' c.x.mask c.next (fun _ => True))) ∧
      (take ≠ 0 → take = c.x.mask → SplitsDone (.bra x) s c (fun g' => Ready g' take dest (fun y => y.depth = c.x.depth ∧ y.fam = c.x.fam))) ∧
      (take ≠ 0 → take ≠ c.x.mask → x.h.pfx.imm = 0 → SplitsDone (.bra x) s c (fun g' =>
        Ready g' take dest (fun y => y.fam = c.x.fam) ∧ Ready g' (c.x.mask &&& ~~~take) c.next (fun y => y.fam = c.x.fam))) ∧
      (take ≠ 0 → take ≠ c.x.mask → x.h.pfx.imm ≠ 0 → SplitsDone (.bra x) s c (fun g' =>
        let join := (c.sword + 4 * x.h.pfx.imm) % 2 ^ 40
        ∃ f, Ready g' take dest (fun y => y.fam = f ∧ y.jpc = some join) ∧
          Ready g' (c.x.mask &&& ~~~take) c.next (fun y => y.fam = f ∧ y.jpc = some join) ∧
          ({ id := f, pfam := c.x.fam, pjpc := c.x.jpc, fdepth := c.x.depth } : Fam) ∈ g'.fams)) ∧
      (callGate c take 1 = .go →
        (take = 0 → SplitsDone (.call x) s c (fun g' => Ready g' c.x.mask c.next (fun _ => True))) ∧
        (take ≠ 0 → take = c.x.mask → SplitsDone (.call x) s c (fun g' => Ready g' take dest (Called c g'))) ∧
        (take ≠ 0 → take ≠ c.x.mask → SplitsDone (.call x) s c (fun g' =>
          Ready g' take dest (Called c g') ∧ Ready g' (c.x.mask &&& ~~~take) c.next (fun y => y.depth = c.x.depth))))) ∧
    (∀ x : JmpU, Performs s c x.h false {} 0 → c.x.mask ≠ 0 →
      SplitsDone (.jmp x) s c (fun g' => Ready g' c.x.mask (jumpTarget c x.disp) (fun _ => True)))

/-- R249, R250: BRX and CALLX send every active lane to the word plus its own displacement, the others to the next unit. -/
def LaneBranchResultsHold : Prop :=
  ∀ (s : State) (c : Ctx) (x : BrxU), c.alone = true → Performs s c x.h false (srcRefs x.a 1) 0 →
    let dest := fun l => (((c.sword : Int) + sOf 32 (c.rd (.int 32) x.a l)) % 2 ^ 40).toNat
    let goes := fun (g' : Group) (l pc : Nat) (q : Split → Prop) => ∃ y ∈ g'.splits, mbit y.mask l = true ∧ y.pc = pc ∧ q y
    (∀ l ∈ c.lanes, dest l % 4 = 0) →
    SplitsDone (.brx x) s c (fun g' => (∀ l ∈ c.lanes, goes g' l (dest l) (fun _ => True)) ∧
      ∀ l < c.g.width, mbit c.x.mask l = true → l ∉ c.lanes → goes g' l c.next (fun _ => True)) ∧
    (callGate c c.act ((laneParts c x.a true).filter (·.call)).length = .go →
      SplitsDone (.callx x) s c (fun g' => ∀ l ∈ c.lanes, goes g' l (dest l) (fun y => y.depth = c.x.depth + 1)))

/-- R36, R41, R44, R145, R148, R248: BRA, CALL and JMP: no lane, every lane, or some lanes take the branch. A prefixed BRA that
divides opens a family that joins at the word its IMM15 names. R249, R250: BRX and CALLX send every active lane to the word plus
its own displacement, the others to the next unit. -/
def Obligations.BranchResults : Prop :=
  BranchResultsHold ∧ LaneBranchResultsHold

/-- R43, R44: RET goes on after the call; JOIN passes a split that is not at its own join, holds one whose family has others
still to come, and merges the family with its last. -/
def ReturnAndJoinResultsHold : Prop :=
  ∀ (s : State) (c : Ctx) (x : NoneU), c.alone = true →
    (∀ e, mayPerform s c x.h false {} 0 true = true → issuerCtx s x.h = some c → c.x.depth ≠ 0 → c.x.rsp.bind (tfind c.g.rets) = some e →
      SplitsDone (.ret x) s c (fun g' => Ready g' c.x.mask e.rpc (fun y => y.depth + 1 = c.x.depth ∧ y.rsp = e.link))) ∧
    (Performs s c x.h false {} 0 →
      let others := (c.g.putSlot c.slot none).splits
      (c.g.joins c.x c.sword = false → SplitsDone (.join x) s c (fun g' => Ready g' c.x.mask c.next (fun _ => True))) ∧
      (c.g.joins c.x c.sword = true → c.x.fam ≠ 0 → (∃ z ∈ others, z.fam = c.x.fam ∧ z.wait ≠ .join) →
        SplitsDone (.join x) s c (fun g' => StandsNext c g' .join)) ∧
      (∀ l, c.g.joins c.x c.sword = true → c.x.fam ≠ 0 → c.g.fam? c.x.fam = some l → l.pfam = 0 →
        (∀ z ∈ others, c.g.belongs z l.id = true → z.fam = l.id ∧ z.wait = .join ∧ z.jpc = c.x.jpc) →
        SplitsDone (.join x) s c (fun g' => g'.fam? l.id = none ∧ ∃ y ∈ g'.splits, y.pc = (c.sword + 4) % 2 ^ 40 ∧ y.fam = 0 ∧
          y.jpc = l.pjpc ∧ y.wait = .none ∧
          ∀ i, mbit y.mask i = (mbit c.x.mask i || others.any (fun z => decide (z.fam = l.id) && mbit z.mask i)))))

/-- R46, R47: EXIT retires the active lanes; a group with no lane left and nothing owed leaves its team. -/
def ExitResultsHold : Prop :=
  ∀ (s : State) (c : Ctx) (x : NoneU), c.alone = true → Performs s c x.h false {} 0 →
    c.team.state = .resident → c.team.gleaner = none → c.team.noDwait = true → (∀ e ∈ c.team.groups, e.2.exited = false) →
    c.team.die = c.die → c.team.handle = c.handle →
    (c.g.live &&& ~~~c.act ≠ 0 → ∃ t g', Completes (.exit x) s t c g' ∧ g'.live = c.g.live &&& ~~~c.act ∧ g'.regs = c.g.regs ∧
      OthersRegs s t c ∧ Kept [.teams, .pairs, .bytes, .lines, .dies] s t) ∧
    (c.g.live &&& ~~~c.act = 0 → c.g.num = c.grp → c.g.pendScalars = 0 → c.g.pendRegs = [] →
      lentToEngine s c.team.ctx (groupParty c.die c.handle c.grp) = false → (∃ e ∈ c.team.groups, e.1 ≠ c.grp) →
      bondOf s c.die c.handle = none → ∃ t, exec (.exit x) s = .next t ∧ t.group? c.die c.handle c.grp = none)

/-- R251: NOP and YIELD go on with the next unit; SLEEP waits the count of its operand, none for 0. -/
def PauseResultsHold : Prop :=
  ∀ (s : State) (c : Ctx), c.alone = true →
    (∀ x : NoneU, Performs s c x.h false {} 0 →
      SplitsDone (.nop x) s c (fun g' => Ready g' c.x.mask c.next (fun _ => True)) ∧
      SplitsDone (.yield x) s c (fun g' => Ready g' c.x.mask c.next (fun _ => True))) ∧
    (∀ x : SargU, Performs s c x.h false (ssrcRefs x.a) 0 →
      let n := c.rdS false x.a % 2 ^ 32
      SplitsDone (.sleep x) s c (fun g' => StandsNext c g' (if n = 0 then .none else .sleep ((s.die c.g.die).cycle + n))))

/-- R43, R44: RET goes on after the call; JOIN passes a split that is not at its own join, holds one whose family has others
still to come, and merges the family with its last. R46, R47: EXIT retires the active lanes; a group with no lane left and
nothing owed leaves its team. R251: NOP and YIELD go on with the next unit; SLEEP waits the count of its operand, none for 0. -/
def Obligations.SplitAndExitResults : Prop :=
  ReturnAndJoinResultsHold ∧ ExitResultsHold ∧ PauseResultsHold

/-! Synchronisation (09, R252 to R257; 02, R53, R54). -/

/-- A group of the team, another than the issuer, has made n arrivals at a barrier and none of its lanes is there. -/
def Outstanding (c : Ctx) (b n : Nat) : Prop :=
  ∃ e ∈ c.team.groups, e.1 ≠ c.grp ∧ tget e.2.barCount b 0 = n ∧ (∀ p ∈ e.2.barMask, p.1 ≠ b) ∧
    ∀ y ∈ e.2.splits, ∀ w, y.wait ≠ .barHold b w

/-- What a synchronising unit leaves beside its own split: registers as before everywhere, and memory but for lines that the
release wrote back. -/
def SyncDone (i : Instr) (s : State) (c : Ctx) (q : State → Group → Prop) : Prop :=
  ∃ t g', Completes i s t c g' ∧ RegsKept c g' ∧ OthersRegs s t c ∧ WrittenBack s t ∧
    Kept [.teams, .pairs, .bytes, .lines, .dies] s t ∧ q t g'

/-- R253, R254: at BAR a split waits for the phase that its group's arrival belongs to, at BARA it goes on; BARW waits for the
phase of the latest arrival, and goes on at once when it is complete. -/
def TeamBarrierResultsHold : Prop :=
  ∀ (s : State) (c : Ctx) (x : BarU), c.alone = true → c.act ≠ 0 → c.team.gleaner = none → Performs s c x.h false {} 0 →
    let n := tget c.g.barCount x.b 0
    (c.team.noDwait = true → stuckGate s c 1 = .go → c.team.phaseDone x.b n = true → Outstanding c x.b n → c.g.barMask = [] →
      c.g.live ≠ 0 → c.g.live &&& ~~~c.x.mask = 0 → c.team.die = c.die → c.team.handle = c.handle →
      SyncDone (.bar x) s c (fun _ g' => StandsNext c g' (.bar x.b (n + 1)) ∧ tget g'.barCount x.b 0 = n + 1) ∧
      SyncDone (.bara x) s c (fun _ g' => StandsNext c g' .none ∧ tget g'.barCount x.b 0 = n + 1)) ∧
    (∃ t g', Completes (.barw x) s t c g' ∧ RegsKept c g' ∧ UnitKept [.lines] s t c ∧
      StandsNext c g' (if c.team.phaseDone x.b n then .none else .bar x.b n))

/-- R53, R254: at DBAR a split of a cohort's team waits while another group of the grid on the die has not arrived. -/
def DieBarrierResultsHold : Prop :=
  ∀ (s : State) (c : Ctx) (x : NoneU), c.alone = true → c.act ≠ 0 → noCohort c s = none → stuckGate s c 5 = .go →
    Performs s c x.h false {} 0 → c.team.noDwait = true → c.team.die = c.die → c.team.handle = c.handle →
    dbarDone s c.die c.team.grid c.g.dbarCount = true →
    (∃ e ∈ (s.die c.die).teams, e.2.grid = c.team.grid ∧ e.2.gleaner = none ∧ ∃ g ∈ e.2.groups, (e.1, g.1) ≠ (c.handle, c.grp) ∧
      g.2.dbarCount = c.g.dbarCount ∧ g.2.dbarMask = 0 ∧ ∀ y ∈ g.2.splits, y.wait ≠ .dbarHold) →
    SyncDone (.dbar x) s c (fun _ g' => StandsNext c g' (.dbar (c.g.dbarCount + 1)))

/-- R253, R254: at BAR a split waits for the phase that its group's arrival belongs to, at BARA it goes on; BARW waits for the
phase of the latest arrival, and goes on at once when it is complete. R53, R254: at DBAR a split of a cohort's team waits while
another group of the grid on the die has not arrived. -/
def Obligations.BarrierResults : Prop :=
  TeamBarrierResultsHold ∧ DieBarrierResultsHold

/-- R54, R255 to R257: DSIG sends its message to the die of its position; DWAIT waits with its group, and gives 2 at once when
the grid is broken; RTEST tells whether a receipt has been written. -/
def Obligations.MailboxUnitResults : Prop :=
  ∀ (s : State) (c : Ctx), c.alone = true → c.act ≠ 0 →
    (∀ (x : DsigU) (g : Grid) (d : Nat), Performs s c x.h false (refsOf [ssrcRefs x.a, ssrcRefs x.b]) 0 →
      let pos := c.rdS false x.a % 16
      s.grid? c.team.grid = some g → g.dies[pos]? = some d → (s.die d).boot ≠ 3 → releaseGate s c (sigScope s c pos) = .go →
      ∃ t g', Completes (.dsig x) s t c g' ∧ RegsKept c g' ∧ UnitKept [.bytes, .lines, .dies] s t c ∧ WrittenBack s t ∧
        (t.die d).dsigs = (s.die d).dsigs ++ [
          { grid := c.team.grid, pos := pos, word := x.w, op := x.op, value := BitVec.ofNat 64 (c.rdS false x.b)
            from_ := groupParty c.die c.handle c.grp }]) ∧
    (∀ x : DwaitU, Performs s c x.h false (refsOf [ssrcRefs x.a, sRead x.r]) 0 → c.team.gleaner = none → stuckGate s c 1 = .go →
      (gridBroken s c.team.grid = true → ∃ t g', Completes (.dwait x) s t c g' ∧ UnitKept [] s t c ∧
        (∀ j, readS g' j = if j = x.r then 2 else readS c.g j) ∧ g'.vregs = c.g.vregs ∧ MasksKept c g' ∧ CapsKept c g' ∧
        FlagsKept c g' ∧ RunEnds g') ∧
      (gridBroken s c.team.grid = false → c.team.die = c.die → c.team.handle = c.handle →
        (∃ e ∈ c.team.groups, e.1 ≠ c.grp ∧ e.2.dwaitMask = 0) →
        SyncDone (.dwait x) s c (fun _ g' => StandsNext c g' .dwait ∧ g'.dwaitMask = c.g.dwaitMask ||| c.x.mask ∧
          g'.dwaitOp = some { word := x.w, cond := x.cond, value := BitVec.ofNat 64 (c.rdS false x.a), deadline := readS c.g x.r, reg := x.r }))) ∧
    (∀ x : RtestU, Performs s c x.h false { s := [x.d], rs := [x.a] } 0 →
      ScalarDone (.rtest x) s c x.d (if c.g.pendScalars.getLsbD x.a then 0 else 1) 0)

/-! Work and steps (09, R258 to R261). -/

/-- R48, R49, R259: CONT gives the Gleaner of its die one record for each active lane. -/
def ContinuationsReachTheGleanerHold : Prop :=
  ∀ (s : State) (c : Ctx) (x : ContU), c.alone = true → Performs s c x.h false (vRead x.a 16) 2 →
    (∀ l ∈ c.lanes, entryCause (payIssue s c 2) c.team.ctx (readReg c.g (c.g.wb + x.a) l % 2 ^ 16) = none) →
    ((s.die c.g.die).gleans.Pairwise (fun p q => ¬(p.ctx = q.ctx ∧ p.entry = q.entry))) →
    onChip s c.g.die + c.lanes.length ≤ 8192 →
    ∃ t g', Completes (.cont x) s t c g' ∧ RegsKept c g' ∧ UnitKept [.bytes, .counters, .dies] s t c ∧ BytesKept s t (chargedByte s c) ∧
      ∀ l ∈ c.lanes, ∃ q ∈ (t.die c.g.die).recs, q.1 = c.team.ctx ∧ q.2.grid = c.team.grid ∧ q.2.spilled = false ∧
        ∀ i < 16, q.2.bits.toNat / 2 ^ (32 * i) % 2 ^ 32 = readReg c.g (c.g.wb + x.a + i) l

/-- R260, R261, R355: STEP.SEND stores the actions of the lanes that their mailboxes accept, and tells the others in its mask;
STEP.TAKE leaves with its lanes, its registers and its scalar pending. -/
def StepUnitResultsHold : Prop :=
  ∀ (s : State) (c : Ctx), c.alone = true →
    (∀ x : SendU, Performs s c x.h false (refsOf [srcRefs x.a 1, vRead x.b 16, sRead x.s]) 2 → c.g.width ≤ 128 →
      let ok := acceptedLanes s c x
      mboxGate s c x.a = .go → (ok ≠ [] → releaseGate s c 5 = .go) →
      ∃ t g', Completes (.stepSend x) s t c g' ∧ OnlyMask c g' x.k (fun l => decide (l ∉ ok)) ∧ FlagsKept c g' ∧
        UnitKept [.bytes, .lines, .counters, .dies] s t c ∧ WrittenBack (payIssue s c 2) t ∧
        ∀ l ∈ ok, ∀ n, (s.mbox c.g.die (laneMbox c x.a l)).state = .idle n →
          let m := t.mbox c.g.die (laneMbox c x.a l)
          m.state = .pending (n + 1) ∧ m.action = actionBytes c x.b l ∨ m.state = .owe (n + 1)) ∧
    (∀ x : TakeU, Performs s c x.h false (refsOf [srcRefs x.a 1, vName x.b (takeRegs x.hd), sName x.r]) 2 → mboxGate s c x.a = .go →
      ∃ t g', Completes (.stepTake x) s t c g' ∧ RegsKept c g' ∧ PendingToo c g' x.r ∧
        (∀ i < (if x.hd then 36 else 32), c.g.wb + x.b + i ∈ g'.pendRegs) ∧
        UnitKept [.takes, .bytes, .counters, .dies] s t c ∧ BytesKept s t (chargedByte s c) ∧
        t.takes = s.takes ++ [
          { id := s.nextId, die := c.die, handle := c.handle, grp := c.grp, reg := x.r, base := c.g.wb + x.b, header := x.hd
            at_ := (s.die c.g.die).cycle + 1
            lanes := c.lanes.map (fun l => (l, c.rd (.int 32) x.a l % 256)) }])

/-- R48, R49, R259: CONT gives the Gleaner of its die one record for each active lane. R260, R261, R355: STEP.SEND stores the
actions of the lanes that their mailboxes accept, and tells the others in its mask; STEP.TAKE leaves with its lanes, its
registers and its scalar pending. -/
def Obligations.ContinuationAndStepResults : Prop :=
  ContinuationsReachTheGleanerHold ∧ StepUnitResultsHold

/-! System (09, R262 to R265). -/

/-- R263: TRAP gives 1 where its die has no service ring; with one it parks its group off its core and queues it for the ring. -/
def ServiceTrapResultsHold : Prop :=
  ∀ (s : State) (c : Ctx) (x : TrapU), c.alone = true → c.act ≠ 0 →
    Performs s c x.h false (refsOf [srcRefs x.a 1, sName x.r]) 0 →
    localGate c.team 7 64 (trapBlocks c x) = .go → seamGate s c 7 (trapBlocks c x) = .go →
    ((s.die c.g.die).scring.getLsbD 0 = false → ScalarDone (.trap x) s c x.r 1 0) ∧
    ((s.die c.g.die).scring.getLsbD 0 = true → ∃ t g', Completes (.trap x) s t c g' ∧ RegsKept c g' ∧ PendingToo c g' x.r ∧
      g'.residence = .trapParked ∧ g'.service = some (x.n, c.act, x.r, trapBlocks c x) ∧ StandsNext c g' .service ∧
      (t.die c.g.die).svcQueue = (s.die c.g.die).svcQueue ++ [(c.die, c.handle, c.grp)] ∧
      UnitKept [.bytes, .counters, .dies, .holds] s t c)

/-- R264, R404: BRK goes on when no debugger is attached; else its split traps BREAK, to go on after it. -/
def BreakResultsHold : Prop :=
  ∀ (s : State) (c : Ctx) (x : BrkU), c.alone = true → c.act ≠ 0 → Performs s c x.h false {} 0 →
    (attached s c.team.ctx = false → SplitsDone (.brk x) s c (fun g' => Ready g' c.x.mask c.next (fun y => y.trapped = false))) ∧
    (∀ g, attached s c.team.ctx = true → s.grid? c.team.grid = some g → g.aborted = false →
      ∃ t g', Completes (.brk x) s t c g' ∧ RegsKept c g' ∧ UnitKept [.dies] s t c ∧
        Ready g' c.x.mask c.next (fun y => y.trapped = true) ∧
        (t.die c.g.die).traps = (s.die c.g.die).traps ++ [
          { ctx := c.team.ctx, grid := c.team.grid, tdie := c.die, handle := c.handle, grp := c.g.num, born := c.x.born, caught := true
            code := 0x0A, slot := c.slot, mask := c.x.mask, detail := BitVec.ofNat 128 x.code, cycle := (s.die c.g.die).cycle
            pc := c.unit, rpc := c.next, depth := c.x.depth }])

/-- The special registers of R28 and R171. -/
def specialValues (s : State) (c : Ctx) (l : Nat) : List Nat :=
  let gleaned := c.team.gleaner.isSome
  [l, c.g.width, c.g.index, if gleaned then 0xFFFFFFFF else c.team.index,
   if gleaned then c.team.groups.length else c.team.ngroups, c.team.pos,
   ((s.grid? c.team.grid).map (·.dies.length)).getD 0, c.g.core, c.g.core / 8, c.g.slot, c.slot, c.x.depth, c.team.ctx,
   (s.die c.g.die).cycle % 2 ^ 64, (s.pair c.g.die (c.g.core / 2)).purse, readEnergy s c.team.ctx c.core, c.g.fflags.toNat]

/-- R28, R171, R264, R265: SREAD reads a special register, SWRITE writes %fflags, EVT adds to an event counter of the context
and core, ENRG reads their energy counter. -/
def SpecialRegisterResultsHold : Prop :=
  ∀ (s : State) (c : Ctx),
    (∀ (x : SreadU) (r : Nat), x.d = .v r → x.reg < 17 → Performs s c x.h false (vName r 1) 0 → c.alone = true → c.act ≠ 0 →
      VecDone (.sread x) s c (.v r false) 1 (fun l => (specialValues s c l).getD x.reg 0) 0) ∧
    (∀ (x : SreadU) (i : Nat), x.d = .s i → x.reg < 17 → Performs s c x.h false (sName i) 0 → c.alone = true →
      ScalarDone (.sread x) s c i ((specialValues s c (c.lanes.headD 0)).getD x.reg 0 % 2 ^ 64) 0) ∧
    (∀ x : SargU, Performs s c x.h false (ssrcRefs x.a) 0 → c.act ≠ 0 →
      ∃ t g', Completes (.swrite x) s t c g' ∧ RestKept s t c ∧ g'.fflags = BitVec.ofNat 5 (c.rdS false x.a) ∧
        g'.vregs = c.g.vregs ∧ ScalarsKept c g' ∧ MasksKept c g' ∧ CapsKept c g' ∧ RunEnds g') ∧
    (∀ x : EvtU, Performs s c x.h false (ssrcRefs x.a) 0 → c.alone = true → c.act ≠ 0 → x.n < 16 →
      (2048 * c.team.ctx + c.core) ∈ s.coreHeld →
      let v := if x.a = .zero then c.lanes.length else c.rdS false x.a % 2 ^ 32
      ∃ t g', Completes (.evt x) s t c g' ∧ RegsKept c g' ∧ UnitKept [.counters] s t c ∧ t.coreHeld = s.coreHeld ∧
        t.coreEnergy = s.coreEnergy ∧
        ∀ j, tget t.coreEvents j 0 = if j = (2048 * c.team.ctx + c.core) * 16 + x.n
          then tget s.coreEvents j 0 + BitVec.ofNat 64 v else tget s.coreEvents j 0) ∧
    (∀ x : RegU, Performs s c x.h false (sName x.d) 0 → c.alone = true →
      ScalarDone (.enrg x) s c x.d (readEnergy s c.team.ctx c.core % 2 ^ 64) 0)

/-- R263: TRAP gives 1 where its die has no service ring; with one it parks its group off its core and queues it for the ring.
R264, R404: BRK goes on when no debugger is attached; else its split traps BREAK, to go on after it. R28, R171, R264, R265:
SREAD reads a special register, SWRITE writes %fflags, EVT adds to an event counter of the context and core, ENRG reads their
energy counter. -/
def Obligations.SystemUnitResults : Prop :=
  ServiceTrapResultsHold ∧ BreakResultsHold ∧ SpecialRegisterResultsHold

/-! Rendezvous, and the words of the bond stream (08, R247; 10, R285, R290 to R299). -/

/-- The state names a sequencer, b is its bond and its team's, and it takes its next word (R279). -/
def SeqAt (s : State) (b : Bond) : Prop :=
  s.curSeq = some (b.die, b.key) ∧ tfind (s.die b.die).bonds b.key = some b ∧ b.saved = false ∧ seqReady s b = true ∧
    ∀ e ∈ (s.die b.die).bonds, e.2.handle = b.handle → e.2.saved = false → e = (b.key, b)

/-- Nothing of the bond's die changes but the bond. -/
def BondKept (s t : State) (b : Bond) : Prop :=
  Kept [.dies] s t ∧ (∀ d, { (t.die d).own with bonds := [] } = { (s.die d).own with bonds := [] }) ∧
    ∀ d k, (d, k) ≠ (b.die, b.key) → tfind (t.die d).bonds k = tfind (s.die d).bonds k

/-- The word is executed, and the bond becomes one of which q holds. -/
def WordDone (i : Instr) (s : State) (b : Bond) (q : Bond → Prop) : Prop :=
  ∃ t b', exec i s = .next t ∧ tfind (t.die b.die).bonds b.key = some b' ∧ b'.qlast = b.qpc ∧ q b' ∧ BondKept s t b

/-- The next word follows. -/
def Follows (b b' : Bond) : Prop := b'.qpc = (b.qpc + 4) % 2 ^ 40 ∧ b'.state = 1 ∧ b'.barWait = none

/-- The word faults (R284): the bond is FAULTED with this code at this word. -/
def WordFaults (i : Instr) (s : State) (b : Bond) (code : Nat) : Prop :=
  ∃ t, exec i s = .next t ∧ ∀ b', tfind (t.die b.die).bonds b.key = some b' → b'.state = 3 ∧ b'.fault = code ∧ b'.qlast = b.qpc

/-- Some group of the bond's team has lanes left, so that a wait for queue data makes no orphan (R285). -/
def StillGroups (s : State) (b : Bond) : Prop :=
  ∃ t, s.team? b.die b.handle = some t ∧ ∃ e ∈ t.groups, e.2.exited = false

/-- No group of the bond's team is under way to a rendezvous, or under a DWAIT. -/
def QuietTeam (s : State) (b : Bond) : Prop :=
  ∃ t, s.team? b.die b.handle = some t ∧ t.die = b.die ∧ t.handle = b.handle ∧ t.gleaner = none ∧ t.groups ≠ [] ∧ t.noDwait = true ∧
    ∀ e ∈ t.groups, e.2.exited = false ∧ e.2.rdvMask = [] ∧ ∀ y ∈ e.2.splits, y.atRdv = false

/-- The issuer's split is its whole group, and no other group of its team is under way to a rendezvous. -/
def WholeGroup (c : Ctx) : Prop :=
  c.g.live ≠ 0 ∧ c.g.live &&& ~~~c.x.mask = 0 ∧ c.g.rdvMask = [] ∧
    ∀ e ∈ c.team.groups, e.1 ≠ c.grp → e.2.rdvMask = [] ∧ ∀ y ∈ e.2.splits, y.atRdv = false

/-- R247, R285, R296: a group that arrives with BRDV waits for the open phase and with BARV goes on, and is counted there; the
sequencer's MBAR waits for the phase and its MARV goes on; a phase that its count of groups has reached completes with the
sequencer's arrival. -/
def Obligations.RendezvousResults : Prop :=
  (∀ (s : State) (c : Ctx) (x : BrdvU) (b : Bond), c.alone = true → c.act ≠ 0 → c.team.span = 2 ∨ c.team.span = 3 →
    c.team.bond ≠ 0 → c.team.gleaner = none → c.team.die = c.die → c.team.handle = c.handle → c.team.noDwait = true →
    Performs s c x.h false (ssrcRefs x.a) 0 → bondOf s c.die c.handle = some b → b.broken = false → stuckGate s c 1 = .go →
    let n := c.rdS false x.a
    1 ≤ n → n ≤ c.team.ngroups → tget c.g.rdvCount x.n 0 ≤ (b.rdv x.n).done →
    (b.rdv x.n).count = none ∨ (b.rdv x.n).count = some n → (b.rdv x.n).seqs = 0 → WholeGroup c →
    let here := fun (t : State) (g' : Group) => tget g'.rdvCount x.n 0 = (b.rdv x.n).done + 1 ∧ g'.rdvMask = [] ∧
      ∃ b', bondOf t c.die c.handle = some b' ∧ b'.rdv x.n = { b.rdv x.n with groups := (b.rdv x.n).groups + 1, count := some n }
    SyncDone (.brdv x) s c (fun t g' => StandsNext c g' (.rdv x.n ((b.rdv x.n).done + 1)) ∧ here t g') ∧
    SyncDone (.barv x) s c (fun t g' => StandsNext c g' .none ∧ here t g')) ∧
  (∀ (s : State) (b : Bond) (n : Nat), SeqAt s b → QuietTeam s b → (b.rdv n).seqs = 0 →
    ∀ e ∈ ([(.mbar n, true), (.marv n, false)] : List (Instr × Bool)),
      ∃ t b', exec e.1 s = .next t ∧ tfind (t.die b.die).bonds b.key = some b' ∧ b'.qlast = b.qpc ∧ b'.qpc = (b.qpc + 4) % 2 ^ 40 ∧
        b'.barWait = (if e.2 then some (n, (b.rdv n).done + 1, true) else none) ∧
        ((∃ k, (b.rdv n).count = some k ∧ k ≤ (b.rdv n).groups) → b'.rdv n = { done := (b.rdv n).done + 1 }) ∧
        ((∀ k, (b.rdv n).count = some k → (b.rdv n).groups < k) → b'.rdv n = { b.rdv n with seqs := 1 }) ∧
        (∀ m, m ≠ n → b'.rdv m = b.rdv m) ∧ Kept [.teams, .bytes, .lines, .dies] s t)

/-- R275, R290 to R293: MFMT loads a format block, MZERO clears a tile; MLOADB, MMAC, MMACT and MDRAIN begin their operation, with
the price of R271, or fault in the order of their rules. -/
def StreamOperationResultsHold : Prop :=
  ∀ (s : State) (b : Bond), SeqAt s b →
    (∀ laddr : Nat, (laddr % 64 ≠ 0 → WordFaults (.mfmt laddr) s b 1) ∧
      (laddr % 64 = 0 → (localCheck (bondTeam s b) laddr 64).isSome = true → WordFaults (.mfmt laddr) s b 5) ∧
      (laddr % 64 = 0 → localCheck (bondTeam s b) laddr 64 = none →
        let blk := leNat (readLocal (bondTeam s b) (locIndex (bondTeam s b) 0 laddr) 64)
        let fa : BitVec 128 := BitVec.ofNat 128 (bits blk 127 0)
        let fb : BitVec 128 := BitVec.ofNat 128 (bits blk 255 128)
        let fo : BitVec 128 := BitVec.ofNat 128 (bits blk 511 384)
        let good := operandOk fa 1 && operandOk fb 2 && accOk (BitVec.ofNat 128 (bits blk 383 256)) && outputOk fo &&
          decide (fmtClass (descFmt fa) = fmtClass (descFmt fb))
        (good = false → WordFaults (.mfmt laddr) s b 3) ∧
        (good = true → (streamOk (bondTeam s b) fa && streamOk (bondTeam s b) fb) = false → WordFaults (.mfmt laddr) s b 5) ∧
        (good = true → streamOk (bondTeam s b) fa = true → streamOk (bondTeam s b) fb = true →
          WordDone (.mfmt laddr) s b (fun b' => Follows b b' ∧ b'.fmt = some { a := fa, b := fb, o := fo } ∧
            b'.curA = bits blk 95 64 ∧ b'.curB = bits blk 223 192 ∧ b'.tiles = b.tiles ∧ b'.planes = b.planes)))) ∧
    (∀ n : Nat, WordDone (.mzero n) s b (fun b' => Follows b b' ∧ b'.planes = b.planes ∧ b'.fmt = b.fmt ∧
      (∀ j k mm i, k < 8 → mm < 128 → i < 128 → tget b'.tiles (tileKey j k mm i) 0 = if k = n then 0 else tget b.tiles (tileKey j k mm i) 0) ∧
      ∀ j k, k < 8 → tfind b'.bias (8 * j + k) = if k = n then none else tfind b.bias (8 * j + k))) ∧
    (∀ p : Nat, (b.fmt = none → WordFaults (.mloadb p) s b 4) ∧
      (∀ f, b.fmt = some f → passes f.b b.curB (scaleBytesB b f) = true → WordFaults (.mloadb p) s b 6) ∧
      (∀ f, b.fmt = some f → passes f.b b.curB (scaleBytesB b f) = false → StillGroups s b → (∀ j < b.cols, (b.queue true j).failed = none) →
        WordDone (.mloadb p) s b (fun b' => Follows b b' ∧ b'.curB = b.curB + scaleBytesB b f ∧ b'.planes = b.planes ∧
          ∃ o, b'.op = some o ∧ o.instr = .mloadb p ∧ o.addr = b.qpc ∧ o.started = true ∧ o.starved = !o.ready ∧
            ((∀ j < b.cols, colBytes b f ≤ (b.queue true j).bytes.length) → o.ready = true)))) ∧
    (∀ (i : Instr) (tr : Bool) (n p m : Nat), i = (if tr then .mmact n p m else .mmac n p m) →
      (∀ k, mmacFault b tr n p m = some k → WordFaults i s b k) ∧
      (∀ f, b.fmt = some f → mmacFault b tr n p m = none → WordDone i s b (fun b' => Follows b b' ∧ b'.tiles = b.tiles ∧
        ∃ o, b'.op = some o ∧ o.instr = i ∧ o.addr = b.qpc ∧ o.started = false ∧
          (fmtClass (descFmt f.a) = some 0 → o.charge = 4 * m) ∧ (fmtClass (descFmt f.a) = some 1 → o.charge = 5 * ((m + 1) / 2)) ∧
          (fmtClass (descFmt f.a) = some 2 → o.charge = 6 * m)))) ∧
    (∀ n off m : Nat, (b.fmt = none → WordFaults (.mdrain n off m) s b 4) ∧
      (∀ f, b.fmt = some f → (bondTeam s b).localBytes < off + m * elemBytes (descFmt f.o) 128 → WordFaults (.mdrain n off m) s b 5) ∧
      (∀ f, b.fmt = some f → off + m * elemBytes (descFmt f.o) 128 ≤ (bondTeam s b).localBytes →
        WordDone (.mdrain n off m) s b (fun b' => Follows b b' ∧ b'.tiles = b.tiles ∧
          ∃ o, b'.op = some o ∧ o.instr = .mdrain n off m ∧ o.addr = b.qpc ∧ o.ready = true)))

/-- R294, R295, R297 to R299: MLOOP repeats its body, MEND ends the stream and writes the receipt, MSIG sends a mailbox message,
MNOP goes on, MWAITF waits for its queues. -/
def StreamControlResultsHold : Prop :=
  ∀ (s : State) (b : Bond), SeqAt s b →
    (∀ l n d : Nat, (d = 0 → WordFaults (.mloop l n d) s b 1) ∧
      (d ≠ 0 → d < 4096 → let rem := (tfind b.loops l).getD (n - 1)
        (0 < rem → WordDone (.mloop l n d) s b (fun b' => tfind b'.loops l = some (rem - 1) ∧ (b'.qpc + 4 * d) % 2 ^ 40 = b.qpc % 2 ^ 40)) ∧
        (rem = 0 → WordDone (.mloop l n d) s b (fun b' => Follows b b' ∧ tfind b'.loops l = none)) ∧
        WordDone (.mloop l n d) s b (fun b' => b'.state = 1 ∧ ∀ k, k ≠ l → tfind b'.loops k = tfind b.loops k))) ∧
    WordDone .mnop s b (fun b' => Follows b b' ∧ b'.loops = b.loops ∧ b'.rdvs = b.rdvs ∧ b'.op = none) ∧
    (QuietTeam s b → ∃ t b', exec .mend s = .next t ∧ tfind (t.die b.die).bonds b.key = some b' ∧ b'.state = 2 ∧ b'.qlast = b.qpc ∧ b'.receipt = none ∧
        (∀ g r x, b.receipt = some (g, r) → s.group? b.die b.handle g = some x → r < 16 →
          ∃ x', t.group? b.die b.handle g = some x' ∧ x'.pendScalars.getLsbD r = false ∧
            ∀ j, readS x' j = if j = r then (b.qpc % 2 ^ 40 * 2 ^ 24 + b.events.toNat * 2 ^ 16 + b.fault % 2 ^ 8 * 2 ^ 8 + 2) else readS x j) ∧
        Kept [.teams, .bytes, .lines, .dies] s t) ∧
    (∀ (op : SigOp) (w pos v : Nat) (g : Grid), s.grid? (bondTeam s b).grid = some g →
      (g.dies.length ≤ pos → WordFaults (.msig op w pos v) s b 8) ∧
      (∀ d, g.dies[pos]? = some d → (s.die d).boot ≠ 3 → ∃ t b', exec (.msig op w pos v) s = .next t ∧
        tfind (t.die b.die).bonds b.key = some b' ∧ b'.qlast = b.qpc ∧ Follows b b' ∧ Kept [.dies] s t ∧
        (t.die d).dsigs = (s.die d).dsigs ++ [
          { grid := (bondTeam s b).grid, pos := pos, word := w, op := op, value := BitVec.ofNat 64 v
            from_ := bondParty b.die b.cluster }])) ∧
    (∀ (isB : Bool) (mask amt : Nat), let n := if isB then b.cols else b.rows
      let bad := decide (mask = 0) || decide (2 ^ n ≤ mask) || decide (amt = 0) || decide (b.capacity isB < amt)
      (bad = true → WordFaults (.mwaitf isB mask amt) s b 1) ∧
      (bad = false → StillGroups s b → WordDone (.mwaitf isB mask amt) s b (fun b' => Follows b b' ∧
        ((∀ i < n, mask.testBit i = true → (b.queue isB i).failed = none ∧ amt ≤ (b.queue isB i).bytes.length) → b'.op = none) ∧
        ((∃ i < n, mask.testBit i = true ∧ (b.queue isB i).failed = none ∧ (b.queue isB i).bytes.length < amt) →
          ∃ o, b'.op = some o ∧ o.starved = true ∧ o.addr = b.qpc))))

/-- R275, R290 to R293: MFMT loads a format block, MZERO clears a tile; MLOADB, MMAC, MMACT and MDRAIN begin their operation,
with the price of R271, or fault in the order of their rules. R294, R295, R297 to R299: MLOOP repeats its body, MEND ends the
stream and writes the receipt, MSIG sends a mailbox message, MNOP goes on, MWAITF waits for its queues. -/
def Obligations.StreamResults : Prop :=
  StreamOperationResultsHold ∧ StreamControlResultsHold

/-! The Granary's instructions (13, R345, R359, R364 to R368). -/

/-- The state names an episode that runs, every episode stands under its own mailbox, and its budget admits the instruction. -/
def EpisodeAt (s : State) (d m : Nat) (e : Episode) : Prop :=
  s.curHart = some (d, m) ∧ s.ep? d m = some e ∧ e.state = .run ∧ e.spent = false ∧
    risingFrom none (s.die d).episodes = true ∧ ∀ x ∈ (s.die d).episodes, x.2.mbox = x.1

/-- The episode's registers: rd holds v unless it is x0, which reads 0. -/
def WritesX (e e' : Episode) (rd v : Nat) : Prop := ∀ r, e'.rd r = if r = rd ∧ rd ≠ 0 then v % 2 ^ 64 else e.rd r

/-- The instruction retires (R347, R359): rd is written, the PC and the counters go on, the rest stays. -/
def Retires (i : Instr) (s : State) (d m rd v : Nat) (e : Episode) (q : State → Prop) : Prop :=
  ∃ t e', exec i s = .next t ∧ t.ep? d m = some e' ∧ WritesX e e' rd v ∧ e'.pc = (e.pc + 4) % 2 ^ 64 ∧
    e'.instret = (e.instret + 1) % 2 ^ 64 ∧ e'.state = .run ∧ e'.desc = e.desc ∧ Kept [.dies] s t ∧ q t

/-- The 128 bytes of an image, little-endian. -/
def imageOf (s : State) (d addr : Nat) : Nat := leNat ((upto 128).map (fun i => tget (s.die d).sram (addr - 0x10000000 + i) 0))

/-- R364 to R368: GMB.WAIT takes a pending action, blocks for one, or gives 2; GMB.READ reads the step buffer; GMB.POST fills an
empty observation slot, waits for a full one, or is refused; GEP.VER changes the pin and gives the old one; GEP.END ends the
episode and frees its mailbox. -/
def Obligations.GranaryInstructionResults : Prop :=
  ∀ (s : State) (d m : Nat) (e : Episode), EpisodeAt s d m e →
    let b := s.mbox d m
    (∀ rd rs : Nat,
      (∀ n, b.state = .owe n → Retires (.gmbWait rd rs) s d m rd 2 e (fun t => t.mbox d m = b)) ∧
      (∀ n, b.state = .pending n → Retires (.gmbWait rd rs) s d m rd 0 e (fun t =>
        t.mbox d m = { b with state := .owe n, action := [], actionHdr := 0 } ∧
        ∃ e', t.ep? d m = some e' ∧ e'.buffer = leBytes 16 (formHeader s d m b.actionHdr).toNat ++ b.action ∧ e'.stepInstr = 0 ∧ e'.stepCycles = 0 ∧
          e'.ver = bits b.actionHdr.toNat 79 64)) ∧
      (∀ n, b.state = .idle n → ∃ t e', exec (.gmbWait rd rs) s = .next t ∧ t.ep? d m = some e' ∧
        e' = { e with state := .wait rd (if e.rd rs = 0 then none else some ((s.die d).cycle / 2 + e.rd rs)) } ∧
        (s.hart d e.hart).retired = (t.hart d e.hart).retired ∧ t.mbox d m = b ∧ Kept [.dies] s t) ∧
      Retires (.gmbRead rd rs) s d m rd
        (if e.rd rs % 8 = 0 ∧ e.rd rs ≤ 72 then leNat ((e.buffer.drop (e.rd rs)).take 8) else 0) e (fun t =>
          t.mbox d m = b ∧ ∀ k, k ≠ m → t.ep? d k = s.ep? d k) ∧
      (let a := e.rd rs
       (a % 8 ≠ 0 ∨ e.inSram a 128 = false → Retires (.gmbPost rd rs) s d m rd 3 e (fun t => t.mbox d m = b)) ∧
       (a % 8 = 0 → e.inSram a 128 = true → (∀ n, b.state ≠ .owe n) → Retires (.gmbPost rd rs) s d m rd 2 e (fun t => t.mbox d m = b)) ∧
       (∀ n, a % 8 = 0 → e.inSram a 128 = true → b.state = .owe n → b.obs = none → imagePoison s d a = false →
         Retires (.gmbPost rd rs) s d m rd 0 e (fun t =>
           t.mbox d m = { b with state := .idle n, obs := (t.mbox d m).obs } ∧
           ∃ h bs, (t.mbox d m).obs = some (h, bs) ∧ leNat bs = imageOf s d a % 2 ^ 994 ∧ bits h.toNat 31 0 = e.party % 2 ^ 32 ∧
             bits h.toNat 63 32 = n % 2 ^ 32 ∧ bits h.toNat 103 96 = m % 2 ^ 8)) ∧
       (∀ n, a % 8 = 0 → e.inSram a 128 = true → b.state = .owe n → b.obs ≠ none → ∃ t, exec (.gmbPost rd rs) s = .next t ∧
         t.ep? d m = some { e with state := .post rd a } ∧ t.mbox d m = b ∧ Kept [.dies] s t)) ∧
      Retires (.gepVer rd rs) s d m rd (if e.pin then 65536 + e.pver else 0) e (fun t => t.mbox d m = b ∧ ∃ e', t.ep? d m = some e' ∧
        e'.pin = decide (e.rd rs / 2 ^ 16 % 2 = 1) ∧ e'.pver = e.rd rs % 2 ^ 16)) ∧
    (∀ rs : Nat, (e.rd rs % 2 = 0 ∨ e.mayRestart = false) → ∃ t, exec (.gepEnd rs) s = .next t ∧ t.ep? d m = none ∧
      (t.mbox d m).state = .free ∧ (∀ k, k ≠ m → (t.ep? d k).isSome = (s.ep? d k).isSome) ∧
      Kept [.dies, .bytes, .lines, .deckles, .holds, .ownOps, .fabric, .grids, .mreg, .msix] s t)

/-! The steps that no program word takes: what each does when its condition holds. -/

/-- The step is taken: the state becomes one of which q holds, and only the parts listed change. -/
def Does (i : Instr) (s : State) (xs : List StatePart) (q : State → Prop) : Prop := ∃ t, exec i s = .next t ∧ q t ∧ Kept xs s t

/-- The step is taken and writes one record to the log of a context, from a state of which q holds. -/
def LogsCtx (i : Instr) (s : State) (xs : List StatePart) (die : Nat) (e : Event) (q : State → Prop) : Prop :=
  ∃ t u, exec i s = .next t ∧ t = eventCtx u die e ∧ q u ∧ Kept xs s u ∧ Kept (.bytes :: .mreg :: .msix :: xs) s t

/-- Of the dies' own state only what f sets aside, on die d, changes. -/
def DieBut (d : Nat) (f : Die → Die) (s t : State) : Prop :=
  f (t.die d).own = f (s.die d).own ∧ ∀ e, e ≠ d → (t.die e).own = (s.die e).own

/-- What outlives the power, and what starts anew (R23 to R25). -/
def PowerCycle (s t : State) (on : Bool) : Prop :=
  t.powered = on ∧ t.fuseDigest = s.fuseDigest ∧ t.fuseSeed = s.fuseSeed ∧ t.rollback = s.rollback ∧ t.host = s.host ∧ t.far = s.far ∧
    (∀ a, a < 2 ^ 40 → homeByte t a = 0) ∧ t.grids = [] ∧ t.deckles = [] ∧ t.holds = [] ∧ t.engines = [] ∧ t.queues = [] ∧
    t.mreg = [] ∧ t.circuits = [] ∧ t.lines = [] ∧
    ∀ d, (t.die d).boot = 0 ∧ (t.die d).teams = [] ∧ (t.die d).eplanNow = eplanReset ∧ (t.die d).cycle = 0

/-- R18, R23 to R26, R477, R478: power, the bring-up of a die from its image, the attestation report with what it lists, and the
rise of the rollback counter. Bytes that power-up leaves open read 0 (log 1). -/
def Obligations.PowerAndBootEvents : Prop :=
  (∀ s : State, s.powered = false → ∃ t, exec .powerUp s = .next t ∧ PowerCycle s t true) ∧
  (∀ s : State, s.powered = true → ∃ t, exec .powerDown s = .next t ∧ PowerCycle s t false) ∧
  (∀ s : State, let d := s.arg.die; let x := s.die d
    s.powered = true → d < 16 → x.boot ≠ 1 → x.boot ≠ 3 → s.arg.v.getLsbD 0 = true →
    let v := Config.verifyImage s.fuseDigest (bits s.arg.v.toNat 63 24) s.hbm
    let tried := fun t : State => (t.die d).version = v.version ∧ (t.die d).tries = min 15 (x.tries + 1)
    let fails := fun n : Nat => Does .bootcmd s [.bytes, .mreg, .msix, .dies] (fun t =>
      (t.die d).boot = 2 ∧ (t.die d).bootStep = n ∧ tried t)
    (v.keyOk = false → fails 1) ∧ (v.keyOk = true → v.sigOk = false → fails 2) ∧
    (v.keyOk = true → v.sigOk = true → v.version < s.rollback → fails 3) ∧
    (v.keyOk = true → v.sigOk = true → s.rollback ≤ v.version → v.measureOk = false → fails 4) ∧
    (v.keyOk = true → v.sigOk = true → s.rollback ≤ v.version → v.measureOk = true → v.startOk = false → fails 5) ∧
    (v.keyOk = true → v.sigOk = true → s.rollback ≤ v.version → v.measureOk = true → v.startOk = true → Does .bootcmd s [.bytes, .circuits, .mreg, .msix, .dies] (fun t =>
      (t.die d).boot = 1 ∧ (t.die d).bootStep = 0 ∧ (t.die d).measurement = v.measurement ∧ (t.die d).cycle = 0 ∧ tried t))) ∧
  (∀ s : State, (lowestUp s).isSome = true →
    Does .attestReport s [.mreg, .power] (fun t => (∃ r, t.report = some r ∧ r.code = "ETV-BZ1" ∧
      r.key = Config.identityKey s.fuseSeed ∧ r.rollback = s.rollback ∧ r.nonce = attestNonce s ∧
      (∀ d < 16, r.measurements[d]? = some (if s.running d then (s.die d).measurement else 0)) ∧
      ∀ d < 16, r.absent.getLsbD d = !s.running d) ∧
      t.reg 0x390028 = (if (upto 16).all s.running then 0 else 2) ∧ (∀ o, o ≠ 0x390028 → t.reg o = s.reg o) ∧
      t.powered = s.powered ∧ t.fuseDigest = s.fuseDigest ∧ t.fuseSeed = s.fuseSeed ∧ t.rollback = s.rollback)) ∧
  (∀ s : State, (lowestUp s).isSome = true →
    let v : BitVec 16 := BitVec.ofNat 16 (bits s.arg.v.toNat 31 16)
    let ends := fun (st : Nat) (r : BitVec 16) => Does .attestRaise s [.mreg, .power] (fun t => t.rollback = r ∧ t.reg 0x390028 = BitVec.ofNat 64 st ∧
      (∀ o, o ≠ 0x390028 → t.reg o = s.reg o) ∧ t.powered = s.powered ∧ t.fuseDigest = s.fuseDigest ∧ t.fuseSeed = s.fuseSeed ∧
      t.report = s.report)
    ((∃ d < 16, s.running d = true ∧ (s.die d).version < v) → ends 3 s.rollback) ∧
    ((∀ d < 16, s.running d = true → v ≤ (s.die d).version) → s.arg.flag = true → ends 4 s.rollback) ∧
    ((∀ d < 16, s.running d = true → v ≤ (s.die d).version) → s.arg.flag = false → ends 0 (if s.rollback < v then v else s.rollback)))

/-! Queues and grids (R304 to R312, R326, R371 to R373, R410, R448, R455). -/

/-- The 64 bytes of the record at HEAD. -/
def headRecord (s : State) (q : Nat) : BitVec 512 :=
  let x := readQueue s q
  BitVec.ofNat 512 (if x.dev then homeNat s (x.addr x.head) 64 else rdNat s.host (x.addr x.head) 64)

/-- The state in which the record just fetched is checked: HEAD has moved on. -/
def HeadTaken (s : State) (q : Nat) : State :=
  let x := readQueue s q
  writeHead ((s.updDie (q / 1024) (fun y => { y with lastFetch := y.cycle + 1
                                                     robin := tset y.robin (x.level s) ((q % 1024 + 1) % 1024) 0 })).setQueue q
    { s.queue q with refetch := 0, refetchAt := 0 }) q (x.head + 1)

/-- HEAD is one more; every other byte of memory is as before. -/
def HeadMoved (s t : State) (q : Nat) : Prop :=
  BytesKept s t (fun a => ∃ k < 4, a = queueAddr s q + 16 + k) ∧
    ∀ k < 4, homeByte t (queueAddr s q + 16 + k) = BitVec.ofNat 8 (((readQueue s q).head + 1) % 2 ^ 32 / 256 ^ k)

/-- EN is 0; every other byte of memory is as before. -/
def EnCleared (s t : State) (q : Nat) : Prop :=
  ∀ a, homeByte t a = if a = queueAddr s q then homeByte s a &&& 0xFE else homeByte s a

/-- The fetch of the record at HEAD of a queue. -/
def Fetches (i : Instr) (s : State) (q : Nat) : Prop :=
  let d := q / 1024
  let x := readQueue s q
  let r := headRecord s q
  let l := launchOf r
  let turn := fun t : State => (t.die d).lastFetch = (s.die d).cycle + 1 ∧ tget (t.die d).robin (x.level s) 0 = (q % 1024 + 1) % 1024 ∧
    DieBut d (fun y => { y with lastFetch := 0, robin := [] }) s t ∧ (∀ p, p ≠ q → t.queue p = s.queue p)
  let said : Event := { code := 0, raddr := x.addr x.head, queue := q, party := queueParty q, ctx := x.ctx }
  (recordValid r x.head x.size = true → refusal (HeadTaken s q) q x l = none →
    Does i s [.bytes, .grids, .queues, .dies] (fun t => HeadMoved s t q ∧ turn t ∧ (t.queue q).refetch = 0 ∧
      t.nextGrid = s.nextGrid + 1 ∧ (∀ n, n ≠ s.nextGrid → t.grid? n = s.grid? n) ∧
      ∃ g, t.grid? s.nextGrid = some g ∧ g.record = r ∧ g.ctx = x.ctx ∧ g.queue = q ∧ g.raddr = x.addr x.head ∧
        g.index = x.head % x.size ∧ g.fetchDie = d ∧ g.prio = x.prio ∧ g.dies = dieSet s l ∧ g.retired = 0 ∧
        (l.depv = false → g.state = .ready) ∧ (l.depv = true → g.state = .pending ∨ g.state = .ready) ∧
        g.deadline = (if l.deadline = 0 then none else some ((s.die d).cycle + 64 * l.deadline)))) ∧
  (∀ k, recordValid r x.head x.size = true → refusal (HeadTaken s q) q x l = some k →
    LogsCtx i s [.bytes, .queues, .dies] d { said with code := 0x68, cause := k, value := x.head % x.size } (fun u => HeadMoved s u q ∧
      turn u ∧ (u.queue q).err = BitVec.ofNat 64 (x.head * 2 ^ 32 + 0x301))) ∧
  (recordValid r x.head x.size = false → (s.queue q).refetch < 8 →
    Does i s [.queues, .dies] (fun t => turn t ∧
      t.queue q = { s.queue q with refetch := (s.queue q).refetch + 1, refetchAt := (s.die d).cycle + 256 })) ∧
  (recordValid r x.head x.size = false → 8 ≤ (s.queue q).refetch →
    LogsCtx i s [.bytes, .queues, .dies] d { said with code := 0x69, cause := 1, value := x.head } (fun u => EnCleared s u q ∧
      turn u ∧ (u.queue q).err = BitVec.ofNat 64 (x.head * 2 ^ 32 + 0x201) ∧ (u.queue q).refetch = 0))

/-- R304 to R312, R326, R371, R372, R410, R448, R455: doorbells, the fetch of a record and its fetch again, the queue error word,
the start of a grid, its deadline and its wait for spill areas. -/
def Obligations.QueueAndGridEvents : Prop :=
  (∀ s : State, let q := s.arg.q; let x := readQueue s q; let tail := s.arg.v.toNat % 2 ^ 32
    s.arg.num = 4 ∨ s.arg.num = 8 → q < 16384 → x.dev = false →
    ((tail + 2 ^ 32 - x.head) % 2 ^ 32 ≤ x.size → Does .doorbellWrite s [.queues] (fun t =>
      t.queue q = { s.queue q with tail := tail } ∧ ∀ p, p ≠ q → t.queue p = s.queue p)) ∧
    (x.size < (tail + 2 ^ 32 - x.head) % 2 ^ 32 → LogsCtx .doorbellWrite s [.bytes, .queues] (q / 1024)
      { code := 0x69, value := tail * 2 ^ 32 + x.head, raddr := x.addr x.head, queue := q, party := queueParty q, ctx := x.ctx }
      (fun u => EnCleared s u q ∧ u.queue q = { s.queue q with err := BitVec.ofNat 64 (x.head * 2 ^ 32 + 0x101) } ∧
        ∀ p, p ≠ q → u.queue p = s.queue p))) ∧
  (∀ (i : Instr) (s : State) (q : Nat), (i = .queueFetch ∧ s.arg.die = q / 1024) ∨ (i = .recordRefetch ∧ s.arg.q = q ∧ (s.queue q).refetch ≠ 0) →
    mayFetch s (q / 1024) = true → nextQueue s (q / 1024) = some q → Fetches i s q) ∧
  (∀ s : State, s.arg.q < 16384 → s.arg.v.getLsbD 0 = true → Does .qerrWrite s [.queues] (fun t =>
    (∀ b, (t.queue s.arg.q).err.getLsbD b = ((s.queue s.arg.q).err.getLsbD b && decide (b ≠ 0))) ∧
    (t.queue s.arg.q).tail = (s.queue s.arg.q).tail ∧ (t.queue s.arg.q).refetch = (s.queue s.arg.q).refetch ∧
    (t.queue s.arg.q).refetchAt = (s.queue s.arg.q).refetchAt ∧ ∀ p, p ≠ s.arg.q → t.queue p = s.queue p)) ∧
  (∀ (s : State) (g : Grid), s.grid? s.arg.id = some g → g.state = .ready →
    ((∀ d ∈ g.allDies, s.running d = true ∧ wordGrids s d < 512) → Does .gridStart s [.grids] (fun t =>
      (∃ g', t.grid? s.arg.id = some g' ∧ { g' with next := [] } = { g with state := .running, words := [], wordsHeld := true, next := [] } ∧
        ∀ p < g.dies.length, g'.nextAt p = firstTeam g.launch.teams g.dies.length p) ∧
      ∀ n, n ≠ s.arg.id → t.grid? n = s.grid? n)) ∧
    ((∃ d ∈ g.allDies, s.running d = false ∨ 512 ≤ wordGrids s d) → exec .gridStart s = .next s)) ∧
  (∀ (s : State) (g : Grid) (when_ : Nat), s.grid? s.arg.id = some g → g.deadline = some when_ → g.missed = false → g.state ≠ .complete →
    when_ ≤ (s.die g.fetchDie).cycle → LogsCtx .gridDeadlineMiss s [.grids] g.fetchDie
      { code := 0x6B, value := when_, raddr := g.raddr, queue := g.queue, party := queueParty g.queue, ctx := g.ctx }
      (fun u => u.grid? s.arg.id = some { g with missed := true } ∧ ∀ n, n ≠ s.arg.id → u.grid? n = s.grid? n)) ∧
  (∀ (s : State) (g : Grid) (d from_ : Nat), s.grid? s.arg.id = some g → g.spillSince = some (d, from_) → g.spillLogged = false →
    from_ + 2 ^ 20 ≤ (s.die d).cycle → LogsCtx .spillwait s [.grids] d
      { code := 0x70, value := (s.die d).cycle - from_, raddr := g.raddr, queue := g.queue, party := mgmtParty d 0, ctx := g.ctx }
      (fun u => u.grid? s.arg.id = some { g with spillLogged := true } ∧ ∀ n, n ≠ s.arg.id → u.grid? n = s.grid? n))

/-! Placement and pre-emption (R29, R32, R308, R312 to R325, R458). -/

/-- Teams other than one are as before. -/
def OtherTeams (s t : State) (d h : Nat) : Prop := ∀ e k, (e, k) ≠ (d, h) → t.team? e k = s.team? e k

/-- A team stands at a die and handle. -/
def TeamAt (s : State) (d h : Nat) (x : Team) : Prop := s.team? d h = some x ∧ x.die = d ∧ x.handle = h

/-- The team has no bond, no exited group, no discard under way and no DWAIT: nothing of it waits to retire. -/
def Calm (s : State) (d h : Nat) (x : Team) : Prop :=
  TeamAt s d h x ∧ x.gleaner = none ∧ x.groups ≠ [] ∧ x.noDwait = true ∧ x.dwait = none ∧ bondOf s d h = none ∧
    x.state ≠ .discarding ∧ ∀ e ∈ x.groups, e.2.exited = false

/-- Every group has ended its run. -/
def atRest (x : Team) : Bool := x.groupList.all (fun g => g.run.isNone)

/-- The groups of a team hold what they held. -/
def GroupsKept (x u : Team) : Prop := ∀ k, (tfind u.groups k).map Group.regs = (tfind x.groups k).map Group.regs

/-- A team as R308 starts it: its groups with their capabilities, their argument words and their first unit. -/
def Starts (s : State) (g : Grid) (n pos : Nat) (w : Want) (seats : List Seat) (place : Nat) (x : Team) : Prop :=
  let l := g.launch
  let c := readCtx s g.ctx
  x.ctx = g.ctx ∧ x.grid = n ∧ x.index = g.nextAt pos ∧ x.die = w.die ∧ x.handle = w.handle ∧ x.pos = pos ∧ x.span = l.span ∧ x.place = place ∧
    x.ngroups = l.ngroups ∧ x.width = widthOf l.width ∧ x.vregs = vregsOf l.vregs8 ∧ x.localBytes = 256 * l.loc ∧ x.bond = l.bond ∧
    x.code = entryCap s c l.entry ∧ x.state = .resident ∧ x.since = (s.die w.die).cycle ∧ x.gleaner = none ∧
    Team.store x = ([], [], []) ∧ (∀ k, (tfind x.groups k).isSome = decide (k < l.ngroups)) ∧
    ∀ e ∈ seats, ∃ g', tfind x.groups e.num = some g' ∧ g'.die = e.core / 128 ∧ g'.core = e.core % 128 ∧ g'.slot = e.slot ∧ g'.part = e.part ∧ g'.spill = e.spill ∧
      g'.live = BitVec.ofNat 128 (2 ^ widthOf l.width - 1) ∧ g'.s0 = some { mask := g'.live, pc := x.code.base.toNat } ∧ g'.s1 = none ∧
      g'.vregs = [] ∧ g'.masks = [] ∧ (∀ i, readS g' i = if i < 3 then l.args / 2 ^ (64 * i) % 2 ^ 64 else 0) ∧
      (∀ i, tget g'.caps i {} = if i < l.ncaps then entryCap s c (l.capix + i) else {})

/-- R308, R313, R314, R318, R319, R323 to R325, R458: the head of the list takes its place; a request reaches a team, is decided, misses
its deadline; a save, a discard and a restore end. -/
def Obligations.PlacementAndPreemptionEvents : Prop :=
  (∀ (s : State) (n pos place : Nat) (g : Grid) (w : Want) (seats : List Seat) (plan : List (Nat × Nat)), let d := s.arg.die
    s.running d = true → headEnt s d [] = some (.fresh n pos) → s.grid? n = some g → g.launch.cohort = false →
    wantOf s d (.fresh n pos) = some w → spillPlan s w = some plan → findSpan s w = some (place, seats) →
    headEnt (placeFresh s n pos w place (withSpills plan seats)) d [] = none →
    Does .teamPlacement s [.teams, .stores, .grids, .counters, .lines] (fun t => OtherTeams s t d w.handle ∧ s.team? d w.handle = none ∧
      (∃ x, t.team? d w.handle = some x ∧ Starts s g n pos w (withSpills plan seats) place x) ∧ (∀ m, m ≠ n → t.grid? m = s.grid? m) ∧
      ∃ g', t.grid? n = some g' ∧ { g' with next := [] } = { g with spillSince := none, next := [] } ∧
        ∀ p, g'.nextAt p = if p = pos then g.nextAt p + 1 else g.nextAt p)) ∧
  (∀ (s : State) (x : Team) (p : Preempt), TeamAt s s.arg.die s.arg.handle x → x.preempt = some p → x.state = .deciding → atRest x = true →
    let now := (s.die s.arg.die).cycle
    let k := (chooseOption (preOptions s x (decide (p.choice = some 0))) (p.deadline - now) (decide (p.deadline < now))).1
    (k = 2 → bondOf s s.arg.die s.arg.handle = none) → Does .preemptDecide s [.teams, .bytes, .mreg, .msix] (fun t =>
      OtherTeams s t s.arg.die s.arg.handle ∧ ∃ u, t.team? s.arg.die s.arg.handle = some u ∧ u.groups = x.groups ∧
        u.preempt.bind (·.choice) = some k ∧ (k = 0 ∧ u.state = .draining ∨ k = 1 ∧ u.state = .saving ∨ k = 2 ∧ u.state = .discarding))) ∧
  (∀ (s : State) (x : Team) (p : Preempt) (g : Grid), TeamAt s s.arg.die s.arg.handle x → x.preempt = some p → s.grid? x.grid = some g →
    p.deadline ≤ (s.die s.arg.die).cycle →
    (x.state = .draining → Does .preemptDeadline s [.teams] (fun t => OtherTeams s t s.arg.die s.arg.handle ∧
      t.team? s.arg.die s.arg.handle = some { x with state := .deciding })) ∧
    (p.missed = false → ∀ e ∈ [(TeamState.saving, 1), (.discarding, 2)], x.state = e.1 → LogsCtx .preemptDeadline s [.teams] x.die
      { code := 0x6C, cause := e.2, value := p.deadline, raddr := g.raddr, queue := g.queue, team := x.index
        party := teamParty x.die x.handle, ctx := x.ctx } (fun u => OtherTeams s u x.die x.handle ∧
          u.team? x.die x.handle = some { x with preempt := some { p with missed := true } }))) ∧
  (∀ (s : State) (x : Team), TeamAt s s.arg.die s.arg.handle x → x.state = .saving → atRest x = true → bondOf s s.arg.die s.arg.handle = none →
    Does .saveComplete s [.teams, .bytes, .lines, .holds, .counters, .dies] (fun t => OtherTeams s t s.arg.die s.arg.handle ∧
      (∀ h ∈ t.holds, h.ctx = x.ctx → h.party ∈ teamParties x → h.cached = []) ∧
      ∃ u, t.team? s.arg.die s.arg.handle = some u ∧ u.state = .saved ∧ u.preempt = none ∧ u.store = x.store ∧ GroupsKept x u ∧
        ∀ e ∈ u.groups, e.2.residence ≠ .resident)) ∧
  (∀ (s : State) (x : Team) (g : Grid), TeamAt s s.arg.die s.arg.handle x → x.state = .discarding → mayDispose s x = true →
    s.grid? x.grid = some g → risingFrom none x.groups = true → (∀ e ∈ x.groups, e.2.num = e.1) →
    (g.aborted = false → Does .discardComplete s [.teams, .stores, .bytes, .lines, .deckles, .holds, .ownOps, .fabric, .counters, .mreg, .msix, .dies]
      (fun t => OtherTeams s t s.arg.die s.arg.handle ∧ ∃ u, t.team? s.arg.die s.arg.handle = some u ∧ u.state = .discarded ∧
        u.groups = x.groups.filter (fun e => x.spares e.2) ∧
        u.store = ([], [], []) ∧ u.preempt = none ∧ u.grid = x.grid ∧ u.index = x.index ∧ u.code = x.code ∧ u.bond = x.bond)) ∧
    (g.aborted = true → Does .discardComplete s [.teams, .stores, .bytes, .lines, .deckles, .holds, .ownOps, .fabric, .grids, .counters, .mreg, .msix, .dies]
      (fun t => OtherTeams s t s.arg.die s.arg.handle ∧ t.team? s.arg.die s.arg.handle = none))) ∧
  (∀ (s : State) (x : Team), Calm s s.arg.die s.arg.handle x → x.state = .restoring → (∀ e ∈ x.groups, e.2.debugPending = none) →
    Does .restoreComplete s [.teams, .bytes, .lines, .counters, .engines] (fun t =>
      ∃ u, t.team? s.arg.die s.arg.handle = some u ∧ u.state = (if x.preempt.isSome then .deciding else .resident) ∧
        u.since = (s.die s.arg.die).cycle ∧ u.quantumSpent = false ∧ u.preempt = x.preempt ∧ u.store = x.store ∧ GroupsKept x u)) ∧
  (∀ (s : State) (x : Team), TeamAt s s.arg.die s.arg.handle x → x.gleaner = none →
    let ends := fun u : Team => Does .driverPreemptionRequest s [.teams] (fun t => OtherTeams s t s.arg.die s.arg.handle ∧
      t.team? s.arg.die s.arg.handle = some u)
    (x.state = .resident → ends { x with state := .deciding, preempt := some { deadline := s.arg.v.toNat } }) ∧
    (∀ p, x.state ∈ [TeamState.deciding, .draining, .saving, .saved, .discarding, .discarded] → x.preempt = some p →
      ends { x with preempt := some { p with deadline := min s.arg.v.toNat p.deadline } })) ∧
  (∀ (s : State) (x : Team), TeamAt s s.arg.die s.arg.handle x → x.state = .resident → x.quantumSpent = false → spentQuantum s x = true →
    entries s s.arg.die = [] → Does .quantumSpent s [.teams] (fun t => OtherTeams s t s.arg.die s.arg.handle ∧
      t.team? s.arg.die s.arg.handle = some { x with quantumSpent := true }))

/-! Waits, messages and services (R48 to R50, R54, R251, R255, R256, R261, R263, R317, R327, R355, R356, R375 to R377). -/

/-- A split of one group stands in another with a wait. -/
def StandsWith (y : Split) (g' : Group) (w : Wait) : Prop := ∃ z ∈ g'.splits, z.mask = y.mask ∧ z.pc = y.pc ∧ z.wait = w

/-- The registers of a group after a receipt r is written: scalar r alone is changed, and no longer pending (R204). -/
def ReceiptOnly (g g' : Group) (r v : Nat) : Prop :=
  (∀ j, readS g' j = if j = r then v % 2 ^ 64 else readS g j) ∧ g'.vregs = g.vregs ∧ g'.masks = g.masks ∧ g'.caps = g.caps ∧
    g'.wb = g.wb ∧ g'.fflags = g.fflags ∧ ∀ i < 16, g'.pendScalars.getLsbD i = (g.pendScalars.getLsbD i && decide (i ≠ r))

/-- R49, R251, R255, R256, R261, R263, R317, R327, R355, R376, R377: a sleep or a team's wait ends, a message reaches its word, a gleaned
group's deadline comes, a step is delivered, a service request is posted and answered, and its group returns. -/
def Obligations.WaitAndMessageEvents : Prop :=
  (∀ (s : State) (g : Group), s.group? s.arg.die s.arg.handle s.arg.grp = some g → Does .sleepExpiry s [.teams] (fun t =>
    (∀ d h k, (d, h, k) ≠ (s.arg.die, s.arg.handle, s.arg.grp) → t.group? d h k = s.group? d h k) ∧
    ∃ g', t.group? s.arg.die s.arg.handle s.arg.grp = some g' ∧ g'.regs = g.regs ∧
      ∀ y ∈ g.splits, ∀ till, y.wait = .sleep till →
        StandsWith y g' (if till ≤ (s.die g.die).cycle then .none else .sleep till))) ∧
  (∀ (s : State) (x : Team) (o : DwaitSt), TeamAt s s.arg.die s.arg.handle x → x.dwait = some o → o.status = none →
    let ends := fun st : Nat => Does .dwaitTimeout s [.teams] (fun t => OtherTeams s t s.arg.die s.arg.handle ∧
      t.team? s.arg.die s.arg.handle = some { x with dwait := some { o with status := some st } })
    let holds := condHolds o.cond (dieWord s x.grid x.pos o.word) o.value.toNat
    (gridBroken s x.grid = true → ends 2) ∧ (gridBroken s x.grid = false → holds = true → ends 0) ∧
    (gridBroken s x.grid = false → holds = false → o.deadline ≠ 0 → o.deadline ≤ (s.die x.die).cycle → ends 1)) ∧
  (∀ (s : State) (m : Dsig), let d := s.arg.die
    (s.die d).dsigs[s.arg.idx]? = some m → (∀ e ∈ (s.die d).dsigs.take s.arg.idx, e.from_ ≠ m.from_ ∨ e.grid ≠ m.grid) →
    let gone := fun t : State => (t.die d).dsigs = (s.die d).dsigs.eraseIdx s.arg.idx ∧ DieBut d (fun y => { y with dsigs := [] }) s t
    ((∀ g, s.grid? m.grid = some g → g.wordsHeld = false) → Does .dsigMessage s [.dies] gone) ∧
    (∀ g, s.grid? m.grid = some g → g.wordsHeld = true →
      let v := Sys2Proof.Machine.SigOp.eval m.op (tget g.words (64 * m.pos + m.word) 0).toNat m.value.toNat % 2 ^ 64
      Does .dsigMessage s [.teams, .grids, .dies] (fun t => gone t ∧
        (∃ g', t.grid? m.grid = some g' ∧ { g' with words := [] } = { g with words := [] } ∧
          ∀ k, (tget g'.words k 0).toNat = if k = 64 * m.pos + m.word then v else (tget g.words k 0).toNat) ∧
        (∀ n, n ≠ m.grid → t.grid? n = s.grid? n) ∧
        ((∀ x ∈ s.teams, TeamAt s x.die x.handle x) → ∀ x ∈ s.teams, ∀ o, x.grid = m.grid → x.pos = m.pos → x.gleaner = none →
          x.state = .parked → x.dwait = some o → o.word = m.word → o.status = none → condHolds o.cond v o.value.toNat = true →
          t.team? x.die x.handle = some { x with dwait := some { o with status := some 0 } }) ∧
        ((∀ x ∈ s.teams, x.grid = m.grid → x.dwait = none) → Same .teams s t)))) ∧
  (∀ (s : State) (g : Glean), let d := s.arg.die
    (s.die d).gleans.find? (Glean.is s.arg.ctx s.arg.idx) = some g → (∃ r ∈ g.recs, r.due ≤ (s.die d).cycle) →
    (∀ h ∈ (s.die d).gleans, h.arriving (s.die d).cycle = false) → let n := tget (s.die d).gleanCount (4096 * s.arg.idx + s.arg.ctx) 0
    Does .gleanDeadline s [.dies] (fun t => (t.die d).gleans = (s.die d).gleans.filter (fun h => !Glean.is s.arg.ctx s.arg.idx h) ∧
      (t.die d).gleanReady = (s.die d).gleanReady ++ [
        { ctx := s.arg.ctx, entry := s.arg.idx, kern := kernelBits s s.arg.ctx s.arg.idx, index := n, recs := g.recs }] ∧
      tget (t.die d).gleanCount (4096 * s.arg.idx + s.arg.ctx) 0 = (n + 1) % 2 ^ 32 ∧
      DieBut d (fun y => { y with gleans := [], gleanReady := [], gleanCount := [] }) s t)) ∧
  (∀ (s : State) (o : TakeOp) (x : Team) (g : Group) (l m : Nat) (hdr : BitVec 128) (bs : List Byte),
    s.takes.find? (fun p => decide (p.id = s.arg.id)) = some o → o.lanes = [(l, m)] → o.missing = false → o.reg < 16 → l < 128 →
    Calm s o.die o.handle x → x.group? o.grp = some g → (s.mbox g.die m).obs = some (hdr, bs) → takeBefore s g.die o m = false →
    o.at_ ≤ (s.die g.die).cycle → s.ep? g.die m = none → Does .stepTakeDelivery s [.teams, .takes, .lines, .dies] (fun t =>
      t.takes = s.takes.filter (fun p => decide (p.id ≠ s.arg.id)) ∧ t.mbox g.die m = Mbox.fill { s.mbox g.die m with obs := none } ∧
      DieBut g.die (fun y => { y with mboxes := [] }) s t ∧ (∀ j, j ≠ m → t.mbox g.die j = s.mbox g.die j) ∧
      ∃ g', t.group? o.die o.handle o.grp = some g' ∧ (∀ j, readS g' j = if j = o.reg then 0 else readS g j) ∧
        g'.pendScalars.getLsbD o.reg = false ∧ (∀ r ∈ g'.pendRegs, r ∈ g.pendRegs ∧ (r < o.base ∨ o.base + takeRegs o.header ≤ r)) ∧
        ∀ r k, k < 128 → readReg g' r k =
          if k = l ∧ o.base ≤ r ∧ r < o.base + 32 then leNat bs / 2 ^ (32 * (r - o.base)) % 2 ^ 32
          else if k = l ∧ o.header = true ∧ o.base + 32 ≤ r ∧ r < o.base + 36 then hdr.toNat / 2 ^ (32 * (r - o.base - 32)) % 2 ^ 32
          else readReg g r k)) ∧
  (∀ (s : State) (f h n svc reg k : Nat) (m : Mask) (blocks : List (Nat × Nat)) (rest : List (Nat × Nat × Nat)) (x : Team) (g : Group),
    let d := s.arg.die; let y := s.die d
    y.svcQueue = (f, h, n) :: rest → s.team? f h = some x → x.group? n = some g → g.service = some (svc, m, reg, blocks) →
    freeSlot y = some k → s.running d = true → y.scring.getLsbD 0 = true → ringRoom y = true → s.hostLinkDown = false →
    x.locPoison = [] → (blocks.map (·.1)).Nodup →
    let recAt := ringBase y + 64 * (y.scTail % ringSize y)
    Does .serviceRequestPost s [.teams, .host, .msix, .dies] (fun t =>
      rdNat t.host recAt 64 = requestRec y m (groupParty f h n) x.ctx svc k % 2 ^ 512 ∧
      (∀ b ∈ blocks, b.1 < 128 → ∀ i < 64, rdByte t.host (slotAddr y k b.1 + i) = tget x.loc (locIndex x n b.2 + i) 0) ∧
      (∀ a, (a < recAt ∨ recAt + 64 ≤ a) → (∀ b ∈ blocks, a < slotAddr y k b.1 ∨ slotAddr y k b.1 + 64 ≤ a) →
        rdByte t.host a = rdByte s.host a) ∧
      (t.die d).svcQueue = rest ∧ (t.die d).scTail = (y.scTail + 1) % 2 ^ 32 ∧
      (t.die d).slots = y.slots ++ [{ slot := k, tdie := f, handle := h, grp := n }] ∧
      DieBut d (fun y => { y with svcQueue := [], scTail := 0, slots := [] }) s t ∧
      (∀ v, tget t.msix v 0 = tget s.msix v 0 + (if v = 1 + d then 1 else 0)) ∧
      Same .teams s t)) ∧
  (∀ s : State, s.running s.arg.die = true →
    let d := s.arg.die; let v := s.arg.v; let k := bits v.toNat 31 16; let st := bits v.toNat 15 0
    ((∀ e ∈ (s.die d).slots, e.slot ≠ k) ∨ 3 ≤ st → ∃ t, exec .scdone s = .next t ∧ t = eventMod s d { code := 0x91, value := v.toNat } ∧
      Kept [.bytes, .mreg, .msix] s t) ∧
    (∀ e x g, (s.die d).slots.find? (fun e => decide (e.slot = k)) = some e → st < 3 → e.orphan = false → s.team? e.tdie e.handle = some x →
      x.group? e.grp = some g → Does .scdone s [.teams, .stores, .dies] (fun t => OtherTeams s t e.tdie e.handle ∧
        (t.die d).slots = (s.die d).slots.filter (fun z => decide (z.slot ≠ k)) ∧ DieBut d (fun y => { y with slots := [] }) s t ∧
        ∃ u, t.team? e.tdie e.handle = some u ∧ u.group? e.grp = some { g with serviceStatus := some st } ∧
          u.store = (copyIn s d k x e.grp (match g.service with | some r => r.2.2.2 | none => [])).store ∧
          ∀ j, j ≠ e.grp → u.group? j = x.group? j))) ∧
  (∀ (s : State) (x : Team) (g : Group) (st svc reg : Nat) (m : Mask) (blocks : List (Nat × Nat)),
    Calm s s.arg.die s.arg.handle x → x.state = .resident → x.group? s.arg.grp = some g → g.service = some (svc, m, reg, blocks) →
    g.serviceStatus = some st → g.residence = .trapParked → s.running g.die = true → reg < 16 →
    (∀ e ∈ x.groups, e.2.debugPending = none) → Does .trapGroupRestore s [.teams, .bytes, .lines, .counters] (fun t =>
      ∃ g', t.group? s.arg.die s.arg.handle s.arg.grp = some g' ∧ g'.residence = .resident ∧ g'.service = none ∧ g'.serviceStatus = none ∧
        ReceiptOnly g g' reg st ∧ ∀ y ∈ g.splits, y.wait = .service → StandsWith y g' .none))

/-! Ownership and pages between units (R71, R76, R77, R81, R91, R95, R224, R388, R423, R428, R430). -/

/-- A page entry with ACC and AGE given, the rest as before (R71, R72). -/
def EntryNow (t : State) (o : ObjEntry) (p e acc age : Nat) : Prop :=
  let w := readPage t o p
  bits w 63 18 = bits e 63 18 ∧ bits w 16 16 = bits e 16 16 ∧ bits w 11 0 = bits e 11 0 ∧ bits w 17 17 = acc ∧ bits w 15 12 = age

/-- The registers of the deckle entry window. -/
def deckleWindow (o : Nat) : Bool := [0x3C0000, 0x3C0008, 0x3C0010].contains o || (upto 8).any (fun i => decide (o = 0x3C0040 + 8 * i))

/-- R71, R76, R77, R81, R91, R95, R224, R388, R423, R428, R430: the status of an ownership operation, hold lists, the deckle entry
window, reclaims, the pages of a PAGEIN, the press sweep, and the early write-back of a line. -/
def Obligations.OwnershipAndPageEvents : Prop :=
  (∀ (s : State) (o : OwnOp) (r : Dword) (x : Team) (g : Group), findOwn s s.arg.id = some o → o.result = some r → o.reg < 16 →
    o.quiet = false → Calm s o.die o.handle x → x.group? o.grp = some g →
    let ends := fun t : State => t.ownOps = s.ownOps.filter (fun p => !decide (p.id = o.id)) ∧
      ∃ g', t.group? o.die o.handle o.grp = some g' ∧ ReceiptOnly g g' o.reg r.toNat
    (o.install = none → Does .deckleStatusWrite s [.teams, .ownOps, .lines] ends) ∧
    (∀ q kind base len, o.install = some (q, kind, base, len) →
      (spillFor s o.ctx q = some s → (kind % 2 = 1 ∨ ∃ d, regionExact s o.ctx o.oid base len = some d ∧ d.holder = q) →
        Does .deckleStatusWrite s [.teams, .ownOps, .holds, .lines] (fun t => ends t ∧
          ∃ h ∈ t.holds, { h with used := 0 } =
            { ctx := o.ctx, party := q, oid := o.oid, base := base, len := len, kind := kind, cached := holdCores s q })) ∧
      (spillFor s o.ctx q = none → o.holdSince = none → Does .deckleStatusWrite s [.ownOps] (fun t =>
        t.ownOps = updWhere (fun p => decide (p.id = o.id)) (fun p => { p with holdSince := some (s.die o.die).cycle }) s.ownOps)))) ∧
  (∀ (s : State) (h : Hold), s.holds[s.arg.idx]? = some h → let core := s.arg.core
    core ∈ holdCores s h.party → core ∉ h.cached → (cachedOn s core).length < 256 →
    Does .holdListRefill s [.holds] (fun t => ∀ i : Nat, t.holds[i]? =
      (s.holds[i]?).map (fun x => if sameHold h x then { x with cached := sIns x.cached core, used := s.issues } else x))) ∧
  (∀ (s : State) (o : OwnOp) (since : Nat), findOwn s s.arg.id = some o → o.holdSince = some since → since + 2 ^ 20 ≤ (s.die o.die).cycle →
    ∃ t u, exec .holdfull s = .next t ∧ t = regionEvent u o.die { code := 0x2E, ctx := o.ctx, party := o.party } ∧
      Kept [.ownOps] s u ∧ Kept [.ownOps, .bytes, .mreg, .msix] s t ∧
      u.ownOps = updWhere (fun p => decide (p.id = o.id)) (fun p => { p with holdSince := some (since + 2 ^ 20) }) s.ownOps) ∧
  (∀ s : State, let d := regionAt s (bits s.arg.v.toNat 35 24) (bits s.arg.v.toNat 63 36) (bits s.arg.w.toNat 39 0)
    Does .deckleLookup s [.mreg] (fun t => (∀ o, deckleWindow o = false → t.reg o = s.reg o) ∧
      (d = none → t.reg 0x3C0010 = 1 ∧ ∀ i < 8, t.reg (0x3C0040 + 8 * i) = 0) ∧
      (∀ e, d = some e → t.reg 0x3C0010 = 3 ∧ ∀ i < 8, (t.reg (0x3C0040 + 8 * i)).toNat =
        (if (s.die (tableHome e)).boot = 3 then { e with state := 5, holder := 0, shares := 0, lend := [] } else e).bits
          / 2 ^ (64 * i) % 2 ^ 64))) ∧
  (∀ (s : State) (i : Instr) (mode : Nat), (i, mode) ∈ [(Instr.drclKeep, 0), (.drclZero, 1)] →
    let w0 := s.arg.v.toNat; let w8 := s.arg.w.toNat
    let found := s.deckles.find? (fun d => decide (d.ctx = bits w0 35 24) && decide (d.oid = bits w0 63 36) && decide (d.base = bits w8 63 24))
    let tells := fun (n : Nat) (t : State) => t.reg 0x340010 = BitVec.ofNat 64 n ∧ ∀ o, o ≠ 0x340010 → t.reg o = s.reg o
    (bits w0 23 0 ≠ 0 ∨ bits w8 23 2 ≠ 0 ∨ 2 ≤ w8 % 4 → Does i s [.mreg] (tells 3)) ∧
    (bits w0 23 0 = 0 → bits w8 23 2 = 0 → w8 % 4 = mode → ∀ d, found = some d → (s.die (tableHome d)).boot ≠ 3 →
      (d.state ≠ 5 → Does i s [.mreg] (tells 1)) ∧
      (d.state = 5 → mode = 0 → Does i s [.mreg, .deckles] (fun t => tells 0 t ∧ t.deckles = s.deckles.filter (fun e => !sameEntry d e))) ∧
      (d.state = 5 → mode = 1 → d.len ≠ 0 → d.base % 65536 + d.len ≤ 65536 →
        let e := readPage s (readObj s (bits w0 35 24) (bits w0 63 36)) (d.base / 65536)
        let lo := bits (pageFrame e) 23 0 * 65536 + d.base % 65536
        pageState e = 1 → Does i s [.mreg, .deckles, .bytes] (fun t => tells 0 t ∧ t.deckles = s.deckles.filter (fun e => !sameEntry d e) ∧
          ∀ a, homeByte t a = if lo ≤ a ∧ a < lo + d.len then 0 else homeByte s a)))) ∧
  (∀ (s : State) (o : PageinOp) (p : Nat) (x : Team) (g : Group), s.pageins.find? (fun o => decide (o.id = s.arg.id)) = some o →
    let ob := readObj s o.ctx o.oid
    let e := readPage s ob p
    (o.pages = [p] → pageState e = 1 → s.running (bits (pageFrame e) 23 20) = true → Calm s o.die o.handle x → x.group? o.grp = some g →
      o.reg < 16 → Does .pageinPageAction s [.teams, .pageins, .lines, .grids] (fun t => t.pageins = s.pageins.filter (fun y => decide (y.id ≠ s.arg.id)) ∧
        ∃ g', t.group? o.die o.handle o.grp = some g' ∧ ReceiptOnly g g' o.reg o.worst)) ∧
    (∀ r, o.pages = p :: r → r ≠ [] → pageState e = 0 → s.running ob.hstk = true → pageAddr ob p + 8 ≤ 2 ^ 40 →
      ((readList s o.ctx ob.hstk).empty = true → Does .pageinPageAction s [.pageins, .grids] (fun t =>
        t.pageins = updWhere (fun y => decide (y.id = s.arg.id)) (fun y => { y with pages := y.pages.drop 1, worst := worse o.worst 1 }) s.pageins)) ∧
      (∀ f u, takeFrame s o.ctx ob.hstk = some (f, u) → Does .pageinPageAction s [.pageins, .bytes, .lines, .pressed, .grids] (fun t =>
        pageState (readPage t ob p) = 1 ∧ pageFrame (readPage t ob p) = f ∧ bits (readPage t ob p) 17 17 = 1 ∧
        t.pageins = updWhere (fun y => decide (y.id = s.arg.id)) (fun y => { y with pages := y.pages.drop 1, worst := o.worst }) s.pageins)))) ∧
  (∀ (s : State) (k : Nat), let d := s.arg.die; nextVisit s d = some k → s.running d = true →
    let o := readObj s (k / 2 ^ 52) (k / 2 ^ 24 % 2 ^ 28); let p := k % 2 ^ 24; let e := readPage s o p; let key := pageAddr o p
    let moves := fun t : State => (t.die d).sweep = k + 1 ∧ DieBut d (fun y => { y with sweep := 0 }) s t
    o.valid = true → o.far = false → 65536 * p < o.size → pageState e = 1 → bits (pageFrame e) 23 20 = d → key + 8 ≤ 2 ^ 40 →
    tget s.pressVisits key 0 = 0 ∨ tget s.pressVisits key 0 + 2 ^ 20 ≤ (s.die d).cycle + 1 →
    (bits e 17 17 = 1 → Does .pressSweepVisit s [.bytes, .pressed, .dies] (fun t => EntryNow t o p e 0 0 ∧ moves t ∧ t.pressed = s.pressed ∧
      BytesKept s t (fun a => ∃ k < 8, a = key + k))) ∧
    (bits e 17 17 = 0 → o.nopress = true → Does .pressSweepVisit s [.bytes, .pressed, .dies] (fun t =>
      EntryNow t o p e 0 (min (bits e 15 12 + 1) 15) ∧ moves t ∧ t.pressed = s.pressed ∧ BytesKept s t (fun a => ∃ k < 8, a = key + k)))) ∧
  (∀ (s : State) (c : CLine), s.lines[s.arg.idx]? = some c → c.dirty ≠ 0 →
    (c.l2 = false → cacheRoom s c.unit = true → Does .earlyWriteBack s [.lines] (fun t => ∀ x ∈ t.lines, lineIs false c.unit c.line x = true → x.dirty = 0)) ∧
    (c.l2 = true → s.lines.find? (lineIs true c.unit c.line) = some c → reach s (c.unit / 16) (128 * c.line) = .ok → Does .earlyWriteBack s [.lines, .bytes] (fun t => WrittenBack s t ∧
      (∀ x ∈ t.lines, lineIs true c.unit c.line x = true → x.dirty = 0) ∧
      ∀ i < 128, mbit c.dirty i = true → homeByte t (128 * c.line + i) = tget c.data i 0)))

/-! Engines, collectives, feeds and sequencers (R97 to R99, R138 to R140, R231, R233 to R237, R243, R246, R272 to R281, R291, R293,
R335, R385, R393, R449, R454, R472). -/

/-- The operation of the step's number becomes e'. -/
def EngineNow (s t : State) (e' : EngOp) : Prop := findEng t s.arg.id = some e' ∧
  ∀ id, id ≠ s.arg.id → t.engines.filter (fun x => decide (x.id = id)) = s.engines.filter (fun x => decide (x.id = id))

/-- A pair's purse is n less, and nothing else of any pair changes. -/
def PurseLess (s t : State) (d p n : Nat) : Prop :=
  t.pair d p = { s.pair d p with purse := (s.pair d p).purse - n } ∧ ∀ e q, (e, q) ≠ (d, p) → t.pair e q = s.pair e q

/-- The bytes of a place and on are those of a list; every other byte is as before. -/
def PlacesHold (s t : State) (p : Nat) (bs : List Byte) : Prop :=
  (∀ i, (h : i < bs.length) → homeByte t (p + i) = bs[i]) ∧ BytesKept s t (fun a => p ≤ a ∧ a < p + bs.length)

/-- The bond of a die and cluster, alone under its handle. -/
def BondAt (s : State) (d cl : Nat) (b : Bond) : Prop :=
  tfind (s.die d).bonds cl = some b ∧ b.die = d ∧ b.key = cl ∧ b.saved = false ∧
    ∀ e ∈ (s.die d).bonds, e.2.handle = b.handle → e.2.saved = false → e = (cl, b)

/-- It becomes another, and no other bond changes. -/
def BondNow (s t : State) (d cl : Nat) (q : Bond → Prop) : Prop :=
  (∃ b', tfind (t.die d).bonds cl = some b' ∧ q b') ∧ ∀ e k, (e, k) ≠ (d, cl) → tfind (t.die e).bonds k = tfind (s.die e).bonds k

/-- R97 to R99, R138 to R140, R231, R233, R235, R237, R243, R246, R272, R273, R280, R291 to R293, R385, R393: engines take their
installments, move elements, apply bursts and write receipts; collectives gather and give results; streams start, are charged,
are fed, and their operations land. -/
def Obligations.EngineAndBondEvents : Prop :=
  (∀ (s : State) (e : EngOp) (x : Team), findEng s s.arg.id = some e → e.kind = .cpy → e.isFeed = false → e.status = none → e.frozen = false →
    e.want = 0 → s.team? e.die e.handle = some x →
    let r := cpyRec e.record
    (s.arg.num = 0 → r.total ≤ e.next → Does .copyEngineTransfer s [.engines] (fun t => EngineNow s t { e with status := some 0, waitLaps := 0 })) ∧
    (s.arg.num = 0 → e.next < r.total → r.elem x e.grp e.next = none →
      Does .copyEngineTransfer s [.engines] (fun t => EngineNow s t { e with status := some 4, waitLaps := 0 })) ∧
    (∀ y bs p, s.arg.num = 0 → e.ahead = [] → e.next + 1 = r.total → r.elem x e.grp e.next = some y → elemRead s e r x y = .ok bs →
      elemTargets s e r x y.dst s.arg.flag = .ok (.home p) → e.short r.es = 0 →
      Does .copyEngineTransfer s [.engines, .bytes, .teams] (fun t => PlacesHold (markWritten (markRead s e r y) e r y) t p (bs.map (·.1)) ∧
        EngineNow s t { e with next := r.total, count := e.count + r.es, done := e.done + r.es, status := some 0, waitLaps := 0 } ∧
        OtherTeams s t e.die e.handle ∧ t.team? e.die e.handle = some { x with cb := x.cb + r.es })) ∧
    (∀ y bs p, let i := e.next + s.arg.num; s.arg.num ≠ 0 → e.ahead = [] → i < r.total → r.elem x e.grp i = some y → elemRead s e r x y = .ok bs →
      elemTargets s e r x y.dst s.arg.flag = .ok (.home p) → e.short ((s.arg.num + 1) * r.es) = 0 →
      Does .copyEngineTransfer s [.engines, .bytes] (fun t => PlacesHold (markWritten (markRead s e r y) e r y) t p (bs.map (·.1)) ∧
        EngineNow s t { e with ahead := [i] }))) ∧
  (∀ (s : State) (e : EngOp), findEng s s.arg.id = some e →
    let d := (pairOf e.core).1; let p := (pairOf e.core).2
    let n := if mayServe s d p false e.ticket then min (engOwes s e) (s.pair d p).purse else 0
    let charged := fun t : State => PurseLess s t d p n ∧ BytesKept s t (fun a => ∃ k < 8, a = (readCtx s e.ctx).svbase + 8 * e.core + k)
    (e.isNm = false → Does .engineInstallment s [.engines, .pairs, .bytes, .counters] (fun t => charged t ∧
      EngineNow s t { e with paid := e.paid + n, want := e.want - n })) ∧
    (e.isNm = true → engOwes s e ≠ 0 → n = engOwes s e → Does .memoryPortInstallment s [.engines, .pairs, .bytes, .counters] (fun t =>
      charged t ∧ (∀ m ∈ nmMates s e, ∀ y ∈ t.engines, y.id = m.id → y.next = 1 ∧ y.status = if y.entries.isEmpty then some 0 else none) ∧
      ∃ e', findEng t s.arg.id = some e' ∧ e'.paid = e.paid + n))) ∧
  (∀ (s : State) (e : EngOp) (b : Bond) (x : Team), findEng s s.arg.id = some e → e.isFeed = true → e.status = none → e.frozen = false →
    e.want = 0 → feedHead s b e = true → bondOf s e.die e.handle = some b → BondAt s e.die b.key b → b.op = none → StillGroups s b →
    b.handle = e.handle → s.team? e.die e.handle = some x →
    let r := cpyRec e.record; let isB := decide (e.dkind = 3); let qs := maskBits r.mcast
    (e.unit.length < 64 → r.total ≤ e.next → Does .feedUnitAppend s [.engines] (fun t => EngineNow s t { e with status := some 0, waitLaps := 0 })) ∧
    (64 < e.unit.length ∨ 64 = e.unit.length ∧ e.next < r.total → (∀ i ∈ qs, (b.queue isB i).bytes.length + 64 ≤ b.capacity isB) →
      e.short (64 * qs.length) = 0 → (∀ y ∈ e.unit.take 64, y.2 = false) → Does .feedUnitAppend s [.engines, .teams, .dies] (fun t =>
        EngineNow s t { e with unit := e.unit.drop 64, count := e.count + 64, done := e.done + 64 * qs.length } ∧
        t.team? e.die e.handle = some { x with cb := x.cb + 64 * qs.length } ∧ OtherTeams s t e.die e.handle ∧
        DieBut e.die (fun y => { y with bonds := [] }) s t ∧
        BondNow s t e.die b.key (fun b' => b'.seam = b.seam ∧ b'.state = b.state ∧ ∀ k i, b'.queue k i = if k = isB ∧ i ∈ qs then
          { b.queue isB i with bytes := (b.queue isB i).bytes ++ (e.unit.take 64).map (·.1), wpos := ((b.queue isB i).wpos + 64) % 2 ^ 32 }
          else b.queue k i)))) ∧
  (∀ (s : State) (b : Bond), BondAt s s.arg.die s.arg.cl b → b.op = none → b.twin = true →
    let i := s.arg.q; let q := b.queue false i; let sq := tget b.seam i { rpos := q.rpos, wpos := q.rpos }
    let unit := (q.bytes.drop ((sq.wpos + 2 ^ 32 - q.rpos) % 2 ^ 32)).take 64
    let z := tget s.seams (s.arg.die / 2) {}
    StillGroups s b → i < b.rows → z.losses < 3 → z.till = none → unit.length = 64 → sq.bytes.length + 64 ≤ b.capacity false →
    Does .seamUnitCopy s [.dies] (fun t => DieBut s.arg.die (fun y => { y with bonds := [] }) s t ∧ BondNow s t s.arg.die s.arg.cl (fun b' =>
      b'.feedA = b.feedA ∧ b'.feedB = b.feedB ∧ (tget b'.seam i {}).bytes = sq.bytes ++ unit ∧ ∀ j, j ≠ i → tfind b'.seam j = tfind b.seam j))) ∧
  (∀ (s : State) (op : EngOp), findEng s s.arg.id = some op → op.isNm = true → op.status = none → op.next ≠ 0 → lendsStand s op = true →
    let mine := (op.entries.filter (fun e => decide (siloOf (elemAddr s op.ctx (nmWritten op e).1 (nmWritten op e).2) = s.arg.unit))).take 16
    let rest := op.entries.filter (fun e => !(mine.map (·.lane)).contains e.lane)
    Does .siloBurstApply s [.engines, .bytes, .teams] (fun t =>
      (∃ e', findEng t s.arg.id = some e' ∧ e'.entries = rest ∧ e'.status = (if rest.isEmpty then some 0 else none) ∧
        (∀ b, b ∈ e'.begun ↔ b ∈ op.begun ∨ b ∈ mine.map (·.bag)) ∧ e'.count = op.count) ∧
      (mine = [] → Same .bytes s t) ∧
      ∀ e, mine = [e] → ∀ a, homeByte t a = homeByte (applyEntry op (!op.begun.contains e.bag) s e) a)) ∧
  (∀ (s : State) (e : EngOp) (st : Nat) (x : Team) (g : Group), findEng s s.arg.id = some e → e.status = some st → e.isFeed = false → e.reg < 16 →
    Calm s e.die e.handle x → x.group? e.grp = some g →
    let ends := fun t : State => t.engines = s.engines.filter (fun y => !decide (y.id = e.id)) ∧
      ∃ g', t.group? e.die e.handle e.grp = some g' ∧ ReceiptOnly g g' e.reg (engineWord e st)
    (e.lends = [] → Does .engineReceipt s [.teams, .engines, .lines] ends) ∧
    (∀ d l rest, e.lends = [(d.oid, d.base)] → s.deckles.find? (fun y => decide (y.ctx = e.ctx) && decide (y.oid = d.oid) &&
        decide (y.base = d.base) && decide (y.state = 4)) = some d → nextLender s d.ctx none d.lend.reverse = some (l, rest) →
      spillFor s d.ctx l = some s →
      Does .engineReceipt s [.teams, .engines, .lines, .bytes, .deckles, .holds] (fun t => ends t ∧
        { d with state := 1, holder := l, lend := rest.reverse } ∈ t.deckles ∧
        ∃ h ∈ t.holds, h.ctx = d.ctx ∧ h.party = l ∧ h.oid = d.oid ∧ h.base = d.base ∧ h.len = d.len ∧ h.kind = 0))) ∧
  (∀ (s : State) (k : Collective) (any_ : EngOp) (r : List EngOp), let slot := s.arg.unit; let seq := s.arg.num; let rank := s.arg.idx
    memberOps s slot seq = any_ :: r → s.collectives.find? (sameColl slot seq) = some k → rank ∉ k.ranks →
    let c := cpycRec any_.record
    rank < cpycMembers s (any_.core / 128) c → c.cop ≤ 1 → k.fmt = c.fmt → k.acc.length = c.nelem →
    ((∃ e ∈ any_ :: r, opRank s e = rank) ∨ farRank s slot rank = true) →
    Does .collectiveContribution s [.collectives, .bytes] (fun t => ((∀ e ∈ any_ :: r, opRank s e ≠ rank) → Same .bytes s t) ∧ ∃ k', t.collectives.find? (sameColl slot seq) = some k' ∧
      k'.ranks = sIns k.ranks rank ∧ k'.fmt = k.fmt ∧ k'.n = k.n ∧
      (c.fmt = 5 → (∀ e ∈ any_ :: r, opRank s e ≠ rank) → ∀ i < c.nelem,
        k'.acc.getD i 0 = k.acc.getD i 0 + BitVec.ofNat 256 (s.arg.elems.getD i 0 % 2 ^ 32)) ∧
      ∀ x ∈ s.collectives, sameColl slot seq x = false → x ∈ t.collectives)) ∧
  (∀ (s : State) (k : Collective), s.collectives.find? (sameColl s.arg.unit s.arg.num) = some k → k.n ≤ k.ranks.length →
    let ids := (memberOps s k.slot k.seq).map (·.id)
    Does .collectiveRootResult s [.collectives, .engines] (fun t => t.collectives = s.collectives.filter (fun x => !sameColl k.slot k.seq x) ∧
      ∀ i : Nat, t.engines[i]? = (s.engines[i]?).map (fun e => if e.id ∈ ids then { e with result := some (rootResult s k e) } else e))) ∧
  (∀ s : State, let d := s.arg.die; let k := s.arg.unit; let v := s.arg.v
    k < 4096 → d < 16 →
    let written := fun t : State => (∀ i, (tget (t.die d).cslots i 0).toNat = if i = k then v.toNat / 2 ^ 35 * 2 ^ 35 else (tget (s.die d).cslots i 0).toNat) ∧
      (t.die d).contributed = (s.die d).contributed.filter (fun i => decide (i / 65536 ≠ k)) ∧
      DieBut d (fun y => { y with cslots := [], contributed := [] }) s t
    (v.getLsbD 63 = true → Does .collectiveSlotWrite s [.dies] written) ∧
    (v.getLsbD 63 = false → (slotEntry s d k).isSome = true → Does .collectiveSlotWrite s [.dies, .collectives, .engines] (fun t => written t ∧
      t.collectives = s.collectives.filter (fun x => decide (x.slot ≠ k)) ∧
      ∀ x ∈ s.collectives, x.slot = k → ∀ e ∈ memberOps s k x.seq, opRank s e ∈ x.ranks → ∀ y ∈ t.engines, y.id = e.id → y.status = some 8))) ∧
  (∀ (s : State) (b : Bond), BondAt s s.arg.die s.arg.cl b → b.starting = true →
    Does .bondStreamStart s [.dies] (fun t => DieBut s.arg.die (fun y => { y with bonds := [] }) s t ∧
      BondNow s t s.arg.die s.arg.cl (· = { b with starting := false }))) ∧
  (∀ (s : State) (b : Bond) (o : BondOp), BondAt s s.arg.die s.arg.cl b → b.op = some o → o.started = false → o.charge ≠ 0 → seqTeam s b = true →
    let ps := dedup (b.cores.map (fun c => 64 * (c / 128) + c % 128 / 2))
    (∀ k r, ps = k :: r → mayServe s (k / 64) (k % 64) true o.ticket = true → (∀ j ∈ r, (s.pair (j / 64) (j % 64)).purse = 0) →
      (∃ j ∈ r, tget b.holds j 0 < 2 * o.charge) →
      let n := min (2 * o.charge - tget b.holds k 0) (s.pair (k / 64) (k % 64)).purse
      Does .sequencerCharge s [.pairs, .dies] (fun t => PurseLess s t (k / 64) (k % 64) n ∧ BondNow s t s.arg.die s.arg.cl (fun b' =>
        b'.op = b.op ∧ ∀ j, tget b'.holds j 0 = tget b.holds j 0 + (if j = k then n else 0)))) ∧
    (∀ f m tl p, (∀ k ∈ ps, 2 * o.charge ≤ tget b.holds k 0) → b.fmt = some f → o.instr = .mmac tl p m →
      (∀ i < b.rows, (b.queue false i).failed = none) → StillGroups s b → Does .sequencerCharge s [.pairs, .dies, .teams, .bytes, .counters] (fun t =>
        BondNow s t s.arg.die s.arg.cl (fun b' => b'.holds = [] ∧ b'.curA = b.curA + scaleBytesA b f m ∧ b'.tiles = b.tiles ∧
          ∃ o', b'.op = some o' ∧ o'.started = true ∧ o'.instr = o.instr ∧ o'.addr = o.addr)))) ∧
  (∀ (s : State) (b : Bond) (o : BondOp) (f : FmtBlock), BondAt s s.arg.die s.arg.cl b → b.op = some o → b.fmt = some f → o.ready = true →
    opDamage b o = none →
    let lands := fun (xs : List StatePart) (q : Bond → Prop) => Does .bondOperationComplete s xs (fun t => DieBut s.arg.die (fun y => { y with bonds := [] }) s t ∧
      BondNow s t s.arg.die s.arg.cl (fun b' => b'.op = none ∧ b'.feedA = b.feedA ∧ b'.feedB = b.feedB ∧ q b'))
    (∀ p, o.instr = .mloadb p → lands [.dies] (fun b' => b'.tiles = b.tiles ∧ tfind b'.planeFmt p = some (descFmt f.b) ∧
      ∀ i < b.rows, ∀ j < b.cols, ∀ k < 128, ∀ n < 128, tget b'.planes (planeKey i j p k n) 127 = planeElem b f o i j k n)) ∧
    (∀ tr tl p m, o.instr = (if tr then .mmact tl p m else .mmac tl p m) → m ≤ 128 → tl < 8 → lands [.dies] (fun b' => b'.planes = b.planes ∧
      (∀ j < b.cols, tfind b'.bias (8 * j + tl) = some (productBias b f p)) ∧
      ∀ j < b.cols, ∀ k < 8, ∀ mm < 128, ∀ n < 128, tget b'.tiles (tileKey j k mm n) 0 =
        if k = tl ∧ mm < m then BitVec.ofNat 32 (add32 (tget b.tiles (tileKey j k mm n) 0).toNat (prodElem b f o tr p j mm n))
        else tget b.tiles (tileKey j k mm n) 0)) ∧
    (∀ tl off m, o.instr = .mdrain tl off m → tl < 8 → lands [.dies, .teams, .stores] (fun b' => b'.planes = b.planes ∧
      (∀ j < b.cols, tfind b'.bias (8 * j + tl) = none) ∧ ∀ j < b.cols, ∀ mm < 128, ∀ n < 128, tget b'.tiles (tileKey j tl mm n) 0 = 0)))

/-! Energy (R329 to R344, R461 to R464, R482). -/

/-- The step is taken and writes one record to the module log, from a state of which q holds. -/
def LogsMod (i : Instr) (s : State) (xs : List StatePart) (die : Nat) (e : Event) (q : State → Prop) : Prop :=
  ∃ t u, exec i s = .next t ∧ t = eventMod u die e ∧ q u ∧ Kept xs s u ∧ Kept (.bytes :: .mreg :: .msix :: xs) s t

/-- An island of a die becomes i', and no other island changes. -/
def IslandNow (s t : State) (d p : Nat) (i' : Island) : Prop :=
  (t.die d).island p = i' ∧ ∀ q, q ≠ p → (t.die d).island q = (s.die d).island q

/-- Nothing else of the die changes. -/
def OnlyIsland (s t : State) (d p : Nat) (i' : Island) : Prop := IslandNow s t d p i' ∧ DieBut d (fun y => { y with islands := [] }) s t

/-- A pair becomes pr', and no other pair changes. -/
def PairNow (s t : State) (d p : Nat) (pr' : Pair) : Prop :=
  t.pair d p = pr' ∧ ∀ e q, (e, q) ≠ (d, p) → t.pair e q = s.pair e q

/-- The sheaves that the cores of a die draw in one lap (R336). -/
def lapStatic (s : State) (d : Nat) : Nat :=
  (upto 128).foldl (fun n c => n + planStat (s.die d).eplanNow ((s.die d).island (c / 2)).aratio) 0

/-- R329, R331, R336, R337, R339 to R344, R461 to R464, R482: laps, stops, static charges, the plan, islands, droop and canary
detectors, and heat. -/
def Obligations.EnergyEvents : Prop :=
  (∀ s : State, let d := s.arg.die; let x := s.die d
    s.running d = true → x.cycle % 64 = 0 → x.ring.lapAt ≠ x.cycle + 1 →
    let b := effBudget x.eplan x.tlevel - x.ring.short
    Does .lapStart s [.teams, .pairs, .engines, .bytes, .mreg, .msix, .dies] (fun t =>
      (t.die d).eplanNow = x.eplan ∧ (t.die d).ring.b = b ∧ (t.die d).ring.c = b ∧ (t.die d).ring.taken = 0 ∧ (t.die d).ring.back = 0 ∧
      (t.die d).ring.bad = none ∧ (t.die d).ring.lapAt = x.cycle + 1 ∧
      (t.die d).ring.rsv = (upto 64).foldl (fun n p => n + (t.pair d p).q) 0 ∧
      (∀ p < 64, (t.pair d p).purse = (s.pair d p).purse ∧ (t.pair d p).returned = (s.pair d p).returned ∧
        (t.pair d p).q = if (t.pair d p).claim then min (t.pair d p).need (b / 64) else 0) ∧
      ∀ e p, e ≠ d → t.pair e p = s.pair e p)) ∧
  (∀ s : State, let d := s.arg.die; let p := s.arg.p; let x := s.die d; let r := x.ring; let pr := s.pair d p
    s.running d = true → p < 63 → x.cycle % 64 = p → r.stopAt ≠ x.cycle + 1 → (x.island p).stopped = false → r.bad = none →
    let ring := fun y : Die => { y with ring := {} }
    (s.arg.flag = false →
      let c := r.c + pr.returned
      let n := if pr.claim then min pr.need (c - (r.rsv - pr.q)) else min (4096 - pr.purse) (c - r.rsv)
      Does .ringStopVisit s [.pairs, .dies] (fun t => PairNow s t d p { pr with purse := pr.purse + n, returned := 0 } ∧ DieBut d ring s t ∧
        (t.die d).ring = { r with c := c - n, taken := r.taken + n, back := r.back + pr.returned
                                  rsv := if pr.claim then r.rsv - pr.q else r.rsv, stopAt := x.cycle + 1 })) ∧
    (s.arg.flag = true → LogsMod .ringStopVisit s [.pairs, .dies] d { code := 0x81, cause := 1, value := p * 2 ^ 32 + r.taken % 2 ^ 32 }
      (fun u => PairNow s u d p { pr with returned := 0 } ∧ DieBut d ring s u ∧ (u.die d).ring = { r with bad := some p, stopAt := x.cycle + 1 }))) ∧
  (∀ s : State, let d := s.arg.die; let x := s.die d
    s.running d = true → x.cycle % 64 = 63 → x.ring.stopAt = x.cycle + 1 → x.ring.endAt ≠ x.cycle + 1 →
    Does .lapEndStaticCharge s [.bytes, .counters, .dies] (fun t => DieBut d (fun y => { y with ring := {}, house := 0 }) s t ∧
      (t.die d).ring = { x.ring with c := 0, endAt := x.cycle + 1 } ∧
      ((∀ c < 128, groupsOnCore s d c = []) →
        let n := lapStatic s d + if planBallast x.eplanNow then min x.ring.c (x.ring.b / 8) else 0
        x.house.toNat + n < 2 ^ 48 → (t.die d).house.toNat = x.house.toNat + n ∧ Same .bytes s t ∧ Same .counters s t))) ∧
  (∀ s : State, let k := 2048 * s.arg.ctx + s.arg.core; let a := (readCtx s s.arg.ctx).svbase + 8 * s.arg.core
    Does .energyReadClear s [.bytes, .counters] (fun t => t.energyRead = BitVec.ofNat 64 (readEnergy s s.arg.ctx s.arg.core) ∧
      t.coreHeld = s.coreHeld ∧ t.coreEvents = s.coreEvents ∧ (s.coreHeld.contains k = true → tget t.coreEnergy k 0 = 0) ∧
      (∀ j, j ≠ k ∨ s.coreHeld.contains k = false → tget t.coreEnergy j 0 = tget s.coreEnergy j 0) ∧
      ∀ x, homeByte t x = if a ≤ x ∧ x < a + 8 then 0 else homeByte s x)) ∧
  (∀ s : State, Does .eplanWrite s [.dies] (fun t => (t.die s.arg.die).eplan.toNat = s.arg.v.toNat / 64 * 64 ∧
    DieBut s.arg.die (fun y => { y with eplan := 0 }) s t)) ∧
  (∀ s : State, let d := s.arg.die; let p := s.arg.p; let i := (s.die d).island p; let v := s.arg.v.toNat
    p < 64 → Does .islctlWrite s [.dies] (fun t => ∃ i', OnlyIsland s t d p i' ∧ i'.ratio = (if bits v 31 30 = 3 then i.ratio else bits v 31 30) ∧
      i'.step = bits v 29 28 ∧ i'.canary = (i.canary && !s.arg.v.getLsbD 22) ∧ i'.held = (i.held && !s.arg.v.getLsbD 22) ∧
      i'.half = (i.half && (!s.arg.v.getLsbD 22 || i.droopAt.isSome)) ∧ i'.aratio = i.aratio ∧ i'.astep = i.astep ∧ i'.change = i.change ∧
      i'.droopAt = i.droopAt ∧ i'.halvings = i.halvings ∧ i'.warnings = i.warnings ∧ i'.stopped = i.stopped ∧ i'.off = i.off)) ∧
  (∀ (s : State) (when_ r k : Nat), let d := s.arg.die; let i := (s.die d).island s.arg.p
    i.change = some (when_, r, k) → when_ ≤ (s.die d).cycle → Does .ratioChangeComplete s [.dies] (fun t =>
      IslandNow s t d s.arg.p { i with change := none, aratio := r, astep := k } ∧
      DieBut d (fun y => { y with islands := [], house := 0 }) s t)) ∧
  (∀ s : State, let d := s.arg.die; let p := s.arg.p; let i := (s.die d).island p; let now := (s.die d).cycle
    Does .droopDetect s [.dies] (fun t => OnlyIsland s t d p { i with half := true, droopAt := some now
                                                                      halvings := if i.half then i.halvings else i.halvings + 1 }) ∧
    (∀ f, i.droopAt = some f → f + 4096 ≤ now → Does .droopRecover s [.dies] (fun t =>
      OnlyIsland s t d p { i with half := i.held, droopAt := none })) ∧
    Does .canaryWarning s [.dies] (fun t => OnlyIsland s t d p { i with canary := true, warned := true, warnAt := now, warnings := i.warnings + 1 }) ∧
    (islandBond s d p = none → i.off = true → i.held = false → i.warned = false → i.change = none → i.warnAt + 2 ^ 20 ≤ now → now % 64 = 0 →
      Does .canaryRelax s [.dies] (fun t => OnlyIsland s t d p { i with
        warnAt := now, off := decide (backMove i ≠ (i.ratio, i.step))
        change := if backMove i = (i.aratio, i.astep) then none else some (now + 512, backMove i) }))) ∧
  (∀ s : State, let d := s.arg.die; let x := s.die d; let temp := s.arg.num
    let hot := bits x.eplan.toNat 21 14; let crit := bits x.eplan.toNat 13 6
    s.running d = true → x.cycle % 65536 = 0 → x.sampleAt ≠ x.cycle + 1 →
    let now := fun (t : State) (level dd xx n : Nat) => (t.die d).temp = temp % 256 ∧ (t.die d).tlevel = level ∧ (t.die d).tD = dd ∧
      (t.die d).tX = xx ∧ (t.die d).tCrit = n ∧
      DieBut d (fun y => { y with temp := 0, tlevel := 0, tD := 0, tX := 0, tCrit := 0, sampleAt := 0 }) s t
    (crit ≤ temp → x.tCrit + 1 < 16 → ∃ t u, exec .thermalSample s = .next t ∧ t = eventMod u d { code := 0x86, value := temp } ∧
      now u 3 0 0 (x.tCrit + 1) ∧ Kept [.dies, .bytes, .mreg, .msix] s t) ∧
    (temp < crit → hot ≤ temp → x.tlevel < 3 → 16 ≤ x.tD + 1 →
      LogsMod .thermalSample s [.dies] d { code := 0x85, value := x.tlevel + 1 } (fun u => now u (x.tlevel + 1) 0 0 0)) ∧
    (temp < crit → hot ≤ temp → (3 ≤ x.tlevel ∨ x.tD + 1 < 16) → Does .thermalSample s [.dies] (fun t => now t x.tlevel (x.tD + 1) 0 0)) ∧
    (temp < crit → temp + 4 ≤ hot → 1 ≤ x.tlevel → 16 ≤ x.tX + 1 → 16 ≤ x.tD + 1 →
      LogsMod .thermalSample s [.dies] d { code := 0x85, value := x.tlevel - 1 } (fun u => now u (x.tlevel - 1) 0 0 0)) ∧
    (temp < crit → temp + 4 ≤ hot → (x.tlevel = 0 ∨ x.tX + 1 < 16 ∨ x.tD + 1 < 16) →
      Does .thermalSample s [.dies] (fun t => now t x.tlevel (x.tD + 1) (x.tX + 1) 0)) ∧
    (temp < crit → temp < hot → hot < temp + 4 → Does .thermalSample s [.dies] (fun t => now t x.tlevel (x.tD + 1) 0 0)))

/-! The Granary (R345 to R362, R364, R467, R468). -/

/-- Every episode of the die stands under its own mailbox. -/
def EpsFormed (s : State) (d : Nat) : Prop := risingFrom none (s.die d).episodes = true ∧ ∀ x ∈ (s.die d).episodes, x.2.mbox = x.1

/-- The episode is killed (R361): it is gone and its mailbox is free; an owed step gets its synthetic observation. -/
def Killed (s t : State) (d m : Nat) : Prop :=
  t.ep? d m = none ∧ (t.mbox d m).state = .free ∧
    (∀ n, (s.mbox d m).state = .owe n → (s.mbox d m).obs = none → (s.mbox d m).owed = [] → ∃ h bs, (t.mbox d m).obs = some (h, bs) ∧
      leNat bs = 2 ^ 993 ∧ bits h.toNat 82 82 = 1 ∧ bits h.toNat 83 83 = 1 ∧ bits h.toNat 63 32 = n % 2 ^ 32)

/-- What the end of an episode may touch. -/
def endParts : List StatePart := [.dies, .bytes, .lines, .deckles, .holds, .ownOps, .fabric, .grids, .mreg, .msix]

/-- The hart's instruction retires: rd holds v, the PC is pc, q holds of the state and of the episode, and only the parts listed change. -/
def RvDone (xs : List StatePart) (s : State) (d m rd v pc : Nat) (e : Episode) (q : State → Episode → Prop) : Prop :=
  ∃ t e', exec .hartInstruction s = .next t ∧ t.ep? d m = some e' ∧ WritesX e e' rd v ∧ e'.pc = pc % 2 ^ 64 ∧
    e'.instret = (e.instret + 1) % 2 ^ 64 ∧ e'.stepInstr = e.stepInstr + 1 ∧ e'.state = .run ∧ e'.desc = e.desc ∧ q t e' ∧ Kept xs s t

/-- SRAM and the reservation are as before. -/
def SramKept (s : State) (d : Nat) (e : Episode) (t : State) (e' : Episode) : Prop :=
  (t.die d).sram = (s.die d).sram ∧ (t.die d).sramPoison = (s.die d).sramPoison ∧ e'.reserve = e.reserve

/-- The n bytes of SRAM from index i hold a number. -/
def SramHolds (s t : State) (d i n v : Nat) : Prop :=
  ∀ k, tget (t.die d).sram k 0 = if i ≤ k ∧ k < i + n then BitVec.ofNat 8 (v / 256 ^ (k - i)) else tget (s.die d).sram k 0

/-- R345 to R352, R355, R356, R359, R361, R364, R467, R468: starts, stops, budgets, timeouts, exceptions, failures, and the RV64
instructions of a hart. -/
def Obligations.GranaryEvents : Prop :=
  (∀ s : State, let d := s.arg.die
    let v : BitVec 512 := BitVec.ofNat 512 ((upto 7).foldl (fun v i => v + (tget (s.die d).gstart i 0).toNat * 2 ^ (64 * i)) 0 + s.arg.v.toNat * 2 ^ 448)
    let e := descEpisode s v
    s.running d = true →
    (∀ n, startCheck s d e = .error n → Does .gstart s [.dies] (fun t => (t.die d).gsts = BitVec.ofNat 64 n ∧ DieBut d (fun y => { y with gsts := 0 }) s t)) ∧
    (∀ u h, startCheck s d e = .ok (u, h) → EpsFormed s d → Does .gstart s [.dies] (fun t => ∃ e', t.ep? d e.mbox = some e' ∧ e'.win = u ∧ e'.hart = h ∧
      e'.desc = v ∧ e'.pc = 0x10000000 + 4096 * u + dfield e 327 304 ∧ e'.party = episodeParty d h (s.hart d h).counter ∧
      (t.hart d h).counter = ((s.hart d h).counter + 1) % 2 ^ 19 ∧ (t.die d).gsts = BitVec.ofNat 64 (e'.party * 2 ^ 32) ∧
      (t.mbox d e.mbox).state = .owe 0 ∧ (e'.state = .run ∨ e'.state = .ready) ∧ e'.reserve = none ∧
      (∀ r, e'.rd r = if r = 2 then e'.base + e'.bytes else if r = 10 then e'.base else if r = 11 then e'.bytes
        else if r = 12 then (if dfield e 375 360 = 0 then 0 else 0x200000000) else if r = 13 then e'.party else if r = 14 then e.mbox else 0)))) ∧
  (∀ (s : State) (e : Episode), let d := s.arg.die; let m := s.arg.mbox
    s.ep? d m = some e → EpsFormed s d →
    let dies := fun i : Instr => Does i s endParts (fun t => Killed s t d m ∧ ∀ k, k ≠ m → (t.ep? d k).isSome = (s.ep? d k).isSome)
    dies .gstopNow ∧ (e.cbud < e.stepCycles → dies .cycleBudgetExpiry) ∧
    (e.state = .run → e.ibud ≤ e.stepInstr → waitsNext s d e = false → dies .instructionBudgetRunaway) ∧
    (e.state = .run → s.arg.num ∈ [1, 2, 3, 5, 7, 8, 32] → dies .hartException) ∧
    (s.running d = true → (s.mbox d m).obs = none → dies .mailboxError) ∧
    (∀ rd f, e.state = .wait rd (some f) → f < granCycle s d → e.ibud ≤ e.stepInstr → dies .gmbWaitTimeout) ∧
    (∀ rd f, e.state = .wait rd (some f) → f < granCycle s d → e.stepInstr < e.ibud → Does .gmbWaitTimeout s [.dies] (fun t =>
      t.mbox d m = s.mbox d m ∧ ∃ e', t.ep? d m = some e' ∧ WritesX e e' rd 1 ∧ e'.pc = (e.pc + 4) % 2 ^ 64 ∧
        e'.instret = (e.instret + 1) % 2 ^ 64 ∧ (e'.state = .run ∨ e'.state = .ready))) ∧
    Does .gstopForbidRestart s [.dies] (fun t => t.ep? d m = some { e with mayRestart := false } ∧ ∀ k, k ≠ m → t.ep? d k = s.ep? d k)) ∧
  (∀ s : State, let d := s.arg.die; let h := s.arg.hart
    s.running d = true → h < 32 → (s.hart d h).retired = false → EpsFormed s d → Does .hartFailure s endParts (fun t =>
      (t.hart d h).retired = true ∧ (t.hart d h).running = none ∧ (∀ m e, s.ep? d m = some e → e.hart = h → Killed s t d m) ∧
      ∀ m e, s.ep? d m = some e → e.hart ≠ h → (t.ep? d m).isSome = true)) ∧
  (∀ (s : State) (d m : Nat) (e : Episode), EpisodeAt s d m e →
    let next := e.pc + s.arg.num
    let kept := SramKept s d e
    let done := fun (r : Rv) (rd v pc : Nat) (q : State → Episode → Prop) => s.arg.rv = r → RvDone [.dies] s d m rd v pc e q
    let pmp := (s.hart d e.hart).pmp = e.pmp
    let obj := readObj s e.ctx e.hbmCap.oid.toNat
    (∀ rd imm, done (.lui rd imm) rd (wrapN imm 64) next kept) ∧
    (∀ rd imm, done (.auipc rd imm) rd (wrapN (e.pc + imm) 64) next kept) ∧
    (∀ rd off, done (.jal rd off) rd next (wrapN (e.pc + off) 64) kept) ∧
    (∀ rd rs off, done (.jalr rd rs off) rd next (wrapN (e.rd rs + off) 64 / 2 * 2) kept) ∧
    (∀ c a b off, done (.branch c a b off) 0 0 (if rvHolds c (e.rd a) (e.rd b) then wrapN (e.pc + off) 64 else next) kept) ∧
    (∀ o w rd a imm, done (.opImm o w rd a imm) rd (rvWide w (fun n => rvEval o n (e.rd a) (wrapN imm 64))) next kept) ∧
    (∀ o w rd a b, done (.op o w rd a b) rd (rvWide w (fun n => rvEval o n (e.rd a) (e.rd b))) next kept) ∧
    (∀ o w rd a, done (.op1 o w rd a) rd (rvWide w (fun n => rvEval1 o n (e.rd a))) next kept) ∧
    (∀ o rd im num v, csrValue s d e num = some v → o ≠ .rw → done (.csr o rd 0 im num) rd v next kept) ∧
    done .fence 0 0 next kept ∧ done .fenceI 0 0 next kept ∧
    (∀ rd rs off n sg, let a := wrapN (e.rd rs + off) 64; let v := sramNat s d (a - 0x10000000) n
      pmp → e.inSram a n = true → sramMarked s d (a - 0x10000000) n = false →
      done (.load rd rs off n sg) rd (if sg then wrapN (sextN v (8 * n)) 64 else v) next kept) ∧
    (∀ rd rs off n sg p oo, let a := wrapN (e.rd rs + off) 64
      hartAccess s d e a n false = .hbm p oo → (∀ k < n, homePoison s (p + k) = false) → s.arg.rv = .load rd rs off n sg →
      let v := leNat ((upto n).map (fun k => homeByte s (p + k)))
      RvDone [.dies, .bytes] s d m rd (if sg then wrapN (sextN v (8 * n)) 64 else v) next e (fun t e' => kept t e' ∧
        ∀ x, homeByte t x = homeByte (markPage s obj false oo) x)) ∧
    (∀ a b off n p oo, let x := wrapN (e.rd a + off) 64
      hartAccess s d e x n true = .hbm p oo → s.arg.rv = .store a b off n →
      RvDone [.dies, .bytes] s d m 0 0 next e (fun t e' => kept t e' ∧
        PlacesHold (markPage s obj true oo) t p (leBytes n (e.rd b)))) ∧
    (∀ a b off n, let x := wrapN (e.rd a + off) 64
      pmp → e.inSram x n = true → done (.store a b off n) 0 0 next (fun t e' => e'.reserve = e.reserve ∧ SramHolds s t d (x - 0x10000000) n (e.rd b))) ∧
    (∀ rd rs n, let a := e.rd rs
      e.inSram a n = true → sramMarked s d (a - 0x10000000) n = false → done (.lr rd rs n) rd (wrapN (sextN (sramNat s d (a - 0x10000000) n) (8 * n)) 64) next
        (fun t e' => (t.die d).sram = (s.die d).sram ∧ e'.reserve = some (a, n))) ∧
    (∀ rd rs b n, let a := e.rd rs
      e.inSram a n = true →
      (inReserve e.reserve a n = true → done (.sc rd rs b n) rd 0 next (fun t e' => e'.reserve = none ∧ SramHolds s t d (a - 0x10000000) n (e.rd b))) ∧
      (inReserve e.reserve a n = false → done (.sc rd rs b n) rd 1 next (fun t e' => e'.reserve = none ∧ (t.die d).sram = (s.die d).sram))) ∧
    (∀ o rd rs b n, let a := e.rd rs; let v := sramNat s d (a - 0x10000000) n
      e.inSram a n = true → sramMarked s d (a - 0x10000000) n = false → done (.amo o rd rs b n) rd (wrapN (sextN v (8 * n)) 64) next
        (fun t e' => e'.reserve = e.reserve ∧ SramHolds s t d (a - 0x10000000) n (rvAmoEval o (8 * n) v (e.rd b)))))

/-! The host, the routing die and peer modules (R370, R374, R378 to R382, R388 to R391, R453, R472 to R474). -/

/-- A connection table entry stands with a STATE and the other fields of a word; the rest of the table and the seams and ports are as
before. -/
def CircuitNow (s t : State) (i : Nat) (v : Dword) (st : Nat) (wanted : Bool) : Prop :=
  (let e := tget t.circuits i 0
   circState e = st ∧ e.getLsbD 63 = wanted ∧ circEpa e = circEpa v ∧ circEpb e = circEpb v ∧ circNw e = circNw v) ∧
  (∀ j, j ≠ i → tget t.circuits j 0 = tget s.circuits j 0) ∧ t.seams = s.seams ∧ t.ports = s.ports ∧ t.replays = s.replays ∧
  t.hostLinkDown = s.hostLinkDown ∧ t.hostOut = s.hostOut

/-- A seam or a port becomes another; the other seams, ports and the circuits are as before. -/
def SeamNow (s t : State) (i : Nat) (m : Seam) : Prop :=
  tget t.seams i {} = m ∧ (∀ j, j ≠ i → tget t.seams j {} = tget s.seams j {}) ∧ t.circuits = s.circuits ∧ t.ports = s.ports ∧ t.circLost = s.circLost
def PortNow (s t : State) (p lost : Nat) : Prop :=
  tget t.ports p 0 = lost ∧ (∀ j, j ≠ p → tget t.ports j 0 = tget s.ports j 0) ∧ t.circuits = s.circuits ∧ t.seams = s.seams

/-- The registers of the module block but one. -/
def OtherRegs (s t : State) (o : Nat) : Prop := ∀ p, p ≠ o → t.reg p = s.reg p

/-- R370, R374, R378 to R382, R388 to R391, R453, R472 to R474: the aperture, registers, circuits, missing paths, seams, ports, far accesses
and messages, and the loss of a peer. Which die writes a record that no die causes is the model's choice (log 32), as is the answer to an
access that names no object (log 33). -/
def Obligations.HostAndFabricEvents : Prop :=
  (∀ s : State, let a := (s.reg 0x100).toNat + s.arg.off
    (s.arg.data = none → exec .apertureAccess s = .next s) ∧
    (∀ bs, s.arg.data = some bs → s.arg.off + bs.length ≤ 2 ^ 34 → a + bs.length ≤ 2 ^ 40 → s.running (stackOf a) = true →
      Does .apertureAccess s [.bytes] (fun t => PlacesHold s t a bs))) ∧
  (∀ s : State, let i := s.arg.idx; let v := s.arg.v; let e := tget s.circuits i 0
    i < 1024 → (v.getLsbD 63 = true → Does .circuitSet s [.circuits] (fun t => CircuitNow s t i v (if circBad s i v then 3 else 1) true)) ∧
    (v.getLsbD 63 = false → Does .circuitClear s [.circuits] (fun t => CircuitNow s t i v (circState e) false ∧
      (e.getLsbD 63 = true → circState e = 1 ∨ circState e = 2 → tget t.circDrain i 0 = e))) ∧
    (e.getLsbD 63 = true → circState e = 1 → Does .circuitUp s [.circuits] (fun t => CircuitNow s t i e 2 true)) ∧
    (e.getLsbD 63 = false → Does .circuitDown s [.circuits] (fun t => CircuitNow s t i e 0 false ∧ tget t.circDrain i 0 = 0)) ∧
    (circState e = 2 → LogsMod .wavelengthLoss s [.circuits] ((lowestUp s).getD 0) { code := 0x8B, value := i } (fun u =>
      tget u.circLost i 0 = tget s.circLost i 0 + 1 ∧
      (circNw e ≤ tget s.circLost i 0 + 1 → CircuitNow s u i e 3 (e.getLsbD 63)) ∧ (tget s.circLost i 0 + 1 < circNw e → u.circuits = s.circuits)))) ∧
  (∀ (s : State) (w : PathWait), s.paths.find? (fun w => decide (w.id = s.arg.id)) = some w → w.since + 2 ^ 20 ≤ (s.die (waitDie s w)).cycle →
    (∀ k e, w.engine = some k → findEng s k = some e → Does .pathTimeout s [.engines] (fun t => ∀ y ∈ t.engines, y.id = k → y.status = some 7)) ∧
    (∀ g x, w.engine = none → w.own = none → w.handle < 8192 → w.acc ≠ 8 → s.group? w.die w.handle w.grp = some g → g.num = w.grp →
      g.slotOf w.slot = some x →
      w.slot < 2 → (∃ m gr, s.team? w.die w.handle = some m ∧ s.grid? m.grid = some gr ∧ gr.aborted = false) →
      Does .pathTimeout s [.teams, .dies] (fun t => ∃ g', t.group? w.die w.handle w.grp = some g' ∧ g'.slotOf w.slot = some { x with trapped := true } ∧
        g'.regs = g.regs ∧ g'.run = none ∧ ∃ r ∈ (t.die g.die).traps, r.code = 0x80 ∧ r.tdie = w.die ∧ r.handle = w.handle ∧ r.grp = w.grp ∧ r.pc = x.pc ∧ r.mask = w.mask))) ∧
  (∀ s : State, let k := s.arg.unit; let m := tget s.seams k {}; let d := 2 * k; let w := if s.running d then d else d + 1
    (k < 8 → m.losses < 2 → LogsMod .seamRetrain s [.circuits] w { code := 0x8A, value := if m.losses = 0 then 800 else 400 } (fun u =>
      SeamNow s u k { losses := m.losses + 1, till := some ((s.die d).cycle + 65536) })) ∧
    (k < 8 → m.losses = 2 → (∀ x ∈ s.teams, x.span ≠ 3) → LogsMod .seamRetrain s [.circuits] w { code := 0x8A, value := 0 } (fun u =>
      SeamNow s u k { losses := 3, till := none })) ∧
    Does .seamRetrainComplete s [.circuits] (fun t => SeamNow s t k { m with till := none })) ∧
  (∀ s : State, let p := s.arg.p; let w := (lowestUp s).getD 0
    p < 36 → tget s.ports p 0 < 4 →
    let k := 2 ^ 32 * p + s.arg.v.toNat % 2 ^ 32; let lost := tget s.ports p 0 + 1
    let counts := fun (t : State) (n : Nat) => tget t.replays k 0 = n ∧ (∀ j, j ≠ k → tget t.replays j 0 = tget s.replays j 0) ∧
      t.ports = s.ports ∧ t.circuits = s.circuits
    (s.arg.flag = true → Does .flitReplay s [.circuits] (counts · 0)) ∧
    (s.arg.flag = false → tget s.replays k 0 < 15 → Does .flitReplay s [.circuits] (counts · (tget s.replays k 0 + 1))) ∧
    (s.arg.flag = false → 15 ≤ tget s.replays k 0 → LogsMod .flitReplay s [.circuits] w { code := 0x8C, value := p } (fun u => PortNow s u p 4)) ∧
    (s.arg.flag = true → lost < 4 → Does .fabricLinkDown s [.circuits] (fun t => PortNow s t p lost ∧ t.replays = s.replays)) ∧
    (s.arg.flag = false ∨ 4 ≤ lost → LogsMod .fabricLinkDown s [.circuits] w { code := 0x8C, value := p } (fun u => PortNow s u p 4))) ∧
  (∀ s : State, let ends := fun down : Bool => Does .hostLinkFailure s [.circuits] (fun t => t.hostLinkDown = down ∧ t.circuits = s.circuits ∧
      t.seams = s.seams ∧ t.ports = s.ports)
    (s.arg.flag = true → ends true) ∧ (s.arg.flag = false → s.arg.p < 2 → s.hostOut = [1 - s.arg.p] → ends true) ∧
    (s.arg.flag = false → s.hostOut = [] → ends s.hostLinkDown)) ∧
  (∀ s : State, let m := s.arg.unit; let c := s.arg.ctx
    domainUp s = true → s.lostPeers.contains m = false →
    let answers := fun (t : State) (d : Option (List Byte)) (marks : List Bool) =>
      t.farReplies = s.farReplies ++ [{ module := m, ctx := c, data := d, marks := marks }] ∧ t.imports = s.imports ∧ t.farOut = s.farOut ∧ t.lostPeers = s.lostPeers
    (boundCtx s m c = none → farOk s.arg.off s.arg.far = true → Does .farAccessArrival s [.fabric] (fun t => answers t none [])) ∧
    (∀ x p, boundCtx s m c = some x → let o := readObj s x s.arg.oid
      o.valid = true → o.far = false → s.arg.off + farLen s.arg.far ≤ o.size → placeOf s o s.arg.off = some p → s.running (stackOf p) = true →
      farOk s.arg.off s.arg.far = true → let u := markPage s o (farStores s.arg.far) s.arg.off
      (∀ n, s.arg.far = .read n → Does .farAccessArrival s [.fabric, .bytes, .grids] (fun t =>
        answers t (some ((upto n).map (fun i => homeByte u (p + i)))) ((upto n).map (fun i => homePoison u (p + i))) ∧ Same .bytes u t)) ∧
      (∀ bs, s.arg.far = .write bs → Does .farAccessArrival s [.fabric, .bytes, .grids] (fun t => answers t (some []) [] ∧ PlacesHold u t p bs)) ∧
      (∀ op n v cmp, s.arg.far = .atom op n v cmp → (homeMarks u p n).any id = false → Does .farAccessArrival s [.fabric, .bytes, .grids] (fun t =>
        answers t (some (leBytes n (homeNat u p n))) (homeMarks u p n) ∧ BytesKept u t (fun a => p ≤ a ∧ a < p + n)))) ∧
    (∀ x, boundCtx s m c = some x → let o := readObj s x s.arg.oid
      farOk s.arg.off s.arg.far = true → (o.valid = false ∨ o.far = true ∨ o.size < s.arg.off + farLen s.arg.far ∨ placeOf s o s.arg.off = none) →
      Does .farAccessArrival s [.fabric] (fun t => answers t none [])) ∧
    (∀ roid base len, let o := readObj s c s.arg.oid
      s.arg.msg = .lendIn roid base len → o.far = true → farName o = (m, roid) →
      (∀ i ∈ s.imports, i.1 = c → i.2.1 = s.arg.oid → overlaps i.2.2.1 i.2.2.2 base len = false) →
      Does .farOwnershipMessage s [.fabric] (fun t => t.imports = s.imports ++ [(c, s.arg.oid, base, len)] ∧ t.farReplies = s.farReplies ∧
        t.farOut = s.farOut ∧ t.lostPeers = s.lostPeers)) ∧
    (∀ roid base x d l rest, s.arg.msg = .returnIn roid base → boundCtx s m c = some x →
      s.deckles.find? (fun d => decide (d.ctx = x) && decide (d.oid = roid) && decide (d.base = base)) = some d → d.state = 1 → d.holder = peerParty m →
      nextLender s x none d.lend.reverse = some (l, rest) → spillFor s x l = some s →
      Does .farOwnershipMessage s [.bytes, .lines, .deckles, .holds] (fun t =>
        { d with state := 1, holder := l, lend := rest.reverse } ∈ t.deckles ∧
        ∃ h ∈ t.holds, h.ctx = x ∧ h.party = l ∧ h.oid = roid ∧ h.base = base ∧ h.len = d.len ∧ h.kind = 0))) ∧
  (∀ s : State, let m := s.arg.unit
    m < 1024 → (∀ i ∈ s.imports, (farName (readObj s i.1 i.2.1)).1 ≠ m) → Does .peercmd s [.fabric, .bytes, .deckles, .holds, .lines, .mreg, .msix] (fun t =>
      m ∈ t.lostPeers ∧ t.imports = s.imports ∧ ∀ d ∈ s.deckles, d.state = 1 → d.holder = peerParty m →
        ∃ d' ∈ t.deckles, sameEntry d d' = true ∧ d'.state = 5 ∧ d'.former = peerParty m)) ∧
  (∀ s : State, let v := s.arg.v
    ((s.reg 0x118).getLsbD 63 = true → exec .modnumWrite s = .next s) ∧
    ((s.reg 0x118).getLsbD 63 = false → Does .modnumWrite s [.mreg] (fun t => OtherRegs s t 0x118 ∧ (t.reg 0x118).getLsbD 63 = v.getLsbD 63 ∧
      (t.reg 0x118).toNat % 2 ^ 63 = bits v.toNat 9 0)) ∧
    (s.arg.flag = false → storedModReg s.arg.off = true → (s.arg.off = 0x108 ∨ s.arg.off = 0x110 → anyValid s = false) →
      Does .registerWrite s [.mreg] (fun t => OtherRegs s t s.arg.off ∧ t.reg s.arg.off = v)) ∧
    (s.arg.flag = true → s.arg.die < 16 → s.arg.off ∈ [0x1000, 0x1018, 0x2050, 0x2058, 0x2068] → Does .registerWrite s [.dies] (fun t =>
      readDieReg t s.arg.die s.arg.off = (if s.arg.off = 0x1000 then v.toNat / 16 * 16 + v.toNat % 2 else v.toNat) ∧
      DieBut s.arg.die (fun y => { y with scring := 0, scHead := 0, gerBase := 0, gerSize := 0, gerHead := 0 }) s t)) ∧
    (s.arg.flag = true → s.arg.die < 16 → ∀ k < 7, s.arg.off = 0x2000 + 8 * k → Does .registerWrite s [.dies] (fun t =>
      (∀ j, tget (t.die s.arg.die).gstart j 0 = if j = k then v else tget (s.die s.arg.die).gstart j 0) ∧
      DieBut s.arg.die (fun y => { y with gstart := [] }) s t)))

/-! Management updates (R72, R73, R301 to R303, R305, R387, R391, R425). -/

/-- A register of the management update block. -/
def muWindow (o : Nat) : Bool := decide (0x3B0000 ≤ o ∧ o < 0x3B0140)

/-- The block after an update: what was asked, the status with the status of R92, and the old value where one is returned. -/
def MuEnds (s t : State) (st own : Nat) (old : Option Nat) : Prop :=
  let u := s.arg.mu
  t.muWait = none ∧ t.reg 0x3B0000 = u.sel ∧ t.reg 0x3B0008 = u.idx ∧ t.reg 0x3B0018 = BitVec.ofNat 64 (65536 + own * 256 + st) ∧
  ∀ i < 16, (t.reg (0x3B0040 + 8 * i)).toNat = u.new / 2 ^ (64 * i) % 2 ^ 64 ∧
    (t.reg (0x3B00C0 + 8 * i)).toNat = match old with | some v => v / 2 ^ (64 * i) % 2 ^ 64 | none => (s.reg (0x3B00C0 + 8 * i)).toNat

/-- The same, and no other register of the module block changes. -/
def MuOnly (s t : State) (st own : Nat) (old : Option Nat) : Prop :=
  MuEnds s t st own old ∧ ∀ o, muWindow o = false → t.reg o = s.reg o

/-- The steps of the kinds that update an entry or a list, by number. -/
def muSteps : List (Instr × Nat) :=
  [(.muObjectEntry, 0), (.muPageEntry, 1), (.muContextDescriptor, 2), (.muQueueDescriptor, 3), (.muFrameAppend, 4), (.muHostShare, 5),
    (.muHostUnshare, 6), (.muDomainImport, 7)]

/-- R72, R73, R301 to R303, R305, R387, R391, R425: each kind of update, the read of a current value, and what MUSTS tells. That kinds 4 to 6
leave MUOLD as it was is the model's choice (log 28). -/
def Obligations.ManagementEvents : Prop :=
  (∀ (s : State) (e : Instr × Nat), e ∈ (Instr.muReadOnly, 0) :: muSteps →
    s.arg.flag = false → (∀ v, s.muWait = some v → Does e.1 s [.mreg] (fun t => t.reg 0x3B0018 = 1 ∧ ∀ o, o ≠ 0x3B0018 → t.reg o = s.reg o)) ∧
    (s.muWait = none → 8 ≤ muKind s.arg.mu → Does e.1 s [.mreg] (fun t => MuOnly s t 3 0 none))) ∧
  (∀ s : State, let u := s.arg.mu
    s.arg.flag = false → s.muWait = none → muKind u < 8 →
    let tells := fun (n : Nat) (old : Option Nat) => Does .muReadOnly s [.mreg] (fun t => MuOnly s t n 0 old)
    (muKind u ∈ [4, 5, 6] → tells 0 none) ∧ (muKind u ∉ [4, 5, 6] → ∀ p, muEntry s u = some p → tells 0 (some (muValue s p))) ∧
    (muKind u ∉ [4, 5, 6] → muEntry s u = none → tells 3 none)) ∧
  (∀ (s : State) (e : Instr × Nat), e ∈ muSteps → s.arg.flag = false → s.muWait = none → muKind s.arg.mu = e.2 → e.2 ∉ [4, 5, 6] → muEntry s s.arg.mu = none →
    Does e.1 s [.mreg] (fun t => MuOnly s t 3 0 none)) ∧
  (∀ (s : State) (p : Nat × Nat), let u := s.arg.mu; let n := u.new; let old := muValue s p; let ctx := muCtx u; let oid := muOid u
    s.arg.flag = false → s.muWait = none → muEntry s u = some p → p.1 + p.2 ≤ 2 ^ 40 →
    let flushes := fun (i : Instr) (xs : List StatePart) (v : Nat) (q : State → Prop) => Does i s (.mreg :: .bytes :: .lines :: xs) (fun t =>
      MuOnly s t 0 0 (some old) ∧ muValue t p = v ∧ HomesKept s t (fun a => p.1 ≤ a ∧ a < p.1 + p.2) ∧ q t)
    let dropped := fun t : State => (∀ d, d ∈ t.deckles ↔ d ∈ s.deckles ∧ ¬(d.ctx = ctx ∧ d.oid = oid)) ∧
      (∀ h, h ∈ t.holds ↔ h ∈ s.holds ∧ ¬(h.ctx = ctx ∧ h.oid = oid)) ∧
      ∀ i, i ∈ t.imports ↔ i ∈ s.imports ∧ ¬(i.1 = ctx ∧ i.2.1 = oid)
    let writes := fun (i : Instr) (xs : List StatePart) (v : Nat) => Does i s (.mreg :: .bytes :: xs) (fun t =>
      MuOnly s t 0 0 (some old) ∧ muValue t p = v ∧ BytesKept s t (fun a => p.1 ≤ a ∧ a < p.1 + p.2))
    -- an object entry: SEQ is one more, reserved bits are 0; the object goes home first, and an immutable one has no deckles
    (muKind u = 0 →
      let v := at_ (bits n 203 120) 120 84 + at_ (bits old 119 112 + 1) 112 8 + at_ (bits n 111 94) 94 18
      (bits n 111 100 = bits old 111 100 → bits n 99 96 ≠ 0 → bits n 95 95 = 0 → flushes .muObjectEntry [] v (fun _ => True)) ∧
      (bits n 111 100 = bits old 111 100 → bits n 99 96 ≠ 0 → bits n 95 95 = 1 →
        flushes .muObjectEntry [.deckles, .holds, .fabric] v dropped) ∧
      (bits n 111 100 ≠ bits old 111 100 ∨ bits n 99 96 = 0 →
        ((∃ d ∈ s.deckles, d.ctx = ctx ∧ d.oid = oid ∧ d.state = 4) ∨ (∃ o ∈ s.ownOps, o.ctx = ctx ∧ o.oid = oid) →
          Does .muObjectEntry s [.mreg, .update] (fun t => t.muWait = some u ∧ t.reg 0x3B0018 = 0)) ∧
        ((∀ d ∈ s.deckles, d.ctx = ctx → d.oid = oid → d.state ≠ 4) → (∀ o ∈ s.ownOps, o.ctx = ctx → o.oid ≠ oid) →
          Does .muObjectEntry s [.mreg, .msix, .bytes, .deckles, .holds, .fabric, .lines] (fun t =>
            MuEnds s t 0 0 (some old) ∧ muValue t p = v ∧ dropped t ∧
            (∀ c ∈ t.lines, inPlaces (objectPlaces s ctx oid) c = true → c.dirty = 0))))) ∧
    -- a page entry: SEQ is one more; the page goes home first
    (muKind u = 1 → flushes .muPageEntry [.pressed, .grids] (at_ (bits n 63 12) 12 52 + at_ (old + 1) 0 8) (fun _ => True)) ∧
    -- a context descriptor: CTX is its index; while a grid lives the fixed fields stay
    (muKind u = 2 →
      let v := at_ (bits n 1023 437) 437 587 + at_ ctx 425 12 + at_ (bits n 424 384) 384 41
      let fixed := fun x : Nat => (bits x 1023 508, bits x 424 384)
      (ctxBusy s ctx = false ∨ fixed v = fixed old → writes .muContextDescriptor [] v) ∧
      (ctxBusy s ctx = true → fixed v ≠ fixed old → Does .muContextDescriptor s [.mreg] (fun t => MuOnly s t 2 0 (some old)))) ∧
    -- a queue descriptor: HEAD is the device's
    (muKind u = 3 → writes .muQueueDescriptor []
      (at_ (bits n 255 172) 172 84 + at_ (bits old 159 128) 128 32 + at_ (bits n 95 40) 40 56 + n % 2)) ∧
    -- the domain table and the import tables
    (muKind u = 7 →
      (u.idx.getLsbD 22 = true → writes .muDomainImport [] (at_ (bits n 63 63) 63 1 + n % 2 ^ 40)) ∧
      (u.idx.getLsbD 22 = false →
        let t := rdNat s.hbm ((s.reg 0x120).toNat + 8 * bits u.idx.toNat 9 0) 8
        (bits t 63 63 = 0 → Does .muDomainImport s [.mreg] (fun t => MuOnly s t 3 0 none)) ∧
        (bits t 63 63 = 1 → writes .muDomainImport [] (at_ (bits n 15 15) 15 1 + n % 4096))))) ∧
  -- an object entry that waits is tried again
  (∀ (s : State) (u : MuArgs), s.arg.flag = true → s.muWait = some u → muKind u = 0 → (muEntry s u).isSome = true →
    let old := ((muEntry s u).map (muValue s)).getD 0; let mine := fun ctx oid : Nat => ctx = muCtx u ∧ oid = muOid u
    bits u.new 111 100 ≠ bits old 111 100 →
    ((∃ o ∈ s.ownOps, mine o.ctx o.oid) → Does .muObjectEntry s [.mreg] (fun t => t.reg 0x3B0018 = 0 ∧ ∀ o, o ≠ 0x3B0018 → t.reg o = s.reg o)) ∧
    ((∀ d ∈ s.deckles, mine d.ctx d.oid → d.state ≠ 4) → (∀ o ∈ s.ownOps, ¬mine o.ctx o.oid) →
      Does .muObjectEntry s [.mreg, .msix, .bytes, .deckles, .holds, .fabric, .lines, .update] (fun t => t.muWait = none ∧
        t.reg 0x3B0018 = 65536 ∧ ∀ d, d ∈ t.deckles ↔ d ∈ s.deckles ∧ ¬mine d.ctx d.oid))) ∧
  -- a frame appended to a list
  (∀ s : State, let u := s.arg.mu; let ctx := muCtx u; let k := bits u.sel.toNat 23 20; let x := readList s ctx k
    let entry := x.rbase + 8 * (x.tail % 2 ^ x.log2n); let word := listAddr s ctx k + 20
    s.arg.flag = false → s.muWait = none → muKind u = 4 →
    (x.full = true → Does .muFrameAppend s [.mreg] (fun t => MuOnly s t 3 0 none)) ∧
    (x.full = false → entry + 8 ≤ 2 ^ 40 → word + 4 ≤ 2 ^ 40 → entry + 8 ≤ word ∨ word + 4 ≤ entry →
      Does .muFrameAppend s [.mreg, .bytes] (fun t => MuOnly s t 0 0 none ∧ rdNat t.hbm entry 8 = bits u.new 39 16 * 2 ^ 16 ∧
        rdNat t.hbm word 4 = (x.tail + 1) % 2 ^ 32 ∧
        BytesKept s t (fun a => (entry ≤ a ∧ a < entry + 8) ∨ (word ≤ a ∧ a < word + 4))))) ∧
  -- a host queue's share of a region
  (∀ s : State, let u := s.arg.mu; let ctx := muCtx u; let oid := muOid u; let q := queueParty (bits u.idx.toNat 63 50)
    let base := bits u.idx.toNat 39 0; let len := u.new % 2 ^ 40; let ob := readObj s ctx oid
    let good := oid < (readCtx s ctx).odlen ∧ ob.valid = true ∧ ob.imm = false ∧ base % 256 = 0 ∧ len % 256 = 0 ∧ len ≠ 0 ∧ base + len ≤ ob.size
    let quiet := (∀ o ∈ s.ownOps, o.ctx = ctx → o.oid ≠ oid) ∧ (∀ d < 16, (s.die d).boot ≠ 3) ∧ ob.far = false
    let tells := fun (i : Instr) (own : Nat) => Does i s [.mreg, .update] (fun t => MuOnly s t 0 own none)
    s.arg.flag = false → s.muWait = none →
    (∀ e ∈ [(Instr.muHostShare, 5), (.muHostUnshare, 6)], muKind u = e.2 → ¬good → Does e.1 s [.mreg] (fun t => MuOnly s t 3 0 none)) ∧
    (muKind u = 5 → good → quiet → s.deckles = [] →
      Does .muHostShare s [.mreg, .update, .deckles, .holds, .lines] (fun t => MuOnly s t 0 0 none ∧
        t.deckles = [{ ctx := ctx, oid := oid, base := base, len := len, state := 2, shares := 1 }] ∧
        ∃ h ∈ t.holds, h.ctx = ctx ∧ h.party = q ∧ h.oid = oid ∧ h.base = base ∧ h.len = len ∧ h.kind = 1)) ∧
    (muKind u = 5 → good → quiet → ∀ d, s.deckles = [d] → d.ctx = ctx → d.oid = oid → d.base = base → d.len = len →
      (∀ h ∈ s.holds, h.party ≠ q) → (d.state = 1 → tells .muHostShare 1) ∧ (d.state = 5 → tells .muHostShare 7)) ∧
    (muKind u = 6 → good → quiet → s.deckles = [] → tells .muHostUnshare 8))

/-! Traps and the debugger (R394 to R413, R418, R443). -/

/-- DSTS of a die reads a value, and no other die's changes. -/
def DstsNow (s t : State) (d v : Nat) : Prop :=
  (t.die d).dsts = BitVec.ofNat 64 v ∧ ∀ e, e ≠ d → (t.die e).dsts = (s.die e).dsts

/-- Groups other than one are as before. -/
def OtherGroups (s t : State) (d h k : Nat) : Prop := ∀ e f j, (e, f, j) ≠ (d, h, k) → t.group? e f j = s.group? e f j

/-- The team that a command names, of the context that it names, while no STEP is under way. -/
def NamedTeam (s : State) (x : Team) : Prop :=
  stepUnderway s s.arg.die = false ∧ TeamAt s s.arg.die s.arg.handle x ∧ x.ctx = s.arg.ctx ∧ s.arg.die < 16

/-- The group that it names. -/
def Named (s : State) (x : Team) (g : Group) : Prop :=
  NamedTeam s x ∧ x.group? s.arg.grp = some g ∧ g.num = s.arg.grp ∧ g.die < 16

/-- A group every one of whose splits is stopped, or goes to the end of its open run and stops there; at most one stopped split keeps
a PC slot (R404). -/
def Stopped (g g' : Group) : Prop :=
  g'.regs = g.regs ∧ g'.live = g.live ∧ g'.run = g.run ∧
  (g'.splits.map (fun y => (y.mask, y.pc, y.wait))).Perm (g.splits.map (fun y => (y.mask, y.pc, y.wait))) ∧
  (g.run = none → (∀ y ∈ g'.splits, y.stopped = true) ∧ (g'.s0 = none ∨ g'.s1 = none)) ∧
  (∀ r, g.run = some r → r.slot < 2 → ∀ y, g.slotOf r.slot = some y → g'.slotOf r.slot = some { y with stopped := false, stopping := true })

/-- Every group of the team on its core is stopped; for another the stop is recorded. -/
def TeamStopped (t : State) (x : Team) : Prop :=
  ∀ e ∈ x.groups, ∃ g', t.group? x.die x.handle e.1 = some g' ∧
    (e.2.awayNow x = true → g' = { e.2 with debugPending := some 1 }) ∧ (e.2.awayNow x = false → Stopped e.2 g')

/-- The fields of a split record hold in their widths (R38). -/
def fits (y : Split) : Prop :=
  y.void = false ∧ y.pc < 2 ^ 40 ∧ y.fam < 2 ^ 16 ∧ y.depth < 2 ^ 8 ∧ (∀ j, y.jpc = some j → j < 2 ^ 40) ∧ ∀ i, y.rsp = some i → i < 0x1FF

/-- The trap that the device raises at a split with no unit to blame (R396, R412, R413, R443). -/
def deviceTrap (s : State) (x : Team) (g : Group) (y : Split) (code : Nat) (m : Mask) (v : Nat) : Trap :=
  { ctx := x.ctx, grid := x.grid, tdie := x.die, handle := x.handle, grp := g.num, born := y.born, caught := caught s x.ctx code, code := code
    slot := if g.s1.any (fun z => z.born == y.born) then 1 else 0, mask := m, detail := BitVec.ofNat 128 v, cycle := (s.die g.die).cycle
    pc := y.pc, rpc := y.pc, depth := y.depth }

/-- The trap stands at the tail of the queue of its group's die, and the split issues nothing more. -/
def Raises (s t : State) (x : Team) (g : Group) (y : Split) (r : Trap) : Prop :=
  (t.die g.die).traps = (s.die g.die).traps ++ [r] ∧ DieBut g.die (fun y => { y with traps := [] }) s t ∧
  OtherGroups s t x.die x.handle g.num ∧
  t.group? x.die x.handle g.num = some (g.mapSplits (fun z => if z.born = y.born then { z with trapped := true } else z))

/-- The group's oldest split. -/
def Oldest (g : Group) (y : Split) : Prop := y ∈ g.splits ∧ ∀ z ∈ g.splits, z ≠ y → y.born < z.born

/-- A resumed group: its registers, the lanes of its masks, and every split runs. -/
def Resumed (g g' : Group) : Prop :=
  g'.regs = g.regs ∧ g'.live = g.splits.foldl (fun m y => m ||| y.mask) 0 ∧ ∀ y ∈ g'.splits, y.stopped = false ∧ y.cause = 0

/-- R402 to R409, R443: DBGCTL, stops, resumes, steps and selections with their results, and the divergence window. That the device takes
no command while a STEP is under way is the model's choice (log 53). -/
def DebuggerCommandsHold : Prop :=
  (∀ s : State, let o := 0x310000 + 8 * s.arg.ctx; let v := s.arg.v
    s.arg.ctx < 4096 →
    ((s.reg o).getLsbD 63 = true → v.getLsbD 63 = false → anyStopped s s.arg.ctx = true → exec .dbgctlWrite s = .next s) ∧
    ((s.reg o).getLsbD 63 = false ∨ v.getLsbD 63 = true ∨ anyStopped s s.arg.ctx = false → Does .dbgctlWrite s [.mreg] (fun t =>
      OtherRegs s t o ∧ ∀ i < 64, (t.reg o).getLsbD i = (v.getLsbD i && decide (58 ≤ i))))) ∧
  (∀ (s : State) (i : Instr), s.arg.die < 16 → i ∈ [Instr.gstop, .tstop, .resume, .step, .select, .tresume] →
    (stepUnderway s s.arg.die = true → exec i s = .next s) ∧
    (stepUnderway s s.arg.die = false →
      (∀ x, s.team? s.arg.die s.arg.handle = some x → x.ctx ≠ s.arg.ctx ∨ (x.group? s.arg.grp = none ∧ i ≠ .tstop ∧ i ≠ .tresume)) →
      Does i s [] (fun t => DstsNow s t s.arg.die 2))) ∧
  (∀ (s : State) (x : Team) (g : Group), let a := s.arg
    Named s x g →
    let ends := fun (i : Instr) (v : Nat) => Does i s [] (fun t => DstsNow s t a.die v)
    let pends := fun (i : Instr) (n : Nat) => Does i s [.teams] (fun t => DstsNow s t a.die 0 ∧ OtherGroups s t a.die a.handle a.grp ∧
      t.group? a.die a.handle a.grp = some { g with debugPending := some n })
    -- a group that is parked or saved
    (g.awayNow x = true → ((dbgctl s x.ctx).getLsbD 61 = false → pends .gstop 1) ∧ pends .resume 2 ∧ ends .step 4) ∧
    (g.awayNow x = false →
      ((dbgctl s x.ctx).getLsbD 61 = false → Does .gstop s [.teams] (fun t => DstsNow s t a.die 0 ∧ OtherGroups s t a.die a.handle a.grp ∧
        ∃ g', t.group? a.die a.handle a.grp = some g' ∧ Stopped g g')) ∧
      ((∀ y ∈ g.splits, y.stopped = false) → ends .resume 1 ∧ ends .step 1) ∧
      (g.isStopped = true → g.editOk x.vregs = false → ends .resume 3) ∧
      (g.isStopped = true → g.editOk x.vregs = true → g.pendOut x.vregs = none → g.splits.foldl (fun m y => m ||| y.mask) 0 ≠ (0 : Mask) →
        Calm s a.die a.handle x → Does .resume s [.teams, .lines] (fun t => DstsNow s t a.die 0 ∧ ∃ g', t.group? a.die a.handle a.grp = some g' ∧
          g'.debugPending = none ∧ Resumed g g')) ∧
      (∀ n y r gr, g.isStopped = true → g.editOk x.vregs = true → g.pendOut x.vregs = some n → n < 4096 → g.splits = y :: r → s.grid? x.grid = some gr →
        gr.aborted = false → Does .resume s [.teams, .dies] (fun t => DstsNow s t a.die 0 ∧ Raises s t x g y (deviceTrap s x g y 0x45 y.mask n))) ∧
      (∀ y, a.idx < 2 → g.slotOf a.idx = some y → y.stopped = true → Does .step s [.teams] (fun t => DstsNow s t a.die (s.die a.die).dsts.toNat ∧
        OtherGroups s t a.die a.handle a.grp ∧ ∃ g', t.group? a.die a.handle a.grp = some g' ∧ g'.slotOf (1 - a.idx) = g.slotOf (1 - a.idx) ∧
          g'.queue = g.queue ∧ g'.regs = g.regs ∧ g'.slotOf a.idx = some { y with stopped := false, stepping := true, cause := 0 })) ∧
      (∀ y z, 2 ≤ a.idx → g.queue[a.idx - 2]? = some y → y.stopped = true → y.void = false → g.s0 = some z → z.stopped = true →
        Does .step s [.teams] (fun t => DstsNow s t a.die (s.die a.die).dsts.toNat ∧ OtherGroups s t a.die a.handle a.grp ∧
          t.group? a.die a.handle a.grp =
            some { g with s0 := some { y with stopped := false, stepping := true, cause := 0 }, queue := g.queue.set (a.idx - 2) z }))) ∧
    Does .select s [.dies] (fun t => DstsNow s t a.die 0 ∧ (t.die a.die).selected = some (a.handle, a.grp) ∧
      DieBut a.die (fun y => { y with selected := none }) s t)) ∧
  (∀ (s : State) (x : Team), let a := s.arg
    NamedTeam s x → (∀ e ∈ x.groups, e.2.num = e.1 ∧ x.group? e.1 = some e.2) →
    let stops := fun i : Instr => Does i s [.teams] (fun t => DstsNow s t a.die 0 ∧ OtherTeams s t a.die a.handle ∧ TeamStopped t x)
    stops .tstop ∧ ((x.group? a.grp).isSome = true → (dbgctl s x.ctx).getLsbD 61 = true → stops .gstop) ∧
    ((∀ e ∈ x.groups, e.2.awayNow x = false ∧ e.2.isStopped = false) → Does .tresume s [] (fun t => DstsNow s t a.die 1)) ∧
    ((∃ e ∈ x.groups, e.2.awayNow x = false ∧ e.2.isStopped = true ∧ e.2.editOk x.vregs = false) →
      Does .tresume s [] (fun t => DstsNow s t a.die 3)) ∧
    (x.groups ≠ [] → (∀ e ∈ x.groups, e.2.awayNow x = true) → Does .tresume s [.teams] (fun t => DstsNow s t a.die 0 ∧
      OtherTeams s t a.die a.handle ∧ ∀ e ∈ x.groups, t.group? a.die a.handle e.1 = some { e.2 with debugPending := some 2 })) ∧
    (Calm s a.die a.handle x → (∃ e ∈ x.groups, e.2.isStopped = true) →
      (∀ e ∈ x.groups, e.2.awayNow x = false ∧ (e.2.isStopped = true → e.2.editOk x.vregs = true ∧ e.2.pendOut x.vregs = none ∧
        e.2.splits.foldl (fun m y => m ||| y.mask) 0 ≠ (0 : Mask))) →
      Does .tresume s [.teams, .lines] (fun t => DstsNow s t a.die 0 ∧
        ∀ e ∈ x.groups, e.2.isStopped = true → ∃ g', t.group? a.die a.handle e.1 = some g' ∧ Resumed e.2 g'))) ∧
  (∀ s : State, let d := s.arg.die; let off := s.arg.off; let v := s.arg.v
    ((s.die d).selected = none → exec .divergenceWindowWrite s = .next s ∧ ∀ o, windowRead s d o = 0) ∧
    (∀ h k x g, (s.die d).selected = some (h, k) → TeamAt s d h x → x.group? k = some g → g.num = k →
      -- reads
      ((windowRead s d 0).testBit 0 = true ∧ (windowRead s d 0).testBit 1 = g.allStopped ∧ (windowRead s d 0).testBit 2 = g.awayNow x) ∧
      ((∃ y ∈ g.splits, y.stopped = true) →
        windowRead s d 8 = g.wb ∧ windowRead s d 0x10 = g.fflags.toNat ∧ windowRead s d 0x2180 = g.pendScalars.toNat ∧
        (∀ i y j, i < 2 → g.slotOf i = some y → fits y → j < 4 → windowRead s d (0x40 + 32 * i + 8 * j) = y.bits / 2 ^ (64 * j) % 2 ^ 64) ∧
        (∀ j < 16, windowRead s d (0x2100 + 8 * j) = readS g j) ∧
        (∀ n l, n < x.vregs → l < g.width → l < 128 → l % 2 = 0 → windowRead s d (0x10000 + 512 * n + 4 * l) =
          readReg g n l + (if l + 1 < g.width then 2 ^ 32 * readReg g n (l + 1) else 0))) ∧
      -- writes
      (g.allStopped = false ∨ off % 8 ≠ 0 → Does .divergenceWindowWrite s [] (fun _ => True)) ∧
      (g.allStopped = true →
        let writes := fun g' : Group => Does .divergenceWindowWrite s [.teams] (fun t => OtherGroups s t d h k ∧ t.group? d h k = some g')
        (off = 8 → writes { g with wb := v.toNat }) ∧
        (off = 0x10 → writes { g with fflags := BitVec.ofNat 5 v.toNat }) ∧
        (∀ i y, i < 2 → g.slotOf i = some y → fits y →
          let record := fun m : Mask => Does .divergenceWindowWrite s [.teams] (fun t => OtherGroups s t d h k ∧ ∃ g' a,
            t.group? d h k = some g' ∧ g'.regs = g.regs ∧ g'.queue = g.queue ∧ g'.slotOf (1 - i) = g.slotOf (1 - i) ∧
            g'.slotOf i = some { y with mask := m, last := a })
          (off = 0x40 + 32 * i + 16 → record (y.mask / BitVec.ofNat 128 (2 ^ 64) * BitVec.ofNat 128 (2 ^ 64) + BitVec.ofNat 128 v.toNat)) ∧
          (off = 0x40 + 32 * i + 24 → record (y.mask % BitVec.ofNat 128 (2 ^ 64) + BitVec.ofNat 128 (2 ^ 64 * v.toNat))) ∧
          (off = 0x40 + 32 * i → v.getLsbD 0 = false → Does .divergenceWindowWrite s [.teams] (fun t => OtherGroups s t d h k ∧ ∃ g',
            t.group? d h k = some g' ∧ g'.regs = g.regs ∧ g'.queue = g.queue ∧ g'.slotOf (1 - i) = g.slotOf (1 - i) ∧ g'.slotOf i = none))) ∧
        (∀ j < 16, off = 0x2100 + 8 * j → g.pendScalars.getLsbD j = false → Does .divergenceWindowWrite s [.teams] (fun t =>
          OtherGroups s t d h k ∧ ∃ g', t.group? d h k = some g' ∧ { g' with scalars := g.scalars } = g ∧
            ∀ i, readS g' i = if i = j then v.toNat else readS g i)) ∧
        (∀ n l, n < x.vregs → l < g.width → l < 128 → l % 2 = 0 → off = 0x10000 + 512 * n + 4 * l → n ∉ g.pendRegs →
          Does .divergenceWindowWrite s [.teams] (fun t => OtherGroups s t d h k ∧ ∃ g', t.group? d h k = some g' ∧ { g' with vregs := g.vregs } = g ∧
            ∀ r m, m < 128 → readReg g' r m = if r = n ∧ m = l then v.toNat % 2 ^ 32 else
              if r = n ∧ m = l + 1 ∧ l + 1 < g.width then v.toNat / 2 ^ 32 else readReg g r m)))))

/-- R394 to R396, R399 to R401, R404, R406, R412, R413: firmware takes the oldest trap of its die and writes its record; the split of a
caught trap stops, another trap aborts its grid, once; the watchdogs. -/
def TrapReportAndWatchdogsHold : Prop :=
  (∀ s : State, let d := s.arg.die
    ((s.die d).traps = [] → exec .trapReport s = .next s) ∧
    (∀ r rest, (s.die d).traps = r :: rest → r.region = none → d < 16 →
      let rec_ := fun disp : Nat =>
        ({ mask := r.mask, detail := r.detail.toNat, cycle := r.cycle, pc := r.pc, rpc := r.rpc, party := groupParty r.tdie r.handle r.grp
           ctx := r.ctx, depth := r.depth, slot := r.slot, disp := disp, code := r.code } : TrapRec)
      let taken := s.updDie d (fun y => { y with traps := rest })
      (∀ g y, s.group? r.tdie r.handle r.grp = some g → y ∈ g.splits → r.at_ y = true → y.stepping = true → r.tdie < 16 →
        ∃ t, exec .trapReport s = .next t ∧ (t.die r.tdie).dsts = if r.code = 0x0A then 0 else 0x300) ∧
      ((∀ g, s.group? r.tdie r.handle r.grp = some g → ∀ z ∈ g.splits, z.stepping = false) →
        -- the grid's abort has begun, or the team is gone
        ((∀ gr, s.grid? r.grid = some gr → gr.aborted = true) ∨ (∀ x, s.team? r.tdie r.handle = some x → x.grid ≠ r.grid) →
          exec .trapReport s = .next (logCtx taken r.ctx (rec_ 1).bits)) ∧
        (∀ x gr, TeamAt s r.tdie r.handle x → x.grid = r.grid → s.grid? r.grid = some gr → gr.aborted = false →
          -- caught by the debugger: the split stops at its resume address
          (r.caught = true → x.ctx < 4096 → (dbgctl s x.ctx).getLsbD 61 = false → (dbgctl s x.ctx).getLsbD 62 = false →
            ∀ g y i, x.group? r.grp = some g → g.num = r.grp → i < 2 → g.slotOf i = some y → r.at_ y = true →
              (∀ z, g.slotOf (1 - i) = some z → z.stopped = false ∧ z.trapped = false) →
              Does .trapReport s [.teams, .bytes, .mreg, .msix, .dies] (fun t => OtherGroups s t r.tdie r.handle r.grp ∧ (t.die d).traps = rest ∧
                (∃ u, u = logCtx taken r.ctx (rec_ 0).bits ∧ Same .bytes u t ∧ t.mreg = u.mreg ∧ t.msix = u.msix) ∧
                ∃ g', t.group? r.tdie r.handle r.grp = some g' ∧ g'.regs = g.regs ∧ g'.slotOf i =
                  some { y with trapped := false, pc := r.rpc, stopped := true, cause := r.code, stepping := false, stopping := false })) ∧
          -- otherwise its record is written and the grid is aborted
          (r.caught = false → (∀ z ∈ s.teams, TeamAt s z.die z.handle z) →
            ∃ t, exec .trapReport s = .next t ∧ (∀ gr', t.grid? r.grid = some gr' → gr'.aborted = true) ∧
              ∀ z ∈ s.teams, z.grid = r.grid → ∀ z', t.team? z.die z.handle = some z' → z'.state = .discarding))))) ∧
  (∀ (s : State) (x : Team) (g : Group) (gr : Grid) (y : Split),
    TeamAt s s.arg.die s.arg.handle x → g.die < 16 → s.grid? x.grid = some gr → gr.aborted = false → g.run = none →
    (∀ z ∈ g.splits, z.trapped = false) → Oldest g y → x.group? g.num = some g →
    (g.num = s.arg.grp →
      (gwlim s x.ctx = 0 → exec .gwatch s = .next s) ∧
      (gwlim s x.ctx ≠ 0 → gwlim s x.ctx ≤ g.idle → gwatchRuns s x g = true → Does .gwatch s [.teams, .dies] (fun t =>
        Raises s t x { g with idle := 0 } y (deviceTrap s x g y 0x0B g.live (g.idle % 2 ^ 32))))) ∧
    (g.live ≠ 0 → (∀ h ∈ x.groupList, h.live ≠ 0 → g.num ≤ h.num ∧ x.group? h.num = some h) →
      (twlim s x.ctx = 0 → exec .twatch s = .next s) ∧
      (twlim s x.ctx ≠ 0 → twlim s x.ctx ≤ x.watched / 65536 → x.twatchAt ≠ twlim s x.ctx → Does .twatch s [.teams, .dies] (fun t =>
        Raises s t x g y (deviceTrap s x g y 0x0C 0 (x.watched / 65536 % 2 ^ 32)) ∧
        ∀ u, t.team? x.die x.handle = some u → u.twatchAt = twlim s x.ctx))))

/-- R402 to R409, R443: DBGCTL, stops, resumes, steps and selections with their results, and the divergence window. That the
device takes no command while a STEP is under way is the model's choice (log 53). R394 to R396, R399 to R401, R404, R406, R412,
R413: firmware takes the oldest trap of its die and writes its record; the split of a caught trap stops, another trap aborts its
grid, once; the watchdogs. -/
def Obligations.DebugAndTrapEvents : Prop :=
  DebuggerCommandsHold ∧ TrapReportAndWatchdogsHold

/-! Failures and soft errors (R337, R426, R431, R432, R434, R454, R457, R461, R462, R465, R466, R470, R471). -/

/-- Nothing of the machine's work is on a core. -/
def IdleCore (s : State) (core : Nat) : Prop :=
  coreParties s core = [] ∧ ∀ x ∈ s.teams, teamUses s core x = false ∧ x.state ≠ .discarding ∧ ∀ g ∈ x.groupList, groupOn core g = false

/-- Teams stand under their own names with a grid, an aborted grid's teams are being discarded, and a unit of an object is in one region
at most. -/
def Tidy (s : State) : Prop :=
  (∀ x ∈ s.teams, TeamAt s x.die x.handle x ∧ ∃ g, s.grid? x.grid = some g ∧ (g.aborted = true → x.state = .discarding)) ∧ s.deckles.Pairwise (fun a b => sameEntry a b = false)

/-- A core that is up fails: it joins the failed cores of its die, every team that used it is discarded or its grid aborted, and a region
that it held is POISONED with its former holder (R426, R466). -/
def FailsCore (i : Instr) (s : State) (core : Nat) : Prop :=
  Tidy s → ∃ t, exec i s = .next t ∧ core % 128 ∈ (t.die (core / 128)).failedCores ∧
    (∀ x ∈ s.teams, teamUses s core x = true → ∀ y, t.team? x.die x.handle = some y → y.state = .discarding ∨ y.state = .discarded) ∧
    (∀ d ∈ s.deckles, (s.die (tableHome d)).boot ≠ 3 → d.state = 1 → d.holder ∈ coreParties s core → ∃ e ∈ t.deckles, sameEntry d e = true ∧ e.state = 5 ∧ e.former = d.holder)

/-- A die fails: its boot state, and what of it is gone (R457, R470, R471). -/
def FailsDie (i : Instr) (s : State) (d : Nat) : Prop :=
  (∀ x ∈ s.teams, TeamAt s x.die x.handle x) → ∃ t, exec i s = .next t ∧ (t.die d).boot = 3 ∧ (∀ h, t.team? d h = none) ∧
    (t.die d).bonds = [] ∧ (t.die d).episodes = [] ∧ (t.die d).traps = [] ∧ (t.die d).slots = [] ∧ (∀ e ∈ t.engines, e.core / 128 ≠ d) ∧
    (∀ c ∈ t.lines, (if c.l2 then c.unit / 16 else c.unit / 128) ≠ d) ∧ (∀ e, e ≠ d → (t.die e).boot = (s.die e).boot) ∧
    ∀ n ∈ gridsOn s d, ∀ g, t.grid? n = some g → g.state = .broken ∨ g.state = .complete ∨ g.brokenAt.isSome = true

/-- One uncorrected error is counted, of the die's own state. -/
def UeOnly (s t : State) (d : Nat) : Prop :=
  (t.die d).ueCount = (s.die d).ueCount + 1 ∧ DieBut d (fun y => { y with ueCount := 0 }) s t

/-- R337, R426, R431, R432, R434, R454, R457, R461, R462, R465, R466, R470, R471: failures of cores, converters and dies, the abort of a broken
grid, and errors in caches, memory, tables, purses, counters, silos and local store. -/
def Obligations.FailureEvents : Prop :=
  (∀ (s : State) (i : Instr) (cause : Nat), let core := s.arg.core; let d := core / 128; let c := core % 128
    (i = .cfence ∧ cause = 3) ∨ (i = .coreStateUe ∧ s.arg.num = cause ∧ cause ∈ [1, 2]) → core < 2048 → s.running d = true → c ∉ (s.die d).failedCores →
    FailsCore i s core ∧
    (IdleCore s core → LogsMod i s [.lines, .pairs, .dies] d { code := 0x88, cause := cause, value := core } (fun u =>
      (∀ k, k ∈ (u.die d).failedCores ↔ k = c ∨ k ∈ (s.die d).failedCores) ∧
      (u.die d).ueCount = (s.die d).ueCount + (if i = .cfence then 0 else 1) ∧ DieBut d (fun y => { y with failedCores := [], ueCount := 0 }) s u ∧
      (∀ l, l ∈ u.lines ↔ l ∈ s.lines ∧ (l.l2 = true ∨ l.unit ≠ core)) ∧
      ∀ e p, u.pair e p = if e = d ∧ p = c / 2 ∧ c / 2 * 2 + (c + 1) % 2 ∈ (s.die d).failedCores then {} else s.pair e p))) ∧
  (∀ s : State, let d := s.arg.die; let p := s.arg.p
    s.running d = true → p < 64 →
    (((s.die d).island p).stopped = true → exec .converterFault s = .next s) ∧
    (((s.die d).island p).stopped = false → IdleCore s (128 * d + 2 * p) → IdleCore s (128 * d + 2 * p + 1) →
      Does .converterFault s [.lines, .pairs, .dies, .bytes, .mreg, .msix] (fun t =>
        IslandNow s t d p { (s.die d).island p with stopped := true } ∧ 2 * p ∈ (t.die d).failedCores ∧ 2 * p + 1 ∈ (t.die d).failedCores))) ∧
  (∀ s : State, let d := s.arg.die
    (s.running d = true → (s.die d).cycle % 65536 = 0 → Does .heartbeat s [.dies] (fun t => ∀ e,
      (t.die e).own = { (s.die e).own with heard := (t.die e).heard } ∧ ∀ k, tget (t.die e).heard k 0 =
        if k = d ∧ e < 16 ∧ e ≠ d ∧ s.running e = true then (s.die e).cycle else tget (s.die e).heard k 0)) ∧
    (s.running d = false ∨ (s.die d).cycle % 65536 ≠ 0 → exec .heartbeat s = .next s)) ∧
  (∀ s : State, let d := s.arg.die; let silent := ∃ e < 16, e ≠ d ∧ s.running e = true ∧ tget (s.die e).heard d 0 + 2 ^ 20 ≤ (s.die e).cycle
    (d < 16 → (s.die d).boot ≠ 3 → FailsDie .dfence s d ∧ (s.arg.num = 0 → silent → FailsDie .diefail s d) ∧
      (s.arg.num = 1 → 16 ≤ (s.die d).tCrit → FailsDie .diefail s d) ∧ (s.arg.num = 2 → FailsDie .diefail s d)) ∧
    ((s.die d).boot = 3 → exec .dfence s = .next s) ∧
    (s.arg.num = 0 → ¬silent → exec .diefail s = .next s) ∧ (s.arg.num = 1 → (s.die d).tCrit < 16 → exec .diefail s = .next s)) ∧
  (∀ (s : State) (g : Grid) (at0 : Nat), s.grid? s.arg.id = some g → g.brokenAt = some at0 →
    let waits := (∃ x ∈ s.teams, x.grid = s.arg.id ∧ (x.die, x.handle) ∈ g.released) ∧ (s.die g.brokenOn).cycle < at0 + 2 ^ 20
    (waits → exec .brokenGridAbort s = .next s) ∧
    (¬waits → ∃ t, exec .brokenGridAbort s = .next t ∧ ∃ g', t.grid? s.arg.id = some g' ∧ g'.aborted = true)) ∧
  (∀ (s : State) (c : CLine), s.arg.num ≠ 1 → s.lines[s.arg.idx]? = some c → let n := { c with known := wholeWords c.dirty, poison := c.dirty }
    Does .cacheLineUe s [.lines, .dies] (fun t => UeOnly s t (if c.l2 then c.unit / 16 else c.unit / 128) ∧
      (∀ l, lineIs c.l2 c.unit c.line l = false → (l ∈ t.lines ↔ l ∈ s.lines)) ∧
      (s.arg.flag = true → findLine t c.l2 c.unit c.line = some { c with dirty := allOnes128, known := allOnes128, poison := allOnes128 }) ∧
      (s.arg.flag = false → findLine t c.l2 c.unit c.line = if c.dirty = 0 ∧ c.tagDirty = 0 then none else some n))) ∧
  (∀ s : State, let a := s.arg.off / 128 * 128
    s.arg.num = 1 → a < 2 ^ 40 → Does .cacheLineUe s [.dies] (fun t => UeOnly s t (stackOf a) ∧
      ∀ b, homePoison t b = (homePoison s b || (decide (a ≤ b ∧ b < a + 128) && (s.arg.flag || mbit (s.arg.w ++ s.arg.v) (b - a)))))) ∧
  (∀ s : State, let a := s.arg.off / 32 * 32
    a < 2 ^ 40 → Does .hbmWordUe s [.dies] (fun t => UeOnly s t (stackOf a) ∧
      ∀ b, homePoison t b = (homePoison s b || decide (a ≤ b ∧ b < a + 32)))) ∧
  (∀ (s : State) (d : Deckle), regionAt s s.arg.ctx s.arg.oid s.arg.off = some d →
    (d.state = 5 → exec .deckleEntryUe s = .next s) ∧
    (d.state ≠ 5 → ∃ t u, exec .deckleEntryUe s = .next t ∧ Kept [.deckles, .holds, .lines, .dies] s u ∧ UeOnly s u (tableHome d) ∧
      t = regionEvent u (tableHome d) { code := 0x2C, cause := 3, ctx := d.ctx, oid := d.oid, base := d.base, len := d.len, state := 5, party := d.holder } ∧
      (∀ e, sameEntry d e = false → (e ∈ t.deckles ↔ e ∈ s.deckles)) ∧
      { d with state := 5, shares := 0, holder := 0, lend := [], former := 0 } ∈ t.deckles ∧
      ∀ h, h ∈ t.holds ↔ h ∈ s.holds ∧ ¬(h.ctx = d.ctx ∧ h.oid = d.oid ∧ h.base = d.base ∧ h.len = d.len))) ∧
  (∀ s : State, let d := s.arg.die; let p := s.arg.p
    (s.arg.flag = false → LogsMod .purseUe s [.pairs] d { code := 0x82, value := p } (fun u => PairNow s u d p { s.pair d p with purse := 0 })) ∧
    (s.arg.flag = true → LogsMod .purseUe s [.dies] d { code := 0x82, value := p } (fun u =>
      ∀ e cl b, tfind (u.die e).bonds cl = some b → tget b.holds (64 * d + p) 0 = 0 ∧
        ∃ b', tfind (s.die e).bonds cl = some b' ∧ { b with holds := [] } = { b' with holds := [] } ∧
          ∀ k, k ≠ 64 * d + p → tget b.holds k 0 = tget b'.holds k 0))) ∧
  (∀ s : State, let c := s.arg.core; let a := (readCtx s s.arg.ctx).svbase + 8 * c
    a + 8 ≤ 2 ^ 40 → LogsCtx .energyCounterUe s [.bytes, .counters] (c / 128)
      { code := 0x83, value := c, party := mgmtParty (c / 128) 0, ctx := s.arg.ctx } (fun u =>
        BytesKept s u (fun b => a ≤ b ∧ b < a + 8) ∧ u.coreHeld = s.coreHeld ∧ u.coreEvents = s.coreEvents ∧
        (s.coreHeld.contains (2048 * s.arg.ctx + c) = true → u.hbm = s.hbm ∧ (tget u.coreEnergy (2048 * s.arg.ctx + c) 0).toNat = 2 ^ 49 - 1) ∧
        (s.coreHeld.contains (2048 * s.arg.ctx + c) = false → u.coreEnergy = s.coreEnergy ∧ rdNat u.hbm a 8 = 2 ^ 49 - 1))) ∧
  (∀ s : State, let d := stackOf s.arg.off
    (s.running d = true → Does .patrolScrub s [.dies] (fun t => DieBut d (fun y => { y with ceCount := 0, house := 0 }) s t ∧
      ((t.die d).ceCount = (s.die d).ceCount ∨ s.arg.flag = false ∧ (t.die d).ceCount = (s.die d).ceCount + 1))) ∧
    (s.running d = false → exec .patrolScrub s = .next s)) ∧
  (∀ (s : State) (op : EngOp), findEng s s.arg.id = some op → op.isNm = true → op.status = none → op.next ≠ 0 →
    let row := fun e : NmEntry => elemAddr s op.ctx (nmWritten op e).1 (nmWritten op e).2
    let hit := fun e : NmEntry => e ∈ op.entries ∧ siloOf (row e) = s.arg.unit
    ((∀ e ∈ op.entries, siloOf (row e) ≠ s.arg.unit) → exec .siloUnitUe s = .next s) ∧
    ((∃ e, hit e) → Does .siloUnitUe s [.engines, .dies] (fun t => UeOnly s t (s.arg.unit / 16) ∧
      (∀ e ∈ t.engines, e.id = op.id → e.status = some 7) ∧ (∀ e, e.id ≠ op.id → (e ∈ t.engines ↔ e ∈ s.engines)) ∧
      ∀ b, homePoison t b = true ↔ homePoison s b = true ∨ ∃ e, hit e ∧ row e ≤ b ∧ b < row e + 4 * (nmDesc op.record).nelem))) ∧
  (∀ s : State,
    (∀ d h rank off len x, s.arg.target = .team d h rank off len → s.team? d h = some x → Does .localStoreUe s [.teams, .stores, .dies] (fun t =>
      UeOnly s t d ∧ OtherTeams s t d h ∧ ∃ y, t.team? d h = some y ∧ { y with locPoison := x.locPoison } = x ∧
        ∀ k, k ∈ y.locPoison ↔ k ∈ x.locPoison ∨ ∃ i < len, off + i < x.localBytes ∧ k = 2 ^ 20 * rank + off + i)) ∧
    (∀ d a len, s.arg.target = .sram d a len → Does .localStoreUe s [.dies] (fun t => (t.die d).ueCount = (s.die d).ueCount + 1 ∧
      DieBut d (fun y => { y with ueCount := 0, sramPoison := [] }) s t ∧
      ∀ k, k ∈ (t.die d).sramPoison ↔ k ∈ (s.die d).sramPoison ∨ ∃ i < len, a + i < 1920 * 4096 ∧ k = a + i)))

/-! Words and steps (R143 to R146, R160 to R164, R287, R363). -/

/-- A well-formed unit is decoded from the words that it is encoded as. -/
def DecodesBack (i : Instr) : Prop := i.WellFormed = true → decode (encode i) = .ok i

/-- R143 to R151, R160 to R164: every well-formed instruction of the core is what its words decode to, with every operand at every value
that the encoding admits. -/
def Obligations.UnitWordsDecodeBack : Prop :=
  (∀ k ∈ [Instr.iadd, .isub, .iadds, .isubs, .imin, .imax, .nmin, .nmax, .iavg, .idiff, .iaddc, .isubb, .imul, .imulh, .nmulh, .imad,
      .imadh, .idot4, .idot2, .idiv, .irem, .ndiv, .nrem, .and, .or, .xor, .andn, .orn, .xnor, .lcomb, .shl, .shr, .sra, .rol, .ror,
      .fshl, .fshr, .bfx, .bfxn, .bfi, .bmsk, .permb, .sext, .zext, .fadd, .fsub, .fmul, .fmin, .fmax, .fminn, .fmaxn, .fcpys,
      .fscale, .ffma, .ffms, .ffnma, .ffnms, .fdiv, .fdot2, .fdot4, .pack8, .qnt8, .dqnt8, .qnt4, .dqnt4, .shfli, .shflu, .shfld,
      .shflx], ∀ x : V3, DecodesBack (k x)) ∧
  (∀ k ∈ [Instr.iabs, .ineg, .not, .popc, .clz, .ctz, .brev, .mov, .fabs, .fneg, .ffrac, .ffloor, .fceil, .ftrunc, .frint, .frcp, .frsq,
      .fsqrt, .fexp2, .flog2, .fsin, .fcos, .ftanh, .fsigm, .fclass, .cvt8, .cvt8x, .cvt4, .cvt4x, .unpk8, .bscan], ∀ x : V2, DecodesBack (k x)) ∧
  (∀ k ∈ [Instr.iaddi, .andi, .ori, .xori], ∀ x : ImmU, DecodesBack (k x)) ∧
  (∀ k ∈ [Instr.shli, .shri, .srai, .roli], ∀ x : ShU, DecodesBack (k x)) ∧
  (∀ k ∈ [Instr.sadd, .ssub, .smul, .smulh, .sand, .sor, .sxor, .sshl, .sshr, .ssra, .smin, .smax, .snmin, .snmax], ∀ x : SU, DecodesBack (k x)) ∧
  (∀ k ∈ [Instr.spopk, .vall, .vany], ∀ x : KRdU, DecodesBack (k x)) ∧
  (∀ k ∈ [Instr.kand, .kor, .kxor, .kandn], ∀ x : K3U, DecodesBack (k x)) ∧
  (∀ k ∈ [Instr.knot, .kfirst], ∀ x : K2U, DecodesBack (k x)) ∧
  (∀ k ∈ [Instr.fence, .ret, .join, .exit, .yield, .nop, .dbar], ∀ x : NoneU, DecodesBack (k x)) ∧
  (∀ k ∈ [Instr.cgetb, .cgetl, .cgetr, .ctest], ∀ x : CgetU, DecodesBack (k x)) ∧
  (∀ k ∈ [Instr.cldc, .cstc], ∀ x : CmemU, DecodesBack (k x)) ∧
  (∀ k ∈ [Instr.cnull, .cmov], ∀ x : CmovU, DecodesBack (k x)) ∧
  (∀ k ∈ [Instr.dclaim, .dpark, .dlend, .dreturn, .dsplit, .djoin, .dshare, .dunshare, .datom, .dquery], ∀ x : DopU, DecodesBack (k x)) ∧
  (∀ k ∈ [Instr.nmred, .nmscat], ∀ x : NmU, DecodesBack (k x)) ∧
  (∀ k ∈ [Instr.cpy, .cpyc], ∀ x : CpyU, DecodesBack (k x)) ∧
  (∀ k ∈ [Instr.blease, .bfree, .bstat, .enrg], ∀ x : RegU, DecodesBack (k x)) ∧
  (∀ k ∈ [Instr.brdv, .barv], ∀ x : BrdvU, DecodesBack (k x)) ∧
  (∀ k ∈ [Instr.bra, .call], ∀ x : BraU, DecodesBack (k x)) ∧
  (∀ k ∈ [Instr.brx, .callx], ∀ x : BrxU, DecodesBack (k x)) ∧
  (∀ k ∈ [Instr.sleep, .swrite], ∀ x : SargU, DecodesBack (k x)) ∧
  (∀ k ∈ [Instr.bar, .bara, .barw], ∀ x : BarU, DecodesBack (k x)) ∧
  (∀ x : ICmpU, DecodesBack (.icmp x)) ∧
  (∀ x : SelU, DecodesBack (.sel x)) ∧
  (∀ x : MovkU, DecodesBack (.movk x)) ∧
  (∀ x : KmovU, DecodesBack (.kmov x)) ∧
  (∀ x : MoviU, DecodesBack (.movi x)) ∧
  (∀ x : SImmU, DecodesBack (.saddi x)) ∧
  (∀ x : SCmpU, DecodesBack (.scmp x)) ∧
  (∀ x : SMovU, DecodesBack (.smov x)) ∧
  (∀ x : SrdkU, DecodesBack (.srdk x)) ∧
  (∀ x : SwrkU, DecodesBack (.swrk x)) ∧
  (∀ x : FCmpU, DecodesBack (.fcmp x)) ∧
  (∀ x : CvtU, DecodesBack (.cvt x)) ∧
  (∀ x : BcastU, DecodesBack (.bcast x)) ∧
  (∀ x : RdlaneU, DecodesBack (.rdlane x)) ∧
  (∀ x : WrlaneU, DecodesBack (.wrlane x)) ∧
  (∀ x : ReduxU, DecodesBack (.redux x)) ∧
  (∀ x : ScanU, DecodesBack (.scan x)) ∧
  (∀ x : BallotU, DecodesBack (.vballot x)) ∧
  (∀ x : WbaseU, DecodesBack (.wbase x)) ∧
  (∀ x : LdU, DecodesBack (.ld x)) ∧
  (∀ x : StU, DecodesBack (.st x)) ∧
  (∀ x : LdlU, DecodesBack (.ldl x)) ∧
  (∀ x : StlU, DecodesBack (.stl x)) ∧
  (∀ x : LduU, DecodesBack (.ldu x)) ∧
  (∀ x : StuU, DecodesBack (.stu x)) ∧
  (∀ x : AtomU, DecodesBack (.atom x)) ∧
  (∀ x : RedU, DecodesBack (.red x)) ∧
  (∀ x : PrefU, DecodesBack (.pref x)) ∧
  (∀ x : PageinU, DecodesBack (.pagein x)) ∧
  (∀ x : CderiveU, DecodesBack (.cderive x)) ∧
  (∀ x : CrightsU, DecodesBack (.crights x)) ∧
  (∀ x : DselfU, DecodesBack (.dquerySelf x)) ∧
  (∀ x : BforkU, DecodesBack (.bfork x)) ∧
  (∀ x : JmpU, DecodesBack (.jmp x)) ∧
  (∀ x : DsigU, DecodesBack (.dsig x)) ∧
  (∀ x : DwaitU, DecodesBack (.dwait x)) ∧
  (∀ x : RtestU, DecodesBack (.rtest x)) ∧
  (∀ x : ContU, DecodesBack (.cont x)) ∧
  (∀ x : SendU, DecodesBack (.stepSend x)) ∧
  (∀ x : TakeU, DecodesBack (.stepTake x)) ∧
  (∀ x : TrapU, DecodesBack (.trap x)) ∧
  (∀ x : BrkU, DecodesBack (.brk x)) ∧
  (∀ x : SreadU, DecodesBack (.sread x)) ∧
  (∀ x : EvtU, DecodesBack (.evt x))

/-- R287, R363: the same of the sequencer's words and of the Granary's custom words. -/
def Obligations.SequencerAndHartWordsDecodeBack : Prop :=
  let q := fun i : Instr => i.WellFormed = true → ∃ w < 2 ^ 32, encode i = [w] ∧ decodeQ w = .ok i
  let h := fun i : Instr => i.WellFormed = true → ∃ w < 2 ^ 32, encode i = [w] ∧ decodeCustom w = .ok i
  (∀ a b c : Nat, q (.mfmt a) ∧ q (.mzero a) ∧ q (.mloadb a) ∧ q (.mmac a b c) ∧ q (.mmact a b c) ∧ q (.mdrain a b c) ∧ q (.mloop a b c) ∧
    q .mend ∧ q (.mbar a) ∧ q (.marv a) ∧ q .mnop) ∧
  (∀ (op : SigOp) (a b c : Nat), q (.msig op a b c)) ∧ (∀ (neg : Bool) (a b : Nat), q (.mwaitf neg a b)) ∧
  (∀ a b : Nat, h (.gmbWait a b) ∧ h (.gmbRead a b) ∧ h (.gmbPost a b) ∧ h (.gepEnd b) ∧ h (.gepVer a b))

/-- The words that the manual's own examples give (R4, R159, R177, R202, R229, R368, and the examples of 06 and 08) are the instructions that
those examples name. -/
def Obligations.ExampleWordsDecode : Prop :=
  decode [0x40102860] = .ok (.fadd { h := {}, d := .v 4 false, a := .v 5, b := .v 6 }) ∧
  decode [0x43E81032] = .ok (.fmul { h := {}, d := .y 2, a := .v 2, b := .v 3 }) ∧
  decode [0x43EFD730, 0x3FC00000] = .ok (.fadd { h := { lit := some 0x3FC00000 }, d := .y 3, a := .y 2, b := .lit }) ∧
  decode [0x401FDF04] = .ok (.fmax { h := {}, d := .v 7 false, a := .y 3, b := .zero }) ∧
  decode [0xFF410000, 0x00102E30] = .ok (.iadd { h := { px := some { g := true, n := true, gm := 2, ty := 2 } }, d := .v 4 false, a := .v 5, b := .s 3 }) ∧
  decode [0x141F8703] = .ok (.kmov { h := {}, k := 7, a := .zero }) ∧
  decode [0x0010002C] = .ok (.iaddc { h := {}, d := .v 4 false, a := .v 0, b := .v 2 }) ∧
  decode [0xFC080000, 0x5418170A] = .ok (.cvt { h := { px := some { rnd := 1 } }, d := .v 6 false, a := .v 2, hsel := true, t := .bf16 }) ∧
  decode [0xC5438630] = .ok (.dclaim { h := {}, c := 5, team := false, a := .zero, r := 3 }) ∧
  decode [0xE0BFFFFE] = .ok (.bra { h := {}, k := 1, n := false, disp := 0x3FFFFE }) ∧
  decode [0x2C1B8007] = .ok (.movi { h := {}, d := .v 6 false, imm := 7 }) ∧
  decode [0xA5483700] = .ok (.st { h := {}, c := 5, sz := 2, o40 := false, d := .v 6, a := .zero, res := 0, nt := false }) ∧
  decode [0xEC000002] = .ok (.exit { h := {} }) ∧ decode [0xEC000006] = .ok (.nop { h := {} }) ∧
  decodeCustom 0x0000028B = .ok (.gmbWait 5 0) ∧ decodeCustom 0x0003930B = .ok (.gmbRead 6 7) ∧
  decodeCustom 0x0005228B = .ok (.gmbPost 5 10) ∧ decodeCustom 0x0005300B = .ok (.gepEnd 10)

/-- A step runs the act at the head of the agenda, and an act of an agent runs the instruction that its next words decode to, once their
pages are marked accessed (R71): a group's unit where the group is the choice of the scheduler whose turn it is (R315, R316); a
sequencer's word; a hart's instruction; another step with its arguments. While a scheduler has a choice left in the count, it is tried;
then a count passes on every die that is RUNNING or FAILED. With no act left the step lays out the next round. Who acts when, and what
a round holds, is the model's choice (log 2, 10). -/
def Obligations.StepRunsTheDecodedInstruction : Prop :=
  (∀ (s : State) (r : List Act), let t := { s with agenda := r }
    (∀ (i : Issuer) (g : Group) (c : Ctx) (u : UnitWords) (k : Instr), s.agenda = .issue i :: r → t.group? i.die i.handle i.grp = some g →
      let q := serve t g.die (g.core / 2); let v := tryIssue q.1 g.die (g.core / 2) i
      q.2 = some i → mkCtx v i { px := none, lit := none } = some c → fetchUnit v c.team c.g.die c.unit = .ok u → isX u.w = false →
      decodeUnit u = .ok k → step s = exec k { (markUnit v c) with cur := some i }) ∧
    (∀ (d cl w : Nat) (b : Bond) (k : Instr), s.agenda = .seq d cl :: r → tfind (t.die d).bonds cl = some b → seqReady t b = true →
      fetchQ t (bondTeam t b).ctx b b.qpc = .word w → decodeQ w = .ok k →
      step s = exec k { (markPage t (readObj t (bondTeam t b).ctx b.code.oid.toNat) false b.qpc) with curSeq := some (d, cl) }) ∧
    (∀ (d m w : Nat) (e : Episode), s.agenda = .hart d m :: r → t.ep? d m = some e → e.state = .run →
      (t.mbox d m).usedAt ≠ (t.die d).cycle + 1 → hartFetch t d e = .ok w →
      (∀ k, decodeHart w = some (.custom k) → step s = exec k { t with curHart := some (d, m), arg := {} }) ∧
      (∀ rv n, decodeHart w = some (.rv rv n) → step s = exec .hartInstruction
        { t with curHart := some (d, m), arg := { rv := rv, num := n, v := BitVec.ofNat 64 w } })) ∧
    (∀ (k : Instr) (a : StepArgs), s.agenda = .event k a :: r →
      (s.powered = true ∨ k = .powerUp → step s = exec k { t with arg := a, cur := none, curSeq := none, curHart := none }) ∧
      (s.powered = false → k ≠ .powerUp → step s = .next t)) ∧
    (∀ (a : Nat) (bs : List Byte), s.agenda = .hostWrite a bs :: r → step s = .next { t with host := wrBytes t.host a bs }) ∧
    (let q := nextChoice t (busyPairs t);
      (∀ i, q.2 = some i → (s.agenda = .serve :: r → step s = .next { t with agenda := .issue i :: .serve :: r }) ∧
        (s.agenda = .tick 1 :: r → step s = .next { t with agenda := .serve :: .tick 1 :: r })) ∧
      (q.2 = none → s.agenda = .tick 1 :: r → ∃ u, step s = .next u ∧ ∀ d < 16, (u.die d).cycle = (s.die d).cycle + (if s.counts d then 1 else 0))) ∧
    (s.agenda = [] → step s = .next { s with agenda := plan s })) ∧
  -- a word is the four bytes at the place of the code capability's object offset
  (∀ (s : State) (x : Team) (die a w : Nat), fetchWord s x die a = .ok w →
    ∃ p, placeOf s (readObj s x.ctx x.code.oid.toNat) a = some p ∧ w = homeNat s p 4)

/-- R23 to R25, R476: right after power-up every die is in bring-up at count 0 with no team, bond or episode, no byte of memory is listed, and
no grid, deckle, operation, line or queue state stands; memory has its canonical form. Registers without a stated reset value are 0, the
model's choice (log 3). -/
def Obligations.ResetLeavesTheModule : Prop :=
  let s := State.reset
  s.powered = true ∧ s.hbm = [] ∧ s.host = [] ∧ s.lines = [] ∧ s.grids = [] ∧ s.deckles = [] ∧ s.holds = [] ∧ s.ownOps = [] ∧ s.engines = [] ∧
  s.queues = [] ∧ s.circuits = [] ∧ (∀ o, s.reg o = 0) ∧ (Memory.wf s.hbm && Memory.wf s.host && Memory.wf s.far) = true ∧
  ∀ d, (s.die d).boot = 0 ∧ (s.die d).cycle = 0 ∧ (s.die d).teams = [] ∧ (s.die d).bonds = [] ∧ (s.die d).episodes = [] ∧
    (s.die d).eplanNow = eplanReset ∧ s.running d = false

/-- R4: n bytes written to memory read back as the number written, little-endian; every other byte and the canonical form are kept, and two
memories in that form with the same bytes are the same. -/
def Obligations.MemoryReadsWhatWasWritten : Prop :=
  (∀ (m : List Host.Cell) (a n v : Nat), rdNat (wrNat m a n v) a n = v % 2 ^ (8 * n) ∧
    (∀ b, b < a ∨ a + n ≤ b → rdByte (wrNat m a n v) b = rdByte m b) ∧ (Memory.wf m = true → Memory.wf (wrNat m a n v) = true)) ∧
  (∀ m k : List Host.Cell, Memory.wf m = true → Memory.wf k = true → (∀ a, rdByte m a = rdByte k a) → m = k)

/-- HBM, host memory and the mirror of peers' memory stand in their canonical form, whatever the step. -/
def Obligations.EveryStepKeepsMemoryCanonical : Prop :=
  ∀ s t : State, step s = .next t → Memory.wf s.hbm = true → Memory.wf s.host = true → Memory.wf s.far = true →
    Memory.wf t.hbm = true ∧ Memory.wf t.host = true ∧ Memory.wf t.far = true

/-! The issue of a unit (R34, R35, R152, R154, R156 to R159, R174, R204, R315, R331, R335, R394, R434, R436, R437). -/

/-- What the arithmetic unit of a row names. -/
def rowRefs (e : IntRule) (x : V3) : Refs :=
  let n := regsOf x.h.pfx.ty
  refsOf [dstRefs x.d n e.readsD, srcRefs x.a n, srcRefs x.b n]

/-- The team's groups stand under their own numbers, in order. -/
def Ordered (x : Team) : Prop := risingFrom none x.groups = true ∧ ∀ e ∈ x.groups, e.2.num = e.1

/-- The energy counter of the issuer's context and core, where s keeps it. -/
def energyAt (s t : State) (c : Ctx) : Nat :=
  if s.coreHeld.contains (2048 * c.team.ctx + c.core) then (tget t.coreEnergy (2048 * c.team.ctx + c.core) 0).toNat
  else rdNat t.hbm (counterAddr s c) 8 % 2 ^ 49

/-- R34, R35, R174, R335: every group of a packed issue gets its own result from its own registers, and the price is paid once, from the
pair's purse and to the counter of the context and core. -/
def Obligations.PackedIssueResults : Prop :=
  ∀ e ∈ arithmeticRules, ∀ (x : V3) (s : State) (c : Ctx), let n := regsOf x.h.pfx.ty; let price := e.price * n
    Performs s c x.h (dstW x.d) (rowRefs e x) price → dstLatch x.d + n ≤ 8 → Ordered c.team → c.g.num = c.grp →
    counterAddr s c + 8 ≤ 2 ^ 40 → ∃ t, exec (e.k x) s = .next t ∧
      t.pair c.g.die (c.g.core / 2) = { s.pair c.g.die (c.g.core / 2) with purse := (s.pair c.g.die (c.g.core / 2)).purse - price } ∧
      energyAt s t c = (let v := energyAt s s c
        if 2 ^ 48 ≤ v % 2 ^ 48 + price then 2 ^ 49 - 1 else v % 2 ^ 48 + price + v / 2 ^ 48 % 2 * 2 ^ 48) ∧
      ∀ m ∈ packMates c, ∀ cm, mkCtx s m x.h = some cm → pendingHit cm.g (rowRefs e x) = false →
        rowsClear cm x.h (dstW x.d) (rowRefs e x) false = true →
        ∃ g', t.group? m.die m.handle m.grp = some g' ∧ OnlyDest cm g' x.d n ∧ FlagsKept cm g' ∧
          ∀ l ∈ cm.lanes, ∀ i < (intTy x.h.pfx.ty).2, (dstElem cm g' x.h.pfx.ty x.d l i : Int) =
            e.r (intTy x.h.pfx.ty).1 (srcElem cm x.h.pfx.ty e.signed x.a l i) (srcElem cm x.h.pfx.ty e.signed x.b l i)
              (oldElem cm x.h.pfx.ty x.d l i) % 2 ^ (intTy x.h.pfx.ty).1

/-- Teams stand under their own names, and their groups under their own numbers. -/
def AllOrdered (s : State) : Prop := ∀ x ∈ s.teams, TeamAt s x.die x.handle x ∧ Ordered x

/-- R204, R315, R316, R331, R443: a unit that names a pending register waits and changes nothing. One whose price the purse does not grant
changes nothing where its scheduler has had its first choice in the cycle; as that choice it waits for sheaves from now, or goes on with
the wait that it has, and no other unit of the scheduler waits for sheaves. -/
def Obligations.UnitsWaitForOperandsAndSheaves : Prop :=
  ∀ e ∈ arithmeticRules, ∀ (x : V3) (s : State) (c : Ctx), let price := e.price * regsOf x.h.pfx.ty; let d := c.g.die; let p := c.g.core / 2
    issuerCtx s x.h = some c → mayIssue s c.team c.g c.slot = true →
    (pendingHit c.g (rowRefs e x) = true → exec (e.k x) s = .next s) ∧
    (pendingHit c.g (rowRefs e x) = false → grantable s c.g c.slot price = false →
      ((s.pair d p).first = true → exec (e.k x) s = .next s) ∧
      ((s.pair d p).first = false → AllOrdered s → c.g.num = c.grp → c.g.slot < 96 → ∃ t, exec (e.k x) s = .next t ∧ Kept [.teams, .pairs] s t ∧
        PairNow s t d p { s.pair d p with first := true } ∧
        (∀ w, c.g.awaits = some w → c.g.awaitSlot = c.slot → c.g.awaitPrice = price → t.group? c.die c.handle c.grp = some c.g) ∧
        (c.g.awaits = none ∨ c.g.awaitSlot ≠ c.slot ∨ c.g.awaitPrice ≠ price → t.group? c.die c.handle c.grp =
          some { c.g with awaits := some (s.die d).cycle, awaitPrice := price, awaitSlot := c.slot, awaitLaps := 0 }) ∧
        ∀ a h k, (a, h, k) ≠ (c.die, c.handle, c.grp) → ∀ g, s.group? a h k = some g → t.group? a h k =
          some (if schedOf g = schedOf c.g ∧ g.residence = .resident ∧ g.awaits.isSome = true then g.noWait else g)))

/-- The trap of a unit is taken: the split issues nothing more, its run is over, and its record stands in the die's queue with the unit's
address and the run's first; nothing else changes. -/
def TrapTaken (s t : State) (c : Ctx) (code detail : Nat) : Prop :=
  t.group? c.die c.handle c.grp =
    some { (c.g.putSlot c.slot (some { c.x with trapped := true })) with run := none, awaits := none } ∧ OthersKept s t c ∧
  (t.die c.g.die).traps = (s.die c.g.die).traps ++
    [{ ctx := c.team.ctx, grid := c.team.grid, born := c.x.born, caught := caught s c.team.ctx code, tdie := c.die, handle := c.handle
       grp := c.grp, code := code, slot := c.slot, mask := c.act, detail := BitVec.ofNat 128 detail
       cycle := (s.die c.g.die).cycle, pc := c.unit, depth := c.x.depth
       rpc := (match c.g.run with | some r => if r.slot = c.slot then r.start else c.unit | none => c.unit) }] ∧
  DieBut c.g.die (fun y => { y with traps := [] }) s t ∧ Kept [.teams, .dies] s t

/-- R152, R156, R157, R159, R394, R434, R436: the first of the rows WINDOW, STALE, LONGRUN and SOFTERR that a unit fails is its trap. -/
def Obligations.UnitTraps : Prop :=
  ∀ e ∈ arithmeticRules, ∀ (x : V3) (s : State) (c : Ctx) (gr : Grid), let r := rowRefs e x
    issuerCtx s x.h = some c → c.alone = true → mayIssue s c.team c.g c.slot = true → pendingHit c.g r = false →
    grantable s c.g c.slot (e.price * regsOf x.h.pfx.ty) = true → s.grid? c.team.grid = some gr → gr.aborted = false → c.slot < 2 →
    c.g.num = c.grp →
    let traps := fun code detail : Nat => ∃ t, exec (e.k x) s = .next t ∧ TrapTaken s t c code detail
    let window := fun i : Nat => c.team.vregs ≤ c.g.wb + i
    let stale := fun j : Nat => c.g.run = none ∨ c.g.latchValid.getLsbD j = false
    let overlong := dstW x.d = true ∧ ∃ u, c.g.run = some u ∧ 15 ≤ u.count
    (∀ i, r.v.find? (fun i => decide (window i)) = some i → traps 0x02 (c.team.vregs % 2 ^ 12 * 2 ^ 12 + (c.g.wb + i) % 2 ^ 12)) ∧
    ((∀ i ∈ r.v, ¬window i) →
      (∀ j, r.y.find? (fun j => decide (stale j)) = some j → traps 0x03 j) ∧
      ((∀ j ∈ r.y, ¬stale j) →
        (overlong → traps 0x04 0) ∧
        (¬overlong → ∀ d, softHit c { h := x.h, refs := r } = some d → traps 0x28 (d.number % 2 ^ 16 * 2 ^ 16 + d.structure_ % 2 ^ 4))))

/-! Completion (R34, R156 to R158, R315, R436): where each unit that is more than arithmetic runs to its end. -/

/-- The unit completes in its group: the split that issued it, with its lanes, has it as its last unit and stands at the next one. -/
def Retired (i : Instr) (s : State) (c : Ctx) : Prop :=
  ∃ t g', Completes i s t c g' ∧ ∃ y ∈ g'.splits, y.mask = c.x.mask ∧ y.pc = c.next ∧ y.last = some c.unit

/-- The unit is performed, not held up by groups that began an open run with the issuer's (R35, R158). -/
def Begins (s : State) (c : Ctx) (h : Hdr) (r : Refs) (price : Nat) : Prop :=
  Performs s c h false r price ∧ (c.g.run = none ∨ c.alone = true)

/-- R34, R156 to R158, R251 to R265, R315, R436: the memory-control, engine, bond, control, synchronisation, work and system units complete,
packed or alone, wherever the rows of R436 let them issue and their own gate passes: fence, pref, pagein, nmred, nmscat, cpy, cpyc, blease,
bfree, bfork, bstat, ret, join, exit, yield, nop, sleep, bar, bara, barw, dbar, dsig, dwait, rtest, cont, stepSend, stepTake, trap, brk, sread,
swrite, evt and enrg. What each then holds the statements of its family say. -/
def Obligations.UnitsCompleteAtTheNextUnit : Prop :=
  ∀ (s : State) (c : Ctx),
    let bonded := (c.team.span = 2 ∨ c.team.span = 3) ∧ c.team.bond ≠ 0 ∧ c.team.gleaner = none
    (∀ x : NoneU, Begins s c x.h {} 0 →
      Retired (.nop x) s c ∧ Retired (.yield x) s c ∧
      ((hasRelease (orderOf x.h).1 = true → releaseGate s c (orderOf x.h).2 = .go) → Retired (.fence x) s c) ∧
      (c.g.joins c.x c.sword = false → Retired (.join x) s c) ∧
      (noCohort c s = none → stuckGate s c 5 = .go → Retired (.dbar x) s c) ∧
      (c.team.state = .resident → c.team.gleaner = none → c.g.exited = false → c.g.live &&& ~~~c.act ≠ 0 →
        ∃ t g', Completes (.exit x) s t c g' ∧ g'.live = c.g.live &&& ~~~c.act)) ∧
    (∀ (x : NoneU) (e : RetEntry), issuerCtx s x.h = some c → mayPerform s c x.h false {} 0 true = true → c.g.run = none ∨ c.alone = true →
      c.x.depth ≠ 0 → c.x.rsp.bind (tfind c.g.rets) = some e →
      ∃ t g', Completes (.ret x) s t c g' ∧ ∃ y ∈ g'.splits, y.mask = c.x.mask ∧ y.pc = e.rpc ∧ y.depth + 1 = c.x.depth ∧ y.rsp = e.link) ∧
    (∀ x : PrefU, Begins s c x.h (refsOf [offRefs x.a x.o40, cRead x.c]) 1 → Retired (.pref x) s c) ∧
    (∀ x : PageinU, Begins s c x.h (refsOf [sName x.r, offRefs x.a x.o40, cRead x.c]) 0 →
      capGate s c.team.ctx (accessOf c x.c rR 0 5 x.o40 x.a) = .go → Retired (.pagein x) s c) ∧
    (∀ (x : NmU) (scat : Bool), Begins s c x.h (refsOf [sRead x.j, vRead x.a (if x.w then 3 else 2), sName x.r]) 0 → nmGate x scat c s = .go →
      Retired (if scat then .nmscat x else .nmred x) s c) ∧
    (∀ x : CpyU, Begins s c x.h (refsOf [ssrcRefs x.a, sName x.r]) 0 → recordGate s c (sregLa c x.a) = .go →
      (cpyChecks s c (cpyRec (cpyRecOf c x)) = .go → Retired (.cpy x) s c) ∧
      (cpycChecks s c (cpycRec (cpyRecOf c x)) = .go → Retired (.cpyc x) s c)) ∧
    (∀ x : RegU, Begins s c x.h (sName x.d) 0 → Retired (.enrg x) s c ∧
      (bonded → Retired (.blease x) s c ∧ Retired (.bfree x) s c ∧ Retired (.bstat x) s c)) ∧
    (∀ (x : BforkU) (b : Bond), Begins s c x.h (refsOf [cRead x.c, ssrcRefs x.a, sName x.r]) 0 → bonded → bondOf s c.die c.handle = some b →
      b.state ≠ 1 → capGate s c.team.ctx (forkAccess c x) = .go → Retired (.bfork x) s c) ∧
    (∀ x : SargU, Begins s c x.h (ssrcRefs x.a) 0 → Retired (.sleep x) s c ∧ Retired (.swrite x) s c) ∧
    (∀ x : BarU, Begins s c x.h {} 0 → c.team.gleaner = none →
      Retired (.barw x) s c ∧ (stuckGate s c 1 = .go → Retired (.bar x) s c ∧ Retired (.bara x) s c)) ∧
    (∀ x : DsigU, Begins s c x.h (refsOf [ssrcRefs x.a, ssrcRefs x.b]) 0 → sigPos c x < ndieOf s c.team.grid →
      releaseGate s c (sigScope s c (sigPos c x)) = .go → Retired (.dsig x) s c) ∧
    (∀ x : DwaitU, Begins s c x.h (refsOf [ssrcRefs x.a, sRead x.r]) 0 → c.team.gleaner = none → stuckGate s c 1 = .go → Retired (.dwait x) s c) ∧
    (∀ x : RtestU, Begins s c x.h { s := [x.d], rs := [x.a] } 0 → Retired (.rtest x) s c) ∧
    (∀ x : ContU, Begins s c x.h (vRead x.a 16) 2 → Retired (.cont x) s c) ∧
    (∀ x : SendU, Begins s c x.h (refsOf [srcRefs x.a 1, vRead x.b 16, sRead x.s]) 2 → mboxGate s c x.a = .go → releaseGate s c 5 = .go →
      Retired (.stepSend x) s c) ∧
    (∀ x : TakeU, Begins s c x.h (refsOf [srcRefs x.a 1, vName x.b (takeRegs x.hd), sName x.r]) 2 → mboxGate s c x.a = .go →
      Retired (.stepTake x) s c) ∧
    (∀ x : TrapU, Begins s c x.h (refsOf [srcRefs x.a 1, sName x.r]) 0 → localGate c.team 7 64 (trapBlocks c x) = .go →
      seamGate s c 7 (trapBlocks c x) = .go → Retired (.trap x) s c) ∧
    (∀ x : BrkU, Begins s c x.h {} 0 → Retired (.brk x) s c) ∧
    (∀ (x : SreadU) (r : Nat), Begins s c x.h (vName r 1) 0 → x.d = .v r → Retired (.sread x) s c) ∧
    (∀ (x : SreadU) (i : Nat), Begins s c x.h (sName i) 0 → x.d = .s i → Retired (.sread x) s c) ∧
    (∀ x : EvtU, Begins s c x.h (ssrcRefs x.a) 0 → Retired (.evt x) s c)

/-! No stop (R394, R436). -/

/-- The steps that stand in the agenda as events: all but units, words of a bond stream and hart instructions. -/
def eventSteps : List Instr :=
  [.powerUp, .powerDown, .bootcmd, .attestReport, .attestRaise, .doorbellWrite, .queueFetch, .recordRefetch, .gridStart,
    .teamPlacement, .preemptDecide, .saveComplete, .discardComplete, .restoreComplete, .preemptDeadline, .quantumSpent,
    .gridDeadlineMiss, .gleanDeadline, .dsigMessage, .dwaitTimeout, .sleepExpiry, .earlyWriteBack, .holdListRefill, .deckleOperation,
    .deckleStatusWrite, .pageinPageAction, .pressSweepVisit, .copyEngineTransfer, .engineInstallment, .feedUnitAppend, .seamUnitCopy] ++
  [.memoryPortInstallment, .siloBurstApply, .engineReceipt, .collectiveContribution, .collectiveRootResult, .bondStreamStart,
    .sequencerCharge, .serviceRequestPost, .scdone, .trapGroupRestore, .stepTakeDelivery, .lapStart, .ringStopVisit,
    .lapEndStaticCharge, .energyReadClear, .eplanWrite, .islctlWrite, .ratioChangeComplete, .droopDetect, .droopRecover,
    .canaryWarning, .canaryRelax, .thermalSample, .gstart, .gstopNow, .gstopForbidRestart, .cycleBudgetExpiry,
    .instructionBudgetRunaway, .gmbWaitTimeout, .hartException, .hartFailure] ++
  [.mailboxError, .apertureAccess, .circuitSet, .circuitClear, .circuitUp, .circuitDown, .pathTimeout, .wavelengthLoss, .seamRetrain,
    .farAccessArrival, .farOwnershipMessage, .flitReplay, .fabricLinkDown, .hostLinkFailure, .peercmd, .modnumWrite, .muObjectEntry,
    .muPageEntry, .muContextDescriptor, .muQueueDescriptor, .muFrameAppend, .muHostShare, .muHostUnshare, .muDomainImport,
    .muReadOnly, .deckleLookup, .drclKeep, .drclZero, .qerrWrite, .collectiveSlotWrite, .dbgctlWrite] ++
  [.gstop, .tstop, .resume, .step, .select, .tresume, .divergenceWindowWrite, .trapReport, .gwatch, .twatch, .spillwait, .holdfull,
    .cfence, .converterFault, .heartbeat, .diefail, .dfence, .brokenGridAbort, .cacheLineUe, .hbmWordUe, .deckleEntryUe, .purseUe,
    .energyCounterUe, .patrolScrub, .registerWrite, .driverPreemptionRequest, .bondOperationComplete, .seamRetrainComplete,
    .coreStateUe, .siloUnitUe, .localStoreUe]

/-- R394, R436: nothing stops the machine. An event answers a next state in every state; a unit, a stream word or a hart instruction wherever the
state names who takes it; and a step of the machine whatever the state, where its agenda names events only. -/
def Obligations.NothingStopsTheMachine : Prop :=
  (∀ i ∈ eventSteps, ∀ s : State, ∃ t, exec i s = .next t) ∧
  (∀ (i : Instr) (s : State), (∃ t, exec i s = .next t) ∨ (exec i s = .fault .noIssuer ∧ ∀ h, issuerCtx s h = none) ∨
    (exec i s = .fault .noSequencer ∧ ∀ d k, s.curSeq = some (d, k) → tfind (s.die d).bonds k = none) ∨
    (exec i s = .fault .noEpisode ∧ ∀ d m, s.curHart = some (d, m) → s.ep? d m = none)) ∧
  (∀ s : State, (∀ k a r, s.agenda = .event k a :: r → k ∈ eventSteps) → ∃ t, step s = .next t)
end

