-- ==== Sys2Proof/Laws/State.lean ====
section
/-! SUPPORT. What each named update of the state leaves as it was, field by field. -/
namespace Sys2Proof.Machine

variable (s : State)

/-! setDie changes dies alone. -/
@[simp] theorem State.setDie_powered (d : Nat) (x : Die) : (s.setDie d x).powered = s.powered := rfl
@[simp] theorem State.setDie_fuseDigest (d : Nat) (x : Die) : (s.setDie d x).fuseDigest = s.fuseDigest := rfl
@[simp] theorem State.setDie_fuseSeed (d : Nat) (x : Die) : (s.setDie d x).fuseSeed = s.fuseSeed := rfl
@[simp] theorem State.setDie_rollback (d : Nat) (x : Die) : (s.setDie d x).rollback = s.rollback := rfl
@[simp] theorem State.setDie_hbm (d : Nat) (x : Die) : (s.setDie d x).hbm = s.hbm := rfl
@[simp] theorem State.setDie_hbmTags (d : Nat) (x : Die) : (s.setDie d x).hbmTags = s.hbmTags := rfl
@[simp] theorem State.setDie_hbmPoison (d : Nat) (x : Die) : (s.setDie d x).hbmPoison = s.hbmPoison := rfl
@[simp] theorem State.setDie_host (d : Nat) (x : Die) : (s.setDie d x).host = s.host := rfl
@[simp] theorem State.setDie_far (d : Nat) (x : Die) : (s.setDie d x).far = s.far := rfl
@[simp] theorem State.setDie_lines (d : Nat) (x : Die) : (s.setDie d x).lines = s.lines := rfl
@[simp] theorem State.setDie_grids (d : Nat) (x : Die) : (s.setDie d x).grids = s.grids := rfl
@[simp] theorem State.setDie_deckles (d : Nat) (x : Die) : (s.setDie d x).deckles = s.deckles := rfl
@[simp] theorem State.setDie_holds (d : Nat) (x : Die) : (s.setDie d x).holds = s.holds := rfl
@[simp] theorem State.setDie_ownOps (d : Nat) (x : Die) : (s.setDie d x).ownOps = s.ownOps := rfl
@[simp] theorem State.setDie_engines (d : Nat) (x : Die) : (s.setDie d x).engines = s.engines := rfl
@[simp] theorem State.setDie_pageins (d : Nat) (x : Die) : (s.setDie d x).pageins = s.pageins := rfl
@[simp] theorem State.setDie_takes (d : Nat) (x : Die) : (s.setDie d x).takes = s.takes := rfl
@[simp] theorem State.setDie_collectives (d : Nat) (x : Die) : (s.setDie d x).collectives = s.collectives := rfl
@[simp] theorem State.setDie_imports (d : Nat) (x : Die) : (s.setDie d x).imports = s.imports := rfl
@[simp] theorem State.setDie_farReplies (d : Nat) (x : Die) : (s.setDie d x).farReplies = s.farReplies := rfl
@[simp] theorem State.setDie_farOut (d : Nat) (x : Die) : (s.setDie d x).farOut = s.farOut := rfl
@[simp] theorem State.setDie_lostPeers (d : Nat) (x : Die) : (s.setDie d x).lostPeers = s.lostPeers := rfl
@[simp] theorem State.setDie_queues (d : Nat) (x : Die) : (s.setDie d x).queues = s.queues := rfl
@[simp] theorem State.setDie_mreg (d : Nat) (x : Die) : (s.setDie d x).mreg = s.mreg := rfl
@[simp] theorem State.setDie_muWait (d : Nat) (x : Die) : (s.setDie d x).muWait = s.muWait := rfl
@[simp] theorem State.setDie_report (d : Nat) (x : Die) : (s.setDie d x).report = s.report := rfl
@[simp] theorem State.setDie_circuits (d : Nat) (x : Die) : (s.setDie d x).circuits = s.circuits := rfl
@[simp] theorem State.setDie_circDrain (d : Nat) (x : Die) : (s.setDie d x).circDrain = s.circDrain := rfl
@[simp] theorem State.setDie_circLost (d : Nat) (x : Die) : (s.setDie d x).circLost = s.circLost := rfl
@[simp] theorem State.setDie_seams (d : Nat) (x : Die) : (s.setDie d x).seams = s.seams := rfl
@[simp] theorem State.setDie_ports (d : Nat) (x : Die) : (s.setDie d x).ports = s.ports := rfl
@[simp] theorem State.setDie_replays (d : Nat) (x : Die) : (s.setDie d x).replays = s.replays := rfl
@[simp] theorem State.setDie_hostLinkDown (d : Nat) (x : Die) : (s.setDie d x).hostLinkDown = s.hostLinkDown := rfl
@[simp] theorem State.setDie_hostOut (d : Nat) (x : Die) : (s.setDie d x).hostOut = s.hostOut := rfl
@[simp] theorem State.setDie_paths (d : Nat) (x : Die) : (s.setDie d x).paths = s.paths := rfl
@[simp] theorem State.setDie_pressed (d : Nat) (x : Die) : (s.setDie d x).pressed = s.pressed := rfl
@[simp] theorem State.setDie_pressVisits (d : Nat) (x : Die) : (s.setDie d x).pressVisits = s.pressVisits := rfl
@[simp] theorem State.setDie_coreHeld (d : Nat) (x : Die) : (s.setDie d x).coreHeld = s.coreHeld := rfl
@[simp] theorem State.setDie_coreEnergy (d : Nat) (x : Die) : (s.setDie d x).coreEnergy = s.coreEnergy := rfl
@[simp] theorem State.setDie_energyRead (d : Nat) (x : Die) : (s.setDie d x).energyRead = s.energyRead := rfl
@[simp] theorem State.setDie_coreEvents (d : Nat) (x : Die) : (s.setDie d x).coreEvents = s.coreEvents := rfl
@[simp] theorem State.setDie_msix (d : Nat) (x : Die) : (s.setDie d x).msix = s.msix := rfl
@[simp] theorem State.setDie_nextId (d : Nat) (x : Die) : (s.setDie d x).nextId = s.nextId := rfl
@[simp] theorem State.setDie_nextGrid (d : Nat) (x : Die) : (s.setDie d x).nextGrid = s.nextGrid := rfl
@[simp] theorem State.setDie_issues (d : Nat) (x : Die) : (s.setDie d x).issues = s.issues := rfl
@[simp] theorem State.setDie_drawn (d : Nat) (x : Die) : (s.setDie d x).drawn = s.drawn := rfl
@[simp] theorem State.setDie_agenda (d : Nat) (x : Die) : (s.setDie d x).agenda = s.agenda := rfl
@[simp] theorem State.setDie_cur (d : Nat) (x : Die) : (s.setDie d x).cur = s.cur := rfl
@[simp] theorem State.setDie_curSeq (d : Nat) (x : Die) : (s.setDie d x).curSeq = s.curSeq := rfl
@[simp] theorem State.setDie_curHart (d : Nat) (x : Die) : (s.setDie d x).curHart = s.curHart := rfl
@[simp] theorem State.setDie_arg (d : Nat) (x : Die) : (s.setDie d x).arg = s.arg := rfl

/-! updDie changes dies alone. -/
@[simp] theorem State.updDie_powered (d : Nat) (f : Die → Die) : (s.updDie d f).powered = s.powered := rfl
@[simp] theorem State.updDie_fuseDigest (d : Nat) (f : Die → Die) : (s.updDie d f).fuseDigest = s.fuseDigest := rfl
@[simp] theorem State.updDie_fuseSeed (d : Nat) (f : Die → Die) : (s.updDie d f).fuseSeed = s.fuseSeed := rfl
@[simp] theorem State.updDie_rollback (d : Nat) (f : Die → Die) : (s.updDie d f).rollback = s.rollback := rfl
@[simp] theorem State.updDie_hbm (d : Nat) (f : Die → Die) : (s.updDie d f).hbm = s.hbm := rfl
@[simp] theorem State.updDie_hbmTags (d : Nat) (f : Die → Die) : (s.updDie d f).hbmTags = s.hbmTags := rfl
@[simp] theorem State.updDie_hbmPoison (d : Nat) (f : Die → Die) : (s.updDie d f).hbmPoison = s.hbmPoison := rfl
@[simp] theorem State.updDie_host (d : Nat) (f : Die → Die) : (s.updDie d f).host = s.host := rfl
@[simp] theorem State.updDie_far (d : Nat) (f : Die → Die) : (s.updDie d f).far = s.far := rfl
@[simp] theorem State.updDie_lines (d : Nat) (f : Die → Die) : (s.updDie d f).lines = s.lines := rfl
@[simp] theorem State.updDie_grids (d : Nat) (f : Die → Die) : (s.updDie d f).grids = s.grids := rfl
@[simp] theorem State.updDie_deckles (d : Nat) (f : Die → Die) : (s.updDie d f).deckles = s.deckles := rfl
@[simp] theorem State.updDie_holds (d : Nat) (f : Die → Die) : (s.updDie d f).holds = s.holds := rfl
@[simp] theorem State.updDie_ownOps (d : Nat) (f : Die → Die) : (s.updDie d f).ownOps = s.ownOps := rfl
@[simp] theorem State.updDie_engines (d : Nat) (f : Die → Die) : (s.updDie d f).engines = s.engines := rfl
@[simp] theorem State.updDie_pageins (d : Nat) (f : Die → Die) : (s.updDie d f).pageins = s.pageins := rfl
@[simp] theorem State.updDie_takes (d : Nat) (f : Die → Die) : (s.updDie d f).takes = s.takes := rfl
@[simp] theorem State.updDie_collectives (d : Nat) (f : Die → Die) : (s.updDie d f).collectives = s.collectives := rfl
@[simp] theorem State.updDie_imports (d : Nat) (f : Die → Die) : (s.updDie d f).imports = s.imports := rfl
@[simp] theorem State.updDie_farReplies (d : Nat) (f : Die → Die) : (s.updDie d f).farReplies = s.farReplies := rfl
@[simp] theorem State.updDie_farOut (d : Nat) (f : Die → Die) : (s.updDie d f).farOut = s.farOut := rfl
@[simp] theorem State.updDie_lostPeers (d : Nat) (f : Die → Die) : (s.updDie d f).lostPeers = s.lostPeers := rfl
@[simp] theorem State.updDie_queues (d : Nat) (f : Die → Die) : (s.updDie d f).queues = s.queues := rfl
@[simp] theorem State.updDie_mreg (d : Nat) (f : Die → Die) : (s.updDie d f).mreg = s.mreg := rfl
@[simp] theorem State.updDie_muWait (d : Nat) (f : Die → Die) : (s.updDie d f).muWait = s.muWait := rfl
@[simp] theorem State.updDie_report (d : Nat) (f : Die → Die) : (s.updDie d f).report = s.report := rfl
@[simp] theorem State.updDie_circuits (d : Nat) (f : Die → Die) : (s.updDie d f).circuits = s.circuits := rfl
@[simp] theorem State.updDie_circDrain (d : Nat) (f : Die → Die) : (s.updDie d f).circDrain = s.circDrain := rfl
@[simp] theorem State.updDie_circLost (d : Nat) (f : Die → Die) : (s.updDie d f).circLost = s.circLost := rfl
@[simp] theorem State.updDie_seams (d : Nat) (f : Die → Die) : (s.updDie d f).seams = s.seams := rfl
@[simp] theorem State.updDie_ports (d : Nat) (f : Die → Die) : (s.updDie d f).ports = s.ports := rfl
@[simp] theorem State.updDie_replays (d : Nat) (f : Die → Die) : (s.updDie d f).replays = s.replays := rfl
@[simp] theorem State.updDie_hostLinkDown (d : Nat) (f : Die → Die) : (s.updDie d f).hostLinkDown = s.hostLinkDown := rfl
@[simp] theorem State.updDie_hostOut (d : Nat) (f : Die → Die) : (s.updDie d f).hostOut = s.hostOut := rfl
@[simp] theorem State.updDie_paths (d : Nat) (f : Die → Die) : (s.updDie d f).paths = s.paths := rfl
@[simp] theorem State.updDie_pressed (d : Nat) (f : Die → Die) : (s.updDie d f).pressed = s.pressed := rfl
@[simp] theorem State.updDie_pressVisits (d : Nat) (f : Die → Die) : (s.updDie d f).pressVisits = s.pressVisits := rfl
@[simp] theorem State.updDie_coreHeld (d : Nat) (f : Die → Die) : (s.updDie d f).coreHeld = s.coreHeld := rfl
@[simp] theorem State.updDie_coreEnergy (d : Nat) (f : Die → Die) : (s.updDie d f).coreEnergy = s.coreEnergy := rfl
@[simp] theorem State.updDie_energyRead (d : Nat) (f : Die → Die) : (s.updDie d f).energyRead = s.energyRead := rfl
@[simp] theorem State.updDie_coreEvents (d : Nat) (f : Die → Die) : (s.updDie d f).coreEvents = s.coreEvents := rfl
@[simp] theorem State.updDie_msix (d : Nat) (f : Die → Die) : (s.updDie d f).msix = s.msix := rfl
@[simp] theorem State.updDie_nextId (d : Nat) (f : Die → Die) : (s.updDie d f).nextId = s.nextId := rfl
@[simp] theorem State.updDie_nextGrid (d : Nat) (f : Die → Die) : (s.updDie d f).nextGrid = s.nextGrid := rfl
@[simp] theorem State.updDie_issues (d : Nat) (f : Die → Die) : (s.updDie d f).issues = s.issues := rfl
@[simp] theorem State.updDie_drawn (d : Nat) (f : Die → Die) : (s.updDie d f).drawn = s.drawn := rfl
@[simp] theorem State.updDie_agenda (d : Nat) (f : Die → Die) : (s.updDie d f).agenda = s.agenda := rfl
@[simp] theorem State.updDie_cur (d : Nat) (f : Die → Die) : (s.updDie d f).cur = s.cur := rfl
@[simp] theorem State.updDie_curSeq (d : Nat) (f : Die → Die) : (s.updDie d f).curSeq = s.curSeq := rfl
@[simp] theorem State.updDie_curHart (d : Nat) (f : Die → Die) : (s.updDie d f).curHart = s.curHart := rfl
@[simp] theorem State.updDie_arg (d : Nat) (f : Die → Die) : (s.updDie d f).arg = s.arg := rfl

/-! setTeam changes dies alone. -/
@[simp] theorem State.setTeam_powered (d h : Nat) (x : Team) : (s.setTeam d h x).powered = s.powered := rfl
@[simp] theorem State.setTeam_fuseDigest (d h : Nat) (x : Team) : (s.setTeam d h x).fuseDigest = s.fuseDigest := rfl
@[simp] theorem State.setTeam_fuseSeed (d h : Nat) (x : Team) : (s.setTeam d h x).fuseSeed = s.fuseSeed := rfl
@[simp] theorem State.setTeam_rollback (d h : Nat) (x : Team) : (s.setTeam d h x).rollback = s.rollback := rfl
@[simp] theorem State.setTeam_hbm (d h : Nat) (x : Team) : (s.setTeam d h x).hbm = s.hbm := rfl
@[simp] theorem State.setTeam_hbmTags (d h : Nat) (x : Team) : (s.setTeam d h x).hbmTags = s.hbmTags := rfl
@[simp] theorem State.setTeam_hbmPoison (d h : Nat) (x : Team) : (s.setTeam d h x).hbmPoison = s.hbmPoison := rfl
@[simp] theorem State.setTeam_host (d h : Nat) (x : Team) : (s.setTeam d h x).host = s.host := rfl
@[simp] theorem State.setTeam_far (d h : Nat) (x : Team) : (s.setTeam d h x).far = s.far := rfl
@[simp] theorem State.setTeam_lines (d h : Nat) (x : Team) : (s.setTeam d h x).lines = s.lines := rfl
@[simp] theorem State.setTeam_grids (d h : Nat) (x : Team) : (s.setTeam d h x).grids = s.grids := rfl
@[simp] theorem State.setTeam_deckles (d h : Nat) (x : Team) : (s.setTeam d h x).deckles = s.deckles := rfl
@[simp] theorem State.setTeam_holds (d h : Nat) (x : Team) : (s.setTeam d h x).holds = s.holds := rfl
@[simp] theorem State.setTeam_ownOps (d h : Nat) (x : Team) : (s.setTeam d h x).ownOps = s.ownOps := rfl
@[simp] theorem State.setTeam_engines (d h : Nat) (x : Team) : (s.setTeam d h x).engines = s.engines := rfl
@[simp] theorem State.setTeam_pageins (d h : Nat) (x : Team) : (s.setTeam d h x).pageins = s.pageins := rfl
@[simp] theorem State.setTeam_takes (d h : Nat) (x : Team) : (s.setTeam d h x).takes = s.takes := rfl
@[simp] theorem State.setTeam_collectives (d h : Nat) (x : Team) : (s.setTeam d h x).collectives = s.collectives := rfl
@[simp] theorem State.setTeam_imports (d h : Nat) (x : Team) : (s.setTeam d h x).imports = s.imports := rfl
@[simp] theorem State.setTeam_farReplies (d h : Nat) (x : Team) : (s.setTeam d h x).farReplies = s.farReplies := rfl
@[simp] theorem State.setTeam_farOut (d h : Nat) (x : Team) : (s.setTeam d h x).farOut = s.farOut := rfl
@[simp] theorem State.setTeam_lostPeers (d h : Nat) (x : Team) : (s.setTeam d h x).lostPeers = s.lostPeers := rfl
@[simp] theorem State.setTeam_queues (d h : Nat) (x : Team) : (s.setTeam d h x).queues = s.queues := rfl
@[simp] theorem State.setTeam_mreg (d h : Nat) (x : Team) : (s.setTeam d h x).mreg = s.mreg := rfl
@[simp] theorem State.setTeam_muWait (d h : Nat) (x : Team) : (s.setTeam d h x).muWait = s.muWait := rfl
@[simp] theorem State.setTeam_report (d h : Nat) (x : Team) : (s.setTeam d h x).report = s.report := rfl
@[simp] theorem State.setTeam_circuits (d h : Nat) (x : Team) : (s.setTeam d h x).circuits = s.circuits := rfl
@[simp] theorem State.setTeam_circDrain (d h : Nat) (x : Team) : (s.setTeam d h x).circDrain = s.circDrain := rfl
@[simp] theorem State.setTeam_circLost (d h : Nat) (x : Team) : (s.setTeam d h x).circLost = s.circLost := rfl
@[simp] theorem State.setTeam_seams (d h : Nat) (x : Team) : (s.setTeam d h x).seams = s.seams := rfl
@[simp] theorem State.setTeam_ports (d h : Nat) (x : Team) : (s.setTeam d h x).ports = s.ports := rfl
@[simp] theorem State.setTeam_replays (d h : Nat) (x : Team) : (s.setTeam d h x).replays = s.replays := rfl
@[simp] theorem State.setTeam_hostLinkDown (d h : Nat) (x : Team) : (s.setTeam d h x).hostLinkDown = s.hostLinkDown := rfl
@[simp] theorem State.setTeam_hostOut (d h : Nat) (x : Team) : (s.setTeam d h x).hostOut = s.hostOut := rfl
@[simp] theorem State.setTeam_paths (d h : Nat) (x : Team) : (s.setTeam d h x).paths = s.paths := rfl
@[simp] theorem State.setTeam_pressed (d h : Nat) (x : Team) : (s.setTeam d h x).pressed = s.pressed := rfl
@[simp] theorem State.setTeam_pressVisits (d h : Nat) (x : Team) : (s.setTeam d h x).pressVisits = s.pressVisits := rfl
@[simp] theorem State.setTeam_coreHeld (d h : Nat) (x : Team) : (s.setTeam d h x).coreHeld = s.coreHeld := rfl
@[simp] theorem State.setTeam_coreEnergy (d h : Nat) (x : Team) : (s.setTeam d h x).coreEnergy = s.coreEnergy := rfl
@[simp] theorem State.setTeam_energyRead (d h : Nat) (x : Team) : (s.setTeam d h x).energyRead = s.energyRead := rfl
@[simp] theorem State.setTeam_coreEvents (d h : Nat) (x : Team) : (s.setTeam d h x).coreEvents = s.coreEvents := rfl
@[simp] theorem State.setTeam_msix (d h : Nat) (x : Team) : (s.setTeam d h x).msix = s.msix := rfl
@[simp] theorem State.setTeam_nextId (d h : Nat) (x : Team) : (s.setTeam d h x).nextId = s.nextId := rfl
@[simp] theorem State.setTeam_nextGrid (d h : Nat) (x : Team) : (s.setTeam d h x).nextGrid = s.nextGrid := rfl
@[simp] theorem State.setTeam_issues (d h : Nat) (x : Team) : (s.setTeam d h x).issues = s.issues := rfl
@[simp] theorem State.setTeam_drawn (d h : Nat) (x : Team) : (s.setTeam d h x).drawn = s.drawn := rfl
@[simp] theorem State.setTeam_agenda (d h : Nat) (x : Team) : (s.setTeam d h x).agenda = s.agenda := rfl
@[simp] theorem State.setTeam_cur (d h : Nat) (x : Team) : (s.setTeam d h x).cur = s.cur := rfl
@[simp] theorem State.setTeam_curSeq (d h : Nat) (x : Team) : (s.setTeam d h x).curSeq = s.curSeq := rfl
@[simp] theorem State.setTeam_curHart (d h : Nat) (x : Team) : (s.setTeam d h x).curHart = s.curHart := rfl
@[simp] theorem State.setTeam_arg (d h : Nat) (x : Team) : (s.setTeam d h x).arg = s.arg := rfl

/-! delTeam changes dies alone. -/
@[simp] theorem State.delTeam_powered (d h : Nat) : (s.delTeam d h).powered = s.powered := rfl
@[simp] theorem State.delTeam_fuseDigest (d h : Nat) : (s.delTeam d h).fuseDigest = s.fuseDigest := rfl
@[simp] theorem State.delTeam_fuseSeed (d h : Nat) : (s.delTeam d h).fuseSeed = s.fuseSeed := rfl
@[simp] theorem State.delTeam_rollback (d h : Nat) : (s.delTeam d h).rollback = s.rollback := rfl
@[simp] theorem State.delTeam_hbm (d h : Nat) : (s.delTeam d h).hbm = s.hbm := rfl
@[simp] theorem State.delTeam_hbmTags (d h : Nat) : (s.delTeam d h).hbmTags = s.hbmTags := rfl
@[simp] theorem State.delTeam_hbmPoison (d h : Nat) : (s.delTeam d h).hbmPoison = s.hbmPoison := rfl
@[simp] theorem State.delTeam_host (d h : Nat) : (s.delTeam d h).host = s.host := rfl
@[simp] theorem State.delTeam_far (d h : Nat) : (s.delTeam d h).far = s.far := rfl
@[simp] theorem State.delTeam_lines (d h : Nat) : (s.delTeam d h).lines = s.lines := rfl
@[simp] theorem State.delTeam_grids (d h : Nat) : (s.delTeam d h).grids = s.grids := rfl
@[simp] theorem State.delTeam_deckles (d h : Nat) : (s.delTeam d h).deckles = s.deckles := rfl
@[simp] theorem State.delTeam_holds (d h : Nat) : (s.delTeam d h).holds = s.holds := rfl
@[simp] theorem State.delTeam_ownOps (d h : Nat) : (s.delTeam d h).ownOps = s.ownOps := rfl
@[simp] theorem State.delTeam_engines (d h : Nat) : (s.delTeam d h).engines = s.engines := rfl
@[simp] theorem State.delTeam_pageins (d h : Nat) : (s.delTeam d h).pageins = s.pageins := rfl
@[simp] theorem State.delTeam_takes (d h : Nat) : (s.delTeam d h).takes = s.takes := rfl
@[simp] theorem State.delTeam_collectives (d h : Nat) : (s.delTeam d h).collectives = s.collectives := rfl
@[simp] theorem State.delTeam_imports (d h : Nat) : (s.delTeam d h).imports = s.imports := rfl
@[simp] theorem State.delTeam_farReplies (d h : Nat) : (s.delTeam d h).farReplies = s.farReplies := rfl
@[simp] theorem State.delTeam_farOut (d h : Nat) : (s.delTeam d h).farOut = s.farOut := rfl
@[simp] theorem State.delTeam_lostPeers (d h : Nat) : (s.delTeam d h).lostPeers = s.lostPeers := rfl
@[simp] theorem State.delTeam_queues (d h : Nat) : (s.delTeam d h).queues = s.queues := rfl
@[simp] theorem State.delTeam_mreg (d h : Nat) : (s.delTeam d h).mreg = s.mreg := rfl
@[simp] theorem State.delTeam_muWait (d h : Nat) : (s.delTeam d h).muWait = s.muWait := rfl
@[simp] theorem State.delTeam_report (d h : Nat) : (s.delTeam d h).report = s.report := rfl
@[simp] theorem State.delTeam_circuits (d h : Nat) : (s.delTeam d h).circuits = s.circuits := rfl
@[simp] theorem State.delTeam_circDrain (d h : Nat) : (s.delTeam d h).circDrain = s.circDrain := rfl
@[simp] theorem State.delTeam_circLost (d h : Nat) : (s.delTeam d h).circLost = s.circLost := rfl
@[simp] theorem State.delTeam_seams (d h : Nat) : (s.delTeam d h).seams = s.seams := rfl
@[simp] theorem State.delTeam_ports (d h : Nat) : (s.delTeam d h).ports = s.ports := rfl
@[simp] theorem State.delTeam_replays (d h : Nat) : (s.delTeam d h).replays = s.replays := rfl
@[simp] theorem State.delTeam_hostLinkDown (d h : Nat) : (s.delTeam d h).hostLinkDown = s.hostLinkDown := rfl
@[simp] theorem State.delTeam_hostOut (d h : Nat) : (s.delTeam d h).hostOut = s.hostOut := rfl
@[simp] theorem State.delTeam_paths (d h : Nat) : (s.delTeam d h).paths = s.paths := rfl
@[simp] theorem State.delTeam_pressed (d h : Nat) : (s.delTeam d h).pressed = s.pressed := rfl
@[simp] theorem State.delTeam_pressVisits (d h : Nat) : (s.delTeam d h).pressVisits = s.pressVisits := rfl
@[simp] theorem State.delTeam_coreHeld (d h : Nat) : (s.delTeam d h).coreHeld = s.coreHeld := rfl
@[simp] theorem State.delTeam_coreEnergy (d h : Nat) : (s.delTeam d h).coreEnergy = s.coreEnergy := rfl
@[simp] theorem State.delTeam_energyRead (d h : Nat) : (s.delTeam d h).energyRead = s.energyRead := rfl
@[simp] theorem State.delTeam_coreEvents (d h : Nat) : (s.delTeam d h).coreEvents = s.coreEvents := rfl
@[simp] theorem State.delTeam_msix (d h : Nat) : (s.delTeam d h).msix = s.msix := rfl
@[simp] theorem State.delTeam_nextId (d h : Nat) : (s.delTeam d h).nextId = s.nextId := rfl
@[simp] theorem State.delTeam_nextGrid (d h : Nat) : (s.delTeam d h).nextGrid = s.nextGrid := rfl
@[simp] theorem State.delTeam_issues (d h : Nat) : (s.delTeam d h).issues = s.issues := rfl
@[simp] theorem State.delTeam_drawn (d h : Nat) : (s.delTeam d h).drawn = s.drawn := rfl
@[simp] theorem State.delTeam_agenda (d h : Nat) : (s.delTeam d h).agenda = s.agenda := rfl
@[simp] theorem State.delTeam_cur (d h : Nat) : (s.delTeam d h).cur = s.cur := rfl
@[simp] theorem State.delTeam_curSeq (d h : Nat) : (s.delTeam d h).curSeq = s.curSeq := rfl
@[simp] theorem State.delTeam_curHart (d h : Nat) : (s.delTeam d h).curHart = s.curHart := rfl
@[simp] theorem State.delTeam_arg (d h : Nat) : (s.delTeam d h).arg = s.arg := rfl

/-! updTeam changes dies alone. -/
@[simp] theorem State.updTeam_powered (d h : Nat) (f : Team → Team) : (s.updTeam d h f).powered = s.powered := by unfold State.updTeam; split <;> rfl
@[simp] theorem State.updTeam_fuseDigest (d h : Nat) (f : Team → Team) : (s.updTeam d h f).fuseDigest = s.fuseDigest := by unfold State.updTeam; split <;> rfl
@[simp] theorem State.updTeam_fuseSeed (d h : Nat) (f : Team → Team) : (s.updTeam d h f).fuseSeed = s.fuseSeed := by unfold State.updTeam; split <;> rfl
@[simp] theorem State.updTeam_rollback (d h : Nat) (f : Team → Team) : (s.updTeam d h f).rollback = s.rollback := by unfold State.updTeam; split <;> rfl
@[simp] theorem State.updTeam_hbm (d h : Nat) (f : Team → Team) : (s.updTeam d h f).hbm = s.hbm := by unfold State.updTeam; split <;> rfl
@[simp] theorem State.updTeam_hbmTags (d h : Nat) (f : Team → Team) : (s.updTeam d h f).hbmTags = s.hbmTags := by unfold State.updTeam; split <;> rfl
@[simp] theorem State.updTeam_hbmPoison (d h : Nat) (f : Team → Team) : (s.updTeam d h f).hbmPoison = s.hbmPoison := by unfold State.updTeam; split <;> rfl
@[simp] theorem State.updTeam_host (d h : Nat) (f : Team → Team) : (s.updTeam d h f).host = s.host := by unfold State.updTeam; split <;> rfl
@[simp] theorem State.updTeam_far (d h : Nat) (f : Team → Team) : (s.updTeam d h f).far = s.far := by unfold State.updTeam; split <;> rfl
@[simp] theorem State.updTeam_lines (d h : Nat) (f : Team → Team) : (s.updTeam d h f).lines = s.lines := by unfold State.updTeam; split <;> rfl
@[simp] theorem State.updTeam_grids (d h : Nat) (f : Team → Team) : (s.updTeam d h f).grids = s.grids := by unfold State.updTeam; split <;> rfl
@[simp] theorem State.updTeam_deckles (d h : Nat) (f : Team → Team) : (s.updTeam d h f).deckles = s.deckles := by unfold State.updTeam; split <;> rfl
@[simp] theorem State.updTeam_holds (d h : Nat) (f : Team → Team) : (s.updTeam d h f).holds = s.holds := by unfold State.updTeam; split <;> rfl
@[simp] theorem State.updTeam_ownOps (d h : Nat) (f : Team → Team) : (s.updTeam d h f).ownOps = s.ownOps := by unfold State.updTeam; split <;> rfl
@[simp] theorem State.updTeam_engines (d h : Nat) (f : Team → Team) : (s.updTeam d h f).engines = s.engines := by unfold State.updTeam; split <;> rfl
@[simp] theorem State.updTeam_pageins (d h : Nat) (f : Team → Team) : (s.updTeam d h f).pageins = s.pageins := by unfold State.updTeam; split <;> rfl
@[simp] theorem State.updTeam_takes (d h : Nat) (f : Team → Team) : (s.updTeam d h f).takes = s.takes := by unfold State.updTeam; split <;> rfl
@[simp] theorem State.updTeam_collectives (d h : Nat) (f : Team → Team) : (s.updTeam d h f).collectives = s.collectives := by unfold State.updTeam; split <;> rfl
@[simp] theorem State.updTeam_imports (d h : Nat) (f : Team → Team) : (s.updTeam d h f).imports = s.imports := by unfold State.updTeam; split <;> rfl
@[simp] theorem State.updTeam_farReplies (d h : Nat) (f : Team → Team) : (s.updTeam d h f).farReplies = s.farReplies := by unfold State.updTeam; split <;> rfl
@[simp] theorem State.updTeam_farOut (d h : Nat) (f : Team → Team) : (s.updTeam d h f).farOut = s.farOut := by unfold State.updTeam; split <;> rfl
@[simp] theorem State.updTeam_lostPeers (d h : Nat) (f : Team → Team) : (s.updTeam d h f).lostPeers = s.lostPeers := by unfold State.updTeam; split <;> rfl
@[simp] theorem State.updTeam_queues (d h : Nat) (f : Team → Team) : (s.updTeam d h f).queues = s.queues := by unfold State.updTeam; split <;> rfl
@[simp] theorem State.updTeam_mreg (d h : Nat) (f : Team → Team) : (s.updTeam d h f).mreg = s.mreg := by unfold State.updTeam; split <;> rfl
@[simp] theorem State.updTeam_muWait (d h : Nat) (f : Team → Team) : (s.updTeam d h f).muWait = s.muWait := by unfold State.updTeam; split <;> rfl
@[simp] theorem State.updTeam_report (d h : Nat) (f : Team → Team) : (s.updTeam d h f).report = s.report := by unfold State.updTeam; split <;> rfl
@[simp] theorem State.updTeam_circuits (d h : Nat) (f : Team → Team) : (s.updTeam d h f).circuits = s.circuits := by unfold State.updTeam; split <;> rfl
@[simp] theorem State.updTeam_circDrain (d h : Nat) (f : Team → Team) : (s.updTeam d h f).circDrain = s.circDrain := by unfold State.updTeam; split <;> rfl
@[simp] theorem State.updTeam_circLost (d h : Nat) (f : Team → Team) : (s.updTeam d h f).circLost = s.circLost := by unfold State.updTeam; split <;> rfl
@[simp] theorem State.updTeam_seams (d h : Nat) (f : Team → Team) : (s.updTeam d h f).seams = s.seams := by unfold State.updTeam; split <;> rfl
@[simp] theorem State.updTeam_ports (d h : Nat) (f : Team → Team) : (s.updTeam d h f).ports = s.ports := by unfold State.updTeam; split <;> rfl
@[simp] theorem State.updTeam_replays (d h : Nat) (f : Team → Team) : (s.updTeam d h f).replays = s.replays := by unfold State.updTeam; split <;> rfl
@[simp] theorem State.updTeam_hostLinkDown (d h : Nat) (f : Team → Team) : (s.updTeam d h f).hostLinkDown = s.hostLinkDown := by unfold State.updTeam; split <;> rfl
@[simp] theorem State.updTeam_hostOut (d h : Nat) (f : Team → Team) : (s.updTeam d h f).hostOut = s.hostOut := by unfold State.updTeam; split <;> rfl
@[simp] theorem State.updTeam_paths (d h : Nat) (f : Team → Team) : (s.updTeam d h f).paths = s.paths := by unfold State.updTeam; split <;> rfl
@[simp] theorem State.updTeam_pressed (d h : Nat) (f : Team → Team) : (s.updTeam d h f).pressed = s.pressed := by unfold State.updTeam; split <;> rfl
@[simp] theorem State.updTeam_pressVisits (d h : Nat) (f : Team → Team) : (s.updTeam d h f).pressVisits = s.pressVisits := by unfold State.updTeam; split <;> rfl
@[simp] theorem State.updTeam_coreHeld (d h : Nat) (f : Team → Team) : (s.updTeam d h f).coreHeld = s.coreHeld := by unfold State.updTeam; split <;> rfl
@[simp] theorem State.updTeam_coreEnergy (d h : Nat) (f : Team → Team) : (s.updTeam d h f).coreEnergy = s.coreEnergy := by unfold State.updTeam; split <;> rfl
@[simp] theorem State.updTeam_energyRead (d h : Nat) (f : Team → Team) : (s.updTeam d h f).energyRead = s.energyRead := by unfold State.updTeam; split <;> rfl
@[simp] theorem State.updTeam_coreEvents (d h : Nat) (f : Team → Team) : (s.updTeam d h f).coreEvents = s.coreEvents := by unfold State.updTeam; split <;> rfl
@[simp] theorem State.updTeam_msix (d h : Nat) (f : Team → Team) : (s.updTeam d h f).msix = s.msix := by unfold State.updTeam; split <;> rfl
@[simp] theorem State.updTeam_nextId (d h : Nat) (f : Team → Team) : (s.updTeam d h f).nextId = s.nextId := by unfold State.updTeam; split <;> rfl
@[simp] theorem State.updTeam_nextGrid (d h : Nat) (f : Team → Team) : (s.updTeam d h f).nextGrid = s.nextGrid := by unfold State.updTeam; split <;> rfl
@[simp] theorem State.updTeam_issues (d h : Nat) (f : Team → Team) : (s.updTeam d h f).issues = s.issues := by unfold State.updTeam; split <;> rfl
@[simp] theorem State.updTeam_drawn (d h : Nat) (f : Team → Team) : (s.updTeam d h f).drawn = s.drawn := by unfold State.updTeam; split <;> rfl
@[simp] theorem State.updTeam_agenda (d h : Nat) (f : Team → Team) : (s.updTeam d h f).agenda = s.agenda := by unfold State.updTeam; split <;> rfl
@[simp] theorem State.updTeam_cur (d h : Nat) (f : Team → Team) : (s.updTeam d h f).cur = s.cur := by unfold State.updTeam; split <;> rfl
@[simp] theorem State.updTeam_curSeq (d h : Nat) (f : Team → Team) : (s.updTeam d h f).curSeq = s.curSeq := by unfold State.updTeam; split <;> rfl
@[simp] theorem State.updTeam_curHart (d h : Nat) (f : Team → Team) : (s.updTeam d h f).curHart = s.curHart := by unfold State.updTeam; split <;> rfl
@[simp] theorem State.updTeam_arg (d h : Nat) (f : Team → Team) : (s.updTeam d h f).arg = s.arg := by unfold State.updTeam; split <;> rfl

/-! setGroup changes dies alone. -/
@[simp] theorem State.setGroup_powered (d h g : Nat) (x : Group) : (s.setGroup d h g x).powered = s.powered := by simp [State.setGroup]
@[simp] theorem State.setGroup_fuseDigest (d h g : Nat) (x : Group) : (s.setGroup d h g x).fuseDigest = s.fuseDigest := by simp [State.setGroup]
@[simp] theorem State.setGroup_fuseSeed (d h g : Nat) (x : Group) : (s.setGroup d h g x).fuseSeed = s.fuseSeed := by simp [State.setGroup]
@[simp] theorem State.setGroup_rollback (d h g : Nat) (x : Group) : (s.setGroup d h g x).rollback = s.rollback := by simp [State.setGroup]
@[simp] theorem State.setGroup_hbm (d h g : Nat) (x : Group) : (s.setGroup d h g x).hbm = s.hbm := by simp [State.setGroup]
@[simp] theorem State.setGroup_hbmTags (d h g : Nat) (x : Group) : (s.setGroup d h g x).hbmTags = s.hbmTags := by simp [State.setGroup]
@[simp] theorem State.setGroup_hbmPoison (d h g : Nat) (x : Group) : (s.setGroup d h g x).hbmPoison = s.hbmPoison := by simp [State.setGroup]
@[simp] theorem State.setGroup_host (d h g : Nat) (x : Group) : (s.setGroup d h g x).host = s.host := by simp [State.setGroup]
@[simp] theorem State.setGroup_far (d h g : Nat) (x : Group) : (s.setGroup d h g x).far = s.far := by simp [State.setGroup]
@[simp] theorem State.setGroup_lines (d h g : Nat) (x : Group) : (s.setGroup d h g x).lines = s.lines := by simp [State.setGroup]
@[simp] theorem State.setGroup_grids (d h g : Nat) (x : Group) : (s.setGroup d h g x).grids = s.grids := by simp [State.setGroup]
@[simp] theorem State.setGroup_deckles (d h g : Nat) (x : Group) : (s.setGroup d h g x).deckles = s.deckles := by simp [State.setGroup]
@[simp] theorem State.setGroup_holds (d h g : Nat) (x : Group) : (s.setGroup d h g x).holds = s.holds := by simp [State.setGroup]
@[simp] theorem State.setGroup_ownOps (d h g : Nat) (x : Group) : (s.setGroup d h g x).ownOps = s.ownOps := by simp [State.setGroup]
@[simp] theorem State.setGroup_engines (d h g : Nat) (x : Group) : (s.setGroup d h g x).engines = s.engines := by simp [State.setGroup]
@[simp] theorem State.setGroup_pageins (d h g : Nat) (x : Group) : (s.setGroup d h g x).pageins = s.pageins := by simp [State.setGroup]
@[simp] theorem State.setGroup_takes (d h g : Nat) (x : Group) : (s.setGroup d h g x).takes = s.takes := by simp [State.setGroup]
@[simp] theorem State.setGroup_collectives (d h g : Nat) (x : Group) : (s.setGroup d h g x).collectives = s.collectives := by simp [State.setGroup]
@[simp] theorem State.setGroup_imports (d h g : Nat) (x : Group) : (s.setGroup d h g x).imports = s.imports := by simp [State.setGroup]
@[simp] theorem State.setGroup_farReplies (d h g : Nat) (x : Group) : (s.setGroup d h g x).farReplies = s.farReplies := by simp [State.setGroup]
@[simp] theorem State.setGroup_farOut (d h g : Nat) (x : Group) : (s.setGroup d h g x).farOut = s.farOut := by simp [State.setGroup]
@[simp] theorem State.setGroup_lostPeers (d h g : Nat) (x : Group) : (s.setGroup d h g x).lostPeers = s.lostPeers := by simp [State.setGroup]
@[simp] theorem State.setGroup_queues (d h g : Nat) (x : Group) : (s.setGroup d h g x).queues = s.queues := by simp [State.setGroup]
@[simp] theorem State.setGroup_mreg (d h g : Nat) (x : Group) : (s.setGroup d h g x).mreg = s.mreg := by simp [State.setGroup]
@[simp] theorem State.setGroup_muWait (d h g : Nat) (x : Group) : (s.setGroup d h g x).muWait = s.muWait := by simp [State.setGroup]
@[simp] theorem State.setGroup_report (d h g : Nat) (x : Group) : (s.setGroup d h g x).report = s.report := by simp [State.setGroup]
@[simp] theorem State.setGroup_circuits (d h g : Nat) (x : Group) : (s.setGroup d h g x).circuits = s.circuits := by simp [State.setGroup]
@[simp] theorem State.setGroup_circDrain (d h g : Nat) (x : Group) : (s.setGroup d h g x).circDrain = s.circDrain := by simp [State.setGroup]
@[simp] theorem State.setGroup_circLost (d h g : Nat) (x : Group) : (s.setGroup d h g x).circLost = s.circLost := by simp [State.setGroup]
@[simp] theorem State.setGroup_seams (d h g : Nat) (x : Group) : (s.setGroup d h g x).seams = s.seams := by simp [State.setGroup]
@[simp] theorem State.setGroup_ports (d h g : Nat) (x : Group) : (s.setGroup d h g x).ports = s.ports := by simp [State.setGroup]
@[simp] theorem State.setGroup_replays (d h g : Nat) (x : Group) : (s.setGroup d h g x).replays = s.replays := by simp [State.setGroup]
@[simp] theorem State.setGroup_hostLinkDown (d h g : Nat) (x : Group) : (s.setGroup d h g x).hostLinkDown = s.hostLinkDown := by simp [State.setGroup]
@[simp] theorem State.setGroup_hostOut (d h g : Nat) (x : Group) : (s.setGroup d h g x).hostOut = s.hostOut := by simp [State.setGroup]
@[simp] theorem State.setGroup_paths (d h g : Nat) (x : Group) : (s.setGroup d h g x).paths = s.paths := by simp [State.setGroup]
@[simp] theorem State.setGroup_pressed (d h g : Nat) (x : Group) : (s.setGroup d h g x).pressed = s.pressed := by simp [State.setGroup]
@[simp] theorem State.setGroup_pressVisits (d h g : Nat) (x : Group) : (s.setGroup d h g x).pressVisits = s.pressVisits := by simp [State.setGroup]
@[simp] theorem State.setGroup_coreHeld (d h g : Nat) (x : Group) : (s.setGroup d h g x).coreHeld = s.coreHeld := by simp [State.setGroup]
@[simp] theorem State.setGroup_coreEnergy (d h g : Nat) (x : Group) : (s.setGroup d h g x).coreEnergy = s.coreEnergy := by simp [State.setGroup]
@[simp] theorem State.setGroup_energyRead (d h g : Nat) (x : Group) : (s.setGroup d h g x).energyRead = s.energyRead := by simp [State.setGroup]
@[simp] theorem State.setGroup_coreEvents (d h g : Nat) (x : Group) : (s.setGroup d h g x).coreEvents = s.coreEvents := by simp [State.setGroup]
@[simp] theorem State.setGroup_msix (d h g : Nat) (x : Group) : (s.setGroup d h g x).msix = s.msix := by simp [State.setGroup]
@[simp] theorem State.setGroup_nextId (d h g : Nat) (x : Group) : (s.setGroup d h g x).nextId = s.nextId := by simp [State.setGroup]
@[simp] theorem State.setGroup_nextGrid (d h g : Nat) (x : Group) : (s.setGroup d h g x).nextGrid = s.nextGrid := by simp [State.setGroup]
@[simp] theorem State.setGroup_issues (d h g : Nat) (x : Group) : (s.setGroup d h g x).issues = s.issues := by simp [State.setGroup]
@[simp] theorem State.setGroup_drawn (d h g : Nat) (x : Group) : (s.setGroup d h g x).drawn = s.drawn := by simp [State.setGroup]
@[simp] theorem State.setGroup_agenda (d h g : Nat) (x : Group) : (s.setGroup d h g x).agenda = s.agenda := by simp [State.setGroup]
@[simp] theorem State.setGroup_cur (d h g : Nat) (x : Group) : (s.setGroup d h g x).cur = s.cur := by simp [State.setGroup]
@[simp] theorem State.setGroup_curSeq (d h g : Nat) (x : Group) : (s.setGroup d h g x).curSeq = s.curSeq := by simp [State.setGroup]
@[simp] theorem State.setGroup_curHart (d h g : Nat) (x : Group) : (s.setGroup d h g x).curHart = s.curHart := by simp [State.setGroup]
@[simp] theorem State.setGroup_arg (d h g : Nat) (x : Group) : (s.setGroup d h g x).arg = s.arg := by simp [State.setGroup]

/-! updGroup changes dies alone. -/
@[simp] theorem State.updGroup_powered (d h g : Nat) (f : Group → Group) : (s.updGroup d h g f).powered = s.powered := by unfold State.updGroup; split <;> simp
@[simp] theorem State.updGroup_fuseDigest (d h g : Nat) (f : Group → Group) : (s.updGroup d h g f).fuseDigest = s.fuseDigest := by unfold State.updGroup; split <;> simp
@[simp] theorem State.updGroup_fuseSeed (d h g : Nat) (f : Group → Group) : (s.updGroup d h g f).fuseSeed = s.fuseSeed := by unfold State.updGroup; split <;> simp
@[simp] theorem State.updGroup_rollback (d h g : Nat) (f : Group → Group) : (s.updGroup d h g f).rollback = s.rollback := by unfold State.updGroup; split <;> simp
@[simp] theorem State.updGroup_hbm (d h g : Nat) (f : Group → Group) : (s.updGroup d h g f).hbm = s.hbm := by unfold State.updGroup; split <;> simp
@[simp] theorem State.updGroup_hbmTags (d h g : Nat) (f : Group → Group) : (s.updGroup d h g f).hbmTags = s.hbmTags := by unfold State.updGroup; split <;> simp
@[simp] theorem State.updGroup_hbmPoison (d h g : Nat) (f : Group → Group) : (s.updGroup d h g f).hbmPoison = s.hbmPoison := by unfold State.updGroup; split <;> simp
@[simp] theorem State.updGroup_host (d h g : Nat) (f : Group → Group) : (s.updGroup d h g f).host = s.host := by unfold State.updGroup; split <;> simp
@[simp] theorem State.updGroup_far (d h g : Nat) (f : Group → Group) : (s.updGroup d h g f).far = s.far := by unfold State.updGroup; split <;> simp
@[simp] theorem State.updGroup_lines (d h g : Nat) (f : Group → Group) : (s.updGroup d h g f).lines = s.lines := by unfold State.updGroup; split <;> simp
@[simp] theorem State.updGroup_grids (d h g : Nat) (f : Group → Group) : (s.updGroup d h g f).grids = s.grids := by unfold State.updGroup; split <;> simp
@[simp] theorem State.updGroup_deckles (d h g : Nat) (f : Group → Group) : (s.updGroup d h g f).deckles = s.deckles := by unfold State.updGroup; split <;> simp
@[simp] theorem State.updGroup_holds (d h g : Nat) (f : Group → Group) : (s.updGroup d h g f).holds = s.holds := by unfold State.updGroup; split <;> simp
@[simp] theorem State.updGroup_ownOps (d h g : Nat) (f : Group → Group) : (s.updGroup d h g f).ownOps = s.ownOps := by unfold State.updGroup; split <;> simp
@[simp] theorem State.updGroup_engines (d h g : Nat) (f : Group → Group) : (s.updGroup d h g f).engines = s.engines := by unfold State.updGroup; split <;> simp
@[simp] theorem State.updGroup_pageins (d h g : Nat) (f : Group → Group) : (s.updGroup d h g f).pageins = s.pageins := by unfold State.updGroup; split <;> simp
@[simp] theorem State.updGroup_takes (d h g : Nat) (f : Group → Group) : (s.updGroup d h g f).takes = s.takes := by unfold State.updGroup; split <;> simp
@[simp] theorem State.updGroup_collectives (d h g : Nat) (f : Group → Group) : (s.updGroup d h g f).collectives = s.collectives := by unfold State.updGroup; split <;> simp
@[simp] theorem State.updGroup_imports (d h g : Nat) (f : Group → Group) : (s.updGroup d h g f).imports = s.imports := by unfold State.updGroup; split <;> simp
@[simp] theorem State.updGroup_farReplies (d h g : Nat) (f : Group → Group) : (s.updGroup d h g f).farReplies = s.farReplies := by unfold State.updGroup; split <;> simp
@[simp] theorem State.updGroup_farOut (d h g : Nat) (f : Group → Group) : (s.updGroup d h g f).farOut = s.farOut := by unfold State.updGroup; split <;> simp
@[simp] theorem State.updGroup_lostPeers (d h g : Nat) (f : Group → Group) : (s.updGroup d h g f).lostPeers = s.lostPeers := by unfold State.updGroup; split <;> simp
@[simp] theorem State.updGroup_queues (d h g : Nat) (f : Group → Group) : (s.updGroup d h g f).queues = s.queues := by unfold State.updGroup; split <;> simp
@[simp] theorem State.updGroup_mreg (d h g : Nat) (f : Group → Group) : (s.updGroup d h g f).mreg = s.mreg := by unfold State.updGroup; split <;> simp
@[simp] theorem State.updGroup_muWait (d h g : Nat) (f : Group → Group) : (s.updGroup d h g f).muWait = s.muWait := by unfold State.updGroup; split <;> simp
@[simp] theorem State.updGroup_report (d h g : Nat) (f : Group → Group) : (s.updGroup d h g f).report = s.report := by unfold State.updGroup; split <;> simp
@[simp] theorem State.updGroup_circuits (d h g : Nat) (f : Group → Group) : (s.updGroup d h g f).circuits = s.circuits := by unfold State.updGroup; split <;> simp
@[simp] theorem State.updGroup_circDrain (d h g : Nat) (f : Group → Group) : (s.updGroup d h g f).circDrain = s.circDrain := by unfold State.updGroup; split <;> simp
@[simp] theorem State.updGroup_circLost (d h g : Nat) (f : Group → Group) : (s.updGroup d h g f).circLost = s.circLost := by unfold State.updGroup; split <;> simp
@[simp] theorem State.updGroup_seams (d h g : Nat) (f : Group → Group) : (s.updGroup d h g f).seams = s.seams := by unfold State.updGroup; split <;> simp
@[simp] theorem State.updGroup_ports (d h g : Nat) (f : Group → Group) : (s.updGroup d h g f).ports = s.ports := by unfold State.updGroup; split <;> simp
@[simp] theorem State.updGroup_replays (d h g : Nat) (f : Group → Group) : (s.updGroup d h g f).replays = s.replays := by unfold State.updGroup; split <;> simp
@[simp] theorem State.updGroup_hostLinkDown (d h g : Nat) (f : Group → Group) : (s.updGroup d h g f).hostLinkDown = s.hostLinkDown := by unfold State.updGroup; split <;> simp
@[simp] theorem State.updGroup_hostOut (d h g : Nat) (f : Group → Group) : (s.updGroup d h g f).hostOut = s.hostOut := by unfold State.updGroup; split <;> simp
@[simp] theorem State.updGroup_paths (d h g : Nat) (f : Group → Group) : (s.updGroup d h g f).paths = s.paths := by unfold State.updGroup; split <;> simp
@[simp] theorem State.updGroup_pressed (d h g : Nat) (f : Group → Group) : (s.updGroup d h g f).pressed = s.pressed := by unfold State.updGroup; split <;> simp
@[simp] theorem State.updGroup_pressVisits (d h g : Nat) (f : Group → Group) : (s.updGroup d h g f).pressVisits = s.pressVisits := by unfold State.updGroup; split <;> simp
@[simp] theorem State.updGroup_coreHeld (d h g : Nat) (f : Group → Group) : (s.updGroup d h g f).coreHeld = s.coreHeld := by unfold State.updGroup; split <;> simp
@[simp] theorem State.updGroup_coreEnergy (d h g : Nat) (f : Group → Group) : (s.updGroup d h g f).coreEnergy = s.coreEnergy := by unfold State.updGroup; split <;> simp
@[simp] theorem State.updGroup_energyRead (d h g : Nat) (f : Group → Group) : (s.updGroup d h g f).energyRead = s.energyRead := by unfold State.updGroup; split <;> simp
@[simp] theorem State.updGroup_coreEvents (d h g : Nat) (f : Group → Group) : (s.updGroup d h g f).coreEvents = s.coreEvents := by unfold State.updGroup; split <;> simp
@[simp] theorem State.updGroup_msix (d h g : Nat) (f : Group → Group) : (s.updGroup d h g f).msix = s.msix := by unfold State.updGroup; split <;> simp
@[simp] theorem State.updGroup_nextId (d h g : Nat) (f : Group → Group) : (s.updGroup d h g f).nextId = s.nextId := by unfold State.updGroup; split <;> simp
@[simp] theorem State.updGroup_nextGrid (d h g : Nat) (f : Group → Group) : (s.updGroup d h g f).nextGrid = s.nextGrid := by unfold State.updGroup; split <;> simp
@[simp] theorem State.updGroup_issues (d h g : Nat) (f : Group → Group) : (s.updGroup d h g f).issues = s.issues := by unfold State.updGroup; split <;> simp
@[simp] theorem State.updGroup_drawn (d h g : Nat) (f : Group → Group) : (s.updGroup d h g f).drawn = s.drawn := by unfold State.updGroup; split <;> simp
@[simp] theorem State.updGroup_agenda (d h g : Nat) (f : Group → Group) : (s.updGroup d h g f).agenda = s.agenda := by unfold State.updGroup; split <;> simp
@[simp] theorem State.updGroup_cur (d h g : Nat) (f : Group → Group) : (s.updGroup d h g f).cur = s.cur := by unfold State.updGroup; split <;> simp
@[simp] theorem State.updGroup_curSeq (d h g : Nat) (f : Group → Group) : (s.updGroup d h g f).curSeq = s.curSeq := by unfold State.updGroup; split <;> simp
@[simp] theorem State.updGroup_curHart (d h g : Nat) (f : Group → Group) : (s.updGroup d h g f).curHart = s.curHart := by unfold State.updGroup; split <;> simp
@[simp] theorem State.updGroup_arg (d h g : Nat) (f : Group → Group) : (s.updGroup d h g f).arg = s.arg := by unfold State.updGroup; split <;> simp

/-! setPair changes dies alone. -/
@[simp] theorem State.setPair_powered (d p : Nat) (x : Pair) : (s.setPair d p x).powered = s.powered := rfl
@[simp] theorem State.setPair_fuseDigest (d p : Nat) (x : Pair) : (s.setPair d p x).fuseDigest = s.fuseDigest := rfl
@[simp] theorem State.setPair_fuseSeed (d p : Nat) (x : Pair) : (s.setPair d p x).fuseSeed = s.fuseSeed := rfl
@[simp] theorem State.setPair_rollback (d p : Nat) (x : Pair) : (s.setPair d p x).rollback = s.rollback := rfl
@[simp] theorem State.setPair_hbm (d p : Nat) (x : Pair) : (s.setPair d p x).hbm = s.hbm := rfl
@[simp] theorem State.setPair_hbmTags (d p : Nat) (x : Pair) : (s.setPair d p x).hbmTags = s.hbmTags := rfl
@[simp] theorem State.setPair_hbmPoison (d p : Nat) (x : Pair) : (s.setPair d p x).hbmPoison = s.hbmPoison := rfl
@[simp] theorem State.setPair_host (d p : Nat) (x : Pair) : (s.setPair d p x).host = s.host := rfl
@[simp] theorem State.setPair_far (d p : Nat) (x : Pair) : (s.setPair d p x).far = s.far := rfl
@[simp] theorem State.setPair_lines (d p : Nat) (x : Pair) : (s.setPair d p x).lines = s.lines := rfl
@[simp] theorem State.setPair_grids (d p : Nat) (x : Pair) : (s.setPair d p x).grids = s.grids := rfl
@[simp] theorem State.setPair_deckles (d p : Nat) (x : Pair) : (s.setPair d p x).deckles = s.deckles := rfl
@[simp] theorem State.setPair_holds (d p : Nat) (x : Pair) : (s.setPair d p x).holds = s.holds := rfl
@[simp] theorem State.setPair_ownOps (d p : Nat) (x : Pair) : (s.setPair d p x).ownOps = s.ownOps := rfl
@[simp] theorem State.setPair_engines (d p : Nat) (x : Pair) : (s.setPair d p x).engines = s.engines := rfl
@[simp] theorem State.setPair_pageins (d p : Nat) (x : Pair) : (s.setPair d p x).pageins = s.pageins := rfl
@[simp] theorem State.setPair_takes (d p : Nat) (x : Pair) : (s.setPair d p x).takes = s.takes := rfl
@[simp] theorem State.setPair_collectives (d p : Nat) (x : Pair) : (s.setPair d p x).collectives = s.collectives := rfl
@[simp] theorem State.setPair_imports (d p : Nat) (x : Pair) : (s.setPair d p x).imports = s.imports := rfl
@[simp] theorem State.setPair_farReplies (d p : Nat) (x : Pair) : (s.setPair d p x).farReplies = s.farReplies := rfl
@[simp] theorem State.setPair_farOut (d p : Nat) (x : Pair) : (s.setPair d p x).farOut = s.farOut := rfl
@[simp] theorem State.setPair_lostPeers (d p : Nat) (x : Pair) : (s.setPair d p x).lostPeers = s.lostPeers := rfl
@[simp] theorem State.setPair_queues (d p : Nat) (x : Pair) : (s.setPair d p x).queues = s.queues := rfl
@[simp] theorem State.setPair_mreg (d p : Nat) (x : Pair) : (s.setPair d p x).mreg = s.mreg := rfl
@[simp] theorem State.setPair_muWait (d p : Nat) (x : Pair) : (s.setPair d p x).muWait = s.muWait := rfl
@[simp] theorem State.setPair_report (d p : Nat) (x : Pair) : (s.setPair d p x).report = s.report := rfl
@[simp] theorem State.setPair_circuits (d p : Nat) (x : Pair) : (s.setPair d p x).circuits = s.circuits := rfl
@[simp] theorem State.setPair_circDrain (d p : Nat) (x : Pair) : (s.setPair d p x).circDrain = s.circDrain := rfl
@[simp] theorem State.setPair_circLost (d p : Nat) (x : Pair) : (s.setPair d p x).circLost = s.circLost := rfl
@[simp] theorem State.setPair_seams (d p : Nat) (x : Pair) : (s.setPair d p x).seams = s.seams := rfl
@[simp] theorem State.setPair_ports (d p : Nat) (x : Pair) : (s.setPair d p x).ports = s.ports := rfl
@[simp] theorem State.setPair_replays (d p : Nat) (x : Pair) : (s.setPair d p x).replays = s.replays := rfl
@[simp] theorem State.setPair_hostLinkDown (d p : Nat) (x : Pair) : (s.setPair d p x).hostLinkDown = s.hostLinkDown := rfl
@[simp] theorem State.setPair_hostOut (d p : Nat) (x : Pair) : (s.setPair d p x).hostOut = s.hostOut := rfl
@[simp] theorem State.setPair_paths (d p : Nat) (x : Pair) : (s.setPair d p x).paths = s.paths := rfl
@[simp] theorem State.setPair_pressed (d p : Nat) (x : Pair) : (s.setPair d p x).pressed = s.pressed := rfl
@[simp] theorem State.setPair_pressVisits (d p : Nat) (x : Pair) : (s.setPair d p x).pressVisits = s.pressVisits := rfl
@[simp] theorem State.setPair_coreHeld (d p : Nat) (x : Pair) : (s.setPair d p x).coreHeld = s.coreHeld := rfl
@[simp] theorem State.setPair_coreEnergy (d p : Nat) (x : Pair) : (s.setPair d p x).coreEnergy = s.coreEnergy := rfl
@[simp] theorem State.setPair_energyRead (d p : Nat) (x : Pair) : (s.setPair d p x).energyRead = s.energyRead := rfl
@[simp] theorem State.setPair_coreEvents (d p : Nat) (x : Pair) : (s.setPair d p x).coreEvents = s.coreEvents := rfl
@[simp] theorem State.setPair_msix (d p : Nat) (x : Pair) : (s.setPair d p x).msix = s.msix := rfl
@[simp] theorem State.setPair_nextId (d p : Nat) (x : Pair) : (s.setPair d p x).nextId = s.nextId := rfl
@[simp] theorem State.setPair_nextGrid (d p : Nat) (x : Pair) : (s.setPair d p x).nextGrid = s.nextGrid := rfl
@[simp] theorem State.setPair_issues (d p : Nat) (x : Pair) : (s.setPair d p x).issues = s.issues := rfl
@[simp] theorem State.setPair_drawn (d p : Nat) (x : Pair) : (s.setPair d p x).drawn = s.drawn := rfl
@[simp] theorem State.setPair_agenda (d p : Nat) (x : Pair) : (s.setPair d p x).agenda = s.agenda := rfl
@[simp] theorem State.setPair_cur (d p : Nat) (x : Pair) : (s.setPair d p x).cur = s.cur := rfl
@[simp] theorem State.setPair_curSeq (d p : Nat) (x : Pair) : (s.setPair d p x).curSeq = s.curSeq := rfl
@[simp] theorem State.setPair_curHart (d p : Nat) (x : Pair) : (s.setPair d p x).curHart = s.curHart := rfl
@[simp] theorem State.setPair_arg (d p : Nat) (x : Pair) : (s.setPair d p x).arg = s.arg := rfl

/-! setIsland changes dies alone. -/
@[simp] theorem State.setIsland_powered (d p : Nat) (x : Island) : (s.setIsland d p x).powered = s.powered := rfl
@[simp] theorem State.setIsland_fuseDigest (d p : Nat) (x : Island) : (s.setIsland d p x).fuseDigest = s.fuseDigest := rfl
@[simp] theorem State.setIsland_fuseSeed (d p : Nat) (x : Island) : (s.setIsland d p x).fuseSeed = s.fuseSeed := rfl
@[simp] theorem State.setIsland_rollback (d p : Nat) (x : Island) : (s.setIsland d p x).rollback = s.rollback := rfl
@[simp] theorem State.setIsland_hbm (d p : Nat) (x : Island) : (s.setIsland d p x).hbm = s.hbm := rfl
@[simp] theorem State.setIsland_hbmTags (d p : Nat) (x : Island) : (s.setIsland d p x).hbmTags = s.hbmTags := rfl
@[simp] theorem State.setIsland_hbmPoison (d p : Nat) (x : Island) : (s.setIsland d p x).hbmPoison = s.hbmPoison := rfl
@[simp] theorem State.setIsland_host (d p : Nat) (x : Island) : (s.setIsland d p x).host = s.host := rfl
@[simp] theorem State.setIsland_far (d p : Nat) (x : Island) : (s.setIsland d p x).far = s.far := rfl
@[simp] theorem State.setIsland_lines (d p : Nat) (x : Island) : (s.setIsland d p x).lines = s.lines := rfl
@[simp] theorem State.setIsland_grids (d p : Nat) (x : Island) : (s.setIsland d p x).grids = s.grids := rfl
@[simp] theorem State.setIsland_deckles (d p : Nat) (x : Island) : (s.setIsland d p x).deckles = s.deckles := rfl
@[simp] theorem State.setIsland_holds (d p : Nat) (x : Island) : (s.setIsland d p x).holds = s.holds := rfl
@[simp] theorem State.setIsland_ownOps (d p : Nat) (x : Island) : (s.setIsland d p x).ownOps = s.ownOps := rfl
@[simp] theorem State.setIsland_engines (d p : Nat) (x : Island) : (s.setIsland d p x).engines = s.engines := rfl
@[simp] theorem State.setIsland_pageins (d p : Nat) (x : Island) : (s.setIsland d p x).pageins = s.pageins := rfl
@[simp] theorem State.setIsland_takes (d p : Nat) (x : Island) : (s.setIsland d p x).takes = s.takes := rfl
@[simp] theorem State.setIsland_collectives (d p : Nat) (x : Island) : (s.setIsland d p x).collectives = s.collectives := rfl
@[simp] theorem State.setIsland_imports (d p : Nat) (x : Island) : (s.setIsland d p x).imports = s.imports := rfl
@[simp] theorem State.setIsland_farReplies (d p : Nat) (x : Island) : (s.setIsland d p x).farReplies = s.farReplies := rfl
@[simp] theorem State.setIsland_farOut (d p : Nat) (x : Island) : (s.setIsland d p x).farOut = s.farOut := rfl
@[simp] theorem State.setIsland_lostPeers (d p : Nat) (x : Island) : (s.setIsland d p x).lostPeers = s.lostPeers := rfl
@[simp] theorem State.setIsland_queues (d p : Nat) (x : Island) : (s.setIsland d p x).queues = s.queues := rfl
@[simp] theorem State.setIsland_mreg (d p : Nat) (x : Island) : (s.setIsland d p x).mreg = s.mreg := rfl
@[simp] theorem State.setIsland_muWait (d p : Nat) (x : Island) : (s.setIsland d p x).muWait = s.muWait := rfl
@[simp] theorem State.setIsland_report (d p : Nat) (x : Island) : (s.setIsland d p x).report = s.report := rfl
@[simp] theorem State.setIsland_circuits (d p : Nat) (x : Island) : (s.setIsland d p x).circuits = s.circuits := rfl
@[simp] theorem State.setIsland_circDrain (d p : Nat) (x : Island) : (s.setIsland d p x).circDrain = s.circDrain := rfl
@[simp] theorem State.setIsland_circLost (d p : Nat) (x : Island) : (s.setIsland d p x).circLost = s.circLost := rfl
@[simp] theorem State.setIsland_seams (d p : Nat) (x : Island) : (s.setIsland d p x).seams = s.seams := rfl
@[simp] theorem State.setIsland_ports (d p : Nat) (x : Island) : (s.setIsland d p x).ports = s.ports := rfl
@[simp] theorem State.setIsland_replays (d p : Nat) (x : Island) : (s.setIsland d p x).replays = s.replays := rfl
@[simp] theorem State.setIsland_hostLinkDown (d p : Nat) (x : Island) : (s.setIsland d p x).hostLinkDown = s.hostLinkDown := rfl
@[simp] theorem State.setIsland_hostOut (d p : Nat) (x : Island) : (s.setIsland d p x).hostOut = s.hostOut := rfl
@[simp] theorem State.setIsland_paths (d p : Nat) (x : Island) : (s.setIsland d p x).paths = s.paths := rfl
@[simp] theorem State.setIsland_pressed (d p : Nat) (x : Island) : (s.setIsland d p x).pressed = s.pressed := rfl
@[simp] theorem State.setIsland_pressVisits (d p : Nat) (x : Island) : (s.setIsland d p x).pressVisits = s.pressVisits := rfl
@[simp] theorem State.setIsland_coreHeld (d p : Nat) (x : Island) : (s.setIsland d p x).coreHeld = s.coreHeld := rfl
@[simp] theorem State.setIsland_coreEnergy (d p : Nat) (x : Island) : (s.setIsland d p x).coreEnergy = s.coreEnergy := rfl
@[simp] theorem State.setIsland_energyRead (d p : Nat) (x : Island) : (s.setIsland d p x).energyRead = s.energyRead := rfl
@[simp] theorem State.setIsland_coreEvents (d p : Nat) (x : Island) : (s.setIsland d p x).coreEvents = s.coreEvents := rfl
@[simp] theorem State.setIsland_msix (d p : Nat) (x : Island) : (s.setIsland d p x).msix = s.msix := rfl
@[simp] theorem State.setIsland_nextId (d p : Nat) (x : Island) : (s.setIsland d p x).nextId = s.nextId := rfl
@[simp] theorem State.setIsland_nextGrid (d p : Nat) (x : Island) : (s.setIsland d p x).nextGrid = s.nextGrid := rfl
@[simp] theorem State.setIsland_issues (d p : Nat) (x : Island) : (s.setIsland d p x).issues = s.issues := rfl
@[simp] theorem State.setIsland_drawn (d p : Nat) (x : Island) : (s.setIsland d p x).drawn = s.drawn := rfl
@[simp] theorem State.setIsland_agenda (d p : Nat) (x : Island) : (s.setIsland d p x).agenda = s.agenda := rfl
@[simp] theorem State.setIsland_cur (d p : Nat) (x : Island) : (s.setIsland d p x).cur = s.cur := rfl
@[simp] theorem State.setIsland_curSeq (d p : Nat) (x : Island) : (s.setIsland d p x).curSeq = s.curSeq := rfl
@[simp] theorem State.setIsland_curHart (d p : Nat) (x : Island) : (s.setIsland d p x).curHart = s.curHart := rfl
@[simp] theorem State.setIsland_arg (d p : Nat) (x : Island) : (s.setIsland d p x).arg = s.arg := rfl

/-! setMbox changes dies alone. -/
@[simp] theorem State.setMbox_powered (d m : Nat) (x : Mbox) : (s.setMbox d m x).powered = s.powered := rfl
@[simp] theorem State.setMbox_fuseDigest (d m : Nat) (x : Mbox) : (s.setMbox d m x).fuseDigest = s.fuseDigest := rfl
@[simp] theorem State.setMbox_fuseSeed (d m : Nat) (x : Mbox) : (s.setMbox d m x).fuseSeed = s.fuseSeed := rfl
@[simp] theorem State.setMbox_rollback (d m : Nat) (x : Mbox) : (s.setMbox d m x).rollback = s.rollback := rfl
@[simp] theorem State.setMbox_hbm (d m : Nat) (x : Mbox) : (s.setMbox d m x).hbm = s.hbm := rfl
@[simp] theorem State.setMbox_hbmTags (d m : Nat) (x : Mbox) : (s.setMbox d m x).hbmTags = s.hbmTags := rfl
@[simp] theorem State.setMbox_hbmPoison (d m : Nat) (x : Mbox) : (s.setMbox d m x).hbmPoison = s.hbmPoison := rfl
@[simp] theorem State.setMbox_host (d m : Nat) (x : Mbox) : (s.setMbox d m x).host = s.host := rfl
@[simp] theorem State.setMbox_far (d m : Nat) (x : Mbox) : (s.setMbox d m x).far = s.far := rfl
@[simp] theorem State.setMbox_lines (d m : Nat) (x : Mbox) : (s.setMbox d m x).lines = s.lines := rfl
@[simp] theorem State.setMbox_grids (d m : Nat) (x : Mbox) : (s.setMbox d m x).grids = s.grids := rfl
@[simp] theorem State.setMbox_deckles (d m : Nat) (x : Mbox) : (s.setMbox d m x).deckles = s.deckles := rfl
@[simp] theorem State.setMbox_holds (d m : Nat) (x : Mbox) : (s.setMbox d m x).holds = s.holds := rfl
@[simp] theorem State.setMbox_ownOps (d m : Nat) (x : Mbox) : (s.setMbox d m x).ownOps = s.ownOps := rfl
@[simp] theorem State.setMbox_engines (d m : Nat) (x : Mbox) : (s.setMbox d m x).engines = s.engines := rfl
@[simp] theorem State.setMbox_pageins (d m : Nat) (x : Mbox) : (s.setMbox d m x).pageins = s.pageins := rfl
@[simp] theorem State.setMbox_takes (d m : Nat) (x : Mbox) : (s.setMbox d m x).takes = s.takes := rfl
@[simp] theorem State.setMbox_collectives (d m : Nat) (x : Mbox) : (s.setMbox d m x).collectives = s.collectives := rfl
@[simp] theorem State.setMbox_imports (d m : Nat) (x : Mbox) : (s.setMbox d m x).imports = s.imports := rfl
@[simp] theorem State.setMbox_farReplies (d m : Nat) (x : Mbox) : (s.setMbox d m x).farReplies = s.farReplies := rfl
@[simp] theorem State.setMbox_farOut (d m : Nat) (x : Mbox) : (s.setMbox d m x).farOut = s.farOut := rfl
@[simp] theorem State.setMbox_lostPeers (d m : Nat) (x : Mbox) : (s.setMbox d m x).lostPeers = s.lostPeers := rfl
@[simp] theorem State.setMbox_queues (d m : Nat) (x : Mbox) : (s.setMbox d m x).queues = s.queues := rfl
@[simp] theorem State.setMbox_mreg (d m : Nat) (x : Mbox) : (s.setMbox d m x).mreg = s.mreg := rfl
@[simp] theorem State.setMbox_muWait (d m : Nat) (x : Mbox) : (s.setMbox d m x).muWait = s.muWait := rfl
@[simp] theorem State.setMbox_report (d m : Nat) (x : Mbox) : (s.setMbox d m x).report = s.report := rfl
@[simp] theorem State.setMbox_circuits (d m : Nat) (x : Mbox) : (s.setMbox d m x).circuits = s.circuits := rfl
@[simp] theorem State.setMbox_circDrain (d m : Nat) (x : Mbox) : (s.setMbox d m x).circDrain = s.circDrain := rfl
@[simp] theorem State.setMbox_circLost (d m : Nat) (x : Mbox) : (s.setMbox d m x).circLost = s.circLost := rfl
@[simp] theorem State.setMbox_seams (d m : Nat) (x : Mbox) : (s.setMbox d m x).seams = s.seams := rfl
@[simp] theorem State.setMbox_ports (d m : Nat) (x : Mbox) : (s.setMbox d m x).ports = s.ports := rfl
@[simp] theorem State.setMbox_replays (d m : Nat) (x : Mbox) : (s.setMbox d m x).replays = s.replays := rfl
@[simp] theorem State.setMbox_hostLinkDown (d m : Nat) (x : Mbox) : (s.setMbox d m x).hostLinkDown = s.hostLinkDown := rfl
@[simp] theorem State.setMbox_hostOut (d m : Nat) (x : Mbox) : (s.setMbox d m x).hostOut = s.hostOut := rfl
@[simp] theorem State.setMbox_paths (d m : Nat) (x : Mbox) : (s.setMbox d m x).paths = s.paths := rfl
@[simp] theorem State.setMbox_pressed (d m : Nat) (x : Mbox) : (s.setMbox d m x).pressed = s.pressed := rfl
@[simp] theorem State.setMbox_pressVisits (d m : Nat) (x : Mbox) : (s.setMbox d m x).pressVisits = s.pressVisits := rfl
@[simp] theorem State.setMbox_coreHeld (d m : Nat) (x : Mbox) : (s.setMbox d m x).coreHeld = s.coreHeld := rfl
@[simp] theorem State.setMbox_coreEnergy (d m : Nat) (x : Mbox) : (s.setMbox d m x).coreEnergy = s.coreEnergy := rfl
@[simp] theorem State.setMbox_energyRead (d m : Nat) (x : Mbox) : (s.setMbox d m x).energyRead = s.energyRead := rfl
@[simp] theorem State.setMbox_coreEvents (d m : Nat) (x : Mbox) : (s.setMbox d m x).coreEvents = s.coreEvents := rfl
@[simp] theorem State.setMbox_msix (d m : Nat) (x : Mbox) : (s.setMbox d m x).msix = s.msix := rfl
@[simp] theorem State.setMbox_nextId (d m : Nat) (x : Mbox) : (s.setMbox d m x).nextId = s.nextId := rfl
@[simp] theorem State.setMbox_nextGrid (d m : Nat) (x : Mbox) : (s.setMbox d m x).nextGrid = s.nextGrid := rfl
@[simp] theorem State.setMbox_issues (d m : Nat) (x : Mbox) : (s.setMbox d m x).issues = s.issues := rfl
@[simp] theorem State.setMbox_drawn (d m : Nat) (x : Mbox) : (s.setMbox d m x).drawn = s.drawn := rfl
@[simp] theorem State.setMbox_agenda (d m : Nat) (x : Mbox) : (s.setMbox d m x).agenda = s.agenda := rfl
@[simp] theorem State.setMbox_cur (d m : Nat) (x : Mbox) : (s.setMbox d m x).cur = s.cur := rfl
@[simp] theorem State.setMbox_curSeq (d m : Nat) (x : Mbox) : (s.setMbox d m x).curSeq = s.curSeq := rfl
@[simp] theorem State.setMbox_curHart (d m : Nat) (x : Mbox) : (s.setMbox d m x).curHart = s.curHart := rfl
@[simp] theorem State.setMbox_arg (d m : Nat) (x : Mbox) : (s.setMbox d m x).arg = s.arg := rfl

/-! setHart changes dies alone. -/
@[simp] theorem State.setHart_powered (d h : Nat) (x : Hart) : (s.setHart d h x).powered = s.powered := rfl
@[simp] theorem State.setHart_fuseDigest (d h : Nat) (x : Hart) : (s.setHart d h x).fuseDigest = s.fuseDigest := rfl
@[simp] theorem State.setHart_fuseSeed (d h : Nat) (x : Hart) : (s.setHart d h x).fuseSeed = s.fuseSeed := rfl
@[simp] theorem State.setHart_rollback (d h : Nat) (x : Hart) : (s.setHart d h x).rollback = s.rollback := rfl
@[simp] theorem State.setHart_hbm (d h : Nat) (x : Hart) : (s.setHart d h x).hbm = s.hbm := rfl
@[simp] theorem State.setHart_hbmTags (d h : Nat) (x : Hart) : (s.setHart d h x).hbmTags = s.hbmTags := rfl
@[simp] theorem State.setHart_hbmPoison (d h : Nat) (x : Hart) : (s.setHart d h x).hbmPoison = s.hbmPoison := rfl
@[simp] theorem State.setHart_host (d h : Nat) (x : Hart) : (s.setHart d h x).host = s.host := rfl
@[simp] theorem State.setHart_far (d h : Nat) (x : Hart) : (s.setHart d h x).far = s.far := rfl
@[simp] theorem State.setHart_lines (d h : Nat) (x : Hart) : (s.setHart d h x).lines = s.lines := rfl
@[simp] theorem State.setHart_grids (d h : Nat) (x : Hart) : (s.setHart d h x).grids = s.grids := rfl
@[simp] theorem State.setHart_deckles (d h : Nat) (x : Hart) : (s.setHart d h x).deckles = s.deckles := rfl
@[simp] theorem State.setHart_holds (d h : Nat) (x : Hart) : (s.setHart d h x).holds = s.holds := rfl
@[simp] theorem State.setHart_ownOps (d h : Nat) (x : Hart) : (s.setHart d h x).ownOps = s.ownOps := rfl
@[simp] theorem State.setHart_engines (d h : Nat) (x : Hart) : (s.setHart d h x).engines = s.engines := rfl
@[simp] theorem State.setHart_pageins (d h : Nat) (x : Hart) : (s.setHart d h x).pageins = s.pageins := rfl
@[simp] theorem State.setHart_takes (d h : Nat) (x : Hart) : (s.setHart d h x).takes = s.takes := rfl
@[simp] theorem State.setHart_collectives (d h : Nat) (x : Hart) : (s.setHart d h x).collectives = s.collectives := rfl
@[simp] theorem State.setHart_imports (d h : Nat) (x : Hart) : (s.setHart d h x).imports = s.imports := rfl
@[simp] theorem State.setHart_farReplies (d h : Nat) (x : Hart) : (s.setHart d h x).farReplies = s.farReplies := rfl
@[simp] theorem State.setHart_farOut (d h : Nat) (x : Hart) : (s.setHart d h x).farOut = s.farOut := rfl
@[simp] theorem State.setHart_lostPeers (d h : Nat) (x : Hart) : (s.setHart d h x).lostPeers = s.lostPeers := rfl
@[simp] theorem State.setHart_queues (d h : Nat) (x : Hart) : (s.setHart d h x).queues = s.queues := rfl
@[simp] theorem State.setHart_mreg (d h : Nat) (x : Hart) : (s.setHart d h x).mreg = s.mreg := rfl
@[simp] theorem State.setHart_muWait (d h : Nat) (x : Hart) : (s.setHart d h x).muWait = s.muWait := rfl
@[simp] theorem State.setHart_report (d h : Nat) (x : Hart) : (s.setHart d h x).report = s.report := rfl
@[simp] theorem State.setHart_circuits (d h : Nat) (x : Hart) : (s.setHart d h x).circuits = s.circuits := rfl
@[simp] theorem State.setHart_circDrain (d h : Nat) (x : Hart) : (s.setHart d h x).circDrain = s.circDrain := rfl
@[simp] theorem State.setHart_circLost (d h : Nat) (x : Hart) : (s.setHart d h x).circLost = s.circLost := rfl
@[simp] theorem State.setHart_seams (d h : Nat) (x : Hart) : (s.setHart d h x).seams = s.seams := rfl
@[simp] theorem State.setHart_ports (d h : Nat) (x : Hart) : (s.setHart d h x).ports = s.ports := rfl
@[simp] theorem State.setHart_replays (d h : Nat) (x : Hart) : (s.setHart d h x).replays = s.replays := rfl
@[simp] theorem State.setHart_hostLinkDown (d h : Nat) (x : Hart) : (s.setHart d h x).hostLinkDown = s.hostLinkDown := rfl
@[simp] theorem State.setHart_hostOut (d h : Nat) (x : Hart) : (s.setHart d h x).hostOut = s.hostOut := rfl
@[simp] theorem State.setHart_paths (d h : Nat) (x : Hart) : (s.setHart d h x).paths = s.paths := rfl
@[simp] theorem State.setHart_pressed (d h : Nat) (x : Hart) : (s.setHart d h x).pressed = s.pressed := rfl
@[simp] theorem State.setHart_pressVisits (d h : Nat) (x : Hart) : (s.setHart d h x).pressVisits = s.pressVisits := rfl
@[simp] theorem State.setHart_coreHeld (d h : Nat) (x : Hart) : (s.setHart d h x).coreHeld = s.coreHeld := rfl
@[simp] theorem State.setHart_coreEnergy (d h : Nat) (x : Hart) : (s.setHart d h x).coreEnergy = s.coreEnergy := rfl
@[simp] theorem State.setHart_energyRead (d h : Nat) (x : Hart) : (s.setHart d h x).energyRead = s.energyRead := rfl
@[simp] theorem State.setHart_coreEvents (d h : Nat) (x : Hart) : (s.setHart d h x).coreEvents = s.coreEvents := rfl
@[simp] theorem State.setHart_msix (d h : Nat) (x : Hart) : (s.setHart d h x).msix = s.msix := rfl
@[simp] theorem State.setHart_nextId (d h : Nat) (x : Hart) : (s.setHart d h x).nextId = s.nextId := rfl
@[simp] theorem State.setHart_nextGrid (d h : Nat) (x : Hart) : (s.setHart d h x).nextGrid = s.nextGrid := rfl
@[simp] theorem State.setHart_issues (d h : Nat) (x : Hart) : (s.setHart d h x).issues = s.issues := rfl
@[simp] theorem State.setHart_drawn (d h : Nat) (x : Hart) : (s.setHart d h x).drawn = s.drawn := rfl
@[simp] theorem State.setHart_agenda (d h : Nat) (x : Hart) : (s.setHart d h x).agenda = s.agenda := rfl
@[simp] theorem State.setHart_cur (d h : Nat) (x : Hart) : (s.setHart d h x).cur = s.cur := rfl
@[simp] theorem State.setHart_curSeq (d h : Nat) (x : Hart) : (s.setHart d h x).curSeq = s.curSeq := rfl
@[simp] theorem State.setHart_curHart (d h : Nat) (x : Hart) : (s.setHart d h x).curHart = s.curHart := rfl
@[simp] theorem State.setHart_arg (d h : Nat) (x : Hart) : (s.setHart d h x).arg = s.arg := rfl

/-! updEp changes dies alone. -/
@[simp] theorem State.updEp_powered (d m : Nat) (f : Episode → Episode) : (s.updEp d m f).powered = s.powered := by unfold State.updEp; split <;> rfl
@[simp] theorem State.updEp_fuseDigest (d m : Nat) (f : Episode → Episode) : (s.updEp d m f).fuseDigest = s.fuseDigest := by unfold State.updEp; split <;> rfl
@[simp] theorem State.updEp_fuseSeed (d m : Nat) (f : Episode → Episode) : (s.updEp d m f).fuseSeed = s.fuseSeed := by unfold State.updEp; split <;> rfl
@[simp] theorem State.updEp_rollback (d m : Nat) (f : Episode → Episode) : (s.updEp d m f).rollback = s.rollback := by unfold State.updEp; split <;> rfl
@[simp] theorem State.updEp_hbm (d m : Nat) (f : Episode → Episode) : (s.updEp d m f).hbm = s.hbm := by unfold State.updEp; split <;> rfl
@[simp] theorem State.updEp_hbmTags (d m : Nat) (f : Episode → Episode) : (s.updEp d m f).hbmTags = s.hbmTags := by unfold State.updEp; split <;> rfl
@[simp] theorem State.updEp_hbmPoison (d m : Nat) (f : Episode → Episode) : (s.updEp d m f).hbmPoison = s.hbmPoison := by unfold State.updEp; split <;> rfl
@[simp] theorem State.updEp_host (d m : Nat) (f : Episode → Episode) : (s.updEp d m f).host = s.host := by unfold State.updEp; split <;> rfl
@[simp] theorem State.updEp_far (d m : Nat) (f : Episode → Episode) : (s.updEp d m f).far = s.far := by unfold State.updEp; split <;> rfl
@[simp] theorem State.updEp_lines (d m : Nat) (f : Episode → Episode) : (s.updEp d m f).lines = s.lines := by unfold State.updEp; split <;> rfl
@[simp] theorem State.updEp_grids (d m : Nat) (f : Episode → Episode) : (s.updEp d m f).grids = s.grids := by unfold State.updEp; split <;> rfl
@[simp] theorem State.updEp_deckles (d m : Nat) (f : Episode → Episode) : (s.updEp d m f).deckles = s.deckles := by unfold State.updEp; split <;> rfl
@[simp] theorem State.updEp_holds (d m : Nat) (f : Episode → Episode) : (s.updEp d m f).holds = s.holds := by unfold State.updEp; split <;> rfl
@[simp] theorem State.updEp_ownOps (d m : Nat) (f : Episode → Episode) : (s.updEp d m f).ownOps = s.ownOps := by unfold State.updEp; split <;> rfl
@[simp] theorem State.updEp_engines (d m : Nat) (f : Episode → Episode) : (s.updEp d m f).engines = s.engines := by unfold State.updEp; split <;> rfl
@[simp] theorem State.updEp_pageins (d m : Nat) (f : Episode → Episode) : (s.updEp d m f).pageins = s.pageins := by unfold State.updEp; split <;> rfl
@[simp] theorem State.updEp_takes (d m : Nat) (f : Episode → Episode) : (s.updEp d m f).takes = s.takes := by unfold State.updEp; split <;> rfl
@[simp] theorem State.updEp_collectives (d m : Nat) (f : Episode → Episode) : (s.updEp d m f).collectives = s.collectives := by unfold State.updEp; split <;> rfl
@[simp] theorem State.updEp_imports (d m : Nat) (f : Episode → Episode) : (s.updEp d m f).imports = s.imports := by unfold State.updEp; split <;> rfl
@[simp] theorem State.updEp_farReplies (d m : Nat) (f : Episode → Episode) : (s.updEp d m f).farReplies = s.farReplies := by unfold State.updEp; split <;> rfl
@[simp] theorem State.updEp_farOut (d m : Nat) (f : Episode → Episode) : (s.updEp d m f).farOut = s.farOut := by unfold State.updEp; split <;> rfl
@[simp] theorem State.updEp_lostPeers (d m : Nat) (f : Episode → Episode) : (s.updEp d m f).lostPeers = s.lostPeers := by unfold State.updEp; split <;> rfl
@[simp] theorem State.updEp_queues (d m : Nat) (f : Episode → Episode) : (s.updEp d m f).queues = s.queues := by unfold State.updEp; split <;> rfl
@[simp] theorem State.updEp_mreg (d m : Nat) (f : Episode → Episode) : (s.updEp d m f).mreg = s.mreg := by unfold State.updEp; split <;> rfl
@[simp] theorem State.updEp_muWait (d m : Nat) (f : Episode → Episode) : (s.updEp d m f).muWait = s.muWait := by unfold State.updEp; split <;> rfl
@[simp] theorem State.updEp_report (d m : Nat) (f : Episode → Episode) : (s.updEp d m f).report = s.report := by unfold State.updEp; split <;> rfl
@[simp] theorem State.updEp_circuits (d m : Nat) (f : Episode → Episode) : (s.updEp d m f).circuits = s.circuits := by unfold State.updEp; split <;> rfl
@[simp] theorem State.updEp_circDrain (d m : Nat) (f : Episode → Episode) : (s.updEp d m f).circDrain = s.circDrain := by unfold State.updEp; split <;> rfl
@[simp] theorem State.updEp_circLost (d m : Nat) (f : Episode → Episode) : (s.updEp d m f).circLost = s.circLost := by unfold State.updEp; split <;> rfl
@[simp] theorem State.updEp_seams (d m : Nat) (f : Episode → Episode) : (s.updEp d m f).seams = s.seams := by unfold State.updEp; split <;> rfl
@[simp] theorem State.updEp_ports (d m : Nat) (f : Episode → Episode) : (s.updEp d m f).ports = s.ports := by unfold State.updEp; split <;> rfl
@[simp] theorem State.updEp_replays (d m : Nat) (f : Episode → Episode) : (s.updEp d m f).replays = s.replays := by unfold State.updEp; split <;> rfl
@[simp] theorem State.updEp_hostLinkDown (d m : Nat) (f : Episode → Episode) : (s.updEp d m f).hostLinkDown = s.hostLinkDown := by unfold State.updEp; split <;> rfl
@[simp] theorem State.updEp_hostOut (d m : Nat) (f : Episode → Episode) : (s.updEp d m f).hostOut = s.hostOut := by unfold State.updEp; split <;> rfl
@[simp] theorem State.updEp_paths (d m : Nat) (f : Episode → Episode) : (s.updEp d m f).paths = s.paths := by unfold State.updEp; split <;> rfl
@[simp] theorem State.updEp_pressed (d m : Nat) (f : Episode → Episode) : (s.updEp d m f).pressed = s.pressed := by unfold State.updEp; split <;> rfl
@[simp] theorem State.updEp_pressVisits (d m : Nat) (f : Episode → Episode) : (s.updEp d m f).pressVisits = s.pressVisits := by unfold State.updEp; split <;> rfl
@[simp] theorem State.updEp_coreHeld (d m : Nat) (f : Episode → Episode) : (s.updEp d m f).coreHeld = s.coreHeld := by unfold State.updEp; split <;> rfl
@[simp] theorem State.updEp_coreEnergy (d m : Nat) (f : Episode → Episode) : (s.updEp d m f).coreEnergy = s.coreEnergy := by unfold State.updEp; split <;> rfl
@[simp] theorem State.updEp_energyRead (d m : Nat) (f : Episode → Episode) : (s.updEp d m f).energyRead = s.energyRead := by unfold State.updEp; split <;> rfl
@[simp] theorem State.updEp_coreEvents (d m : Nat) (f : Episode → Episode) : (s.updEp d m f).coreEvents = s.coreEvents := by unfold State.updEp; split <;> rfl
@[simp] theorem State.updEp_msix (d m : Nat) (f : Episode → Episode) : (s.updEp d m f).msix = s.msix := by unfold State.updEp; split <;> rfl
@[simp] theorem State.updEp_nextId (d m : Nat) (f : Episode → Episode) : (s.updEp d m f).nextId = s.nextId := by unfold State.updEp; split <;> rfl
@[simp] theorem State.updEp_nextGrid (d m : Nat) (f : Episode → Episode) : (s.updEp d m f).nextGrid = s.nextGrid := by unfold State.updEp; split <;> rfl
@[simp] theorem State.updEp_issues (d m : Nat) (f : Episode → Episode) : (s.updEp d m f).issues = s.issues := by unfold State.updEp; split <;> rfl
@[simp] theorem State.updEp_drawn (d m : Nat) (f : Episode → Episode) : (s.updEp d m f).drawn = s.drawn := by unfold State.updEp; split <;> rfl
@[simp] theorem State.updEp_agenda (d m : Nat) (f : Episode → Episode) : (s.updEp d m f).agenda = s.agenda := by unfold State.updEp; split <;> rfl
@[simp] theorem State.updEp_cur (d m : Nat) (f : Episode → Episode) : (s.updEp d m f).cur = s.cur := by unfold State.updEp; split <;> rfl
@[simp] theorem State.updEp_curSeq (d m : Nat) (f : Episode → Episode) : (s.updEp d m f).curSeq = s.curSeq := by unfold State.updEp; split <;> rfl
@[simp] theorem State.updEp_curHart (d m : Nat) (f : Episode → Episode) : (s.updEp d m f).curHart = s.curHart := by unfold State.updEp; split <;> rfl
@[simp] theorem State.updEp_arg (d m : Nat) (f : Episode → Episode) : (s.updEp d m f).arg = s.arg := by unfold State.updEp; split <;> rfl

/-! setGrid changes grids alone. -/
@[simp] theorem State.setGrid_powered (n : Nat) (g : Grid) : (s.setGrid n g).powered = s.powered := rfl
@[simp] theorem State.setGrid_fuseDigest (n : Nat) (g : Grid) : (s.setGrid n g).fuseDigest = s.fuseDigest := rfl
@[simp] theorem State.setGrid_fuseSeed (n : Nat) (g : Grid) : (s.setGrid n g).fuseSeed = s.fuseSeed := rfl
@[simp] theorem State.setGrid_rollback (n : Nat) (g : Grid) : (s.setGrid n g).rollback = s.rollback := rfl
@[simp] theorem State.setGrid_hbm (n : Nat) (g : Grid) : (s.setGrid n g).hbm = s.hbm := rfl
@[simp] theorem State.setGrid_hbmTags (n : Nat) (g : Grid) : (s.setGrid n g).hbmTags = s.hbmTags := rfl
@[simp] theorem State.setGrid_hbmPoison (n : Nat) (g : Grid) : (s.setGrid n g).hbmPoison = s.hbmPoison := rfl
@[simp] theorem State.setGrid_host (n : Nat) (g : Grid) : (s.setGrid n g).host = s.host := rfl
@[simp] theorem State.setGrid_far (n : Nat) (g : Grid) : (s.setGrid n g).far = s.far := rfl
@[simp] theorem State.setGrid_lines (n : Nat) (g : Grid) : (s.setGrid n g).lines = s.lines := rfl
@[simp] theorem State.setGrid_dies (n : Nat) (g : Grid) : (s.setGrid n g).dies = s.dies := rfl
@[simp] theorem State.setGrid_deckles (n : Nat) (g : Grid) : (s.setGrid n g).deckles = s.deckles := rfl
@[simp] theorem State.setGrid_holds (n : Nat) (g : Grid) : (s.setGrid n g).holds = s.holds := rfl
@[simp] theorem State.setGrid_ownOps (n : Nat) (g : Grid) : (s.setGrid n g).ownOps = s.ownOps := rfl
@[simp] theorem State.setGrid_engines (n : Nat) (g : Grid) : (s.setGrid n g).engines = s.engines := rfl
@[simp] theorem State.setGrid_pageins (n : Nat) (g : Grid) : (s.setGrid n g).pageins = s.pageins := rfl
@[simp] theorem State.setGrid_takes (n : Nat) (g : Grid) : (s.setGrid n g).takes = s.takes := rfl
@[simp] theorem State.setGrid_collectives (n : Nat) (g : Grid) : (s.setGrid n g).collectives = s.collectives := rfl
@[simp] theorem State.setGrid_imports (n : Nat) (g : Grid) : (s.setGrid n g).imports = s.imports := rfl
@[simp] theorem State.setGrid_farReplies (n : Nat) (g : Grid) : (s.setGrid n g).farReplies = s.farReplies := rfl
@[simp] theorem State.setGrid_farOut (n : Nat) (g : Grid) : (s.setGrid n g).farOut = s.farOut := rfl
@[simp] theorem State.setGrid_lostPeers (n : Nat) (g : Grid) : (s.setGrid n g).lostPeers = s.lostPeers := rfl
@[simp] theorem State.setGrid_queues (n : Nat) (g : Grid) : (s.setGrid n g).queues = s.queues := rfl
@[simp] theorem State.setGrid_mreg (n : Nat) (g : Grid) : (s.setGrid n g).mreg = s.mreg := rfl
@[simp] theorem State.setGrid_muWait (n : Nat) (g : Grid) : (s.setGrid n g).muWait = s.muWait := rfl
@[simp] theorem State.setGrid_report (n : Nat) (g : Grid) : (s.setGrid n g).report = s.report := rfl
@[simp] theorem State.setGrid_circuits (n : Nat) (g : Grid) : (s.setGrid n g).circuits = s.circuits := rfl
@[simp] theorem State.setGrid_circDrain (n : Nat) (g : Grid) : (s.setGrid n g).circDrain = s.circDrain := rfl
@[simp] theorem State.setGrid_circLost (n : Nat) (g : Grid) : (s.setGrid n g).circLost = s.circLost := rfl
@[simp] theorem State.setGrid_seams (n : Nat) (g : Grid) : (s.setGrid n g).seams = s.seams := rfl
@[simp] theorem State.setGrid_ports (n : Nat) (g : Grid) : (s.setGrid n g).ports = s.ports := rfl
@[simp] theorem State.setGrid_replays (n : Nat) (g : Grid) : (s.setGrid n g).replays = s.replays := rfl
@[simp] theorem State.setGrid_hostLinkDown (n : Nat) (g : Grid) : (s.setGrid n g).hostLinkDown = s.hostLinkDown := rfl
@[simp] theorem State.setGrid_hostOut (n : Nat) (g : Grid) : (s.setGrid n g).hostOut = s.hostOut := rfl
@[simp] theorem State.setGrid_paths (n : Nat) (g : Grid) : (s.setGrid n g).paths = s.paths := rfl
@[simp] theorem State.setGrid_pressed (n : Nat) (g : Grid) : (s.setGrid n g).pressed = s.pressed := rfl
@[simp] theorem State.setGrid_pressVisits (n : Nat) (g : Grid) : (s.setGrid n g).pressVisits = s.pressVisits := rfl
@[simp] theorem State.setGrid_coreHeld (n : Nat) (g : Grid) : (s.setGrid n g).coreHeld = s.coreHeld := rfl
@[simp] theorem State.setGrid_coreEnergy (n : Nat) (g : Grid) : (s.setGrid n g).coreEnergy = s.coreEnergy := rfl
@[simp] theorem State.setGrid_energyRead (n : Nat) (g : Grid) : (s.setGrid n g).energyRead = s.energyRead := rfl
@[simp] theorem State.setGrid_coreEvents (n : Nat) (g : Grid) : (s.setGrid n g).coreEvents = s.coreEvents := rfl
@[simp] theorem State.setGrid_msix (n : Nat) (g : Grid) : (s.setGrid n g).msix = s.msix := rfl
@[simp] theorem State.setGrid_nextId (n : Nat) (g : Grid) : (s.setGrid n g).nextId = s.nextId := rfl
@[simp] theorem State.setGrid_nextGrid (n : Nat) (g : Grid) : (s.setGrid n g).nextGrid = s.nextGrid := rfl
@[simp] theorem State.setGrid_issues (n : Nat) (g : Grid) : (s.setGrid n g).issues = s.issues := rfl
@[simp] theorem State.setGrid_drawn (n : Nat) (g : Grid) : (s.setGrid n g).drawn = s.drawn := rfl
@[simp] theorem State.setGrid_agenda (n : Nat) (g : Grid) : (s.setGrid n g).agenda = s.agenda := rfl
@[simp] theorem State.setGrid_cur (n : Nat) (g : Grid) : (s.setGrid n g).cur = s.cur := rfl
@[simp] theorem State.setGrid_curSeq (n : Nat) (g : Grid) : (s.setGrid n g).curSeq = s.curSeq := rfl
@[simp] theorem State.setGrid_curHart (n : Nat) (g : Grid) : (s.setGrid n g).curHart = s.curHart := rfl
@[simp] theorem State.setGrid_arg (n : Nat) (g : Grid) : (s.setGrid n g).arg = s.arg := rfl

/-! updGrid changes grids alone. -/
@[simp] theorem State.updGrid_powered (n : Nat) (f : Grid → Grid) : (s.updGrid n f).powered = s.powered := by unfold State.updGrid; split <;> rfl
@[simp] theorem State.updGrid_fuseDigest (n : Nat) (f : Grid → Grid) : (s.updGrid n f).fuseDigest = s.fuseDigest := by unfold State.updGrid; split <;> rfl
@[simp] theorem State.updGrid_fuseSeed (n : Nat) (f : Grid → Grid) : (s.updGrid n f).fuseSeed = s.fuseSeed := by unfold State.updGrid; split <;> rfl
@[simp] theorem State.updGrid_rollback (n : Nat) (f : Grid → Grid) : (s.updGrid n f).rollback = s.rollback := by unfold State.updGrid; split <;> rfl
@[simp] theorem State.updGrid_hbm (n : Nat) (f : Grid → Grid) : (s.updGrid n f).hbm = s.hbm := by unfold State.updGrid; split <;> rfl
@[simp] theorem State.updGrid_hbmTags (n : Nat) (f : Grid → Grid) : (s.updGrid n f).hbmTags = s.hbmTags := by unfold State.updGrid; split <;> rfl
@[simp] theorem State.updGrid_hbmPoison (n : Nat) (f : Grid → Grid) : (s.updGrid n f).hbmPoison = s.hbmPoison := by unfold State.updGrid; split <;> rfl
@[simp] theorem State.updGrid_host (n : Nat) (f : Grid → Grid) : (s.updGrid n f).host = s.host := by unfold State.updGrid; split <;> rfl
@[simp] theorem State.updGrid_far (n : Nat) (f : Grid → Grid) : (s.updGrid n f).far = s.far := by unfold State.updGrid; split <;> rfl
@[simp] theorem State.updGrid_lines (n : Nat) (f : Grid → Grid) : (s.updGrid n f).lines = s.lines := by unfold State.updGrid; split <;> rfl
@[simp] theorem State.updGrid_dies (n : Nat) (f : Grid → Grid) : (s.updGrid n f).dies = s.dies := by unfold State.updGrid; split <;> rfl
@[simp] theorem State.updGrid_deckles (n : Nat) (f : Grid → Grid) : (s.updGrid n f).deckles = s.deckles := by unfold State.updGrid; split <;> rfl
@[simp] theorem State.updGrid_holds (n : Nat) (f : Grid → Grid) : (s.updGrid n f).holds = s.holds := by unfold State.updGrid; split <;> rfl
@[simp] theorem State.updGrid_ownOps (n : Nat) (f : Grid → Grid) : (s.updGrid n f).ownOps = s.ownOps := by unfold State.updGrid; split <;> rfl
@[simp] theorem State.updGrid_engines (n : Nat) (f : Grid → Grid) : (s.updGrid n f).engines = s.engines := by unfold State.updGrid; split <;> rfl
@[simp] theorem State.updGrid_pageins (n : Nat) (f : Grid → Grid) : (s.updGrid n f).pageins = s.pageins := by unfold State.updGrid; split <;> rfl
@[simp] theorem State.updGrid_takes (n : Nat) (f : Grid → Grid) : (s.updGrid n f).takes = s.takes := by unfold State.updGrid; split <;> rfl
@[simp] theorem State.updGrid_collectives (n : Nat) (f : Grid → Grid) : (s.updGrid n f).collectives = s.collectives := by unfold State.updGrid; split <;> rfl
@[simp] theorem State.updGrid_imports (n : Nat) (f : Grid → Grid) : (s.updGrid n f).imports = s.imports := by unfold State.updGrid; split <;> rfl
@[simp] theorem State.updGrid_farReplies (n : Nat) (f : Grid → Grid) : (s.updGrid n f).farReplies = s.farReplies := by unfold State.updGrid; split <;> rfl
@[simp] theorem State.updGrid_farOut (n : Nat) (f : Grid → Grid) : (s.updGrid n f).farOut = s.farOut := by unfold State.updGrid; split <;> rfl
@[simp] theorem State.updGrid_lostPeers (n : Nat) (f : Grid → Grid) : (s.updGrid n f).lostPeers = s.lostPeers := by unfold State.updGrid; split <;> rfl
@[simp] theorem State.updGrid_queues (n : Nat) (f : Grid → Grid) : (s.updGrid n f).queues = s.queues := by unfold State.updGrid; split <;> rfl
@[simp] theorem State.updGrid_mreg (n : Nat) (f : Grid → Grid) : (s.updGrid n f).mreg = s.mreg := by unfold State.updGrid; split <;> rfl
@[simp] theorem State.updGrid_muWait (n : Nat) (f : Grid → Grid) : (s.updGrid n f).muWait = s.muWait := by unfold State.updGrid; split <;> rfl
@[simp] theorem State.updGrid_report (n : Nat) (f : Grid → Grid) : (s.updGrid n f).report = s.report := by unfold State.updGrid; split <;> rfl
@[simp] theorem State.updGrid_circuits (n : Nat) (f : Grid → Grid) : (s.updGrid n f).circuits = s.circuits := by unfold State.updGrid; split <;> rfl
@[simp] theorem State.updGrid_circDrain (n : Nat) (f : Grid → Grid) : (s.updGrid n f).circDrain = s.circDrain := by unfold State.updGrid; split <;> rfl
@[simp] theorem State.updGrid_circLost (n : Nat) (f : Grid → Grid) : (s.updGrid n f).circLost = s.circLost := by unfold State.updGrid; split <;> rfl
@[simp] theorem State.updGrid_seams (n : Nat) (f : Grid → Grid) : (s.updGrid n f).seams = s.seams := by unfold State.updGrid; split <;> rfl
@[simp] theorem State.updGrid_ports (n : Nat) (f : Grid → Grid) : (s.updGrid n f).ports = s.ports := by unfold State.updGrid; split <;> rfl
@[simp] theorem State.updGrid_replays (n : Nat) (f : Grid → Grid) : (s.updGrid n f).replays = s.replays := by unfold State.updGrid; split <;> rfl
@[simp] theorem State.updGrid_hostLinkDown (n : Nat) (f : Grid → Grid) : (s.updGrid n f).hostLinkDown = s.hostLinkDown := by unfold State.updGrid; split <;> rfl
@[simp] theorem State.updGrid_hostOut (n : Nat) (f : Grid → Grid) : (s.updGrid n f).hostOut = s.hostOut := by unfold State.updGrid; split <;> rfl
@[simp] theorem State.updGrid_paths (n : Nat) (f : Grid → Grid) : (s.updGrid n f).paths = s.paths := by unfold State.updGrid; split <;> rfl
@[simp] theorem State.updGrid_pressed (n : Nat) (f : Grid → Grid) : (s.updGrid n f).pressed = s.pressed := by unfold State.updGrid; split <;> rfl
@[simp] theorem State.updGrid_pressVisits (n : Nat) (f : Grid → Grid) : (s.updGrid n f).pressVisits = s.pressVisits := by unfold State.updGrid; split <;> rfl
@[simp] theorem State.updGrid_coreHeld (n : Nat) (f : Grid → Grid) : (s.updGrid n f).coreHeld = s.coreHeld := by unfold State.updGrid; split <;> rfl
@[simp] theorem State.updGrid_coreEnergy (n : Nat) (f : Grid → Grid) : (s.updGrid n f).coreEnergy = s.coreEnergy := by unfold State.updGrid; split <;> rfl
@[simp] theorem State.updGrid_energyRead (n : Nat) (f : Grid → Grid) : (s.updGrid n f).energyRead = s.energyRead := by unfold State.updGrid; split <;> rfl
@[simp] theorem State.updGrid_coreEvents (n : Nat) (f : Grid → Grid) : (s.updGrid n f).coreEvents = s.coreEvents := by unfold State.updGrid; split <;> rfl
@[simp] theorem State.updGrid_msix (n : Nat) (f : Grid → Grid) : (s.updGrid n f).msix = s.msix := by unfold State.updGrid; split <;> rfl
@[simp] theorem State.updGrid_nextId (n : Nat) (f : Grid → Grid) : (s.updGrid n f).nextId = s.nextId := by unfold State.updGrid; split <;> rfl
@[simp] theorem State.updGrid_nextGrid (n : Nat) (f : Grid → Grid) : (s.updGrid n f).nextGrid = s.nextGrid := by unfold State.updGrid; split <;> rfl
@[simp] theorem State.updGrid_issues (n : Nat) (f : Grid → Grid) : (s.updGrid n f).issues = s.issues := by unfold State.updGrid; split <;> rfl
@[simp] theorem State.updGrid_drawn (n : Nat) (f : Grid → Grid) : (s.updGrid n f).drawn = s.drawn := by unfold State.updGrid; split <;> rfl
@[simp] theorem State.updGrid_agenda (n : Nat) (f : Grid → Grid) : (s.updGrid n f).agenda = s.agenda := by unfold State.updGrid; split <;> rfl
@[simp] theorem State.updGrid_cur (n : Nat) (f : Grid → Grid) : (s.updGrid n f).cur = s.cur := by unfold State.updGrid; split <;> rfl
@[simp] theorem State.updGrid_curSeq (n : Nat) (f : Grid → Grid) : (s.updGrid n f).curSeq = s.curSeq := by unfold State.updGrid; split <;> rfl
@[simp] theorem State.updGrid_curHart (n : Nat) (f : Grid → Grid) : (s.updGrid n f).curHart = s.curHart := by unfold State.updGrid; split <;> rfl
@[simp] theorem State.updGrid_arg (n : Nat) (f : Grid → Grid) : (s.updGrid n f).arg = s.arg := by unfold State.updGrid; split <;> rfl

/-! setReg changes mreg alone. -/
@[simp] theorem State.setReg_powered (off : Nat) (v : Dword) : (s.setReg off v).powered = s.powered := rfl
@[simp] theorem State.setReg_fuseDigest (off : Nat) (v : Dword) : (s.setReg off v).fuseDigest = s.fuseDigest := rfl
@[simp] theorem State.setReg_fuseSeed (off : Nat) (v : Dword) : (s.setReg off v).fuseSeed = s.fuseSeed := rfl
@[simp] theorem State.setReg_rollback (off : Nat) (v : Dword) : (s.setReg off v).rollback = s.rollback := rfl
@[simp] theorem State.setReg_hbm (off : Nat) (v : Dword) : (s.setReg off v).hbm = s.hbm := rfl
@[simp] theorem State.setReg_hbmTags (off : Nat) (v : Dword) : (s.setReg off v).hbmTags = s.hbmTags := rfl
@[simp] theorem State.setReg_hbmPoison (off : Nat) (v : Dword) : (s.setReg off v).hbmPoison = s.hbmPoison := rfl
@[simp] theorem State.setReg_host (off : Nat) (v : Dword) : (s.setReg off v).host = s.host := rfl
@[simp] theorem State.setReg_far (off : Nat) (v : Dword) : (s.setReg off v).far = s.far := rfl
@[simp] theorem State.setReg_lines (off : Nat) (v : Dword) : (s.setReg off v).lines = s.lines := rfl
@[simp] theorem State.setReg_dies (off : Nat) (v : Dword) : (s.setReg off v).dies = s.dies := rfl
@[simp] theorem State.setReg_grids (off : Nat) (v : Dword) : (s.setReg off v).grids = s.grids := rfl
@[simp] theorem State.setReg_deckles (off : Nat) (v : Dword) : (s.setReg off v).deckles = s.deckles := rfl
@[simp] theorem State.setReg_holds (off : Nat) (v : Dword) : (s.setReg off v).holds = s.holds := rfl
@[simp] theorem State.setReg_ownOps (off : Nat) (v : Dword) : (s.setReg off v).ownOps = s.ownOps := rfl
@[simp] theorem State.setReg_engines (off : Nat) (v : Dword) : (s.setReg off v).engines = s.engines := rfl
@[simp] theorem State.setReg_pageins (off : Nat) (v : Dword) : (s.setReg off v).pageins = s.pageins := rfl
@[simp] theorem State.setReg_takes (off : Nat) (v : Dword) : (s.setReg off v).takes = s.takes := rfl
@[simp] theorem State.setReg_collectives (off : Nat) (v : Dword) : (s.setReg off v).collectives = s.collectives := rfl
@[simp] theorem State.setReg_imports (off : Nat) (v : Dword) : (s.setReg off v).imports = s.imports := rfl
@[simp] theorem State.setReg_farReplies (off : Nat) (v : Dword) : (s.setReg off v).farReplies = s.farReplies := rfl
@[simp] theorem State.setReg_farOut (off : Nat) (v : Dword) : (s.setReg off v).farOut = s.farOut := rfl
@[simp] theorem State.setReg_lostPeers (off : Nat) (v : Dword) : (s.setReg off v).lostPeers = s.lostPeers := rfl
@[simp] theorem State.setReg_queues (off : Nat) (v : Dword) : (s.setReg off v).queues = s.queues := rfl
@[simp] theorem State.setReg_muWait (off : Nat) (v : Dword) : (s.setReg off v).muWait = s.muWait := rfl
@[simp] theorem State.setReg_report (off : Nat) (v : Dword) : (s.setReg off v).report = s.report := rfl
@[simp] theorem State.setReg_circuits (off : Nat) (v : Dword) : (s.setReg off v).circuits = s.circuits := rfl
@[simp] theorem State.setReg_circDrain (off : Nat) (v : Dword) : (s.setReg off v).circDrain = s.circDrain := rfl
@[simp] theorem State.setReg_circLost (off : Nat) (v : Dword) : (s.setReg off v).circLost = s.circLost := rfl
@[simp] theorem State.setReg_seams (off : Nat) (v : Dword) : (s.setReg off v).seams = s.seams := rfl
@[simp] theorem State.setReg_ports (off : Nat) (v : Dword) : (s.setReg off v).ports = s.ports := rfl
@[simp] theorem State.setReg_replays (off : Nat) (v : Dword) : (s.setReg off v).replays = s.replays := rfl
@[simp] theorem State.setReg_hostLinkDown (off : Nat) (v : Dword) : (s.setReg off v).hostLinkDown = s.hostLinkDown := rfl
@[simp] theorem State.setReg_hostOut (off : Nat) (v : Dword) : (s.setReg off v).hostOut = s.hostOut := rfl
@[simp] theorem State.setReg_paths (off : Nat) (v : Dword) : (s.setReg off v).paths = s.paths := rfl
@[simp] theorem State.setReg_pressed (off : Nat) (v : Dword) : (s.setReg off v).pressed = s.pressed := rfl
@[simp] theorem State.setReg_pressVisits (off : Nat) (v : Dword) : (s.setReg off v).pressVisits = s.pressVisits := rfl
@[simp] theorem State.setReg_coreHeld (off : Nat) (v : Dword) : (s.setReg off v).coreHeld = s.coreHeld := rfl
@[simp] theorem State.setReg_coreEnergy (off : Nat) (v : Dword) : (s.setReg off v).coreEnergy = s.coreEnergy := rfl
@[simp] theorem State.setReg_energyRead (off : Nat) (v : Dword) : (s.setReg off v).energyRead = s.energyRead := rfl
@[simp] theorem State.setReg_coreEvents (off : Nat) (v : Dword) : (s.setReg off v).coreEvents = s.coreEvents := rfl
@[simp] theorem State.setReg_msix (off : Nat) (v : Dword) : (s.setReg off v).msix = s.msix := rfl
@[simp] theorem State.setReg_nextId (off : Nat) (v : Dword) : (s.setReg off v).nextId = s.nextId := rfl
@[simp] theorem State.setReg_nextGrid (off : Nat) (v : Dword) : (s.setReg off v).nextGrid = s.nextGrid := rfl
@[simp] theorem State.setReg_issues (off : Nat) (v : Dword) : (s.setReg off v).issues = s.issues := rfl
@[simp] theorem State.setReg_drawn (off : Nat) (v : Dword) : (s.setReg off v).drawn = s.drawn := rfl
@[simp] theorem State.setReg_agenda (off : Nat) (v : Dword) : (s.setReg off v).agenda = s.agenda := rfl
@[simp] theorem State.setReg_cur (off : Nat) (v : Dword) : (s.setReg off v).cur = s.cur := rfl
@[simp] theorem State.setReg_curSeq (off : Nat) (v : Dword) : (s.setReg off v).curSeq = s.curSeq := rfl
@[simp] theorem State.setReg_curHart (off : Nat) (v : Dword) : (s.setReg off v).curHart = s.curHart := rfl
@[simp] theorem State.setReg_arg (off : Nat) (v : Dword) : (s.setReg off v).arg = s.arg := rfl

/-! signal changes msix alone. -/
@[simp] theorem State.signal_powered (v : Nat) : (s.signal v).powered = s.powered := rfl
@[simp] theorem State.signal_fuseDigest (v : Nat) : (s.signal v).fuseDigest = s.fuseDigest := rfl
@[simp] theorem State.signal_fuseSeed (v : Nat) : (s.signal v).fuseSeed = s.fuseSeed := rfl
@[simp] theorem State.signal_rollback (v : Nat) : (s.signal v).rollback = s.rollback := rfl
@[simp] theorem State.signal_hbm (v : Nat) : (s.signal v).hbm = s.hbm := rfl
@[simp] theorem State.signal_hbmTags (v : Nat) : (s.signal v).hbmTags = s.hbmTags := rfl
@[simp] theorem State.signal_hbmPoison (v : Nat) : (s.signal v).hbmPoison = s.hbmPoison := rfl
@[simp] theorem State.signal_host (v : Nat) : (s.signal v).host = s.host := rfl
@[simp] theorem State.signal_far (v : Nat) : (s.signal v).far = s.far := rfl
@[simp] theorem State.signal_lines (v : Nat) : (s.signal v).lines = s.lines := rfl
@[simp] theorem State.signal_dies (v : Nat) : (s.signal v).dies = s.dies := rfl
@[simp] theorem State.signal_grids (v : Nat) : (s.signal v).grids = s.grids := rfl
@[simp] theorem State.signal_deckles (v : Nat) : (s.signal v).deckles = s.deckles := rfl
@[simp] theorem State.signal_holds (v : Nat) : (s.signal v).holds = s.holds := rfl
@[simp] theorem State.signal_ownOps (v : Nat) : (s.signal v).ownOps = s.ownOps := rfl
@[simp] theorem State.signal_engines (v : Nat) : (s.signal v).engines = s.engines := rfl
@[simp] theorem State.signal_pageins (v : Nat) : (s.signal v).pageins = s.pageins := rfl
@[simp] theorem State.signal_takes (v : Nat) : (s.signal v).takes = s.takes := rfl
@[simp] theorem State.signal_collectives (v : Nat) : (s.signal v).collectives = s.collectives := rfl
@[simp] theorem State.signal_imports (v : Nat) : (s.signal v).imports = s.imports := rfl
@[simp] theorem State.signal_farReplies (v : Nat) : (s.signal v).farReplies = s.farReplies := rfl
@[simp] theorem State.signal_farOut (v : Nat) : (s.signal v).farOut = s.farOut := rfl
@[simp] theorem State.signal_lostPeers (v : Nat) : (s.signal v).lostPeers = s.lostPeers := rfl
@[simp] theorem State.signal_queues (v : Nat) : (s.signal v).queues = s.queues := rfl
@[simp] theorem State.signal_mreg (v : Nat) : (s.signal v).mreg = s.mreg := rfl
@[simp] theorem State.signal_muWait (v : Nat) : (s.signal v).muWait = s.muWait := rfl
@[simp] theorem State.signal_report (v : Nat) : (s.signal v).report = s.report := rfl
@[simp] theorem State.signal_circuits (v : Nat) : (s.signal v).circuits = s.circuits := rfl
@[simp] theorem State.signal_circDrain (v : Nat) : (s.signal v).circDrain = s.circDrain := rfl
@[simp] theorem State.signal_circLost (v : Nat) : (s.signal v).circLost = s.circLost := rfl
@[simp] theorem State.signal_seams (v : Nat) : (s.signal v).seams = s.seams := rfl
@[simp] theorem State.signal_ports (v : Nat) : (s.signal v).ports = s.ports := rfl
@[simp] theorem State.signal_replays (v : Nat) : (s.signal v).replays = s.replays := rfl
@[simp] theorem State.signal_hostLinkDown (v : Nat) : (s.signal v).hostLinkDown = s.hostLinkDown := rfl
@[simp] theorem State.signal_hostOut (v : Nat) : (s.signal v).hostOut = s.hostOut := rfl
@[simp] theorem State.signal_paths (v : Nat) : (s.signal v).paths = s.paths := rfl
@[simp] theorem State.signal_pressed (v : Nat) : (s.signal v).pressed = s.pressed := rfl
@[simp] theorem State.signal_pressVisits (v : Nat) : (s.signal v).pressVisits = s.pressVisits := rfl
@[simp] theorem State.signal_coreHeld (v : Nat) : (s.signal v).coreHeld = s.coreHeld := rfl
@[simp] theorem State.signal_coreEnergy (v : Nat) : (s.signal v).coreEnergy = s.coreEnergy := rfl
@[simp] theorem State.signal_energyRead (v : Nat) : (s.signal v).energyRead = s.energyRead := rfl
@[simp] theorem State.signal_coreEvents (v : Nat) : (s.signal v).coreEvents = s.coreEvents := rfl
@[simp] theorem State.signal_nextId (v : Nat) : (s.signal v).nextId = s.nextId := rfl
@[simp] theorem State.signal_nextGrid (v : Nat) : (s.signal v).nextGrid = s.nextGrid := rfl
@[simp] theorem State.signal_issues (v : Nat) : (s.signal v).issues = s.issues := rfl
@[simp] theorem State.signal_drawn (v : Nat) : (s.signal v).drawn = s.drawn := rfl
@[simp] theorem State.signal_agenda (v : Nat) : (s.signal v).agenda = s.agenda := rfl
@[simp] theorem State.signal_cur (v : Nat) : (s.signal v).cur = s.cur := rfl
@[simp] theorem State.signal_curSeq (v : Nat) : (s.signal v).curSeq = s.curSeq := rfl
@[simp] theorem State.signal_curHart (v : Nat) : (s.signal v).curHart = s.curHart := rfl
@[simp] theorem State.signal_arg (v : Nat) : (s.signal v).arg = s.arg := rfl

/-! Numbers handed out and free values drawn. -/
@[simp] theorem State.fresh_powered : (s.fresh).2.powered = s.powered := rfl
@[simp] theorem State.fresh_fuseDigest : (s.fresh).2.fuseDigest = s.fuseDigest := rfl
@[simp] theorem State.fresh_fuseSeed : (s.fresh).2.fuseSeed = s.fuseSeed := rfl
@[simp] theorem State.fresh_rollback : (s.fresh).2.rollback = s.rollback := rfl
@[simp] theorem State.fresh_hbm : (s.fresh).2.hbm = s.hbm := rfl
@[simp] theorem State.fresh_hbmTags : (s.fresh).2.hbmTags = s.hbmTags := rfl
@[simp] theorem State.fresh_hbmPoison : (s.fresh).2.hbmPoison = s.hbmPoison := rfl
@[simp] theorem State.fresh_host : (s.fresh).2.host = s.host := rfl
@[simp] theorem State.fresh_far : (s.fresh).2.far = s.far := rfl
@[simp] theorem State.fresh_lines : (s.fresh).2.lines = s.lines := rfl
@[simp] theorem State.fresh_dies : (s.fresh).2.dies = s.dies := rfl
@[simp] theorem State.fresh_grids : (s.fresh).2.grids = s.grids := rfl
@[simp] theorem State.fresh_deckles : (s.fresh).2.deckles = s.deckles := rfl
@[simp] theorem State.fresh_holds : (s.fresh).2.holds = s.holds := rfl
@[simp] theorem State.fresh_ownOps : (s.fresh).2.ownOps = s.ownOps := rfl
@[simp] theorem State.fresh_engines : (s.fresh).2.engines = s.engines := rfl
@[simp] theorem State.fresh_pageins : (s.fresh).2.pageins = s.pageins := rfl
@[simp] theorem State.fresh_takes : (s.fresh).2.takes = s.takes := rfl
@[simp] theorem State.fresh_collectives : (s.fresh).2.collectives = s.collectives := rfl
@[simp] theorem State.fresh_imports : (s.fresh).2.imports = s.imports := rfl
@[simp] theorem State.fresh_farReplies : (s.fresh).2.farReplies = s.farReplies := rfl
@[simp] theorem State.fresh_farOut : (s.fresh).2.farOut = s.farOut := rfl
@[simp] theorem State.fresh_lostPeers : (s.fresh).2.lostPeers = s.lostPeers := rfl
@[simp] theorem State.fresh_queues : (s.fresh).2.queues = s.queues := rfl
@[simp] theorem State.fresh_mreg : (s.fresh).2.mreg = s.mreg := rfl
@[simp] theorem State.fresh_muWait : (s.fresh).2.muWait = s.muWait := rfl
@[simp] theorem State.fresh_report : (s.fresh).2.report = s.report := rfl
@[simp] theorem State.fresh_circuits : (s.fresh).2.circuits = s.circuits := rfl
@[simp] theorem State.fresh_circDrain : (s.fresh).2.circDrain = s.circDrain := rfl
@[simp] theorem State.fresh_circLost : (s.fresh).2.circLost = s.circLost := rfl
@[simp] theorem State.fresh_seams : (s.fresh).2.seams = s.seams := rfl
@[simp] theorem State.fresh_ports : (s.fresh).2.ports = s.ports := rfl
@[simp] theorem State.fresh_replays : (s.fresh).2.replays = s.replays := rfl
@[simp] theorem State.fresh_hostLinkDown : (s.fresh).2.hostLinkDown = s.hostLinkDown := rfl
@[simp] theorem State.fresh_hostOut : (s.fresh).2.hostOut = s.hostOut := rfl
@[simp] theorem State.fresh_paths : (s.fresh).2.paths = s.paths := rfl
@[simp] theorem State.fresh_pressed : (s.fresh).2.pressed = s.pressed := rfl
@[simp] theorem State.fresh_pressVisits : (s.fresh).2.pressVisits = s.pressVisits := rfl
@[simp] theorem State.fresh_coreHeld : (s.fresh).2.coreHeld = s.coreHeld := rfl
@[simp] theorem State.fresh_coreEnergy : (s.fresh).2.coreEnergy = s.coreEnergy := rfl
@[simp] theorem State.fresh_energyRead : (s.fresh).2.energyRead = s.energyRead := rfl
@[simp] theorem State.fresh_coreEvents : (s.fresh).2.coreEvents = s.coreEvents := rfl
@[simp] theorem State.fresh_msix : (s.fresh).2.msix = s.msix := rfl
@[simp] theorem State.fresh_nextGrid : (s.fresh).2.nextGrid = s.nextGrid := rfl
@[simp] theorem State.fresh_issues : (s.fresh).2.issues = s.issues := rfl
@[simp] theorem State.fresh_drawn : (s.fresh).2.drawn = s.drawn := rfl
@[simp] theorem State.fresh_agenda : (s.fresh).2.agenda = s.agenda := rfl
@[simp] theorem State.fresh_cur : (s.fresh).2.cur = s.cur := rfl
@[simp] theorem State.fresh_curSeq : (s.fresh).2.curSeq = s.curSeq := rfl
@[simp] theorem State.fresh_curHart : (s.fresh).2.curHart = s.curHart := rfl
@[simp] theorem State.fresh_arg : (s.fresh).2.arg = s.arg := rfl
@[simp] theorem State.drawBool_powered : (s.drawBool).2.powered = s.powered := rfl
@[simp] theorem State.drawByte_powered : (s.drawByte).2.powered = s.powered := rfl
@[simp] theorem State.drawBool_fuseDigest : (s.drawBool).2.fuseDigest = s.fuseDigest := rfl
@[simp] theorem State.drawByte_fuseDigest : (s.drawByte).2.fuseDigest = s.fuseDigest := rfl
@[simp] theorem State.drawBool_fuseSeed : (s.drawBool).2.fuseSeed = s.fuseSeed := rfl
@[simp] theorem State.drawByte_fuseSeed : (s.drawByte).2.fuseSeed = s.fuseSeed := rfl
@[simp] theorem State.drawBool_rollback : (s.drawBool).2.rollback = s.rollback := rfl
@[simp] theorem State.drawByte_rollback : (s.drawByte).2.rollback = s.rollback := rfl
@[simp] theorem State.drawBool_hbm : (s.drawBool).2.hbm = s.hbm := rfl
@[simp] theorem State.drawByte_hbm : (s.drawByte).2.hbm = s.hbm := rfl
@[simp] theorem State.drawBool_hbmTags : (s.drawBool).2.hbmTags = s.hbmTags := rfl
@[simp] theorem State.drawByte_hbmTags : (s.drawByte).2.hbmTags = s.hbmTags := rfl
@[simp] theorem State.drawBool_hbmPoison : (s.drawBool).2.hbmPoison = s.hbmPoison := rfl
@[simp] theorem State.drawByte_hbmPoison : (s.drawByte).2.hbmPoison = s.hbmPoison := rfl
@[simp] theorem State.drawBool_host : (s.drawBool).2.host = s.host := rfl
@[simp] theorem State.drawByte_host : (s.drawByte).2.host = s.host := rfl
@[simp] theorem State.drawBool_far : (s.drawBool).2.far = s.far := rfl
@[simp] theorem State.drawByte_far : (s.drawByte).2.far = s.far := rfl
@[simp] theorem State.drawBool_lines : (s.drawBool).2.lines = s.lines := rfl
@[simp] theorem State.drawByte_lines : (s.drawByte).2.lines = s.lines := rfl
@[simp] theorem State.drawBool_dies : (s.drawBool).2.dies = s.dies := rfl
@[simp] theorem State.drawByte_dies : (s.drawByte).2.dies = s.dies := rfl
@[simp] theorem State.drawBool_grids : (s.drawBool).2.grids = s.grids := rfl
@[simp] theorem State.drawByte_grids : (s.drawByte).2.grids = s.grids := rfl
@[simp] theorem State.drawBool_deckles : (s.drawBool).2.deckles = s.deckles := rfl
@[simp] theorem State.drawByte_deckles : (s.drawByte).2.deckles = s.deckles := rfl
@[simp] theorem State.drawBool_holds : (s.drawBool).2.holds = s.holds := rfl
@[simp] theorem State.drawByte_holds : (s.drawByte).2.holds = s.holds := rfl
@[simp] theorem State.drawBool_ownOps : (s.drawBool).2.ownOps = s.ownOps := rfl
@[simp] theorem State.drawByte_ownOps : (s.drawByte).2.ownOps = s.ownOps := rfl
@[simp] theorem State.drawBool_engines : (s.drawBool).2.engines = s.engines := rfl
@[simp] theorem State.drawByte_engines : (s.drawByte).2.engines = s.engines := rfl
@[simp] theorem State.drawBool_pageins : (s.drawBool).2.pageins = s.pageins := rfl
@[simp] theorem State.drawByte_pageins : (s.drawByte).2.pageins = s.pageins := rfl
@[simp] theorem State.drawBool_takes : (s.drawBool).2.takes = s.takes := rfl
@[simp] theorem State.drawByte_takes : (s.drawByte).2.takes = s.takes := rfl
@[simp] theorem State.drawBool_collectives : (s.drawBool).2.collectives = s.collectives := rfl
@[simp] theorem State.drawByte_collectives : (s.drawByte).2.collectives = s.collectives := rfl
@[simp] theorem State.drawBool_imports : (s.drawBool).2.imports = s.imports := rfl
@[simp] theorem State.drawByte_imports : (s.drawByte).2.imports = s.imports := rfl
@[simp] theorem State.drawBool_farReplies : (s.drawBool).2.farReplies = s.farReplies := rfl
@[simp] theorem State.drawByte_farReplies : (s.drawByte).2.farReplies = s.farReplies := rfl
@[simp] theorem State.drawBool_farOut : (s.drawBool).2.farOut = s.farOut := rfl
@[simp] theorem State.drawByte_farOut : (s.drawByte).2.farOut = s.farOut := rfl
@[simp] theorem State.drawBool_lostPeers : (s.drawBool).2.lostPeers = s.lostPeers := rfl
@[simp] theorem State.drawByte_lostPeers : (s.drawByte).2.lostPeers = s.lostPeers := rfl
@[simp] theorem State.drawBool_queues : (s.drawBool).2.queues = s.queues := rfl
@[simp] theorem State.drawByte_queues : (s.drawByte).2.queues = s.queues := rfl
@[simp] theorem State.drawBool_mreg : (s.drawBool).2.mreg = s.mreg := rfl
@[simp] theorem State.drawByte_mreg : (s.drawByte).2.mreg = s.mreg := rfl
@[simp] theorem State.drawBool_muWait : (s.drawBool).2.muWait = s.muWait := rfl
@[simp] theorem State.drawByte_muWait : (s.drawByte).2.muWait = s.muWait := rfl
@[simp] theorem State.drawBool_report : (s.drawBool).2.report = s.report := rfl
@[simp] theorem State.drawByte_report : (s.drawByte).2.report = s.report := rfl
@[simp] theorem State.drawBool_circuits : (s.drawBool).2.circuits = s.circuits := rfl
@[simp] theorem State.drawByte_circuits : (s.drawByte).2.circuits = s.circuits := rfl
@[simp] theorem State.drawBool_circDrain : (s.drawBool).2.circDrain = s.circDrain := rfl
@[simp] theorem State.drawByte_circDrain : (s.drawByte).2.circDrain = s.circDrain := rfl
@[simp] theorem State.drawBool_circLost : (s.drawBool).2.circLost = s.circLost := rfl
@[simp] theorem State.drawByte_circLost : (s.drawByte).2.circLost = s.circLost := rfl
@[simp] theorem State.drawBool_seams : (s.drawBool).2.seams = s.seams := rfl
@[simp] theorem State.drawByte_seams : (s.drawByte).2.seams = s.seams := rfl
@[simp] theorem State.drawBool_ports : (s.drawBool).2.ports = s.ports := rfl
@[simp] theorem State.drawByte_ports : (s.drawByte).2.ports = s.ports := rfl
@[simp] theorem State.drawBool_replays : (s.drawBool).2.replays = s.replays := rfl
@[simp] theorem State.drawByte_replays : (s.drawByte).2.replays = s.replays := rfl
@[simp] theorem State.drawBool_hostLinkDown : (s.drawBool).2.hostLinkDown = s.hostLinkDown := rfl
@[simp] theorem State.drawByte_hostLinkDown : (s.drawByte).2.hostLinkDown = s.hostLinkDown := rfl
@[simp] theorem State.drawBool_hostOut : (s.drawBool).2.hostOut = s.hostOut := rfl
@[simp] theorem State.drawByte_hostOut : (s.drawByte).2.hostOut = s.hostOut := rfl
@[simp] theorem State.drawBool_paths : (s.drawBool).2.paths = s.paths := rfl
@[simp] theorem State.drawByte_paths : (s.drawByte).2.paths = s.paths := rfl
@[simp] theorem State.drawBool_pressed : (s.drawBool).2.pressed = s.pressed := rfl
@[simp] theorem State.drawByte_pressed : (s.drawByte).2.pressed = s.pressed := rfl
@[simp] theorem State.drawBool_pressVisits : (s.drawBool).2.pressVisits = s.pressVisits := rfl
@[simp] theorem State.drawByte_pressVisits : (s.drawByte).2.pressVisits = s.pressVisits := rfl
@[simp] theorem State.drawBool_coreHeld : (s.drawBool).2.coreHeld = s.coreHeld := rfl
@[simp] theorem State.drawByte_coreHeld : (s.drawByte).2.coreHeld = s.coreHeld := rfl
@[simp] theorem State.drawBool_coreEnergy : (s.drawBool).2.coreEnergy = s.coreEnergy := rfl
@[simp] theorem State.drawByte_coreEnergy : (s.drawByte).2.coreEnergy = s.coreEnergy := rfl
@[simp] theorem State.drawBool_energyRead : (s.drawBool).2.energyRead = s.energyRead := rfl
@[simp] theorem State.drawByte_energyRead : (s.drawByte).2.energyRead = s.energyRead := rfl
@[simp] theorem State.drawBool_coreEvents : (s.drawBool).2.coreEvents = s.coreEvents := rfl
@[simp] theorem State.drawByte_coreEvents : (s.drawByte).2.coreEvents = s.coreEvents := rfl
@[simp] theorem State.drawBool_msix : (s.drawBool).2.msix = s.msix := rfl
@[simp] theorem State.drawByte_msix : (s.drawByte).2.msix = s.msix := rfl
@[simp] theorem State.drawBool_nextId : (s.drawBool).2.nextId = s.nextId := rfl
@[simp] theorem State.drawByte_nextId : (s.drawByte).2.nextId = s.nextId := rfl
@[simp] theorem State.drawBool_nextGrid : (s.drawBool).2.nextGrid = s.nextGrid := rfl
@[simp] theorem State.drawByte_nextGrid : (s.drawByte).2.nextGrid = s.nextGrid := rfl
@[simp] theorem State.drawBool_issues : (s.drawBool).2.issues = s.issues := rfl
@[simp] theorem State.drawByte_issues : (s.drawByte).2.issues = s.issues := rfl
@[simp] theorem State.drawBool_agenda : (s.drawBool).2.agenda = s.agenda := rfl
@[simp] theorem State.drawByte_agenda : (s.drawByte).2.agenda = s.agenda := rfl
@[simp] theorem State.drawBool_cur : (s.drawBool).2.cur = s.cur := rfl
@[simp] theorem State.drawByte_cur : (s.drawByte).2.cur = s.cur := rfl
@[simp] theorem State.drawBool_curSeq : (s.drawBool).2.curSeq = s.curSeq := rfl
@[simp] theorem State.drawByte_curSeq : (s.drawByte).2.curSeq = s.curSeq := rfl
@[simp] theorem State.drawBool_curHart : (s.drawBool).2.curHart = s.curHart := rfl
@[simp] theorem State.drawByte_curHart : (s.drawByte).2.curHart = s.curHart := rfl
@[simp] theorem State.drawBool_arg : (s.drawBool).2.arg = s.arg := rfl
@[simp] theorem State.drawByte_arg : (s.drawByte).2.arg = s.arg := rfl

end Sys2Proof.Machine
end

