-- ==== Sys2Proof/Laws/Table.lean ====
section
/-! SUPPORT. Tables, memory and sets of numbers: what a read finds after a write, and that a write keeps the canonical
form. -/
namespace Sys2Proof.Machine

variable {α β : Type}

theorem tfind_tput (t : Table α) (k j : Nat) (v : α) : tfind (tput t k v) j = if j = k then some v else tfind t j := by
  induction t with
  | nil => simp [tput, tfind, eq_comm]
  | cons e r ih =>
    obtain ⟨k', v'⟩ := e
    simp only [tput]
    split
    · simp [tfind, eq_comm]
    · split
      · rename_i h; subst h; by_cases h : j = k' <;> simp [tfind, h, eq_comm]
      · by_cases h : k' = j <;> simp_all [tfind]

theorem tfind_tdel (t : Table α) (k j : Nat) : tfind (tdel t k) j = if j = k then none else tfind t j := by
  induction t with
  | nil => simp [tdel, tfind]
  | cons e r ih =>
    obtain ⟨k', v'⟩ := e
    simp only [tdel]
    split
    · rename_i h; subst h; by_cases h : k' = j <;> simp_all [tfind, eq_comm]
    · by_cases h : k' = j <;> simp_all [tfind]

@[simp] theorem tfind_tput_self (t : Table α) (k : Nat) (v : α) : tfind (tput t k v) k = some v := by simp [tfind_tput]

theorem tfind_tput_ne (t : Table α) {k j : Nat} (v : α) (h : j ≠ k) : tfind (tput t k v) j = tfind t j := by
  simp [tfind_tput, h]

/-- A read after a write. -/
theorem tget_tset [DecidableEq α] (t : Table α) (k j : Nat) (v d : α) :
    tget (tset t k v d) j d = if j = k then v else tget t j d := by
  unfold tget tset
  split
  · rename_i h; subst h; rw [tfind_tdel]; split <;> rfl
  · rw [tfind_tput]; split <;> rfl

@[simp] theorem tget_tset_self [DecidableEq α] (t : Table α) (k : Nat) (v d : α) : tget (tset t k v d) k d = v := by
  simp [tget_tset]

theorem tget_tset_ne [DecidableEq α] (t : Table α) {k j : Nat} (v d : α) (h : j ≠ k) :
    tget (tset t k v d) j d = tget t j d := by
  simp [tget_tset, h]

/-! Memory. -/

theorem rdByte_wrByte (m : List Host.Cell) (a j : Nat) (b : Byte) :
    rdByte (wrByte m a b) j = if j = a then b else rdByte m j := tget_tset m a j b unwritten

/-- n bytes are written, the rest is as before. -/
theorem rdByte_wrBytes (bs : List Byte) (m : List Host.Cell) (a j : Nat) :
    rdByte (wrBytes m a bs) j = if h : a ≤ j ∧ j - a < bs.length then bs[j - a] else rdByte m j := by
  induction bs generalizing m a with
  | nil => simp [wrBytes]
  | cons b r ih =>
    rw [wrBytes, ih, rdByte_wrByte]
    by_cases h1 : a = j
    · subst h1; simp
    · by_cases h2 : a + 1 ≤ j ∧ j - (a + 1) < r.length
      · have h3 : a ≤ j ∧ j - a < (b :: r).length := by simp; omega
        rw [dif_pos h2, dif_pos h3]
        have : j - a = (j - (a + 1)) + 1 := by omega
        simp [this]
      · have h3 : ¬(a ≤ j ∧ j - a < (b :: r).length) := by simp; omega
        rw [dif_neg h2, dif_neg h3, if_neg (Ne.symm h1)]

/-! The canonical form. -/

theorem risingFrom_mono (t : Table α) {i : Option Nat} {j : Nat} (h : risingFrom (some j) t = true)
    (hij : ∀ k, i = some k → k ≤ j) : risingFrom i t = true := by
  cases t with
  | nil => rfl
  | cons e r =>
    obtain ⟨k, v⟩ := e
    simp only [risingFrom, Bool.and_eq_true, decide_eq_true_eq] at h ⊢
    refine ⟨?_, h.2⟩
    cases i with
    | none => rfl
    | some i => have := hij i rfl; simp; omega

theorem risingFrom_cons (b : Option Nat) (k : Nat) (v : α) (r : Table α) :
    risingFrom b ((k, v) :: r) = true ↔ (∀ j, b = some j → j < k) ∧ risingFrom (some k) r = true := by
  cases b <;> simp [risingFrom]

theorem risingFrom_tput (t : Table α) (b : Option Nat) (k : Nat) (v : α) (h : risingFrom b t = true)
    (hb : ∀ j, b = some j → j < k) : risingFrom b (tput t k v) = true := by
  induction t generalizing b with
  | nil => exact (risingFrom_cons b k v []).2 ⟨hb, rfl⟩
  | cons e r ih =>
    obtain ⟨k', v'⟩ := e
    rw [risingFrom_cons] at h
    simp only [tput]
    split
    · rename_i hk
      exact (risingFrom_cons ..).2 ⟨hb, (risingFrom_cons ..).2 ⟨by intro j hj; cases hj; exact hk, h.2⟩⟩
    · split
      · rename_i hk; subst hk; exact (risingFrom_cons ..).2 h
      · exact (risingFrom_cons ..).2 ⟨h.1, ih _ h.2 (by intro j hj; cases hj; omega)⟩

theorem risingFrom_tdel (t : Table α) (b : Option Nat) (k : Nat) (h : risingFrom b t = true) :
    risingFrom b (tdel t k) = true := by
  induction t generalizing b with
  | nil => rfl
  | cons e r ih =>
    obtain ⟨k', v'⟩ := e
    simp only [risingFrom, Bool.and_eq_true] at h
    simp only [tdel]
    split
    · refine ih b (risingFrom_mono r h.2 ?_)
      intro j hj; subst hj; have := h.1; simp at this; omega
    · simp only [risingFrom, Bool.and_eq_true]; exact ⟨h.1, ih _ h.2⟩

theorem mem_tput (t : Table α) (k : Nat) (v : α) {e : Nat × α} (h : e ∈ tput t k v) : e = (k, v) ∨ e ∈ t := by
  induction t with
  | nil => simp [tput] at h; exact .inl h
  | cons e' r ih =>
    obtain ⟨k', v'⟩ := e'
    simp only [tput] at h
    split at h
    · simpa using h
    · split at h <;> simp only [List.mem_cons] at h ⊢
      · tauto
      · rcases h with h | h
        · exact .inr (.inl h)
        · rcases ih h with h | h <;> simp [h]

theorem mem_tdel (t : Table α) (k : Nat) {e : Nat × α} (h : e ∈ tdel t k) : e ∈ t := by
  induction t with
  | nil => exact h
  | cons e' r ih =>
    obtain ⟨k', v'⟩ := e'
    simp only [tdel] at h
    split at h
    · exact List.mem_cons_of_mem _ (ih h)
    · simp only [List.mem_cons] at h ⊢
      exact h.imp id ih

theorem noDefault_tput [DecidableEq α] (d : α) (t : Table α) (k : Nat) (v : α) (h : noDefault d t = true) (hv : v ≠ d) :
    noDefault d (tput t k v) = true := by
  simp only [noDefault, List.all_eq_true, decide_eq_true_eq] at h ⊢
  intro e he
  rcases mem_tput t k v he with rfl | he
  · exact hv
  · exact h e he

theorem noDefault_tdel [DecidableEq α] (d : α) (t : Table α) (k : Nat) (h : noDefault d t = true) :
    noDefault d (tdel t k) = true := by
  simp only [noDefault, List.all_eq_true] at h ⊢
  exact fun e he => h e (mem_tdel t k he)

/-- A write keeps the canonical form. -/
theorem tableWf_tset [DecidableEq α] (d : α) (t : Table α) (k : Nat) (v : α) (h : tableWf d t = true) :
    tableWf d (tset t k v d) = true := by
  simp only [tableWf, Bool.and_eq_true] at h ⊢
  unfold tset
  split
  · exact ⟨risingFrom_tdel t _ k h.1, noDefault_tdel d t k h.2⟩
  · rename_i hv
    exact ⟨risingFrom_tput t _ k v h.1 (by simp), noDefault_tput d t k v h.2 hv⟩

theorem Memory.wf_wrByte (m : List Host.Cell) (a : Nat) (b : Byte) (h : Memory.wf m = true) :
    Memory.wf (wrByte m a b) = true := tableWf_tset _ m a b h

theorem Memory.wf_wrBytes (bs : List Byte) (m : List Host.Cell) (a : Nat) (h : Memory.wf m = true) :
    Memory.wf (wrBytes m a bs) = true := by
  induction bs generalizing m a with
  | nil => exact h
  | cons b r ih => exact ih _ _ (Memory.wf_wrByte m a b h)

/-! Sets of numbers. -/

theorem mem_sIns (l : List Nat) (k j : Nat) : j ∈ sIns l k ↔ j = k ∨ j ∈ l := by
  induction l with
  | nil => simp [sIns]
  | cons e r ih =>
    simp only [sIns]
    split
    · simp
    · split
      · rename_i h; subst h; simp
      · simp [ih]; tauto

theorem mem_sDel (l : List Nat) (k j : Nat) : j ∈ sDel l k ↔ j ≠ k ∧ j ∈ l := by
  simp [sDel, and_comm]

end Sys2Proof.Machine
end

