-- ==== Sys2Proof/Laws/Access.lean ====
section
/-! SUPPORT. What a named read finds after a named update: dies, teams, groups, pairs, and bytes at their home. -/
namespace Sys2Proof.Machine

variable (s : State)

theorem State.die_setDie (d e : Nat) (x : Die) : (s.setDie d x).die e = if e = d then x else s.die e :=
  tget_tset s.dies d e x {}

@[simp] theorem State.die_setDie_self (d : Nat) (x : Die) : (s.setDie d x).die d = x := by simp [State.die_setDie]

theorem State.die_updDie (d e : Nat) (f : Die → Die) : (s.updDie d f).die e = if e = d then f (s.die d) else s.die e :=
  s.die_setDie d e _

/-- A change of a die that leaves its teams leaves every team. -/
theorem State.team?_updDie (d : Nat) (f : Die → Die) (hf : (f (s.die d)).teams = (s.die d).teams) (e h : Nat) :
    (s.updDie d f).team? e h = s.team? e h := by
  unfold State.team?; rw [State.die_updDie]; split
  · rename_i he; subst he; rw [hf]
  · rfl

theorem State.team?_setTeam (d h e k : Nat) (t : Team) :
    (s.setTeam d h t).team? e k = if e = d ∧ k = h then some t else s.team? e k := by
  unfold State.team? State.setTeam; rw [State.die_updDie]; split
  · rename_i he; subst he; simp only [true_and, tfind_tput]
  · rename_i he; simp [he]

theorem State.team?_updTeam (d h e k : Nat) (f : Team → Team) :
    (s.updTeam d h f).team? e k = if e = d ∧ k = h then (s.team? d h).map f else s.team? e k := by
  unfold State.updTeam
  split
  · rename_i hn; split
    · rename_i he; obtain ⟨rfl, rfl⟩ := he; simp [hn]
    · rfl
  · rename_i t ht; rw [State.team?_setTeam]; simp [ht]

theorem Team.group?_setGroup (t : Team) (g k : Nat) (x : Group) :
    (t.setGroup g x).group? k = if k = g then some x else t.group? k := tfind_tput t.groups g k x

theorem State.group?_setGroup (d h g e k j : Nat) (x : Group) :
    (s.setGroup d h g x).group? e k j =
      if e = d ∧ k = h ∧ j = g ∧ (s.team? d h).isSome then some x else s.group? e k j := by
  unfold State.setGroup State.group?
  rw [State.team?_updTeam]
  by_cases he : e = d ∧ k = h
  · obtain ⟨rfl, rfl⟩ := he
    cases ht : s.team? e k with
    | none => simp
    | some t => simp [Team.group?_setGroup]
  · have : ¬(e = d ∧ k = h ∧ j = g ∧ (s.team? d h).isSome) := fun h => he ⟨h.1, h.2.1⟩
    simp [he, this]

/-- A change of a team that leaves its groups leaves every group. -/
theorem State.group?_updTeam (d h : Nat) (f : Team → Team) (hf : ∀ t, (f t).groups = t.groups) (e k j : Nat) :
    (s.updTeam d h f).group? e k j = s.group? e k j := by
  unfold State.group?
  rw [State.team?_updTeam]
  split
  · rename_i he; obtain ⟨rfl, rfl⟩ := he
    cases s.team? e k with
    | none => rfl
    | some t => simp [Team.group?, hf]
  · rfl

theorem State.group?_of_team {d h g : Nat} {t u : State} (ht : t.team? d h = u.team? d h) :
    t.group? d h g = u.group? d h g := by unfold State.group?; rw [ht]

@[simp] theorem State.team?_setPair (d p : Nat) (x : Pair) (e h : Nat) : (s.setPair d p x).team? e h = s.team? e h :=
  s.team?_updDie d _ rfl e h

/-! Bytes at their home. -/

theorem homeByte_wrHome (a j : Nat) (b : Byte) : homeByte (wrHome s a b) j = if j = a then b else homeByte s j := by
  unfold homeByte wrHome isFar
  by_cases ha : 2 ^ 40 ≤ a <;> by_cases hj : 2 ^ 40 ≤ j <;> simp only [ha, hj, decide_true, decide_false, if_true, if_false,
    Bool.false_eq_true, rdByte_wrByte]
  · by_cases h : j = a
    · simp [h]
    · rw [if_neg h, if_neg]; omega
  · rw [if_neg]; omega
  · rw [if_neg]; omega

theorem homeByte_wrHomes (bs : List Byte) (s : State) (a j : Nat) (h : ∀ k < bs.length, j ≠ a + k) :
    homeByte (wrHomes s a bs) j = homeByte s j := by
  induction bs generalizing s a with
  | nil => rfl
  | cons b r ih =>
    rw [wrHomes, ih, homeByte_wrHome, if_neg]
    · have := h 0 (by simp); omega
    · intro k hk; have := h (k + 1) (by simp; omega); omega

@[simp] theorem leBytes_length (n v : Nat) : (leBytes n v).length = n := by
  induction n generalizing v with
  | zero => rfl
  | succ n ih => simp [leBytes, ih]

/-- The bytes of a number that a write at its home leaves. -/
theorem homeByte_wrHomeNat (a n v j : Nat) (h : ∀ k < n, j ≠ a + k) : homeByte (wrHomeNat s a n v) j = homeByte s j :=
  homeByte_wrHomes _ s a j (by simpa using h)

end Sys2Proof.Machine
end

