-- ==== Sys2Proof/Laws/Units.lean ====
section
/-! SUPPORT. The issue of a unit: what every unit that is performed goes through, what a unit whose whole effect is on its
group's registers leaves, and what it leaves as it was. -/
namespace Sys2Proof.Machine

/-! States that differ in groups alone. -/

/-- t differs from s in the groups that P allows, in what dies keep beside local stores, in the count of issues and in the
path waits, and in nothing else. -/
def GroupsOnly (P : Nat → Nat → Nat → Prop) (s t : State) : Prop :=
  t = { s with dies := t.dies, issues := t.issues, paths := t.paths } ∧
  (∀ d h, (t.team? d h).map Team.store = (s.team? d h).map Team.store) ∧
  (∀ d h, (t.team? d h).map Team.ctx = (s.team? d h).map Team.ctx) ∧
  (∀ d h k, ¬P d h k → t.group? d h k = s.group? d h k)

theorem GroupsOnly.refl (P : Nat → Nat → Nat → Prop) (s : State) : GroupsOnly P s s :=
  ⟨rfl, fun _ _ => rfl, fun _ _ => rfl, fun _ _ _ _ => rfl⟩

theorem GroupsOnly.trans {P : Nat → Nat → Nat → Prop} {s t u : State} (h1 : GroupsOnly P s t) (h2 : GroupsOnly P t u) :
    GroupsOnly P s u := by
  refine ⟨?_, fun d h => (h2.2.1 d h).trans (h1.2.1 d h), fun d h => (h2.2.2.1 d h).trans (h1.2.2.1 d h),
    fun d h k hk => (h2.2.2.2 d h k hk).trans (h1.2.2.2 d h k hk)⟩
  have e := h2.1
  rw [h1.1] at e
  exact e

theorem GroupsOnly.mono {P Q : Nat → Nat → Nat → Prop} {s t : State} (h : GroupsOnly P s t) (hpq : ∀ d h k, P d h k → Q d h k) :
    GroupsOnly Q s t :=
  ⟨h.1, h.2.1, h.2.2.1, fun d h' k hk => h.2.2.2 d h' k (fun hp => hk (hpq d h' k hp))⟩

/-- A change of dies that leaves every team's store, context and groups. -/
theorem groupsOnly_of_teams {P : Nat → Nat → Nat → Prop} {s t : State}
    (e : t = { s with dies := t.dies, issues := t.issues, paths := t.paths }) (h : ∀ d h, t.team? d h = s.team? d h) :
    GroupsOnly P s t :=
  ⟨e, fun d k => by rw [h], fun d k => by rw [h], fun d k j _ => State.group?_of_team (h d k)⟩

theorem groupsOnly_updDie (P : Nat → Nat → Nat → Prop) (s : State) (d : Nat) (f : Die → Die)
    (hf : (f (s.die d)).teams = (s.die d).teams) : GroupsOnly P s (s.updDie d f) :=
  groupsOnly_of_teams rfl (s.team?_updDie d f hf)

theorem updTeam_dies (s : State) (d h : Nat) (f : Team → Team) : s.updTeam d h f = { s with dies := (s.updTeam d h f).dies } := by
  unfold State.updTeam; split <;> rfl

theorem groupsOnly_updTeam (P : Nat → Nat → Nat → Prop) (s : State) (d h : Nat) (f : Team → Team)
    (hs : ∀ t, (f t).store = t.store) (hc : ∀ t, (f t).ctx = t.ctx)
    (hg : ∀ t k, ¬P d h k → (f t).group? k = t.group? k) : GroupsOnly P s (s.updTeam d h f) := by
  refine ⟨?_, ?_, ?_, ?_⟩
  · rw [State.updTeam_issues, State.updTeam_paths]; exact updTeam_dies s d h f
  · intro e k; rw [State.team?_updTeam]; split
    · rename_i he; obtain ⟨rfl, rfl⟩ := he; cases s.team? e k <;> simp [hs]
    · rfl
  · intro e k; rw [State.team?_updTeam]; split
    · rename_i he; obtain ⟨rfl, rfl⟩ := he; cases s.team? e k <;> simp [hc]
    · rfl
  · intro e k j hp; unfold State.group?; rw [State.team?_updTeam]; split
    · rename_i he; obtain ⟨rfl, rfl⟩ := he
      cases s.team? e k with
      | none => rfl
      | some t => simp [hg t j hp]
    · rfl

theorem groupsOnly_setGroup {P : Nat → Nat → Nat → Prop} (s : State) (d h g : Nat) (x : Group) (hp : P d h g) :
    GroupsOnly P s (s.setGroup d h g x) := by
  refine groupsOnly_updTeam P s d h _ (fun _ => rfl) (fun _ => rfl) ?_
  intro t k hk
  rw [Team.group?_setGroup, if_neg]
  rintro rfl; exact hk hp

theorem groupsOnly_updGroup {P : Nat → Nat → Nat → Prop} (s : State) (d h g : Nat) (f : Group → Group) (hp : P d h g) :
    GroupsOnly P s (s.updGroup d h g f) := by
  unfold State.updGroup; split
  · exact .refl P s
  · exact groupsOnly_setGroup s d h g _ hp

theorem groupsOnly_queueTrap (P : Nat → Nat → Nat → Prop) (s : State) (d : Nat) (g : Group) (t : Trap) :
    GroupsOnly P s (queueTrap s d g t) := by
  unfold queueTrap
  split
  · exact .refl P s
  · split
    · exact .refl P s
    · split
      · exact .refl P s
      · exact groupsOnly_updDie P s g.die _ rfl

theorem groupsOnly_takeTrap {P : Nat → Nat → Nat → Prop} (s : State) (d h g i pc : Nat) (t : TrapInfo) (hp : P d h g) :
    GroupsOnly P s (takeTrap s d h g i pc t) := by
  unfold takeTrap
  split
  · exact .refl P s
  · split
    · exact .refl P s
    · exact (groupsOnly_setGroup s d h g _ hp).trans (groupsOnly_queueTrap P _ d _ _)

theorem groupsOnly_dropPathWait (P : Nat → Nat → Nat → Prop) (s : State) (c : Ctx) : GroupsOnly P s (dropPathWait s c) := by
  unfold dropPathWait; split
  · exact groupsOnly_of_teams rfl (fun _ _ => rfl)
  · exact .refl P s

theorem groupsOnly_endStep (P : Nat → Nat → Nat → Prop) (s : State) (c : Ctx) : GroupsOnly P s (endStep s c) := by
  unfold endStep; split
  · exact groupsOnly_updDie P s _ _ rfl
  · exact .refl P s

theorem groupsOnly_endRun {P : Nat → Nat → Nat → Prop} (s : State) (c : Ctx) (hp : P c.die c.handle c.grp) :
    GroupsOnly P s (endRun s c) := (groupsOnly_endStep P s c).trans (groupsOnly_updGroup _ _ _ _ _ hp)

/-- The state of a unit that has begun, before its effect. -/
def begun (u : UnitOp) (c : Ctx) (s : State) : State :=
  (({ (dropPathWait s c) with issues := s.issues + 1 } : State).setGroup c.die c.handle c.grp (startUnit s u c).g).updTeam
    c.die c.handle (fun t => { t with ir := t.ir + 1 })

theorem complete_eq (u : UnitOp) (c : Ctx) (s : State) :
    complete u c s =
      (let e := if u.uniform ∧ c.act = 0 then begun u c s else u.effect (startUnit s u c) (begun u c s)
       if u.w then e else endRun e c) := rfl

theorem groupsOnly_begun {P : Nat → Nat → Nat → Prop} (u : UnitOp) (c : Ctx) (s : State) (hp : P c.die c.handle c.grp) :
    GroupsOnly P s (begun u c s) := by
  have h1 : GroupsOnly P s { (dropPathWait s c) with issues := s.issues + 1 } :=
    (groupsOnly_dropPathWait P s c).trans (groupsOnly_of_teams rfl (fun _ _ => rfl))
  refine (h1.trans (groupsOnly_setGroup _ c.die c.handle c.grp (startUnit s u c).g hp)).trans ?_
  exact groupsOnly_updTeam P _ _ _ _ (fun _ => rfl) (fun _ => rfl) (fun _ _ _ => rfl)

/-- The unit's whole effect is on the registers of its group. -/
def OnRegs (u : UnitOp) (f : Ctx → Group → Group) : Prop := ∀ c s, u.effect c s = c.commit s (f c)

theorem groupsOnly_complete {P : Nat → Nat → Nat → Prop} {u : UnitOp} {f : Ctx → Group → Group} (hu : OnRegs u f) (c : Ctx)
    (s : State) (hp : P c.die c.handle c.grp) : GroupsOnly P s (complete u c s) := by
  rw [complete_eq]
  have h1 := groupsOnly_begun (P := P) u c s hp
  have h2 : GroupsOnly P s (if u.uniform ∧ c.act = 0 then begun u c s else u.effect (startUnit s u c) (begun u c s)) := by
    split
    · exact h1
    · rw [hu]; exact h1.trans (groupsOnly_setGroup _ _ _ _ _ hp)
  simp only
  split
  · exact h2
  · exact h2.trans (groupsOnly_endRun _ c hp)

theorem refresh_ids (c : Ctx) (s : State) :
    (c.refresh s).die = c.die ∧ (c.refresh s).handle = c.handle ∧ (c.refresh s).grp = c.grp := by
  unfold Ctx.refresh; split
  · simp
  · split <;> simp

theorem groupsOnly_mateIssue {P : Nat → Nat → Nat → Prop} {u : UnitOp} {f : Ctx → Group → Group} (hu : OnRegs u f) (c : Ctx)
    (s : State) (hp : P c.die c.handle c.grp) : GroupsOnly P s (mateIssue u s c) := by
  unfold mateIssue
  split
  · exact groupsOnly_takeTrap s _ _ _ _ _ _ hp
  · refine groupsOnly_complete hu _ s ?_
    obtain ⟨h1, h2, h3⟩ := refresh_ids c s
    rw [h1, h2, h3]; exact hp
  · exact .refl P s

theorem groupsOnly_mates {P : Nat → Nat → Nat → Prop} {u : UnitOp} {f : Ctx → Group → Group} (hu : OnRegs u f)
    (l : List Ctx) (s : State) (hp : ∀ m ∈ l, P m.die m.handle m.grp) :
    GroupsOnly P s (l.foldl (fun s m => mateIssue u s m) s) := by
  induction l generalizing s with
  | nil => exact .refl P s
  | cons m r ih =>
    exact (groupsOnly_mateIssue hu m s (hp m (by simp))).trans (ih _ (fun m hm => hp m (by simp [hm])))

theorem groupsOnly_joinRun {P : Nat → Nat → Nat → Prop} (c : Ctx) (all l : List Nat) (s : State)
    (hp : ∀ k ∈ l, P c.die c.handle k) : GroupsOnly P s (l.foldl (joinRun c all) s) := by
  induction l generalizing s with
  | nil => exact .refl P s
  | cons k r ih =>
    exact (groupsOnly_updGroup s c.die c.handle k _ (hp k (by simp))).trans (ih _ (fun j hj => hp j (by simp [hj])))

/-! The context of the issuer. -/

theorem mkCtx_ids {s : State} {i : Issuer} {h : Hdr} {c : Ctx} (e : mkCtx s i h = some c) :
    c.die = i.die ∧ c.handle = i.handle ∧ c.grp = i.grp ∧ c.slot = i.slot := by
  unfold mkCtx at e
  split at e
  · cases e
  · split at e
    · cases e
    · split at e
      · cases e
      · cases e; exact ⟨rfl, rfl, rfl, rfl⟩

theorem mkCtx_team {s : State} {i : Issuer} {h : Hdr} {c : Ctx} (e : mkCtx s i h = some c) :
    s.team? c.die c.handle = some c.team ∧ c.team.group? c.grp = some c.g ∧ c.g.slotOf c.slot = some c.x := by
  unfold mkCtx at e
  split at e
  · cases e
  · split at e
    · cases e
    · split at e
      · cases e
      · rename_i t ht _ g hg _ x hx; cases e; exact ⟨ht, hg, hx⟩

theorem packMates_ids {c : Ctx} {i : Issuer} (h : i ∈ packMates c) : i.die = c.die ∧ i.handle = c.handle ∧ i.grp ≠ c.grp := by
  unfold packMates at h
  split at h
  · simp at h
  · simp only [List.mem_filterMap] at h
    obtain ⟨g, -, h⟩ := h
    split at h
    · cases h
    · rename_i hn
      simp only [Option.map_eq_some_iff] at h
      obtain ⟨j, -, rfl⟩ := h
      exact ⟨rfl, rfl, fun e => hn (.inl e)⟩

/-! The price. -/

/-- t differs from s in memory and in the energy counters that cores hold, and in nothing else. -/
def MemOnly (s t : State) : Prop :=
  t = { s with hbm := t.hbm, hbmTags := t.hbmTags, hbmPoison := t.hbmPoison, far := t.far, coreEnergy := t.coreEnergy }

theorem MemOnly.trans {s t u : State} (h1 : MemOnly s t) (h2 : MemOnly t u) : MemOnly s u := by
  unfold MemOnly at *; rw [h1] at h2; exact h2

theorem memOnly_wrHome (s : State) (a : Nat) (b : Byte) : MemOnly s (wrHome s a b) := by
  unfold wrHome; split <;> rfl

theorem memOnly_wrHomes (bs : List Byte) (s : State) (a : Nat) : MemOnly s (wrHomes s a bs) := by
  induction bs generalizing s a with
  | nil => rfl
  | cons b r ih => exact (memOnly_wrHome s a b).trans (ih _ _)

theorem memOnly_charge (s : State) (x k n : Nat) : MemOnly s (charge s x k n) := by
  unfold charge writeEnergy
  split
  · rfl
  · split
    · rfl
    · exact memOnly_wrHomes _ s _

theorem charge_dies (s : State) (x k n : Nat) : (charge s x k n).dies = s.dies := by
  have h := congrArg State.dies (memOnly_charge s x k n)
  exact h

/-- Every byte but the energy counter's is as before. -/
theorem charge_homeByte (s : State) (x k n a : Nat) (ha : ∀ j < 8, a ≠ (readCtx s x).svbase + 8 * k + j) :
    homeByte (charge s x k n) a = homeByte s a := by
  unfold charge writeEnergy
  split
  · rfl
  · split
    · rfl
    · exact homeByte_wrHomeNat s _ _ _ _ ha

theorem payIssue_team? (s : State) (c : Ctx) (p d h : Nat) : (payIssue s c p).team? d h = s.team? d h := by
  unfold payIssue
  split
  · rfl
  · unfold State.team? State.die
    rw [charge_dies]
    exact State.team?_setPair s _ _ _ d h

theorem readCtx_setPair (s : State) (d p : Nat) (x : Pair) (k : Nat) : readCtx (s.setPair d p x) k = readCtx s k := rfl

/-- What a price leaves (R174, R335). -/
theorem payIssue_rest (s : State) (c : Ctx) (p : Nat) :
    let t := payIssue s c p
    t = { s with hbm := t.hbm, hbmTags := t.hbmTags, hbmPoison := t.hbmPoison, far := t.far, coreEnergy := t.coreEnergy,
                 dies := t.dies } ∧
    (∀ a, (∀ k < 8, a ≠ counterAddr s c + k) → homeByte t a = homeByte s a) := by
  unfold payIssue
  split
  · exact ⟨rfl, fun _ _ => rfl⟩
  · refine ⟨?_, ?_⟩
    · have h := memOnly_charge (s.setPair c.g.die (c.g.core / 2)
        { s.pair c.g.die (c.g.core / 2) with purse := (s.pair c.g.die (c.g.core / 2)).purse - p }) c.team.ctx c.core p
      have hd := charge_dies (s.setPair c.g.die (c.g.core / 2)
        { s.pair c.g.die (c.g.core / 2) with purse := (s.pair c.g.die (c.g.core / 2)).purse - p }) c.team.ctx c.core p
      simp only
      rw [hd]; exact h
    · intro a ha
      rw [charge_homeByte]
      · rfl
      · intro j hj; rw [readCtx_setPair]; exact ha j hj

/-! A unit that is performed. -/

theorem rowsClear_gates {c : Ctx} {u : UnitOp} (h : rowsClear c u.h u.w u.refs u.ret = true) :
    windowGate c u.refs = .go ∧ staleGate c u.refs = .go ∧ longrunGate c u.w = .go ∧ softGate c u = .go := by
  simp only [rowsClear, Bool.and_eq_true, List.all_eq_true, decide_eq_true_eq, Bool.not_eq_true', Bool.and_eq_false_imp] at h
  obtain ⟨⟨⟨h1, h2⟩, h3⟩, h4⟩ := h
  refine ⟨?_, ?_, ?_, ?_⟩
  · unfold windowGate
    rw [List.find?_eq_none.2]
    intro i hi; have := h1 i hi; simp; omega
  · unfold staleGate
    rw [List.find?_eq_none.2]
    intro j hj; simp [h2 j hj]
  · unfold longrunGate
    split
    · rename_i r hr; rw [hr] at h3; split
      · rename_i hw; have := h3 hw.1; simp at this; omega
      · rfl
    · rfl
  · unfold softGate
    have : softHit c u = softHit c { h := u.h, refs := u.refs, ret := u.ret } := rfl
    rw [this]
    simp only [Option.isNone_iff_eq_none] at h4
    rw [h4]

theorem verdict_go {c : Ctx} {s : State} {u : UnitOp} (hrow : u.row3 c s = none)
    (hr : rowsClear c u.h u.w u.refs u.ret = true) (hg : (u.uniform = true ∧ c.act = 0) ∨ u.gate c s = .go) :
    verdict u c s = .go := by
  obtain ⟨h1, h2, h3, h4⟩ := rowsClear_gates hr
  unfold verdict
  rw [hrow, h1, h2, h3, h4]
  simp only [Gate.both]
  split
  · rfl
  · rename_i hn; rcases hg with hg | hg
    · exact absurd hg hn
    · exact hg

/-- The mates that are issued with a unit. -/
def matesOf (u : UnitOp) (c : Ctx) (s : State) : List Ctx := (mateCtxs u c s).filter (fun m => mateReady u m s)

/-- The run that a packed issue begins stays together. -/
def joined (u : UnitOp) (c : Ctx) (ms : List Ctx) (s : State) : State :=
  if ms.isEmpty ∨ !u.w then s else (c.grp :: ms.map (·.grp)).foldl (joinRun c (c.grp :: ms.map (·.grp))) s

/-- A unit that is performed: the price, the packed mates, and the unit itself. -/
theorem issue_performed {u : UnitOp} {s : State} {c : Ctx} (hc : issuerCtx s u.h = some c)
    (hm : mayPerform s c u.h u.w u.refs u.price u.ret = true) (hrow : u.row3 c s = none)
    (hg : (u.uniform = true ∧ c.act = 0) ∨ u.gate c s = .go) (hl : lateMate u c s = none) :
    issue u s = .next (
      let t := (matesOf u c s).foldl (fun s m => mateIssue u s m) (payIssue s c u.price)
      joined u c (matesOf u c s) (complete u (c.refresh t) t)) := by
  unfold issuerCtx at hc
  simp only [mayPerform, Bool.and_eq_true, Bool.not_eq_true'] at hm
  obtain ⟨⟨⟨⟨h1, h2⟩, -⟩, h3⟩, h4⟩ := hm
  obtain ⟨i, hi, hk⟩ := Option.bind_eq_some_iff.1 hc
  unfold issue
  rw [hi]
  simp only [hk]
  unfold issueUnit
  rw [h1, h2, h3, verdict_go hrow h4 hg]
  simp [hl, matesOf, joined]

/-- A unit whose gates let every group go on waits for no packed group but one with a register or scalar pending. -/
theorem lateMate_none {u : UnitOp} {s : State} {c : Ctx} (hp : packReady s c u.h u.refs = true)
    (hg : ∀ m s, ∃ t : Gate, verdict u m s = t ∧ (t = .go ∨ ∃ x, t = .trap x)) : lateMate u c s = none := by
  unfold packReady at hp
  unfold lateMate
  split
  · rename_i hr
    rw [List.find?_eq_none]
    intro m hm
    obtain ⟨i, hi, hk⟩ := List.mem_filterMap.1 hm
    have hn : c.g.run.isNone = false := by cases h : c.g.run <;> simp_all
    rw [hn, Bool.false_or, List.all_eq_true] at hp
    have := hp i hi
    rw [hk] at this
    obtain ⟨t, ht, hgo⟩ := hg m s
    unfold mateReady
    rw [ht]
    rcases hgo with rfl | ⟨x, rfl⟩ <;> simp_all
  · rfl

/-- The verdict of a unit with no misuse of its own and no gate: a row traps, or it goes on. -/
theorem verdict_plain {u : UnitOp} (hrow : ∀ c s, u.row3 c s = none) (hg : ∀ c s, u.gate c s = .go) (m : Ctx) (s : State) :
    ∃ t : Gate, verdict u m s = t ∧ (t = .go ∨ ∃ x, t = .trap x) := by
  refine ⟨_, rfl, ?_⟩
  have two : ∀ (a : Gate) (f : Unit → Gate), (a = .go ∨ ∃ x, a = .trap x) → (f () = .go ∨ ∃ x, f () = .trap x) →
      (a.both f = .go ∨ ∃ x, a.both f = .trap x) := by
    rintro a f (rfl | ⟨x, rfl⟩) h
    · exact h
    · exact .inr ⟨x, rfl⟩
  unfold verdict
  refine two _ _ ?_ (two _ _ ?_ (two _ _ ?_ (two _ _ ?_ (two _ _ ?_ ?_))))
  · rw [hrow]; exact .inl rfl
  · unfold windowGate; split <;> simp
  · unfold staleGate; split <;> simp
  · unfold longrunGate; split
    · split <;> simp
    · simp
  · unfold softGate; split <;> simp
  · split
    · exact .inl rfl
    · exact .inl (hg _ _)

/-- A group alone: the price and the unit itself. -/
theorem issue_alone {u : UnitOp} {s : State} {c : Ctx} (hc : issuerCtx s u.h = some c)
    (hm : mayPerform s c u.h u.w u.refs u.price u.ret = true) (ha : c.alone = true) (hrow : u.row3 c s = none)
    (hg : (u.uniform = true ∧ c.act = 0) ∨ u.gate c s = .go) :
    issue u s = .next (complete u (c.refresh (payIssue s c u.price)) (payIssue s c u.price)) := by
  have : packMates c = [] := by simpa [Ctx.alone] using ha
  rw [issue_performed hc hm hrow hg (by simp [lateMate, mateCtxs, this])]
  simp [matesOf, mateCtxs, joined, this]

theorem issuerCtx_mk {s : State} {h : Hdr} {c : Ctx} (e : issuerCtx s h = some c) : ∃ i, mkCtx s i h = some c := by
  obtain ⟨i, -, hi⟩ := Option.bind_eq_some_iff.1 e
  exact ⟨i, hi⟩

/-- The context after packed mates that change their own groups alone. -/
theorem refresh_eq {c : Ctx} {s : State} {t : Team} (ht : s.team? c.die c.handle = some t) (hg : t.group? c.grp = some c.g) :
    c.refresh s = { c with team := t } := by
  unfold Ctx.refresh; rw [ht]; simp only; rw [hg]

/-! The group after a unit on its registers. -/

/-- The registers that no end of a run changes. -/
def SameRegs (a b : Group) : Prop :=
  a.vregs = b.vregs ∧ a.scalars = b.scalars ∧ a.masks = b.masks ∧ a.caps = b.caps ∧ a.wb = b.wb ∧ a.fflags = b.fflags

theorem SameRegs.refl (g : Group) : SameRegs g g := ⟨rfl, rfl, rfl, rfl, rfl, rfl⟩
theorem SameRegs.trans {a b c : Group} (h1 : SameRegs a b) (h2 : SameRegs b c) : SameRegs a c :=
  ⟨h1.1.trans h2.1, h1.2.1.trans h2.2.1, h1.2.2.1.trans h2.2.2.1, h1.2.2.2.1.trans h2.2.2.2.1,
   h1.2.2.2.2.1.trans h2.2.2.2.2.1, h1.2.2.2.2.2.trans h2.2.2.2.2.2⟩

/-- A change of a group's splits alone. -/
def SplitsOnly (a b : Group) : Prop := a = { b with s0 := a.s0, s1 := a.s1, queue := a.queue }

theorem SplitsOnly.refl (g : Group) : SplitsOnly g g := rfl
theorem SplitsOnly.trans {a b c : Group} (h1 : SplitsOnly a b) (h2 : SplitsOnly b c) : SplitsOnly a c := by
  unfold SplitsOnly at *; rw [h2] at h1; exact h1

theorem splitsOnly_putSlot (g : Group) (i : Nat) (x : Option Split) : SplitsOnly (g.putSlot i x) g := by
  unfold Group.putSlot; split <;> rfl

theorem splitsOnly_toQueue (g : Group) (x : Split) : SplitsOnly (g.toQueue x) g := rfl

theorem splitsOnly_leave (g : Group) (i : Nat) : SplitsOnly (g.leave i) g := by
  unfold Group.leave
  split
  · rfl
  · split
    · rfl
    · split
      · rfl
      · exact .trans (splitsOnly_toQueue _ _) (splitsOnly_putSlot g i none)

theorem splitsOnly_refill (g : Group) (i : Nat) : SplitsOnly (g.refill i) g := by
  unfold Group.refill
  split
  · rfl
  · split
    · rfl
    · rename_i x r h; exact .trans (b := g.putSlot i (some { x with issued := 0 })) rfl (splitsOnly_putSlot g i _)

theorem splitsOnly_settle (g : Group) : SplitsOnly g.settle g :=
  .trans (splitsOnly_refill _ 1) (.trans (splitsOnly_refill _ 0) (.trans (splitsOnly_leave _ 1) (splitsOnly_leave g 0)))

theorem splitsOnly_rotate (g : Group) (i : Nat) : SplitsOnly (g.rotate i) g := by
  unfold Group.rotate
  split
  · rfl
  · simp only; split
    · exact .trans (splitsOnly_toQueue _ _) (splitsOnly_putSlot g i none)
    · exact splitsOnly_putSlot g i _

theorem SplitsOnly.regs {a b : Group} (h : SplitsOnly a b) :
    SameRegs a b ∧ a.latches = b.latches ∧ a.latchValid = b.latchValid ∧ a.run = b.run := by
  unfold SplitsOnly at h; rw [h]; exact ⟨.refl _, rfl, rfl, rfl⟩

theorem splitsOnly_restStops (g : Group) (i : Nat) : SplitsOnly (g.restStops i) g := by
  unfold Group.restStops
  split
  · split
    · exact .trans (splitsOnly_settle _) (.trans (splitsOnly_toQueue _ _) (splitsOnly_putSlot g i none))
    · rfl
  · rfl

theorem splitsOnly_endStops (g : Group) : SplitsOnly g.endStops g := by
  unfold Group.endStops
  split
  · exact .trans (splitsOnly_restStops _ _) (.trans (b := (g.leave 0).leave 1) rfl (.trans (splitsOnly_leave _ 1) (splitsOnly_leave g 0)))
  · rfl

/-- What the end of a run leaves of its group. -/
theorem endRun_group {s : State} {c : Ctx} {g : Group} (h : s.group? c.die c.handle c.grp = some g) :
    ∃ g', (endRun s c).group? c.die c.handle c.grp = some g' ∧ SplitsOnly g' (latchesClear g) := by
  have h1 : (endStep s c).group? c.die c.handle c.grp = some g := by
    unfold endStep; split
    · exact (State.group?_of_team (State.team?_updDie _ _ _ rfl _ _)).trans h
    · exact h
  refine ⟨(((latchesClear g).endStops).rotate c.slot).settle, ?_,
    .trans (splitsOnly_settle _) (.trans (splitsOnly_rotate _ _) (splitsOnly_endStops _))⟩
  have ht : ((endStep s c).team? c.die c.handle).isSome := by
    unfold State.group? at h1; cases h' : (endStep s c).team? c.die c.handle <;> simp_all
  unfold endRun State.updGroup; rw [h1]; simp only; rw [State.group?_setGroup, if_pos ⟨rfl, rfl, rfl, ht⟩]

/-- A change of the groups that stand packed with a group's run alone. -/
def PackOnly (a b : Group) : Prop := a = { b with run := a.run } ∧ a.run.isSome = b.run.isSome

theorem PackOnly.refl (g : Group) : PackOnly g g := ⟨rfl, rfl⟩
theorem PackOnly.trans {a b c : Group} (h1 : PackOnly a b) (h2 : PackOnly b c) : PackOnly a c := by
  obtain ⟨h1, k1⟩ := h1; obtain ⟨h2, k2⟩ := h2
  rw [h2] at h1; exact ⟨h1, k1.trans k2⟩

/-- What the packing of a run leaves of a group. -/
theorem joinRun_group (c : Ctx) (all l : List Nat) {s : State} {g : Group} (h : s.group? c.die c.handle c.grp = some g) :
    ∃ g', (l.foldl (joinRun c all) s).group? c.die c.handle c.grp = some g' ∧ PackOnly g' g := by
  induction l generalizing s g with
  | nil => exact ⟨g, h, .refl g⟩
  | cons k r ih =>
    have ht : (s.team? c.die c.handle).isSome := by
      unfold State.group? at h; cases h' : s.team? c.die c.handle <;> simp_all
    have : ∃ g1, (joinRun c all s k).group? c.die c.handle c.grp = some g1 ∧ PackOnly g1 g := by
      unfold joinRun State.updGroup
      by_cases hk : k = c.grp
      · subst hk
        rw [h]; simp only; rw [State.group?_setGroup, if_pos ⟨rfl, rfl, rfl, ht⟩]
        refine ⟨_, rfl, rfl, ?_⟩
        cases g.run <;> simp
      · split
        · exact ⟨g, h, .refl g⟩
        · rw [State.group?_setGroup, if_neg (fun e => hk e.2.2.1.symm)]
          exact ⟨g, h, .refl g⟩
    obtain ⟨g1, h1, p1⟩ := this
    obtain ⟨g2, h2, p2⟩ := ih h1
    exact ⟨g2, h2, p2.trans p1⟩

theorem groupsOnly_joined {P : Nat → Nat → Nat → Prop} (u : UnitOp) (c : Ctx) (ms : List Ctx) (s : State)
    (hp : P c.die c.handle c.grp) (hm : ∀ m ∈ ms, P c.die c.handle m.grp) : GroupsOnly P s (joined u c ms s) := by
  unfold joined
  split
  · exact .refl P s
  · refine groupsOnly_joinRun c _ _ s ?_
    intro k hk
    simp only [List.mem_cons, List.mem_map] at hk
    rcases hk with rfl | ⟨m, h, rfl⟩
    · exact hp
    · exact hm m h

/-- The group after a packed issue: in an open run only the groups that stand packed with it have been noted. -/
theorem joined_group (u : UnitOp) (c : Ctx) (ms : List Ctx) {s : State} {g : Group} (h : s.group? c.die c.handle c.grp = some g) :
    ∃ g', (joined u c ms s).group? c.die c.handle c.grp = some g' ∧ if u.w then PackOnly g' g else g' = g := by
  unfold joined
  by_cases hw : u.w = true
  · simp only [hw, if_true]
    split
    · exact ⟨g, h, .refl g⟩
    · exact joinRun_group c _ _ h
  · simp only [hw, if_false, Bool.false_eq_true]
    exact ⟨g, by simpa using h, rfl⟩

theorem begun_group {s : State} {c : Ctx} (u : UnitOp) (ht : (s.team? c.die c.handle).isSome) :
    (begun u c s).group? c.die c.handle c.grp = some (startUnit s u c).g := by
  unfold begun
  refine (State.group?_updTeam _ _ _ (fun t => { t with ir := t.ir + 1 }) (fun _ => rfl) _ _ _).trans
    ((State.group?_setGroup _ _ _ _ _ _ _ _).trans (if_pos ⟨rfl, rfl, rfl, ?_⟩))
  unfold dropPathWait; split <;> exact ht

/-- The group of a unit on its registers, after it: what its effect gives, and at the end of a run no latch. -/
theorem complete_group {u : UnitOp} {f : Ctx → Group → Group} (hu : OnRegs u f) {s : State} {c : Ctx}
    (ht : (s.team? c.die c.handle).isSome) :
    let g := if u.uniform ∧ c.act = 0 then (startUnit s u c).g else f (startUnit s u c) (startUnit s u c).g
    ∃ g', (complete u c s).group? c.die c.handle c.grp = some g' ∧
      if u.w then g' = g else SplitsOnly g' (latchesClear g) := by
  have hb : ((begun u c s).team? c.die c.handle).isSome := by
    have := begun_group u ht
    unfold State.group? at this
    cases h' : (begun u c s).team? c.die c.handle <;> simp_all
  have e : ∀ e, (if u.uniform ∧ c.act = 0 then begun u c s else u.effect (startUnit s u c) (begun u c s)) = e →
      e.group? c.die c.handle c.grp =
      some (if u.uniform ∧ c.act = 0 then (startUnit s u c).g else f (startUnit s u c) (startUnit s u c).g) := by
    rintro _ rfl
    split
    · exact begun_group u ht
    · rw [hu]
      show ((begun u c s).setGroup c.die c.handle c.grp _).group? c.die c.handle c.grp = _
      rw [State.group?_setGroup, if_pos ⟨rfl, rfl, rfl, hb⟩]
  rw [complete_eq]
  simp only
  by_cases hw : u.w = true
  · simp only [hw, if_true]
    exact ⟨_, e _ rfl, rfl⟩
  · simp only [hw, if_false, Bool.false_eq_true]
    obtain ⟨g', h1, h2⟩ := endRun_group (c := c) (e _ rfl)
    exact ⟨g', h1, h2⟩

/-- A unit on its group's registers that is performed: it completes, c' is its context as it takes effect, g its effect, and
everything outside its group and its packed mates is as before. -/
theorem issue_regs {u : UnitOp} {f : Ctx → Group → Group} (hu : OnRegs u f) {s : State} {c : Ctx}
    (hc : issuerCtx s u.h = some c) (hm : mayPerform s c u.h u.w u.refs u.price u.ret = true) (hrow : ∀ c s, u.row3 c s = none)
    (hg : ∀ c s, u.gate c s = .go) :
    ∃ t g' s' m, issue u s = .next t ∧ t.group? c.die c.handle c.grp = some g' ∧ RestKept s t c ∧
      (let c' := startUnit s' u { c with team := m }
       let g := if u.uniform ∧ c.act = 0 then c'.g else f c' c'.g
       if u.w then PackOnly g' g else SplitsOnly g' (latchesClear g)) := by
  obtain ⟨i, hi⟩ := issuerCtx_mk hc
  obtain ⟨hteam, hgrp, -⟩ := mkCtx_team hi
  let P : Nat → Nat → Nat → Prop := fun d h k => (d, h) = (c.die, c.handle) ∧ ∃ m ∈ packMates c, m.grp = k
  let s1 := payIssue s c u.price
  let s2 := (matesOf u c s).foldl (fun s m => mateIssue u s m) s1
  have hmates : ∀ m ∈ matesOf u c s, P m.die m.handle m.grp ∧ m.die = c.die ∧ m.handle = c.handle := by
    intro m hm
    simp only [matesOf, mateCtxs, List.mem_filter, List.mem_filterMap] at hm
    obtain ⟨⟨j, hj, hk⟩, -⟩ := hm
    obtain ⟨e1, e2, e3, -⟩ := mkCtx_ids hk
    obtain ⟨d1, d2, -⟩ := packMates_ids hj
    exact ⟨⟨by rw [e1, e2, d1, d2], j, hj, e3.symm⟩, e1.trans d1, e2.trans d2⟩
  have q12 : GroupsOnly P s1 s2 := groupsOnly_mates hu _ _ (fun m hm => (hmates m hm).1)
  have hown : ¬P c.die c.handle c.grp := by
    rintro ⟨-, m, hm, hk⟩; exact (packMates_ids hm).2.2 hk
  have ht1 : ∀ d h, s1.team? d h = s.team? d h := payIssue_team? s c u.price
  have hg2 : s2.group? c.die c.handle c.grp = some c.g := by
    rw [q12.2.2.2 _ _ _ hown, State.group?_of_team (ht1 _ _)]
    unfold State.group?; rw [hteam]; exact hgrp
  obtain ⟨m, hm2, hmg⟩ : ∃ m, s2.team? c.die c.handle = some m ∧ m.group? c.grp = some c.g := by
    unfold State.group? at hg2
    cases h' : s2.team? c.die c.handle with
    | none => simp [h'] at hg2
    | some m => exact ⟨m, rfl, by simpa [h'] using hg2⟩
  let Q : Nat → Nat → Nat → Prop := fun d h k => P d h k ∨ (d = c.die ∧ h = c.handle ∧ k = c.grp)
  have hr : c.refresh s2 = { c with team := m } := refresh_eq hm2 hmg
  obtain ⟨g', hg', hres⟩ := complete_group hu (s := s2) (c := { c with team := m }) (by simp [hm2])
  have q23 : GroupsOnly Q s2 (complete u { c with team := m } s2) := groupsOnly_complete hu _ s2 (.inr ⟨rfl, rfl, rfl⟩)
  have q34 : GroupsOnly Q (complete u { c with team := m } s2) (joined u c (matesOf u c s) (complete u { c with team := m } s2)) :=
    groupsOnly_joined u c _ _ (.inr ⟨rfl, rfl, rfl⟩) (fun m hm => .inl (by
      obtain ⟨h1, h2, h3⟩ := hmates m hm; rw [h2, h3] at h1; exact h1))
  have q13 : GroupsOnly Q s1 (joined u c (matesOf u c s) (complete u { c with team := m } s2)) :=
    (q12.mono (fun _ _ _ h => .inl h)).trans (q23.trans q34)
  obtain ⟨g'', hg'', hj⟩ := joined_group u c (matesOf u c s) hg'
  refine ⟨_, g'', s2, m, issue_performed hc hm (hrow _ _) (.inr (hg _ _)) (lateMate_none ?_ (verdict_plain hrow hg)), ?_, ?_, ?_⟩
  · simp only [mayPerform, Bool.and_eq_true] at hm; exact hm.1.1.2
  · show (joined u c _ (complete u (c.refresh s2) s2)).group? _ _ _ = _
    rw [hr]; exact hg''
  rotate_left
  · by_cases hw : u.w = true
    · simp only [hw, if_true] at hres hj ⊢
      rw [← hres]; exact hj
    · simp only [hw, if_false, Bool.false_eq_true] at hres hj ⊢
      rw [hj]; exact hres
  · show RestKept s (joined u c _ (complete u (c.refresh s2) s2)) c
    rw [hr]
    obtain ⟨p1, p2⟩ := payIssue_rest s c u.price
    obtain ⟨k1, k2, -, k4⟩ := q13
    generalize joined u c (matesOf u c s) (complete u { c with team := m } s2) = t at *
    have field : ∀ {α : Type} (F : State → α), F t = F { s1 with dies := t.dies, issues := t.issues, paths := t.paths } :=
      fun F => congrArg F k1
    have hb : ∀ a, homeByte t a = homeByte s1 a := by
      intro a; rw [field (homeByte · a)]; rfl
    have field1 : ∀ {α : Type} (F : State → α), F s1 = F { s with
        hbm := s1.hbm, hbmTags := s1.hbmTags, hbmPoison := s1.hbmPoison, far := s1.far, coreEnergy := s1.coreEnergy,
        dies := s1.dies } := fun F => congrArg F p1
    refine ⟨fun a ha => (hb a).trans (p2 a ha), ?_, ?_, ?_, ?_, ?_, ?_, ?_, ?_, ?_, ?_, ?_, ?_⟩
    · rw [field State.host]; exact field1 State.host
    · rw [field State.lines]; exact field1 State.lines
    · rw [field State.grids]; exact field1 State.grids
    · rw [field State.deckles]; exact field1 State.deckles
    · rw [field State.holds]; exact field1 State.holds
    · rw [field State.ownOps]; exact field1 State.ownOps
    · rw [field State.engines]; exact field1 State.engines
    · rw [field State.mreg]; exact field1 State.mreg
    · rw [field State.queues]; exact field1 State.queues
    · rw [field State.coreEvents]; exact field1 State.coreEvents
    · intro d h; rw [k2, ht1]
    · intro d h k hk
      rw [k4, State.group?_of_team (ht1 _ _)]
      rintro (⟨e, m', hm', hmk⟩ | ⟨rfl, rfl, rfl⟩)
      · rcases hk with hk | hk
        · exact hk e
        · exact hk.2 m' hm' hmk
      · rcases hk with hk | hk
        · exact hk rfl
        · exact hk.1 rfl

end Sys2Proof.Machine
end

