-- ==== Sys2Proof/Laws/Results.lean ====
section
/-! SUPPORT. What a result leaves in the registers and latches of a group, and what a unit reads as it takes effect. -/
namespace Sys2Proof.Machine

/-! Lanes. -/

theorem mem_lanes {c : Ctx} {l : Nat} : l ∈ c.lanes ↔ l < c.g.width ∧ mbit c.act l = true := by
  simp [Ctx.lanes, upto]

theorem lane_lt {c : Ctx} {l : Nat} (h : l ∈ c.lanes) : l < 128 := by
  have := (mem_lanes.1 h).2
  by_contra hl
  rw [mbit, BitVec.getLsbD_of_ge _ _ (by omega)] at this
  cases this

/-! One word. -/

theorem readReg_writeReg (g : Group) (r q l m v : Nat) (hl : l < 128) (hm : m < 128) :
    readReg (writeReg g q m v) r l = if r = q ∧ l = m then v % 2 ^ 32 else readReg g r l := by
  unfold readReg writeReg
  simp only [tget_tset]
  by_cases h : r = q ∧ l = m
  · obtain ⟨rfl, rfl⟩ := h; simp
  · rw [if_neg h, if_neg]; omega

theorem readLatch_writeLatch (g : Group) (r q l m v : Nat) (hl : l < 128) (hm : m < 128) :
    readLatch (writeLatch g q m v) r l = if r = q ∧ l = m then v % 2 ^ 32 else readLatch g r l := by
  unfold readLatch writeLatch
  simp only [tget_tset]
  by_cases h : r = q ∧ l = m
  · obtain ⟨rfl, rfl⟩ := h; simp
  · rw [if_neg h, if_neg]; omega

@[simp] theorem readLatch_writeReg (g : Group) (r q l m v : Nat) : readLatch (writeReg g q m v) r l = readLatch g r l := rfl
@[simp] theorem readReg_writeLatch (g : Group) (r q l m v : Nat) : readReg (writeLatch g q m v) r l = readReg g r l := rfl

/-- The destination of n words writes register r of the allocation. -/
def dstCovers (d : Dst) (wb n r : Nat) : Bool :=
  match d with
  | .v q false => decide (wb + q ≤ r) && decide (r - (wb + q) < n)
  | _ => false

/-- Which of its words register r holds. -/
def dstIndex (d : Dst) (wb r : Nat) : Nat :=
  match d with
  | .v q _ => r - (wb + q)
  | .y _ => 0

/-- Word i of the destination is register r. -/
def dstIs (d : Dst) (wb i r : Nat) : Bool :=
  match d with
  | .v q false => decide (r = wb + q + i)
  | _ => false

theorem dstCovers_succ (d : Dst) (wb n r : Nat) : dstCovers d wb (n + 1) r = (dstCovers d wb n r || dstIs d wb n r) := by
  unfold dstCovers dstIs
  match d with
  | .v q false =>
    simp only [← Bool.decide_and, ← Bool.decide_or]
    congr 1; apply propext; omega
  | .v q true => rfl
  | .y j => rfl

theorem dstIs_index {d : Dst} {wb n r : Nat} (h : dstIs d wb n r = true) : dstIndex d wb r = n ∧ dstCovers d wb n r = false := by
  unfold dstIs at h
  match d with
  | .v q false => simp at h; subst h; simp [dstIndex, dstCovers]
  | .v q true => simp at h
  | .y j => simp at h

theorem readReg_putWord (g : Group) (wb : Nat) (d : Dst) (i m v r l : Nat) (hl : l < 128) (hm : m < 128) :
    readReg (putWord g wb d i m v) r l =
      if dstIs d wb i r ∧ l = m then v % 2 ^ 32 else readReg g r l := by
  unfold putWord
  rw [readReg_writeLatch]
  match d with
  | .v q false => simp [readReg_writeReg _ _ _ _ _ _ hl hm, dstIs]
  | .v q true => simp [dstIs]
  | .y j => simp [dstIs]

theorem readLatch_putWord (g : Group) (wb : Nat) (d : Dst) (i m v j l : Nat) (hl : l < 128) (hm : m < 128) :
    readLatch (putWord g wb d i m v) j l = if j = dstLatch d + i ∧ l = m then v % 2 ^ 32 else readLatch g j l := by
  unfold putWord
  rw [readLatch_writeLatch _ _ _ _ _ _ hl hm]
  match d with
  | .v q false => rfl
  | .v q true => rfl
  | .y j => rfl

/-- The fields of a group other than its vector registers and latches. -/
def SameOthers (a b : Group) : Prop := a = { b with vregs := a.vregs, latches := a.latches, latchValid := a.latchValid }

theorem SameOthers.refl (g : Group) : SameOthers g g := rfl
theorem SameOthers.trans {a b c : Group} (h1 : SameOthers a b) (h2 : SameOthers b c) : SameOthers a c := by
  unfold SameOthers at *; rw [h2] at h1; exact h1

theorem sameOthers_putWord (g : Group) (wb : Nat) (d : Dst) (i l v : Nat) :
    SameOthers (putWord g wb d i l v) g ∧ (putWord g wb d i l v).latchValid = g.latchValid := by
  unfold putWord
  match d with
  | .v q false => exact ⟨rfl, rfl⟩
  | .v q true => exact ⟨rfl, rfl⟩
  | .y j => exact ⟨rfl, rfl⟩

/-! The words of one lane, and of every lane. -/

theorem putWords_spec (g : Group) (wb : Nat) (d : Dst) (m : Nat) (hm : m < 128) (F : Nat → Nat) (n : Nat) :
    let G := (upto n).foldl (fun g i => putWord g wb d i m (F i)) g
    (∀ r l, l < 128 → readReg G r l =
      if dstCovers d wb n r ∧ l = m then F (dstIndex d wb r) % 2 ^ 32 else readReg g r l) ∧
    (∀ j l, l < 128 → readLatch G j l =
      if (dstLatch d ≤ j ∧ j - dstLatch d < n) ∧ l = m then F (j - dstLatch d) % 2 ^ 32 else readLatch g j l) ∧
    SameOthers G g ∧ G.latchValid = g.latchValid := by
  induction n with
  | zero =>
    refine ⟨fun r l _ => ?_, fun j l _ => ?_, rfl, rfl⟩
    · have : dstCovers d wb 0 r = false := by unfold dstCovers; split <;> simp
      simp [upto, this]
    · simp [upto]
  | succ n ih =>
    obtain ⟨h1, h2, h3, h4⟩ := ih
    have e : upto (n + 1) = upto n ++ [n] := List.range_succ
    simp only [e, List.foldl_append, List.foldl_cons, List.foldl_nil]
    generalize (upto n).foldl (fun g i => putWord g wb d i m (F i)) g = G at *
    refine ⟨fun r l hl => ?_, fun j l hl => ?_, (sameOthers_putWord _ _ _ _ _ _).1.trans h3,
      (sameOthers_putWord _ _ _ _ _ _).2.trans h4⟩
    · rw [readReg_putWord _ _ _ _ _ _ _ _ hl hm, h1 r l hl]
      rw [dstCovers_succ]
      by_cases hr : dstIs d wb n r = true
      · obtain ⟨hi, hc⟩ := dstIs_index hr
        simp [hr, hi, hc]
      · simp [hr]
    · rw [readLatch_putWord _ _ _ _ _ _ _ _ hl hm, h2 j l hl]
      by_cases hr : j = dstLatch d + n ∧ l = m
      · obtain ⟨hr, rfl⟩ := hr
        rw [if_pos ⟨hr, rfl⟩, if_pos ⟨⟨by omega, by omega⟩, rfl⟩]
        congr 2; omega
      · rw [if_neg hr]
        by_cases hk : (dstLatch d ≤ j ∧ j - dstLatch d < n) ∧ l = m
        · rw [if_pos hk, if_pos ⟨⟨hk.1.1, by omega⟩, hk.2⟩]
        · rw [if_neg hk, if_neg]
          rintro ⟨⟨ha, hb⟩, rfl⟩
          by_cases hn : j - dstLatch d = n
          · exact hr ⟨by omega, rfl⟩
          · exact hk ⟨⟨ha, by omega⟩, rfl⟩

theorem putLanes_spec (g : Group) (wb : Nat) (d : Dst) (n : Nat) (f : Nat → Nat) (L : List Nat) (hL : ∀ m ∈ L, m < 128) :
    let G := L.foldl (fun g m => (upto n).foldl (fun g i => putWord g wb d i m (f m / 2 ^ (32 * i) % 2 ^ 32)) g) g
    (∀ r l, l < 128 → readReg G r l =
      if dstCovers d wb n r ∧ l ∈ L then f l / 2 ^ (32 * (dstIndex d wb r)) % 2 ^ 32
      else readReg g r l) ∧
    (∀ j l, l < 128 → readLatch G j l =
      if (dstLatch d ≤ j ∧ j - dstLatch d < n) ∧ l ∈ L then f l / 2 ^ (32 * (j - dstLatch d)) % 2 ^ 32 else readLatch g j l) ∧
    SameOthers G g ∧ G.latchValid = g.latchValid := by
  induction L generalizing g with
  | nil => exact ⟨fun r l _ => by simp, fun j l _ => by simp, rfl, rfl⟩
  | cons m L ih =>
    have hm := hL m (by simp)
    obtain ⟨h1, h2, h3, h4⟩ := putWords_spec g wb d m hm (fun i => f m / 2 ^ (32 * i) % 2 ^ 32) n
    obtain ⟨k1, k2, k3, k4⟩ := ih ((upto n).foldl (fun g i => putWord g wb d i m (f m / 2 ^ (32 * i) % 2 ^ 32)) g)
      (fun x hx => hL x (by simp [hx]))
    simp only [List.foldl_cons]
    refine ⟨fun r l hl => ?_, fun j l hl => ?_, k3.trans h3, k4.trans h4⟩
    · rw [k1 r l hl, h1 r l hl]
      by_cases hd : dstCovers d wb n r = true
      · by_cases hlL : l ∈ L
        · simp [hd, hlL]
        · by_cases hlm : l = m
          · subst hlm; simp [hd, hlL]
          · simp [hlL, hlm]
      · simp [hd]
    · rw [k2 j l hl, h2 j l hl]
      by_cases hd : dstLatch d ≤ j ∧ j - dstLatch d < n
      · by_cases hlL : l ∈ L
        · simp [hd, hlL]
        · by_cases hlm : l = m
          · subst hlm; simp [hd, hlL]
          · simp [hlL, hlm]
      · simp [hd]

theorem validate_spec (g : Group) (j n k : Nat) (hk : k < 8) :
    (validate g j n).latchValid.getLsbD k = (g.latchValid.getLsbD k || decide (j ≤ k ∧ k - j < n)) := by
  unfold validate
  induction n with
  | zero => simp [upto]
  | succ n ih =>
    have e : upto (n + 1) = upto n ++ [n] := List.range_succ
    simp only [e, List.foldl_append, List.foldl_cons, List.foldl_nil] at ih ⊢
    rw [BitVec.getLsbD_or, ih, BitVec.getLsbD_shiftLeft]
    by_cases h1 : j + n = k
    · subst h1; simp [hk]
    · have h2 : ((1 : BitVec 8)).getLsbD (k - (j + n)) = decide (k - (j + n) = 0) := by
        generalize k - (j + n) = x
        cases x <;> simp [BitVec.getLsbD, Nat.testBit_succ]
      have : (decide (j ≤ k ∧ k - j < n + 1)) = decide (j ≤ k ∧ k - j < n) := by
        congr 1; apply propext; constructor <;> rintro ⟨a, b⟩ <;> exact ⟨a, by omega⟩
      rw [this, h2]
      by_cases h3 : k < j + n
      · simp [h3, hk]
      · have : ¬(k - (j + n) = 0) := by omega
        simp [this]

/-- What a result leaves: the destination's registers and latches in the active lanes, and the rest as it was. -/
theorem put_spec (c : Ctx) (d : Dst) (n : Nat) (f : Nat → Nat) (g : Group) :
    let G := c.put d n f g
    (∀ r l, l < 128 → readReg G r l =
      if dstCovers d c.g.wb n r ∧ l ∈ c.lanes then
        f l / 2 ^ (32 * dstIndex d c.g.wb r) % 2 ^ 32
      else readReg g r l) ∧
    (∀ j l, l < 128 → readLatch G j l =
      if (dstLatch d ≤ j ∧ j - dstLatch d < n) ∧ l ∈ c.lanes then f l / 2 ^ (32 * (j - dstLatch d)) % 2 ^ 32
      else readLatch g j l) ∧
    (∀ k < 8, G.latchValid.getLsbD k = (g.latchValid.getLsbD k || decide (dstLatch d ≤ k ∧ k - dstLatch d < n))) ∧
    SameOthers G g := by
  obtain ⟨h1, h2, h3, h4⟩ := putLanes_spec (validate g (dstLatch d) n) c.g.wb d n f c.lanes (fun m hm => lane_lt hm)
  refine ⟨h1, h2, fun k hk => ?_, h3.trans rfl⟩
  show ((c.put d n f g).latchValid).getLsbD k = _
  have : (c.put d n f g).latchValid = (validate g (dstLatch d) n).latchValid := h4
  rw [this]; exact validate_spec g _ _ _ hk

/-! The context as a unit takes effect. -/

section
variable (s : State) (u : UnitOp) (c : Ctx) (m : Team)

/-- The context of a unit as it takes effect. -/
abbrev started : Ctx := startUnit s u { c with team := m }

theorem started_g : SameRegs (started s u c m).g c.g ∧ (started s u c m).g.width = c.g.width ∧
    (started s u c m).g.latches = (if c.g.run.isNone then [] else c.g.latches) ∧
    (started s u c m).g.latchValid = (if c.g.run.isNone then 0 else c.g.latchValid) ∧
    (started s u c m).g.run.isSome = u.w := by
  have e : ∀ (g : Group) (i : Nat) (x : Option Split), SplitsOnly (g.putSlot i x) g := splitsOnly_putSlot
  unfold started startUnit
  by_cases hr : c.g.run.isNone = true
  · have h := (e (latchesClear c.g) c.slot
      (some { c.x with pc := c.next, last := some c.unit, issued := c.x.issued + 1 })).regs
    obtain ⟨h1, h2, h3, -⟩ := h
    have hw := congrArg Group.width (e (latchesClear c.g) c.slot
      (some { c.x with pc := c.next, last := some c.unit, issued := c.x.issued + 1 }))
    simp only [hr, if_true]
    refine ⟨?_, hw, h2, h3, ?_⟩
    · exact ⟨h1.1, h1.2.1, h1.2.2.1, h1.2.2.2.1, h1.2.2.2.2.1, h1.2.2.2.2.2⟩
    · by_cases hw : u.w <;> simp [hw]
  · have h := (e c.g c.slot
      (some { c.x with pc := c.next, last := some c.unit, issued := c.x.issued + 1 })).regs
    obtain ⟨h1, h2, h3, -⟩ := h
    have hw := congrArg Group.width (e c.g c.slot
      (some { c.x with pc := c.next, last := some c.unit, issued := c.x.issued + 1 }))
    simp only [hr, if_false, Bool.false_eq_true]
    refine ⟨?_, hw, h2, h3, ?_⟩
    · exact ⟨h1.1, h1.2.1, h1.2.2.1, h1.2.2.2.1, h1.2.2.2.2.1, h1.2.2.2.2.2⟩
    · by_cases hw : u.w <;> simp [hw]

@[simp] theorem started_act : (started s u c m).act = c.act := rfl
@[simp] theorem started_lit : (started s u c m).lit = c.lit := rfl
@[simp] theorem started_die : (started s u c m).die = c.die := rfl
@[simp] theorem started_mask : (started s u c m).x.mask = c.x.mask := rfl
@[simp] theorem started_wb : (started s u c m).g.wb = c.g.wb := (started_g s u c m).1.2.2.2.2.1
@[simp] theorem started_width : (started s u c m).g.width = c.g.width := (started_g s u c m).2.1
@[simp] theorem started_masks : (started s u c m).g.masks = c.g.masks := (started_g s u c m).1.2.2.1
@[simp] theorem started_caps : (started s u c m).g.caps = c.g.caps := (started_g s u c m).1.2.2.2.1
@[simp] theorem started_scalars : (started s u c m).g.scalars = c.g.scalars := (started_g s u c m).1.2.1
@[simp] theorem started_vregs : (started s u c m).g.vregs = c.g.vregs := (started_g s u c m).1.1
@[simp] theorem started_fflags : (started s u c m).g.fflags = c.g.fflags := (started_g s u c m).1.2.2.2.2.2

@[simp] theorem started_lanes : (started s u c m).lanes = c.lanes := by unfold Ctx.lanes; rw [started_act, started_width]
@[simp] theorem started_readS (i : Nat) : readS (started s u c m).g i = readS c.g i := by unfold readS; rw [started_scalars]
@[simp] theorem started_readReg (r l : Nat) : readReg (started s u c m).g r l = readReg c.g r l := by
  unfold readReg; rw [started_vregs]
@[simp] theorem started_rdS (sg : Bool) (a : SSrc) : (started s u c m).rdS sg a = c.rdS sg a := by
  unfold Ctx.rdS; simp only [started_readS, started_lit]
@[simp] theorem started_readK (n : Nat) : readK (started s u c m).g (started s u c m).x n = readK c.g c.x n := by
  unfold readK; simp only [started_masks, started_mask]
@[simp] theorem started_rdK (k : MSrc) : (started s u c m).rdK k = c.rdK k := by unfold Ctx.rdK; simp only [started_readK]
@[simp] theorem started_laneOf (b : SSrc) : (started s u c m).laneOf b = c.laneOf b := by
  unfold Ctx.laneOf; simp only [started_rdS, started_width]
@[simp] theorem started_cap (i : Nat) : (started s u c m).cap i = c.cap i := by unfold Ctx.cap; rw [started_caps]

/-- A latch that a performed unit reads stands in an open run. -/
theorem started_readLatch {j l : Nat} (h : c.g.run.isSome = true) :
    readLatch (started s u c m).g j l = readLatch c.g j l := by
  unfold readLatch; rw [(started_g s u c m).2.2.1]
  cases hr : c.g.run <;> simp_all

/-- The latches that a performed unit names stand in an open run. -/
theorem latch_open {s : State} {c : Ctx} {h : Hdr} {w : Bool} {r : Refs} {p : Nat} {q : Bool} {j : Nat}
    (hm : mayPerform s c h w r p q = true) (hj : j ∈ r.y) : c.g.run.isSome = true := by
  simp only [mayPerform, rowsClear, Bool.and_eq_true, List.all_eq_true] at hm
  exact (hm.2.1.1.2 j hj).1

theorem started_rd {a : Src} (ek : Ek) (l : Nat) (h : ∀ j, a = .y j → c.g.run.isSome = true) :
    (started s u c m).rd ek a l = c.rd ek a l := by
  unfold Ctx.rd
  cases a with
  | y j => exact started_readLatch s u c m (h j rfl)
  | _ => simp only [started_readReg, started_wb, started_readS, started_lit]

theorem started_rd64 {a : Src} (sg : Bool) (l : Nat) (h : ∀ j, a = .y j → c.g.run.isSome = true) :
    (started s u c m).rd64 sg a l = c.rd64 sg a l := by
  unfold Ctx.rd64
  cases a with
  | y j => simp only [started_readLatch s u c m (h j rfl)]
  | _ => simp only [started_readReg, started_wb, started_readS, started_lit]

theorem started_old {d : Dst} (l : Nat) (h : ∀ j, d = .y j → c.g.run.isSome = true) :
    (started s u c m).old d l = c.old d l := by
  unfold Ctx.old
  cases d with
  | y j => exact started_readLatch s u c m (h j rfl)
  | v i w => simp only [started_readReg, started_wb]

theorem started_old64 {d : Dst} (l : Nat) (h : ∀ j, d = .y j → c.g.run.isSome = true) :
    (started s u c m).old64 d l = c.old64 d l := by
  unfold Ctx.old64
  cases d with
  | y j => simp only [started_readLatch s u c m (h j rfl)]
  | v i w => simp only [started_readReg, started_wb]

end

/-- Word i of a destination, by the registers and latches of the group. -/
theorem put_dstWord (c c' : Ctx) (d : Dst) (n : Nat) (f : Nat → Nat) (g : Group) (hwb : c'.g.wb = c.g.wb)
    (hl : c'.lanes = c.lanes) {i l : Nat} (hi : i < n) (hm : l ∈ c.lanes) :
    dstWord c (c'.put d n f g) d i l = f l / 2 ^ (32 * i) % 2 ^ 32 := by
  obtain ⟨h1, h2, -, -⟩ := put_spec c' d n f g
  have l128 := lane_lt hm
  match d with
  | .v q false =>
    show readReg _ _ _ = _
    rw [h1 _ _ l128, if_pos, hwb]
    · congr 3; simp [dstIndex]
    · rw [hl, hwb]; refine ⟨?_, hm⟩; simp [dstCovers]; exact hi
  | .v q true =>
    show readLatch _ _ _ = _
    rw [h2 _ _ l128, if_pos]
    · congr 3; simp [dstLatch]
    · rw [hl]; refine ⟨?_, hm⟩; simp [dstLatch]; exact hi
  | .y j =>
    show readLatch _ _ _ = _
    rw [h2 _ _ l128, if_pos]
    · congr 3; simp [dstLatch]
    · rw [hl]; refine ⟨?_, hm⟩; simp [dstLatch]; exact hi

/-- A unit with one vector-class result f: its destination holds f, and every other register is as before; raise adds sticky
flags. -/
theorem put_after {u : UnitOp} {s' : State} {c : Ctx} {m : Team} {d : Dst} {n : Nat} {f : Nat → Nat} {fl : FFlags} {g' : Group}
    (hw : u.w = dstW d) (hfit : dstLatch d + n ≤ 8)
    (hres : let c' := started s' u c m
            let g := (c'.put d n f c'.g).raise fl
            if u.w then PackOnly g' g else SplitsOnly g' (latchesClear g)) :
    (∀ l ∈ c.lanes, ∀ i < n, dstWord c g' d i l = f l / 2 ^ (32 * i) % 2 ^ 32) ∧ OnlyDest c g' d n ∧
      g'.fflags = c.g.fflags ||| fl := by
  obtain ⟨sr, -, -, -, hrun⟩ := started_g s' u c m
  obtain ⟨h1, h2, h3, h4⟩ := put_spec (started s' u c m) d n f (started s' u c m).g
  have hwd : ∀ l ∈ c.lanes, ∀ i < n, dstWord c ((started s' u c m).put d n f (started s' u c m).g) d i l =
      f l / 2 ^ (32 * i) % 2 ^ 32 := fun l hl i hi =>
    put_dstWord c (started s' u c m) d n f _ (started_wb s' u c m) (started_lanes s' u c m) hi hl
  have hwb := started_wb s' u c m
  have hlanes := started_lanes s' u c m
  dsimp only at hres
  generalize hG : (started s' u c m).put d n f (started s' u c m).g = G at *
  generalize started s' u c m = c' at *
  unfold SameOthers at h4
  have vk : ∀ g'' : Group, g''.vregs = G.vregs → VregsKept c g'' d n := by
    intro g'' hv r l hl hn
    have e1 : readReg g'' r l = readReg G r l := by unfold readReg; rw [hv]
    have e2 : readReg c'.g r l = readReg c.g r l := by unfold readReg; rw [sr.1]
    rw [e1, h1 r l hl, e2, if_neg]
    rintro ⟨hc, hm⟩
    rw [hlanes] at hm
    unfold dstCovers at hc
    match d with
    | .v q false =>
      simp at hc
      exact hn q (r - (c'.g.wb + q)) rfl hc.2 (by rw [← hwb]; omega) hm
    | .v q true => simp at hc
    | .y j => simp at hc
  have sc : G.scalars = c.g.scalars := by rw [h4]; exact sr.2.1
  have mk : G.masks = c.g.masks := by rw [h4]; exact sr.2.2.1
  have ck : G.caps = c.g.caps := by rw [h4]; exact sr.2.2.2.1
  have wk : G.wb = c.g.wb := by rw [h4]; exact sr.2.2.2.2.1
  have fk : G.fflags = c.g.fflags := by rw [h4]; exact sr.2.2.2.2.2
  have rk : G.run = c'.g.run := by rw [h4]
  by_cases hu : u.w = true
  · simp only [hu, if_true] at hres
    obtain ⟨hp, hs⟩ := hres
    have q1 : g'.vregs = G.vregs := by rw [hp]; rfl
    have q2 : g'.scalars = G.scalars := by rw [hp]; rfl
    have q3 : g'.masks = G.masks := by rw [hp]; rfl
    have q4 : g'.caps = G.caps := by rw [hp]; rfl
    have q5 : g'.wb = G.wb := by rw [hp]; rfl
    have q6 : g'.latches = G.latches := by rw [hp]; rfl
    have q7 : g'.latchValid = G.latchValid := by rw [hp]; rfl
    have q8 : g'.fflags = G.fflags ||| fl := by rw [hp]; rfl
    refine ⟨fun l hl i hi => ?_, ⟨vk _ q1, q2.trans sc, q3.trans mk, ⟨q4.trans ck, q5.trans wk⟩, ?_⟩, ?_⟩
    · rw [← hwd l hl i hi]
      match d with
      | .v q false => show readReg _ _ _ = readReg _ _ _; unfold readReg; rw [q1]
      | .v q true => show readLatch _ _ _ = readLatch _ _ _; unfold readLatch; rw [q6]
      | .y j => show readLatch _ _ _ = readLatch _ _ _; unfold readLatch; rw [q6]
    · unfold RunAfter
      rw [← hw, hu]
      refine ⟨?_, fun i hi => ?_⟩
      · rw [hs]; show G.run.isSome = true
        rw [rk, hrun, hu]
      · rw [q7, h3 _ (by omega)]; simp; right; exact hi
    · rw [q8, fk]
  · simp only [hu, if_false, Bool.false_eq_true] at hres
    obtain ⟨⟨q1, q2, q3, q4, q5, q6⟩, -, q8, q9⟩ := hres.regs
    refine ⟨fun l hl i hi => ?_, ⟨vk _ q1, q2.trans sc, q3.trans mk, ⟨q4.trans ck, q5.trans wk⟩, ?_⟩, ?_⟩
    · have : dstWord c g' d i l = dstWord c G d i l := by
        have hd : dstW d = false := by rw [← hw]; simpa using hu
        match d with
        | .v q false => show readReg _ _ _ = readReg _ _ _; unfold readReg; rw [q1]; rfl
        | .v q true => simp [dstW] at hd
        | .y j => simp [dstW] at hd
      rw [this]; exact hwd l hl i hi
    · unfold RunAfter
      rw [← hw]
      simp only [hu, if_false, Bool.false_eq_true]
      refine ⟨?_, q8⟩
      rw [q9]
      show G.run = none
      rw [rk]
      cases hr : c'.g.run with
      | none => rfl
      | some _ => rw [hr] at hrun; simp at hrun; exact absurd hrun hu
    · rw [q6]; show G.fflags ||| fl = _; rw [fk]

end Sys2Proof.Machine
end

