-- ==== Sys2Proof/Laws/IntUnits.lean ====
section
/-! SUPPORT. What the shared shapes of register-only units leave: vector results of integer and float units, scalar results
and mask results. -/
namespace Sys2Proof.Machine

/-! Packed elements. -/

theorem packed_succ (w n : Nat) (f : Nat → Nat) : packed w (n + 1) f = packed w n f + f n % 2 ^ w * 2 ^ (w * n) := by
  unfold packed upto; rw [List.range_succ, List.foldl_append]; rfl

theorem packed_lt (w n : Nat) (f : Nat → Nat) : packed w n f < 2 ^ (w * n) := by
  induction n with
  | zero => simp [packed, upto]
  | succ n ih =>
    rw [packed_succ, Nat.mul_succ, Nat.pow_add]
    have h : f n % 2 ^ w < 2 ^ w := Nat.mod_lt _ (by positivity)
    calc packed w n f + f n % 2 ^ w * 2 ^ (w * n) < 2 ^ (w * n) + f n % 2 ^ w * 2 ^ (w * n) := by omega
      _ = (f n % 2 ^ w + 1) * 2 ^ (w * n) := by ring
      _ ≤ 2 ^ w * 2 ^ (w * n) := Nat.mul_le_mul_right _ h
      _ = 2 ^ (w * n) * 2 ^ w := Nat.mul_comm _ _

/-- Element e of a packed word is its function's value. -/
theorem elem_packed (w n e : Nat) (f : Nat → Nat) (h : e < n) : elem (packed w n f) w e = f e % 2 ^ w := by
  induction n with
  | zero => omega
  | succ n ih =>
    rw [packed_succ]
    unfold elem at ih ⊢
    by_cases hn : e = n
    · subst hn
      rw [Nat.add_mul_div_right _ _ (by positivity), Nat.div_eq_of_lt (packed_lt w e f), Nat.zero_add, Nat.mod_mod]
    · have he : e < n := by omega
      rw [← ih he]
      have : 2 ^ (w * n) = 2 ^ w * 2 ^ (w * (n - e - 1)) * 2 ^ (w * e) := by
        obtain ⟨k, rfl⟩ : ∃ k, n = e + 1 + k := ⟨n - e - 1, by omega⟩
        rw [← Nat.pow_add, ← Nat.pow_add]; congr 1
        have : e + 1 + k - e - 1 = k := by omega
        rw [this]; ring
      rw [this, ← Nat.mul_assoc, Nat.add_mul_div_right _ _ (by positivity), ← Nat.mul_assoc, Nat.mul_comm _ (2 ^ w),
        Nat.mul_assoc, Nat.add_mul_mod_self_left]

theorem wrapN_lt (x : Int) (w : Nat) : wrapN x w < 2 ^ w := by
  unfold wrapN
  have : (0 : Int) < ((2 ^ w : Nat) : Int) := by positivity
  have h1 := Int.emod_nonneg x (ne_of_gt this)
  have h2 := Int.emod_lt_of_pos x this
  omega

theorem intTy_width (ty : Nat) : ty = 1 ∨ ((intTy ty).1 * (intTy ty).2 = 32) := by
  unfold intTy
  by_cases h0 : ty = 0
  · simp [h0]
  · by_cases h1 : ty = 1
    · exact .inl h1
    · right; rw [if_neg h0, if_neg h1]; split <;> rfl

/-- Both words of a 64-bit lane. -/
theorem two_words {v : Nat} (h : v < 2 ^ 64) : v / 2 ^ (32 * 0) % 2 ^ 32 + 2 ^ 32 * (v / 2 ^ (32 * 1) % 2 ^ 32) = v := by
  norm_num; omega

/-! Vector results. -/

/-- The vector-class source reads as it does before the unit begins: a latch that it names stands in an open run. -/
theorem src_open {s : State} {c : Ctx} {h : Hdr} {w : Bool} {r : Refs} {p : Nat} {a : Src} {n : Nat}
    (hm : mayPerform s c h w r p = true) (ha : ∀ j ∈ (srcRefs a n).y, j ∈ r.y) (hn : 0 < n) :
    ∀ j, a = .y j → c.g.run.isSome = true := by
  rintro j rfl
  refine latch_open hm (ha j ?_)
  simp only [srcRefs, List.mem_map]
  exact ⟨0, by simp [upto, hn], by simp⟩

theorem dst_open {s : State} {c : Ctx} {h : Hdr} {w : Bool} {r : Refs} {p : Nat} {d : Dst} {n : Nat}
    (hm : mayPerform s c h w r p = true) (ha : ∀ j ∈ (dstRefs d n true).y, j ∈ r.y) (hn : 0 < n) :
    ∀ j, d = .y j → c.g.run.isSome = true := by
  rintro j rfl
  refine latch_open hm (ha j ?_)
  simp only [dstRefs, if_true, List.mem_map]
  exact ⟨0, by simp [upto, hn], by simp⟩

/-- A register-only unit with one vector-class result: f gives the lanes' values and fl the sticky flags, as the context
reads them when the unit takes effect. -/
theorem vecUnit_result {h : Hdr} {d : Dst} {refs : Refs} {price n : Nat} {F : Ctx → Group → Group} {f : Ctx → Nat → Nat}
    {fl : Ctx → FFlags} (hF : ∀ c g, F c g = (c.put d n (f c) g).raise (fl c)) {s : State} {c : Ctx}
    (hp : Performs s c h (dstW d) refs price) (hfit : dstLatch d + n ≤ 8) :
    ∃ t g' c', issue (regUnit h (dstW d) refs price F) s = .next t ∧ t.group? c.die c.handle c.grp = some g' ∧
      RestKept s t c ∧ (∃ s' m, c' = started s' (regUnit h (dstW d) refs price F) c m) ∧
      (∀ l ∈ c.lanes, ∀ i < n, dstWord c g' d i l = f c' l / 2 ^ (32 * i) % 2 ^ 32) ∧ OnlyDest c g' d n ∧
      g'.fflags = c.g.fflags ||| fl c' := by
  obtain ⟨t, g', s', m, h1, h2, h3, h4⟩ := issue_regs (u := regUnit h (dstW d) refs price F) (f := F)
    (fun _ _ => rfl) (s := s) (c := c) hp.1 hp.2 (fun _ _ => rfl) (fun _ _ => rfl)
  have hu : (regUnit h (dstW d) refs price F).uniform = false := rfl
  have hw : (regUnit h (dstW d) refs price F).w = dstW d := rfl
  simp only [hu, Bool.false_eq_true, false_and, if_false, hF] at h4
  obtain ⟨k1, k2, k3⟩ := put_after (u := regUnit h (dstW d) refs price F) hw hfit h4
  exact ⟨t, g', _, h1, h2, h3, ⟨s', m, rfl⟩, k1, k2, k3⟩

/-- A group with no flag raised. -/
theorem raise_zero (g : Group) : g.raise 0 = g := by unfold Group.raise; simp

/-- A unit with one vector-class result completes with it. -/
theorem vecUnit_done {k : Instr} {h : Hdr} {d : Dst} {refs : Refs} {price n : Nat} {F : Ctx → Group → Group} {f : Ctx → Nat → Nat}
    {fl : Ctx → FFlags} {s : State} {c : Ctx} {f0 : Nat → Nat} {fl0 : FFlags}
    (hk : exec k s = issue (regUnit h (dstW d) refs price F) s)
    (hF : ∀ c g, F c g = (c.put d n (f c) g).raise (fl c))
    (hp : Performs s c h (dstW d) refs price) (hfit : dstLatch d + n ≤ 8)
    (hf : ∀ u s' m, ∀ l ∈ c.lanes, f (started s' u c m) l = f0 l) (hfl : ∀ u s' m, fl (started s' u c m) = fl0) :
    VecDone k s c d n f0 fl0 := by
  obtain ⟨t, g', c', h1, h2, h3, ⟨s', m, rfl⟩, h4, h5, h6⟩ := vecUnit_result hF hp hfit
  refine ⟨t, g', ⟨hk.trans h1, h2⟩, h3, fun l hl i hi => ?_, h5, ?_⟩
  · rw [h4 l hl i hi, hf _ _ _ l hl]
  · rw [h6, hfl]

/-- The integer units of V3. -/
theorem intUnit_done {k : Instr} (x : V3) (price : Nat) (sg rdD : Bool) (r : Nat → Nat → Nat → Nat → Int)
    (hr : rdD = true ∨ ∀ w a b d e, r w a b d = r w a b e) {s : State} {c : Ctx}
    (hk : exec k s = issue (intUnit x price sg rdD r) s)
    (hp : Performs s c x.h (dstW x.d) (refsOf [dstRefs x.d (regsOf x.h.pfx.ty) rdD, srcRefs x.a (regsOf x.h.pfx.ty),
      srcRefs x.b (regsOf x.h.pfx.ty)]) price)
    (hfit : dstLatch x.d + regsOf x.h.pfx.ty ≤ 8) :
    IntDone k s c x.h.pfx.ty sg x.d x.a x.b r := by
  have hn : 0 < regsOf x.h.pfx.ty := by unfold regsOf; split <;> omega
  obtain ⟨t, g', c', h1, h2, h3, ⟨s', m, rfl⟩, h4, h5, h6⟩ := vecUnit_result (h := x.h) (d := x.d)
    (refs := refsOf [dstRefs x.d (regsOf x.h.pfx.ty) rdD, srcRefs x.a (regsOf x.h.pfx.ty), srcRefs x.b (regsOf x.h.pfx.ty)])
    (price := price) (n := regsOf x.h.pfx.ty)
    (F := fun c => c.put x.d (regsOf x.h.pfx.ty) (intLane c x.h.pfx.ty sg x.d x.a x.b r))
    (f := fun c => intLane c x.h.pfx.ty sg x.d x.a x.b r) (fl := fun _ => 0) (fun c g => (raise_zero _).symm) hp hfit
  refine ⟨t, g', ⟨hk.trans h1, h2⟩, h3, ?_, h5, by simpa [FlagsKept] using h6⟩
  intro l hl e he
  have cast : ∀ (x : Int) (w : Nat), x % 2 ^ w = (wrapN x w : Int) := by
    intro x w
    unfold wrapN
    rw [Int.toNat_of_nonneg (Int.emod_nonneg _ (by positivity))]; push_cast; rfl
  rw [cast]
  congr 1
  have ha := src_open (a := x.a) hp.2 (by intro j hj; simp [refsOf, Refs.add]; tauto) hn
  have hb := src_open (a := x.b) hp.2 (by intro j hj; simp [refsOf, Refs.add]; tauto) hn
  have hd : ∀ w a b k, r w a b ((started s' (regUnit x.h (dstW x.d) (refsOf [dstRefs x.d (regsOf x.h.pfx.ty) rdD,
      srcRefs x.a (regsOf x.h.pfx.ty), srcRefs x.b (regsOf x.h.pfx.ty)]) price
      (fun c => c.put x.d (regsOf x.h.pfx.ty) (intLane c x.h.pfx.ty sg x.d x.a x.b r))) c m).old64 x.d l) = r w a b (c.old64 x.d l) ∧
      r w a b (elem ((started s' (regUnit x.h (dstW x.d) (refsOf [dstRefs x.d (regsOf x.h.pfx.ty) rdD,
      srcRefs x.a (regsOf x.h.pfx.ty), srcRefs x.b (regsOf x.h.pfx.ty)]) price
      (fun c => c.put x.d (regsOf x.h.pfx.ty) (intLane c x.h.pfx.ty sg x.d x.a x.b r))) c m).old x.d l) w k) =
        r w a b (elem (c.old x.d l) w k) := by
    intro w a b k
    rcases hr with hr | hr
    · subst hr
      have := dst_open (d := x.d) hp.2 (by intro j hj; simp [refsOf, Refs.add]; tauto) hn
      rw [started_old _ _ _ _ _ this, started_old64 _ _ _ _ _ this]; exact ⟨rfl, rfl⟩
    · exact ⟨hr .., hr ..⟩
  generalize hC : started s' (regUnit x.h (dstW x.d) (refsOf [dstRefs x.d (regsOf x.h.pfx.ty) rdD,
      srcRefs x.a (regsOf x.h.pfx.ty), srcRefs x.b (regsOf x.h.pfx.ty)]) price
      (fun c => c.put x.d (regsOf x.h.pfx.ty) (intLane c x.h.pfx.ty sg x.d x.a x.b r))) c m = C at *
  have ra : ∀ ek, C.rd ek x.a l = c.rd ek x.a l := fun ek => hC ▸ started_rd _ _ _ _ ek l ha
  have rb : ∀ ek, C.rd ek x.b l = c.rd ek x.b l := fun ek => hC ▸ started_rd _ _ _ _ ek l hb
  have ra64 : ∀ sg, C.rd64 sg x.a l = c.rd64 sg x.a l := fun sg => hC ▸ started_rd64 _ _ _ _ sg l ha
  have rb64 : ∀ sg, C.rd64 sg x.b l = c.rd64 sg x.b l := fun sg => hC ▸ started_rd64 _ _ _ _ sg l hb
  by_cases hty : x.h.pfx.ty = 1
  · have w0 := h4 l hl 0 (by simp [regsOf, hty])
    have w1 := h4 l hl 1 (by simp [regsOf, hty])
    have e64 : (intTy x.h.pfx.ty).1 = 64 := by simp [intTy, hty]
    have el : e = 0 := by simp [intTy, hty] at he; omega
    subst el
    have hv : intLane C x.h.pfx.ty sg x.d x.a x.b r l < 2 ^ 64 := by
      unfold intLane; simp only [hty, if_true]; exact wrapN_lt _ _
    unfold dstElem srcElem oldElem
    simp only [hty, if_true]
    rw [w0, w1, two_words hv]
    unfold intLane
    simp only [hty, if_true, intTy]
    rw [ra64, rb64, (hd 64 _ _ 0).1]
    rfl
  · have w0 := h4 l hl 0 (by unfold regsOf; split <;> omega)
    have hw : (intTy x.h.pfx.ty).1 * (intTy x.h.pfx.ty).2 = 32 := (intTy_width _).resolve_left hty
    unfold dstElem srcElem oldElem
    simp only [hty, if_false]
    rw [w0]
    unfold intLane
    simp only [hty, if_false]
    have hlt : packed (intTy x.h.pfx.ty).1 (intTy x.h.pfx.ty).2 (fun e => wrapN (r (intTy x.h.pfx.ty).1
        (elem (C.rd (.int (intTy x.h.pfx.ty).1) x.a l) (intTy x.h.pfx.ty).1 e)
        (elem (C.rd (.int (intTy x.h.pfx.ty).1) x.b l) (intTy x.h.pfx.ty).1 e)
        (elem (C.old x.d l) (intTy x.h.pfx.ty).1 e)) (intTy x.h.pfx.ty).1) < 2 ^ 32 := by
      have := packed_lt (intTy x.h.pfx.ty).1 (intTy x.h.pfx.ty).2 (fun e => wrapN (r (intTy x.h.pfx.ty).1
        (elem (C.rd (.int (intTy x.h.pfx.ty).1) x.a l) (intTy x.h.pfx.ty).1 e)
        (elem (C.rd (.int (intTy x.h.pfx.ty).1) x.b l) (intTy x.h.pfx.ty).1 e)
        (elem (C.old x.d l) (intTy x.h.pfx.ty).1 e)) (intTy x.h.pfx.ty).1)
      rwa [hw] at this
    rw [Nat.mul_zero, Nat.pow_zero, Nat.div_one, Nat.mod_eq_of_lt hlt, elem_packed _ _ _ _ he, Nat.mod_eq_of_lt (wrapN_lt _ _),
      ra, rb, (hd _ _ _ e).2]

/-! Scalar results. -/

/-- A group-uniform unit on its group's registers. -/
theorem uniUnit_result {h : Hdr} {refs : Refs} {price : Nat} {F : Ctx → Group → Group} {s : State} {c : Ctx}
    (hp : Performs s c h false refs price) :
    ∃ t g' c', issue (uniUnit h refs price F) s = .next t ∧ t.group? c.die c.handle c.grp = some g' ∧ RestKept s t c ∧
      (∃ s' m, c' = started s' (uniUnit h refs price F) c m) ∧
      SplitsOnly g' (latchesClear (if c.act = 0 then c'.g else F c' c'.g)) := by
  obtain ⟨t, g', s', m, h1, h2, h3, h4⟩ := issue_regs (u := uniUnit h refs price F) (f := F)
    (fun _ _ => rfl) (s := s) (c := c) hp.1 hp.2 (fun _ _ => rfl) (fun _ _ => rfl)
  have hu : (uniUnit h refs price F).uniform = true := rfl
  have hw : (uniUnit h refs price F).w = false := rfl
  simp only [hu, hw, true_and, Bool.false_eq_true, if_false] at h4
  exact ⟨t, g', _, h1, h2, h3, ⟨s', m, rfl⟩, h4⟩

theorem readS_writeS (g : Group) (i j v : Nat) : readS (writeS g i v) j = if j = i then v % 2 ^ 64 else readS g j := by
  unfold readS writeS
  simp only [tget_tset]
  split
  · simp
  · rfl

theorem readS_of_scalars {g g' : Group} (h : g'.scalars = g.scalars) (j : Nat) : readS g' j = readS g j :=
  congrArg (fun x => (tget x j 0).toNat) h

theorem putS_raise_kept (c : Ctx) (d v : Nat) (g : Group) (fl : FFlags) :
    (latchesClear ((c.putS d v g).raise fl)).vregs = g.vregs ∧ (latchesClear ((c.putS d v g).raise fl)).masks = g.masks ∧
    (latchesClear ((c.putS d v g).raise fl)).caps = g.caps ∧ (latchesClear ((c.putS d v g).raise fl)).wb = g.wb ∧
    (latchesClear ((c.putS d v g).raise fl)).run = g.run := ⟨rfl, rfl, rfl, rfl, rfl⟩

theorem putS_raise_scalars (c : Ctx) (d v : Nat) (g : Group) (fl : FFlags) :
    (latchesClear ((c.putS d v g).raise fl)).scalars = (writeS g d (v % 2 ^ 64)).scalars := rfl

/-- A group-uniform unit with one scalar result completes with it. -/
theorem uniUnit_done {k : Instr} {h : Hdr} {refs : Refs} {price d : Nat} {F : Ctx → Group → Group} {v : Ctx → Nat}
    {fl : Ctx → FFlags} {s : State} {c : Ctx} {v0 : Nat} {fl0 : FFlags}
    (hk : exec k s = issue (uniUnit h refs price F) s) (hF : ∀ c g, F c g = (c.putS d (v c) g).raise (fl c))
    (hp : Performs s c h false refs price) (hv : ∀ u s' m, v (started s' u c m) % 2 ^ 64 = v0)
    (hfl : ∀ u s' m, fl (started s' u c m) = fl0) : ScalarDone k s c d v0 fl0 := by
  obtain ⟨t, g', c', h1, h2, h3, ⟨s', m, rfl⟩, h4⟩ := uniUnit_result (F := F) hp
  obtain ⟨q, -, q2, q3⟩ := h4.regs
  obtain ⟨g1, -, -, -, g5⟩ := started_g s' (uniUnit h refs price F) c m
  have hr : (started s' (uniUnit h refs price F) c m).g.run = none := by
    cases hh : (started s' (uniUnit h refs price F) c m).g.run with
    | none => rfl
    | some _ => rw [hh] at g5; cases g5
  obtain ⟨a1, a2, a3, a4, a5, a6⟩ := q
  obtain ⟨b1, b2, b3, b4, b5, b6⟩ := g1
  by_cases ha : c.act = 0
  · simp only [ha, if_true] at a1 a2 a3 a4 a5 a6 q3
    refine ⟨t, g', ⟨hk.trans h1, h2⟩, h3, ⟨fun j => ?_, a1.trans b1, a3.trans b3, ⟨a4.trans b4, a5.trans b5⟩, q3.trans hr, q2⟩, ?_⟩
    · simp only [ha, ne_eq, not_true_eq_false, and_false, if_false]
      unfold readS; rw [a2.trans b2]
    · simp only [ha, if_true]; exact (a6.trans b6).trans (by simp)
  · simp only [ha, if_false, hF] at a1 a2 a3 a4 a5 a6 q3
    obtain ⟨p1, p3, p4, p5, p6⟩ := putS_raise_kept (started s' (uniUnit h refs price F) c m) d (v (started s' (uniUnit h refs price F) c m))
      (started s' (uniUnit h refs price F) c m).g (fl (started s' (uniUnit h refs price F) c m))
    have e4 := (a4.trans p4).trans b4
    have e5 := (a5.trans p5).trans b5
    refine ⟨t, g', ⟨hk.trans h1, h2⟩, h3, ⟨fun j => ?_, (a1.trans p1).trans b1, (a3.trans p3).trans b3, ⟨e4, e5⟩, (q3.trans p6).trans hr, q2⟩, ?_⟩
    · have e : readS g' j = readS (writeS (started s' (uniUnit h refs price F) c m).g d
          (v (started s' (uniUnit h refs price F) c m) % 2 ^ 64)) j := readS_of_scalars (a2.trans (putS_raise_scalars ..)) j
      have hm : v0 % 2 ^ 64 = v0 := by rw [← hv (uniUnit h refs price F) s' m, Nat.mod_mod]
      rw [e, readS_writeS, started_readS]
      simp only [ha, ne_eq, not_false_eq_true, and_true, hv, hm]
    · simp only [ha, if_false]; rw [← hfl (uniUnit h refs price F) s' m]; exact a6.trans (congrArg (· ||| _) b6)

/-! Mask results. -/

theorem mbit_mset (m : Mask) (i j : Nat) (b : Bool) (hi : i < 128) : mbit (mset m i b) j = if j = i then b else mbit m j := by
  unfold mbit mset
  by_cases hb : b = true
  · simp only [hb, if_true, BitVec.getLsbD_or, BitVec.getLsbD_shiftLeft]
    by_cases h : j = i
    · subst h; simp [hi]
    · have : ((1 : BitVec 128)).getLsbD (j - i) = decide (j - i = 0) := by
        generalize j - i = x
        cases x <;> simp [BitVec.getLsbD, Nat.testBit_succ]
      rw [this, if_neg h]
      by_cases hlt : j < i
      · simp [hlt]
      · have : ¬(j - i = 0) := by omega
        simp [this]
  · simp only [hb, if_false, Bool.false_eq_true, BitVec.getLsbD_and, BitVec.getLsbD_not, BitVec.getLsbD_shiftLeft]
    by_cases h : j = i
    · subst h; simp [hi]
    · have : ((1 : BitVec 128)).getLsbD (j - i) = decide (j - i = 0) := by
        generalize j - i = x
        cases x <;> simp [BitVec.getLsbD, Nat.testBit_succ]
      rw [this, if_neg h]
      by_cases hj : j < 128
      · by_cases hlt : j < i
        · simp [hj, hlt]
        · have : ¬(j - i = 0) := by omega
          simp [hj, this]
      · rw [BitVec.getLsbD_of_ge m j (by omega)]; simp

theorem mbit_msets (L : List Nat) (m : Mask) (f : Nat → Bool) (hL : ∀ l ∈ L, l < 128) (j : Nat) :
    mbit (L.foldl (fun m l => mset m l (f l)) m) j = if j ∈ L then f j else mbit m j := by
  induction L generalizing m with
  | nil => simp
  | cons l r ih =>
    rw [List.foldl_cons, ih _ (fun x hx => hL x (by simp [hx])), mbit_mset _ _ _ _ (hL l (by simp))]
    by_cases hj : j ∈ r
    · simp [hj]
    · by_cases hl : j = l
      · subst hl; simp [hj]
      · simp [hj, hl]

theorem tget_writeK (g : Group) (n j : Nat) (m : Mask) : tget (writeK g n m).masks j 0 =
    if j = n then (if g.width = 128 then m else m &&& BitVec.ofNat 128 (2 ^ g.width - 1)) else tget g.masks j 0 := by
  unfold writeK; simp only [tget_tset]

theorem mbit_clip (m : Mask) (w j : Nat) (hw : w ≤ 128) :
    mbit (if w = 128 then m else m &&& BitVec.ofNat 128 (2 ^ w - 1)) j = (decide (j < w) && mbit m j) := by
  unfold mbit
  split
  · rename_i h; subst h
    by_cases hj : j < 128
    · simp [hj]
    · rw [BitVec.getLsbD_of_ge m j (by omega)]; simp
  · rw [BitVec.getLsbD_and, BitVec.getLsbD_ofNat, Nat.testBit_two_pow_sub_one]
    by_cases hj : j < w
    · have : j < 128 := by omega
      simp [hj, this]
    · simp [hj]

/-- A unit with one mask result completes with it. -/
theorem maskUnit_done {k : Instr} {h : Hdr} {refs : Refs} {price d : Nat} {F : Ctx → Group → Group} {f : Ctx → Nat → Bool}
    {s : State} {c : Ctx} {f0 : Nat → Bool}
    (hk : exec k s = issue (regUnit h false refs price F) s) (hF : ∀ c g, F c g = c.putK d (f c) g)
    (hp : Performs s c h false refs price) (hw : c.g.width ≤ 128)
    (hf : ∀ u s' m, ∀ l ∈ c.lanes, f (started s' u c m) l = f0 l) : MaskDone k s c d f0 := by
  obtain ⟨t, g', s', m, h1, h2, h3, h4⟩ := issue_regs (u := regUnit h false refs price F) (f := F)
    (fun _ _ => rfl) (s := s) (c := c) hp.1 hp.2 (fun _ _ => rfl) (fun _ _ => rfl)
  have hu : (regUnit h false refs price F).uniform = false := rfl
  have hw' : (regUnit h false refs price F).w = false := rfl
  simp only [hu, hw', Bool.false_eq_true, false_and, if_false, hF] at h4
  obtain ⟨⟨a1, a2, a3, a4, a5, a6⟩, -, q2, q3⟩ := h4.regs
  obtain ⟨⟨b1, b2, b3, b4, b5, b6⟩, -, -, -, g5⟩ := started_g s' (regUnit h false refs price F) c m
  have hr : (started s' (regUnit h false refs price F) c m).g.run = none := by
    cases hh : (started s' (regUnit h false refs price F) c m).g.run with
    | none => rfl
    | some _ => rw [hh] at g5; cases g5
  have em : ∀ j, tget g'.masks j 0 = tget ((started s' (regUnit h false refs price F) c m).putK d
      (f (started s' (regUnit h false refs price F) c m)) (started s' (regUnit h false refs price F) c m).g).masks j 0 := by
    intro j; rw [a3]; rfl
  refine ⟨t, g', ⟨hk.trans h1, h2⟩, h3, ⟨fun l => ?_, fun j hj => ?_, a1.trans b1, a2.trans b2, ⟨a4.trans b4, a5.trans b5⟩,
    q3.trans hr, q2⟩, a6.trans b6⟩
  · rw [em]
    unfold Ctx.putK
    rw [tget_writeK, if_pos rfl, started_width, mbit_clip _ _ _ hw, started_lanes, mbit_msets _ _ _ (fun l hl => lane_lt hl),
      started_masks]
    by_cases hl : l ∈ c.lanes
    · simp [hl, (mem_lanes.1 hl).1, hf _ _ _ l hl]
    · simp [hl]
  · rw [em]
    unfold Ctx.putK
    rw [tget_writeK, if_neg hj, started_masks]

end Sys2Proof.Machine
end

