-- ==== Sys2Proof/Tests/Slice0.lean ====
section
/-! SUPPORT. Tests: the ill-formed terms that each check refuses, words written out from the encodings of the manual, and for
every statement with hypotheses a concrete state and operands that meet them. -/
section
open Sys2Proof Sys2Proof.Machine
set_option Elab.async false

/-! Witnesses. A statement about a unit takes a state, the context of the issuing group, and its operands. -/

/-- A team's group 0 on core 0 of die 0, with its first split named for the next unit. -/
def atUnit : State := { probeUnit State.reset 0 with cur := some { die := 0, handle := 0, grp := 0, slot := 0 } }

/-- The state names a group whose context passes f. -/
def met (s : State) (h : Hdr) (f : Ctx → Bool) : Bool :=
  match issuerCtx s h with
  | some c => f c
  | none => false

theorem met_names_a_context {s : State} {h : Hdr} {f : Ctx → Bool} (m : met s h f = true) :
    ∃ c, issuerCtx s h = some c ∧ f c = true := by
  unfold met at m
  split at m
  · exact ⟨_, ‹_›, m⟩
  · cases m

/-- The group may issue a unit with these registers at this price. -/
def may (s : State) (h : Hdr) (w : Bool) (rs : List Refs) (price : Nat) (f : Ctx → Bool := fun _ => true) : Bool :=
  met s h (fun c => mayPerform s c h w (refsOf rs) price && f c)

/-- A header whose prefix has TYPE ty and immediate n. -/
def hdrOf (ty : Nat) (n : Nat := 0) : Hdr := { px := some { ty := ty, imm := n } }


/-! Words. Each was assembled by hand or by a separate program from the formats of R147, the function orders of R163, and each instruction's field
table in files 06 to 10 and 13. -/

/-- D v1, A v2 and B s3, and without B. -/
def x3 : V3 := { h := {}, d := .v 1 false, a := .v 2, b := .s 3 }
def x2 : V2 := { h := {}, d := .v 1 false, a := .v 2 }

/-- The words decode to the instruction, which is well-formed. -/
def reads (e : List Nat × Instr) : Bool := decide (decode e.1 = .ok e.2) && e.2.WellFormed

/-- Majors 0x00 to 0x03: D v1, A v2, B s3 (99), or B unread (112). Then LCOMB's control word in IMM15 and a 64-bit pair with a latch. -/
theorem test_words_of_integer :
    ([([0x00041630], .iadd x3),
      ([0x00041631], .isub x3),
      ([0x00041632], .iadds x3),
      ([0x00041633], .isubs x3),
      ([0x00041634], .imin x3),
      ([0x00041635], .imax x3),
      ([0x00041636], .nmin x3),
      ([0x00041637], .nmax x3),
      ([0x00041708], .iabs x2),
      ([0x00041709], .ineg x2),
      ([0x0004163A], .iavg x3),
      ([0x0004163B], .idiff x3),
      ([0x0004163C], .iaddc x3),
      ([0x0004163D], .isubb x3),
      ([0x04041630], .imul x3),
      ([0x04041631], .imulh x3),
      ([0x04041632], .nmulh x3),
      ([0x04041633], .imad x3),
      ([0x04041634], .imadh x3),
      ([0x04041635], .idot4 x3),
      ([0x04041636], .idot2 x3),
      ([0x04041637], .idiv x3),
      ([0x04041638], .irem x3),
      ([0x04041639], .ndiv x3),
      ([0x0404163A], .nrem x3),
      ([0x08041630], .and x3),
      ([0x08041631], .or x3),
      ([0x08041632], .xor x3),
      ([0x08041633], .andn x3),
      ([0x08041634], .orn x3),
      ([0x08041635], .xnor x3),
      ([0x08041706], .not x2),
      ([0x08041637], .lcomb x3),
      ([0x08041638], .shl x3),
      ([0x08041639], .shr x3),
      ([0x0804163A], .sra x3),
      ([0x0804163B], .rol x3),
      ([0x0804163C], .ror x3),
      ([0x0804163D], .fshl x3),
      ([0x0804163E], .fshr x3),
      ([0x0C041700], .popc x2),
      ([0x0C041701], .clz x2),
      ([0x0C041702], .ctz x2),
      ([0x0C041703], .brev x2),
      ([0x0C041634], .bfx x3),
      ([0x0C041635], .bfxn x3),
      ([0x0C041636], .bfi x3),
      ([0x0C041637], .bmsk x3),
      ([0x0C041638], .permb x3),
      ([0x0C041639], .sext x3),
      ([0x0C04163A], .zext x3),
      ([0xFC0001A5, 0x08041637], .lcomb { x3 with h := { px := some { imm := 0x1A5 } } }),
      ([0xFC008000, 0x03F81730, 0x80000001], .iadd { h := { px := some { ty := 1 }, lit := some 0x80000001 }, d := .y 6, a := .v 2, b := .lit })] : List (List Nat × Instr)).all reads = true := by decide +kernel

/-- Majors 0x04 to 0x0B: masks k7 and k1, IMM11 of -1024 and 1023, shift amounts 63, 1, 31 and 0. -/
theorem test_words_of_compares_and_immediates :
    ([([0x101C1638], .icmp { h := {}, k := 7, a := .v 2, b := .s 3, c := .gtn }),
      ([0x14041030], .sel { h := {}, d := .v 1 false, a := .v 2, k := .k 3 }),
      ([0x14041701], .mov x2),
      ([0x16078702], .movk { h := {}, d := .v 1 true, k := .none }),
      ([0x14141703], .kmov { h := {}, k := 5, a := .v 2 }),
      ([0x18041400], .iaddi { h := {}, d := .v 1 false, a := .v 2, imm := 0x400 }),
      ([0x1C0413FF], .andi { h := {}, d := .v 1 false, a := .v 2, imm := 0x3FF }),
      ([0x23E3FFFF], .ori { h := {}, d := .y 0, a := .y 7, imm := 0x7FF }),
      ([0x257F8805], .xori { h := {}, d := .v 95 false, a := .lane, imm := 5 }),
      ([0x2804101F], .shli { h := {}, d := .v 1 false, a := .v 2, n := 31 }),
      ([0x28041201], .shri { h := {}, d := .v 1 false, a := .v 2, n := 1 }),
      ([0x2804141E], .srai { h := {}, d := .v 1 false, a := .v 2, n := 30 }),
      ([0x28041600], .roli { h := {}, d := .v 1 false, a := .v 2, n := 0 }),
      ([0xFC008000, 0x2808203F], .shli { h := { px := some { ty := 1 } }, d := .v 2 false, a := .v 4, n := 63 }),
      ([0x2C0787FE], .movi { h := {}, d := .v 1 false, imm := 0x7FE })] : List (List Nat × Instr)).all reads = true := by decide +kernel

/-- Majors 0x0C to 0x0F: D s1 (97), A s2 (98), B zero, one or s15 (111). -/
theorem test_words_of_scalars :
    ([([0x318716F0], .sadd { h := {}, d := 1, a := .s 2, b := .s 15 }),
      ([0x318716F1], .ssub { h := {}, d := 1, a := .s 2, b := .s 15 }),
      ([0x318716F2], .smul { h := {}, d := 1, a := .s 2, b := .s 15 }),
      ([0x318716F3], .smulh { h := {}, d := 1, a := .s 2, b := .s 15 }),
      ([0x318716F4], .sand { h := {}, d := 1, a := .s 2, b := .s 15 }),
      ([0x318716F5], .sor { h := {}, d := 1, a := .s 2, b := .s 15 }),
      ([0x318716F6], .sxor { h := {}, d := 1, a := .s 2, b := .s 15 }),
      ([0x318716F7], .sshl { h := {}, d := 1, a := .s 2, b := .s 15 }),
      ([0x318716F8], .sshr { h := {}, d := 1, a := .s 2, b := .s 15 }),
      ([0x318716F9], .ssra { h := {}, d := 1, a := .s 2, b := .s 15 }),
      ([0x318716FA], .smin { h := {}, d := 1, a := .s 2, b := .s 15 }),
      ([0x318716FB], .smax { h := {}, d := 1, a := .s 2, b := .s 15 }),
      ([0x318716FC], .snmin { h := {}, d := 1, a := .s 2, b := .s 15 }),
      ([0x318716FD], .snmax { h := {}, d := 1, a := .s 2, b := .s 15 }),
      ([0x358787FD], .saddi { h := {}, d := 1, a := .zero, imm := 0x7FD }),
      ([0x39879739, 0x00000007], .scmp { h := { lit := some 7 }, d := 1, a := .one, b := .lit, c := .gen }),
      ([0x3D871700], .smov { h := {}, d := 1, a := .s 2 }),
      ([0x3D841F21], .srdk { h := {}, d := 1, k := 3, hi := true }),
      ([0x3C0F1702], .swrk { h := {}, k := 3, a := .s 2, hi := false }),
      ([0x3D843F03], .spopk { h := {}, d := 1, k := .k 7 })] : List (List Nat × Instr)).all reads = true := by decide +kernel

/-- Majors 0x10 to 0x15; FDOT4 names f8p4 (0x14), FADD rounds up and saturates under a guard (!k5). -/
theorem test_words_of_float :
    ([([0x40041630], .fadd x3),
      ([0x40041631], .fsub x3),
      ([0x40041632], .fmul x3),
      ([0x40041633], .fmin x3),
      ([0x40041634], .fmax x3),
      ([0x40041635], .fminn x3),
      ([0x40041636], .fmaxn x3),
      ([0x40041707], .fabs x2),
      ([0x40041708], .fneg x2),
      ([0x40041639], .fcpys x3),
      ([0x4004163A], .fscale x3),
      ([0x4004170B], .ffrac x2),
      ([0x4004170C], .ffloor x2),
      ([0x4004170D], .fceil x2),
      ([0x4004170E], .ftrunc x2),
      ([0x4004170F], .frint x2),
      ([0x44041630], .ffma x3),
      ([0x44041631], .ffms x3),
      ([0x44041632], .ffnma x3),
      ([0x44041633], .ffnms x3),
      ([0x48041700], .frcp x2),
      ([0x48041701], .frsq x2),
      ([0x48041702], .fsqrt x2),
      ([0x48041633], .fdiv x3),
      ([0x48041704], .fexp2 x2),
      ([0x48041705], .flog2 x2),
      ([0x48041706], .fsin x2),
      ([0x48041707], .fcos x2),
      ([0x48041708], .ftanh x2),
      ([0x48041709], .fsigm x2),
      ([0x4C08163D], .fcmp { h := {}, k := 2, a := .v 2, b := .s 3, c := .bothnum }),
      ([0x50041700], .fclass x2),
      ([0xFC010000, 0x50041631], .fdot2 { x3 with h := { px := some { ty := 2 } } }),
      ([0xFC000014, 0x50041632], .fdot4 { x3 with h := { px := some { imm := 0x14 } } }),
      ([0xFC188000, 0x5404170B], .cvt { h := { px := some { rnd := 3, ty := 1 } }, d := .v 1 false, a := .v 2, hsel := true, t := .i32 }),
      ([0xFFBC8000, 0x40041630], .fadd { x3 with h := { px := some { g := true, n := true, gm := 5, rnd := 3, sat := true, ty := 1 } } })] : List (List Nat × Instr)).all reads = true := by decide +kernel

/-- Majors 0x16 and 0x17: the format in IMM15[7:0], the position above it; and the two units of file 08's example. -/
theorem test_words_of_narrow_formats :
    ([([0xFC000314, 0x58041700], .cvt8 { x2 with h := { px := some { imm := 0x314 } } }),
      ([0xFC000211, 0x58041701], .cvt8x { x2 with h := { px := some { imm := 0x211 } } }),
      ([0xFC000700, 0x58041702], .cvt4 { x2 with h := { px := some { imm := 0x700 } } }),
      ([0xFC000500, 0x58041703], .cvt4x { x2 with h := { px := some { imm := 0x500 } } }),
      ([0xFC000147, 0x58041634], .pack8 { x3 with h := { px := some { imm := 0x147 } } }),
      ([0xFC000121, 0x58041705], .unpk8 { x2 with h := { px := some { imm := 0x121 } } }),
      ([0xFC000050, 0x5C041700], .bscan { x2 with h := { px := some { imm := 0x50 } } }),
      ([0xFC000333, 0x5C041631], .qnt8 { x3 with h := { px := some { imm := 0x333 } } }),
      ([0xFC000114, 0x5C041632], .dqnt8 { x3 with h := { px := some { imm := 0x114 } } }),
      ([0xFC000600, 0x5C041633], .qnt4 { x3 with h := { px := some { imm := 0x600 } } }),
      ([0xFC000100, 0x5C041634], .dqnt4 { x3 with h := { px := some { imm := 0x100 } } }),
      ([0xFC000014, 0x5C101700], .bscan { h := { px := some { imm := 0x14 } }, d := .v 4 false, a := .v 2 }),
      ([0xFC000014, 0x5C0C1041], .qnt8 { h := { px := some { imm := 0x14 } }, d := .v 3 false, a := .v 2, b := .v 4 })] : List (List Nat × Instr)).all reads = true := by decide +kernel

/-- Majors 0x20 to 0x24: REDUX into s4 (100), SCAN exclusive, masks k3, k7 and none. -/
theorem test_words_of_lanes :
    ([([0x80041630], .shfli x3),
      ([0x80041631], .shflu x3),
      ([0x80041632], .shfld x3),
      ([0x80041633], .shflx x3),
      ([0x80041634], .bcast { h := {}, d := .v 1 false, a := .v 2, b := .s 3 }),
      ([0x81841705], .rdlane { h := {}, d := 1, a := .v 2, b := .zero }),
      ([0x80071726], .wrlane { h := {}, d := .v 1 false, a := .s 2, b := .one }),
      ([0x84041707], .redux { h := {}, d := .vec (.v 1 false), a := .v 2, op := .xor }),
      ([0x85901704], .redux { h := {}, d := .sc 4, a := .v 2, op := .nmax }),
      ([0xFC000001, 0x8804170A], .scan { h := { px := some { imm := 1 } }, d := .v 1 false, a := .v 2, op := .fmax }),
      ([0x8D841F00], .vall { h := {}, d := 1, k := .k 3 }),
      ([0x8D878701], .vany { h := {}, d := 1, k := .none }),
      ([0x8D841722], .vballot { h := {}, d := 1, a := .v 2, hi := true }),
      ([0x8C0C3F03], .kand { h := {}, k := 3, a := .k 7, b := .none }),
      ([0x8C0C3F04], .kor { h := {}, k := 3, a := .k 7, b := .none }),
      ([0x8C0C3F05], .kxor { h := {}, k := 3, a := .k 7, b := .none }),
      ([0x8C0C3F06], .kandn { h := {}, k := 3, a := .k 7, b := .none }),
      ([0x8C0C0F07], .knot { h := {}, k := 3, a := .k 1 }),
      ([0x8C0C0F08], .kfirst { h := {}, k := 3, a := .k 1 }),
      ([0x93FF7800], .wbase { h := {}, sel := 255, a := .s 15 })] : List (List Nat × Instr)).all reads = true := by decide +kernel

/-- Majors 0x28 to 0x2F: capability c5, sizes b8 to b128, O40 in SZ[3], RES k3, NT; ordering acq_rel and scope system in IMM15. -/
theorem test_words_of_memory :
    ([([0xA1704027], .ld { h := {}, c := 5, sz := 4, o40 := true, d := 8, a := .v 2, res := 3, nt := true }),
      ([0xA5480F00], .st { h := {}, c := 5, sz := 2, o40 := false, d := .v 1, a := .zero, res := 0, nt := false }),
      ([0xA80C3020], .ldl { h := {}, sz := 3, d := 6, a := .v 2 }),
      ([0xAC038020], .stl { h := {}, sz := 0, d := .zero, a := .v 2 }),
      ([0xB3CF0E2E], .ldu { h := {}, c := 15, sz := 3, o40 := false, d := 1, a := .s 2, res := 7 }),
      ([0xB3E716F1], .stu { h := {}, c := 15, sz := 1, o40 := true, d := .s 2, a := .s 15, res := 0 }),
      ([0xFC003900, 0xB5481029], .atom { h := { px := some { imm := 0x3900 } }, c := 5, sz := 2, o40 := false, d := 2, a := .v 2, op := .cas }),
      ([0xB94C104C], .red { h := {}, c := 5, sz := 3, o40 := false, d := .v 2, a := .v 4, op := .dec }),
      ([0xFC001800, 0xBC000000], .fence { h := { px := some { imm := 0x1800 } } }),
      ([0xBD681001], .pref { h := {}, c := 5, o40 := true, lvl := 2, a := .v 2 }),
      ([0xBD401632], .pagein { h := {}, c := 5, o40 := false, a := .v 2, r := 3 })] : List (List Nat × Instr)).all reads = true := by decide +kernel

/-- Majors 0x30 and 0x31: CT c5, CF c6, scalars s2 and s3, T of the team; and the word of file 08's example. -/
theorem test_words_of_capabilities_and_ownership :
    ([([0xC15B1630], .cderive { h := {}, ct := 5, cf := 6, a := .s 2, b := .s 3 }),
      ([0xC15B1001], .crights { h := {}, ct := 5, cf := 6, a := .s 2 }),
      ([0xC01B0802], .cgetb { h := {}, cf := 6, d := 1 }),
      ([0xC01B0803], .cgetl { h := {}, cf := 6, d := 1 }),
      ([0xC01B0804], .cgetr { h := {}, cf := 6, d := 1 }),
      ([0xC01B0805], .ctest { h := {}, cf := 6, d := 1 }),
      ([0xC15B1706], .cldc { h := {}, ct := 5, cf := 6, a := .s 2, loc := false }),
      ([0xC1431727], .cstc { h := {}, ct := 5, cf := 0, a := .s 2, loc := true }),
      ([0xC1400008], .cnull { h := {}, ct := 5, cf := 0 }),
      ([0xC1580009], .cmov { h := {}, ct := 5, cf := 6 }),
      ([0xC5631630], .dclaim { h := {}, c := 5, team := true, a := .s 2, r := 3 }),
      ([0xC5631631], .dpark { h := {}, c := 5, team := true, a := .s 2, r := 3 }),
      ([0xC5631632], .dlend { h := {}, c := 5, team := true, a := .s 2, r := 3 }),
      ([0xC5631633], .dreturn { h := {}, c := 5, team := true, a := .s 2, r := 3 }),
      ([0xC5631634], .dsplit { h := {}, c := 5, team := true, a := .s 2, r := 3 }),
      ([0xC5631635], .djoin { h := {}, c := 5, team := true, a := .s 2, r := 3 }),
      ([0xC5631636], .dshare { h := {}, c := 5, team := true, a := .s 2, r := 3 }),
      ([0xC5631637], .dunshare { h := {}, c := 5, team := true, a := .s 2, r := 3 }),
      ([0xC5631638], .datom { h := {}, c := 5, team := true, a := .s 2, r := 3 }),
      ([0xC5631639], .dquery { h := {}, c := 5, team := true, a := .s 2, r := 3 }),
      ([0xC4240639], .dquerySelf { h := {}, team := true, d := 3 }),
      ([0xC5438631], .dpark { h := {}, c := 5, team := false, a := .zero, r := 3 })] : List (List Nat × Instr)).all reads = true := by decide +kernel

/-- Majors 0x32, 0x34 and 0x35; CPY is the word of file 09's example. -/
theorem test_words_of_engines_and_bonds :
    ([([0xC9E2EE30], .nmred { h := {}, j := 7, w := true, a := 93, r := 3 }),
      ([0xC9C2F631], .nmscat { h := {}, j := 7, w := false, a := 94, r := 3 }),
      ([0xD0031650], .cpy { h := {}, a := .s 2, r := 5 }),
      ([0xD0031631], .cpyc { h := {}, a := .s 2, r := 3 }),
      ([0xD4000610], .blease { h := {}, d := 1 }),
      ([0xD4000611], .bfree { h := {}, d := 1 }),
      ([0xD5431632], .bfork { h := {}, c := 5, a := .s 2, r := 3 }),
      ([0xD41F1003], .brdv { h := {}, n := 7, a := .s 2 }),
      ([0xD41B1004], .barv { h := {}, n := 6, a := .s 2 }),
      ([0xD4000615], .bstat { h := {}, d := 1 })] : List (List Nat × Instr)).all reads = true := by decide +kernel

/-- Majors 0x38 to 0x3E: displacements of -1 and 2^21 - 1, a join offset of 9 words, barrier 15, word 63, and every other operand at a value of its own. -/
theorem test_words_of_control :
    ([([0xFC000009, 0xE0FFFFFF], .bra { h := { px := some { imm := 9 } }, k := 1, n := true, disp := 0x3FFFFF }),
      ([0xE79FFFFF], .call { h := {}, k := 7, n := false, disp := 0x1FFFFF }),
      ([0xE8000003], .jmp { h := {}, disp := 3 }),
      ([0xEC000000], .ret { h := {} }),
      ([0xEC000001], .join { h := {} }),
      ([0xEC000002], .exit { h := {} }),
      ([0xEC001003], .brx { h := {}, a := .v 2 }),
      ([0xEC03F804], .callx { h := {}, a := .y 7 }),
      ([0xEC000005], .yield { h := {} }),
      ([0xEC000006], .nop { h := {} }),
      ([0xEC039807, 0x000003E8], .sleep { h := { lit := some 1000 }, a := .lit }),
      ([0xF03C0000], .bar { h := {}, b := 15 }),
      ([0xF0380001], .bara { h := {}, b := 14 }),
      ([0xF0340002], .barw { h := {}, b := 13 }),
      ([0xF0000003], .dbar { h := {} }),
      ([0xF2FF1634], .dsig { h := {}, op := .max, w := 63, a := .s 2, b := .s 3 }),
      ([0xF3FB1635], .dwait { h := {}, cond := .any, w := 62, a := .s 2, r := 3 }),
      ([0xF0031636], .rtest { h := {}, a := 2, d := 3 }),
      ([0xF4028000], .cont { h := {}, a := 80 }),
      ([0xF55C1501], .stepSend { h := {}, s := 5, k := 7, a := .v 2, b := 80 }),
      ([0xF54413C2], .stepTake { h := {}, r := 5, hd := true, a := .v 2, b := 60 }),
      ([0xFB201630], .trap { h := {}, n := 200, a := .v 2, r := 3 }),
      ([0xFB240001], .brk { h := {}, code := 201 }),
      ([0xF8340092], .sread { h := {}, reg := 13, d := .v 9 }),
      ([0xF83C06A2], .sread { h := {}, reg := 15, d := .s 10 }),
      ([0xF8431003], .swrite { h := {}, a := .s 2 }),
      ([0xF83F8004], .evt { h := {}, n := 15, a := .zero }),
      ([0xF8000615], .enrg { h := {}, d := 1 })] : List (List Nat × Instr)).all reads = true := by decide +kernel

/-- R287: the thirteen Q words, and words with a bit where zero is required or with an operation that is not assigned. -/
theorem test_words_of_the_bond_stream :
    ([(0x000000C0, .mfmt 192),
      (0x0D000000, .mzero 5),
      (0x10000001, .mloadb 1),
      (0x1D0000FF, .mmac 5 1 128),
      (0x26000000, .mmact 6 0 1),
      (0x2F0ABC09, .mdrain 7 (0xABC * 256) 10),
      (0x30E01FFE, .mloop 3 514 0xFFE),
      (0x38000000, .mend),
      (0x40000007, .mbar 7),
      (0x48000006, .marv 6),
      (0x50BFFABC, .msig .max 63 15 0xABC),
      (0x58000000, .mnop),
      (0x60D2FFFE, .mwaitf true 0xA5 (0x7FFE * 64))] : List (Nat × Instr)).all
      (fun e => decide (decodeQ e.1 = .ok e.2) && e.2.WellFormed) = true ∧
    ([0x00000001, 0x08000001, 0x11000000, 0x18000100, 0x28000080, 0x38000001, 0x40000008, 0x51000000, 0x58000001, 0x68000000, 0xF8000000] : List Nat).all
      (fun w => match decodeQ w with | .ok _ => false | .error _ => true) = true := by decide +kernel

/-- R363: the five custom words, and words that it makes illegal. -/
theorem test_words_of_the_granary :
    ([(0x0005028B, .gmbWait 5 10),
      (0x0003930B, .gmbRead 6 7),
      (0x000FA08B, .gmbPost 1 31),
      (0x0004B00B, .gepEnd 9),
      (0x00044F8B, .gepVer 31 8)] : List (Nat × Instr)).all
      (fun e => decide (decodeCustom e.1 = .ok e.2 ∧ decodeHart e.1 = some (.custom e.2)) && e.2.WellFormed) = true ∧
    ([0x0000D08B, 0x0200808B, 0x0010808B, 0x0004B08B] : List Nat).all (fun w => (decodeHart w).isNone) = true := by decide +kernel

/-- R345: instructions of the RISC-V standard, by hand: addi x1, x2, -1; lui; jal x1, -4; beq; lw; sd; amoadd.d; lr.w; sh2add; csrrs of cycle; c.addi; c.nop; c.ebreak;
and the all-zero half word, which is illegal. -/
theorem test_words_of_risc_v :
    ([(0xFFF10093, .opImm .add false 1 2 (-1), 4), (0x800000B7, .lui 1 (-2 ^ 31), 4), (0xFFDFF0EF, .jal 1 (-4), 4), (0x00208463, .branch .eq 1 2 8, 4),
      (0x00C0A283, .load 5 1 12 4 true, 4), (0xFE20BC23, .store 1 2 (-8) 8, 4), (0x0020B2AF, .amo .add 5 1 2 8, 4), (0x1000A2AF, .lr 5 1 4, 4),
      (0x2020C2B3, .op .sh2add false 5 1 2, 4), (0xC00022F3, .csr .rs 5 0 false 0xC00, 4), (0x000010FD, .opImm .add false 1 1 (-1), 2), (0x00000001, .opImm .add false 0 0 0, 2),
      (0x00009002, .ebreak, 2)] : List (Nat × Rv × Nat)).all (fun e => decide (decodeHart e.1 = some (.rv e.2.1 e.2.2))) = true ∧
    (decodeHart 0).isNone = true := by decide +kernel

/-! Ill-formed terms: one for each check. -/
theorem test_each_check_refuses :
    ([(.iadd { x3 with h := { px := some { imm := 2 ^ 15 } } }, .prefixRange),
      (.iadd { x3 with h := { px := some { n := true } } }, .guardFields),
      (.wbase { h := { px := some { g := true } }, sel := 0, a := .zero }, .guard),
      (.fmin { x3 with h := { px := some { rnd := 1 } } }, .rounding), (.fabs { x2 with h := { px := some { sat := true } } }, .rounding),
      (.iadds { x3 with h := { px := some { ty := 1 } } }, .elemType), (.cvt { h := {}, d := .v 1 false, a := .v 2, hsel := false, t := .f32 }, .elemType),
      (.fdot4 x3, .imm15), (.fence { h := {} }, .imm15), (.lcomb { x3 with h := { px := some { imm := 512 } } }, .imm15),
      (.iadd { x3 with d := .v 96 false }, .dest), (.iadd { x3 with a := .v 96 }, .source), (.sleep { h := {}, a := .one }, .source),
      (.iadd { x3 with h := { px := some { ty := 1 } } }, .pair), (.ld { h := {}, c := 0, sz := 4, o40 := false, d := 2, a := .v 2, res := 0, nt := false }, .pair),
      (.iadd { x3 with b := .lit }, .literal), (.iadd { x3 with h := { lit := some 1 } }, .literal),
      (.kmov { h := {}, k := 0, a := .v 2 }, .mask), (.srdk { h := {}, d := 1, k := 8, hi := false }, .mask),
      (.smov { h := {}, d := 16, a := .zero }, .scalar), (.cmov { h := {}, ct := 0, cf := 16 }, .cap), (.cnull { h := {}, ct := 0, cf := 1 }, .cap),
      (.atom { h := {}, c := 0, sz := 1, o40 := false, d := 0, a := .v 2, op := .add }, .size), (.ldu { h := {}, c := 0, sz := 4, o40 := false, d := 0, a := .zero, res := 0 }, .size),
      (.ld { h := {}, c := 0, sz := 0, o40 := true, d := 0, a := .lane, res := 0, nt := false }, .offset40),
      (.bar { h := {}, b := 16 }, .field), (.mmac 0 0 129, .field), (.rtest { h := {}, a := 2, d := 2 }, .field)] : List (Instr × Check)).all
      (fun e => decide (e.1.illFormed = some e.2) && !e.1.WellFormed) = true := by decide +kernel

/-- Words that stand for no unit: an unassigned major, a function past its list, D of 112, an unread field that does not hold 112, W = 1 into a mask, a second prefix. -/
theorem test_unassigned_words :
    ([[0x60000000], [0x0004103E], [0x01C01030], [0x00041038], [0x12041030], [0xFC000000, 0xFC000000, 0x00041030], [0x01E01030]] : List (List Nat)).all
      (fun ws => match decode ws with | .ok _ => false | .error _ => true) = true := by decide +kernel
/-- A destination of v0; with W = 1, of latch Y0. -/
def dv : Dst := .v 0 false
def dy : Dst := .y 0

/-- Major rows of the integer tables: every price and use of D that they have, at each TYPE, into a register; one into a latch. -/
theorem meets_IntRows :
    (([(false, 1), (true, 1), (false, 2), (false, 3), (false, 4)] : List (Bool × Nat)).all (fun e => [0, 1].all (fun ty =>
      may atUnit (hdrOf ty) false [dstRefs dv (regsOf ty) e.1, srcRefs (.v 8) (regsOf ty), srcRefs (.v 16) (regsOf ty)]
        (e.2 * regsOf ty)))) = true ∧
    ((arithmeticRules ++ divisionRules ++ logicRules).all (fun e =>
      decide ((e.readsD, e.price) ∈ ([(false, 1), (true, 1), (false, 2), (false, 3), (false, 4)] : List (Bool × Nat))))) = true ∧
    may atUnit (hdrOf 1) true [dstRefs dy 2 false, srcRefs (.v 8) 2, srcRefs .lane 2] 2 = true := by decide +kernel

theorem meets_LogicAndShiftResults :
    [0, 1].all (fun ty => may atUnit (hdrOf ty 0x12) false [dstRefs dv (regsOf ty) true, srcRefs (.v 8) (regsOf ty), srcRefs (.v 16) (regsOf ty)]
      (regsOf ty) && decide (dstLatch dv + regsOf ty ≤ 8 ∧ (hdrOf ty).pfx.ty < 2)) = true := by decide +kernel

theorem meets_BitAndOneOperandResults :
    [true, false].all (fun d => may atUnit {} false [dstRefs dv 1 d, srcRefs (.v 8) 1, srcRefs (.v 16) 1] 1) = true ∧
    [0, 1, 2, 3].all (fun ty => may atUnit (hdrOf ty) false [dstRefs dv (regsOf ty) false, srcRefs (.v 8) (regsOf ty)] (regsOf ty)) = true ∧
    bitRules.all (fun e => decide (e.price = 1)) = true ∧ dstLatch (.y 7) < 8 := by decide +kernel

theorem meets_IntegerArithmeticResults :
    may atUnit {} false [dstRefs dv 1 false, srcRefs (.v 8) 1, srcRefs (.v 16) 1, kRead 7] 1 (fun c => decide (c.g.width ≤ 128)) = true ∧
    may atUnit {} false [dstRefs dv 1 true, srcRefs (.v 8) 1, srcRefs (.v 16) 1] 1 = true := by decide +kernel

theorem meets_ImmediateFormResults :
    [0, 1].all (fun ty => may atUnit (hdrOf ty) false [dstRefs dv (regsOf ty) false, srcRefs (.v 8) (regsOf ty)] (regsOf ty) &&
      may atUnit (hdrOf ty) false [dstRefs dv (regsOf ty) false] (regsOf ty)) = true := by decide +kernel

theorem meets_CompareAndSelectResults :
    [0, 1].all (fun ty =>
      may atUnit (hdrOf ty) false [srcRefs (.v 8) (regsOf ty), srcRefs (.v 16) (regsOf ty)] (regsOf ty) (fun c => decide (c.g.width ≤ 128)) &&
      may atUnit (hdrOf ty) false [dstRefs dv (regsOf ty) true, srcRefs (.v 8) (regsOf ty), msrcRefs (.k 1)] (regsOf ty)) = true ∧
    may atUnit {} false [srcRefs (.v 8) 1] 1 = true ∧ may atUnit {} false [dstRefs dv 1 false, msrcRefs .none] 1 = true := by decide +kernel

theorem meets_ScalarResults :
    may atUnit {} false [sName 0, ssrcRefs (.s 1), ssrcRefs (.s 15)] 0 = true ∧ may atUnit {} false [sName 0, ssrcRefs .one] 0 = true ∧
    may atUnit {} false [sName 0, kRead 7] 0 = true ∧ may atUnit {} false [sName 0, msrcRefs (.k 1)] 0 = true ∧
    may atUnit {} false [ssrcRefs (.s 3)] 0 (fun c => decide (c.g.width ≤ 128 ∧ c.act ≠ 0)) = true := by decide +kernel

theorem meets_FloatTwoOperandResults :
    floatRules.all (fun e => decide ((e.2.1, e.2.2.1) ∈ ([(false, 1), (true, 1), (false, 3)] : List (Bool × Nat)))) = true ∧
    ([(false, 1), (true, 1), (false, 3)] : List (Bool × Nat)).all (fun e =>
      may atUnit (hdrOf 1) false [dstRefs dv 1 e.1, srcRefs (.v 8) 1, srcRefs (.v 16) 1] e.2) = true := by decide +kernel

theorem meets_FloatOneOperandResults :
    floatRules1.all (fun e => decide (e.2.1 ∈ [1, 3])) = true ∧
    [1, 3].all (fun p => may atUnit {} false [dstRefs dv 1 false, srcRefs (.v 8) 1] p) = true := by decide +kernel

theorem meets_ScaleAndDotResults :
    [false, true].all (fun d => may atUnit (hdrOf 1 0x01) false [dstRefs dv 1 d, srcRefs (.v 8) 1, srcRefs .one 1] 1) = true := by decide +kernel

/-- Whether a code is a number, an infinity or a NaN. -/
def kindOf : FVal → Nat
  | .fin _ _ _ => 0
  | .inf _ => 1
  | .nan => 2

theorem meets_CorrectRounding :
    [0x01, 0x02, 0x03, 0x50, 0x13, 0x47].all (fun k => (fmtOfCode k).any (fun f => decide (kindOf (f.dec 1) = 0))) = true ∧
    [(Fmt.f32, 0x7F800000), (.f16, 0x7C00), (.bf16, 0x7F80)].all (fun e =>
      decide (kindOf (e.1.dec 0) = 0 ∧ kindOf (e.1.dec e.2) = 1 ∧ kindOf (e.1.dec (e.2 + e.1.signBit)) = 1 ∧ kindOf (e.1.dec (e.2 + 1)) = 2)) = true ∧
    exactSum (false, 1, 0) (true, 1, 0) = 0 ∧ exactSum (false, 1, 0) (true, 1, -1) ≠ 0 := by decide +kernel

theorem meets_SpecialFunctionCases : ∃ a : Nat, 0x80000000 < a ∧ a ≤ 0xFF800000 := ⟨0xFF800000, by decide, by decide⟩

theorem meets_ConversionResults :
    ([(0, .f16), (1, .f32), (2, .n64), (3, .i64), (4, .bf16), (5, .f32), (6, .i32)] : List (Nat × CvtTy)).all (fun e =>
      let n := if e.2 = .i64 ∨ e.2 = .n64 then 2 else 1
      let m := if cvtTy e.1 = .i64 ∨ cvtTy e.1 = .n64 then 2 else 1
      may atUnit (hdrOf e.1) false [dstRefs dv n (decide (e.2 = .f16 ∨ e.2 = .bf16)), srcRefs (.v 8) m] (max n m)) = true := by decide +kernel

/-- Format b8 of precision 3 at byte 3, at byte pair 1, and fp4 at its last place. -/
theorem meets_NarrowAndBlockResults :
    (immFmt (hdrOf 0 0x313)).isB8 = true ∧ (immFmt (hdrOf 0 0x313)).width * (immPos (hdrOf 0 0x313) + 1) ≤ 32 ∧
    fmtOfCode ((hdrOf 0 0x313).pfx.imm % 256) = some (immFmt (hdrOf 0 0x313)) ∧
    Fmt.fp4.width * (immPos (hdrOf 0 0x750) + 1) ≤ 32 ∧ immPos (hdrOf 0 0x113) < 2 ∧
    [0x313, 0x113, 0x750].all (fun i => [false, true].all (fun d =>
      may atUnit (hdrOf 0 i) false [dstRefs dv 1 d, srcRefs (.v 8) 1] 1 &&
      may atUnit (hdrOf 0 i) false [dstRefs dv 1 d, srcRefs (.v 8) 1, srcRefs (.v 16) 1] 1)) = true ∧
    may atUnit (hdrOf 0 0x13) false [dstRefs dv 1 false, srcRefs (.v 8) 1] 2 = true := by decide +kernel

theorem meets_LaneMovementResults :
    [0, 1].all (fun ty => let n := regsOf ty
      may atUnit (hdrOf ty) false [dstRefs dv n false, srcRefs (.v 8) n, srcRefs (.v 16) n] 2 &&
      may atUnit (hdrOf ty) false [dstRefs dv n false, srcRefs (.v 8) n, ssrcRefs (.s 0)] 2 &&
      may atUnit (hdrOf ty) false [sName 1, srcRefs (.v 8) n, ssrcRefs (.s 0)] 2 &&
      may atUnit (hdrOf ty) false [dstRefs dv n true, ssrcRefs (.s 0), ssrcRefs (.s 1)] 2) = true := by decide +kernel

theorem meets_ReductionAndScanResults :
    [0, 1].all (fun ty => let n := regsOf ty
      may atUnit (hdrOf ty 1) false [dstRefs dv n false, srcRefs (.v 8) n] 2 &&
      may atUnit (hdrOf ty) false [sName 1, srcRefs (.v 8) n] 2) = true := by decide +kernel

theorem meets_VoteAndMaskResults :
    may atUnit {} false [sName 1, msrcRefs (.k 2)] 2 = true ∧ may atUnit {} false [sName 1, srcRefs (.v 8) 1] 2 = true ∧
    may atUnit {} false [msrcRefs (.k 2), msrcRefs (.k 3)] 1 (fun c => decide (c.g.width ≤ 128)) = true ∧
    may atUnit {} false [msrcRefs .none] 1 = true := by decide +kernel

/-- The last window base inside the probe's 128 registers and the first past them. -/
theorem meets_CapabilityRegisterResults :
    may atUnit {} false [ssrcRefs .zero] 0 (fun c => c.alone && decide (8 * 15 < c.team.vregs) && decide (c.team.vregs ≤ 8 * 16)) = true ∧
    may atUnit {} false [ssrcRefs (.s 1)] 0 (fun c => c.alone) = true ∧
    may atUnit {} false [cRead 0, ssrcRefs (.s 1), ssrcRefs (.s 2)] 0 = true ∧ may atUnit {} false [cRead 7, ssrcRefs (.s 1)] 0 = true ∧
    may atUnit {} false [] 0 = true ∧ may atUnit {} false [cRead 1] 0 = true ∧
    may atUnit {} false [cRead 1, sName 2] 0 (fun c => c.alone) = true := by decide +kernel

/-! Memory. -/

/-- A state with its team, then the team's group 0, changed. -/
def withTeam (s : State) (f : Team → Team) (g : Group → Group) : State :=
  let d := s.die 0
  { s with dies := tput s.dies 0 { d with teams := d.teams.map (fun p =>
             (p.1, { (f p.2) with groups := (f p.2).groups.map (fun q => if q.1 = 0 then (0, g q.2) else q) })) } }

/-- A capability with every right to the 64 KiB object 0. -/
def fullCap : Cap := { oid := 0, rights := 0xFF, base := 0, len := 65536, gen := 1, tag := true }

/-- One to its upper half. -/
def atomCap : Cap := { fullCap with base := 32768, len := 32768 }

/-- Two lanes, a full capability in c1, the lower half of the object held by the group, the upper half ATOMIC with it as holder, offsets 0 and 16 in v0 (which also reads as a pair), and 7
in v2 of lane 0. -/
def atMem : State :=
  let p := groupParty 0 0 0
  { (withTeam atUnit id (fun g => { g with live := 3, s0 := some { mask := 3 }, width := 32, caps := [(1, fullCap), (2, fullCap), (3, atomCap)]
                                           vregs := [(1, 16), (256, 7)] })) with
    deckles := [{ ctx := 0, oid := 0, base := 0, len := 32768, state := 1, holder := p },
                { ctx := 0, oid := 0, base := 32768, len := 32768, state := 3, holder := p }]
    holds := [{ ctx := 0, party := p, oid := 0, base := 0, len := 32768, cached := [0] },
              { ctx := 0, party := p, oid := 0, base := 32768, len := 32768, kind := 2, cached := [0] }] }

/-- No die has failed, so no table home is lost, wherever the hash puts it (log 5). -/
theorem no_failed_die {s : State} (h : s.dies.all (fun p => decide (p.2.boot ≠ 3)) = true) (d : Nat) : (s.die d).boot ≠ 3 := by
  unfold State.die tget
  generalize s.dies = t at h
  induction t with
  | nil => simp [tfind]
  | cons p l ih =>
    simp only [List.all_cons, Bool.and_eq_true, decide_eq_true_eq] at h
    unfold tfind
    split
    · simpa using h.1
    · exact ih h.2

theorem homeLost_of_no_failed_die {s : State} (h : s.dies.all (fun p => decide (p.2.boot ≠ 3)) = true) (ctx oid off : Nat) :
    homeLost s ctx oid off = false := by
  unfold homeLost
  split
  · simpa using no_failed_die h _
  · rfl

theorem atMem_homes (ctx oid off : Nat) : homeLost atMem ctx oid off = false := homeLost_of_no_failed_die (by decide +kernel) ctx oid off

def isGo : Gate → Bool
  | .go => true
  | _ => false

theorem isGo_eq {g : Gate} (h : isGo g = true) : g = .go := by cases g <;> simp_all [isGo]

/-- Loads: the least and the greatest size, without and with a mask of residence. -/
theorem meets_LoadResults :
    ([(0, 0), (4, 7)] : List (Nat × Nat)).all (fun e => may atMem {} false [vName 8 (regsOfSize e.1), offRefs (.v 0) false, cRead 1] 2
      (fun c => c.alone && isGo (loadGate atMem c (accessOf c 1 rR e.1 0 false (.v 0)) (e.2 == 0)) && decide (c.g.width ≤ 128))) = true ∧
    ([(0, 0), (3, 7)] : List (Nat × Nat)).all (fun e => may atMem {} false [sName 1, ssrcRefs .zero, cRead 1] 2
      (fun c => c.alone && decide (c.act ≠ 0) && isGo (loadGate atMem c (uniAccess c 1 rR e.1 0 true .zero) (e.2 == 0)))) = true := by
  simp only [loadGate, coverGate, coverOf, atMem_homes, Bool.false_eq_true, if_false]
  decide +kernel

theorem meets_StoreResults :
    ([(0, 0), (4, 7)] : List (Nat × Nat)).all (fun e => may atMem {} false [storeRefs (.v 8) e.1, offRefs (.v 0) false, cRead 1] 2
      (fun c => c.alone && isGo (storeGate atMem c (accessOf c 1 rW e.1 1 false (.v 0)) (e.2 == 0)))) = true ∧
    ([(0, 0), (3, 7)] : List (Nat × Nat)).all (fun e => may atMem {} false [ssrcRefs (.s 1), ssrcRefs .one, cRead 1] 2
      (fun c => c.alone && decide (c.act ≠ 0) && isGo (storeGate atMem c (uniAccess c 1 rW e.1 1 false .zero) (e.2 == 0)))) = true := by
  simp only [storeGate, coverGate, coverOf, atMem_homes, Bool.false_eq_true, if_false]
  decide +kernel

/-- Local store at offsets 0 and 16, from the first byte to the last sixteen. -/
theorem meets_LocalStoreResults :
    [0, 4].all (fun sz => may atMem {} false [vName 8 (regsOfSize sz), srcRefs (.v 0) 1] 1 (fun c =>
      c.alone && isGo (localGate c.team 0 (2 ^ sz) (localAddrs c (.v 0))) && isGo (seamGate atMem c 0 (localAddrs c (.v 0))) &&
      c.team.locPoison.isEmpty)) = true ∧
    [0, 4].all (fun sz => may atMem {} false [storeRefs (.v 8) sz, srcRefs (.v 0) 1] 1 (fun c =>
      c.alone && isGo (localGate c.team 1 (2 ^ sz) (localAddrs c (.v 0))) && isGo (seamGate atMem c 1 (localAddrs c (.v 0))))) = true := by
  decide +kernel

/-- A word and a doubleword of memory, the last below 2^40 and the first above; FADD of a word. -/
theorem meets_AtomicResults :
    (4 = 4 ∨ 4 = 8) ∧ (2 ^ 40 - 4) + 4 ≤ 2 ^ 40 ∧ 2 ^ 40 ≤ 2 ^ 40 ∧ 2 ^ 32 - 1 < 2 ^ (8 * 4) ∧
    [(2, AtomOp.add), (3, .cas), (2, .fadd)].all (fun e => [0, 2, 3].all (fun ord =>
      may atMem (hdrOf 0 ord) false [vRead 8 (atomRegs e.2 e.1), offRefs (.v 0) false, cRead 1] 3 (fun c =>
        c.alone && isGo (atomGate atMem c (accessOf c 3 rA e.1 2 false (.v 0)) (orderOf (hdrOf 0 ord)).1 (orderOf (hdrOf 0 ord)).2)))) = true ∧
    may atMem {} false [storeRefs (.v 8) 2, offRefs (.v 0) false, cRead 1] 3 (fun c =>
      c.alone && isGo (atomGate atMem c (accessOf c 3 rA 2 2 false (.v 0)) (orderOf {}).1 (orderOf {}).2)) = true := by
  simp only [atomGate, coverGate, coverOf, atMem_homes, Bool.false_eq_true, if_false]
  decide +kernel

theorem meets_MemoryControlResults :
    [0, 1, 2, 3].all (fun ord => may atMem (hdrOf 0 ord) false [] 0 (fun c =>
      c.alone && isGo (releaseGate atMem c (orderOf (hdrOf 0 ord)).2))) = true ∧
    may atMem {} false [offRefs (.v 0) false, cRead 1] 1 (fun c => c.alone && cacheRoom atMem c.core) = true ∧
    may atMem {} false [sName 1, offRefs (.v 0) false, cRead 1] 0 (fun c =>
      c.alone && decide (c.act ≠ 0) && isGo (capGate atMem c.team.ctx (accessOf c 1 rR 0 5 false (.v 0)))) = true := by
  decide +kernel

/-- CLDC and CSTC, in local store and in the object. -/
theorem meets_CapabilityMemoryResults :
    let x : CmemU := { h := {}, ct := 2, cf := 1, loc := false, a := .zero }
    let y : CmemU := { x with cf := 0, loc := true }
    may atMem {} false [ssrcRefs .zero] 0 (fun c => c.alone && decide (c.act ≠ 0) &&
      isGo (localGate c.team 6 16 (capLocals c y)) && isGo (seamGate atMem c 6 (capLocals c y)) && c.team.locPoison.isEmpty) = true ∧
    may atMem {} false [ssrcRefs .zero, cRead 1] 0 (fun c => c.alone && isGo (loadGate atMem c (capAccess c x rR) true)) = true ∧
    may atMem {} false [ssrcRefs .zero, cRead 2, cRead 1] 0 (fun c => c.alone &&
      isGo (ownGate atMem c.team.ctx c.parties (capAccess c x rW)) &&
      isGo (grantGate c x (capAccess c x rW) (capGate atMem c.team.ctx (capAccess c x rW))) &&
      isGo (storeGate atMem c (capAccess c x rW) true)) = true := by
  simp only [loadGate, storeGate, coverGate, coverOf, atMem_homes, Bool.false_eq_true, if_false]
  decide +kernel

/-- The checks of R67: what the last access inside passes, and one step past each of them. -/
theorem meets_CapabilityChecksInOrder :
    let o : ObjEntry := readObj atMem 0 0
    let a : Access := { c := fullCap, need := rR, n := 4 }
    o.imm = false ∧ a.either = false ∧ a.n ≠ 0 ∧ o.valid = true ∧
    capCheck o a 65532 = none ∧ capCheck o a 65536 = some 3 ∧ capCheck o a 2 = some 4 ∧
    capCheck o { a with c := { fullCap with tag := false } } 0 = some 1 ∧ capCheck o { a with c := { fullCap with rights := 2 } } 0 = some 2 ∧
    capCheck o { a with c := { fullCap with gen := 2 } } 0 = some 5 := by
  decide +kernel

/-- A line of L1 with one dirty byte, and one of L2 that holds the next. -/
def cachedState : State :=
  { State.reset with lines := [{ l2 := false, unit := 0, line := 0, data := [(0, 5)], known := 1, dirty := 1 },
                               { l2 := true, unit := 0, line := 1, data := [(3, 6)], known := 0xFF, dirty := 8 }] }

theorem meets_CachesAndScopes :
    (findLine cachedState false 0 0).any (fun l => mbit l.known 0 && mbit l.dirty 0) = true ∧
    findLine cachedState false 0 1 = none ∧ (findLine cachedState true (l2Of 0) 1).any (fun l => mbit l.dirty 3) = true ∧
    findLine cachedState true (l2Of 0) 2 = none ∧
    cachedState.lines.Pairwise (fun l m => ¬(l.l2 = m.l2 ∧ l.unit = m.unit ∧ l.line = m.line)) ∧
    (∀ l ∈ cachedState.lines, l.line = 128 / 128 → mbit l.dirty (129 % 128) = false) ∧ 120 % 128 + 8 ≤ 128 := by
  decide +kernel

/-! Ownership. -/

theorem meets_OwnershipInstructionsLeave :
    ownMnemonics.all (fun e => [false, true].all (fun team =>
      let x : DopU := { h := {}, c := 1, team := team, a := .zero, r := 1 }
      may atMem {} false [cRead 1, ssrcRefs .zero, if e.1 = .lend then sRead 1 else sName 1] 0 (fun c => c.alone && decide (c.act ≠ 0) &&
        isGo (ownCheck atMem c (ownAccess c e.1 x) (ownOff c .zero))))) = true ∧
    may atMem {} false [sName 1] 0 (fun c => c.alone) = true := by decide +kernel

/-- An operation of group 0 on the first 256 bytes of object 0, target the whole team, with regions ds before it. -/
def homeOp (k : OwnKind) : OwnOp :=
  { id := 7, kind := k, party := groupParty 0 0 0, base := 0, len := 256, target := teamParty 0 0, reg := 1 }
def atHome (k : OwnKind) (ds : List Deckle) : State := { atUnit with deckles := ds, ownOps := [homeOp k], arg := { atUnit.arg with id := 7 } }
def region (state holder : Nat) (base : Nat := 0) (len : Nat := 256) : Deckle := { base := base, len := len, state := state, holder := holder }

theorem homeTurn_atHome (k : OwnKind) (ds : List Deckle) : HomeTurn (atHome k ds) (homeOp k) := by
  have up : ∀ d, ((atHome k ds).die d).boot ≠ 3 := fun d =>
    no_failed_die (s := atHome k ds) (show atUnit.dies.all (fun p => decide (p.2.boot ≠ 3)) = true by decide +kernel) d
  refine ⟨rfl, rfl, Nat.zero_le _, by simp [ownReady, atHome], ?_⟩
  unfold ownLost
  split
  dsimp only
  split
  · simpa using up _
  · simp [up]

/-- DCLAIM and DSHARE of what no region holds; of a POISONED region; of another party's; the other kinds where nothing stands. -/
theorem meets_TableHomeAnswers :
    ([.claim, .share, .unshare, .query, .park, .dreturn, .atom, .split, .lend].all (fun k =>
      decide (isFarObj (atHome k []) 0 0 = false ∧ regionsIn (atHome k []) 0 0 0 256 = [] ∧
        regionExact (atHome k []) 0 0 0 256 = none ∧ regionAt (atHome k []) 0 0 0 = none))) = true ∧
    (regionsIn (atHome .claim [region 5 0]) 0 0 0 256).any (fun d => decide (d.state = 5)) = true ∧
    regionsIn (atHome .claim [region 1 0 0 512]) 0 0 0 256 ≠ [] ∧
    (∀ d ∈ regionsIn (atHome .claim [region 1 0 0 512]) 0 0 0 256, d.state ≠ 5 ∧ d.len ≠ 256) ∧
    (regionExact (atHome .unshare [region 2 0]) 0 0 0 256).isSome = true ∧
    sharesOf (atHome .unshare [region 2 0]) 0 (groupParty 0 0 0) 0 0 = none := by decide +kernel

/-- A region of 256 bytes that the group holds, with no lender or with three. -/
theorem meets_LendAndParkTransfer :
    let p := groupParty 0 0 0
    ([(.lend, region 1 p), (.lend, { region 1 p with lend := [1, 2, 3] }), (.park, region 1 p)] : List (OwnKind × Deckle)).all (fun e =>
      decide (regionExact (atHome e.1 [e.2]) 0 0 0 256 = some e.2 ∧ isFarObj (atHome e.1 [e.2]) 0 0 = false ∧ e.2.state = 1 ∧ e.2.holder = p ∧
        stuckDirty (atHome e.1 [e.2]) (partyCores (atHome e.1 [e.2]) p) (inRegion (atHome e.1 [e.2]) 0 0 0 256) = none)) = true ∧
    teamParty 0 0 ≠ p ∧ partyLive (atHome .lend [region 1 p]) 0 (teamParty 0 0) = true ∧ partyKind (teamParty 0 0) ≠ 8 ∧
    ([1, 2, 3] : List Nat).length < 4 ∧ (∀ e ∈ regionsIn (atHome .lend [region 1 p]) 0 0 0 256, e.state ≠ 5) := by decide +kernel

/-! Engines. -/

def objEntry (plist imm : Nat) : Nat := at_ plist 160 40 + at_ 65536 120 40 + at_ 1 100 12 + at_ 1 96 4 + at_ imm 95 1
def objCap (n : Nat) : Cap := { fullCap with oid := BitVec.ofNat 28 n }

/-- Beside object 0: immutable objects 1 with the same page, 2 with an absent one, 3 with one on the stack of a die that does not
run, under c4, c5 and c6. The record stands at the first byte of local store. -/
def atEngine (record : Nat) : State :=
  let m := wrNat (wrNat (wrNat atMem.hbm 0 128 (at_ 0x1000 984 40 + at_ 4 956 28 + at_ 1 424 1)) 0x1020 32 (objEntry 0x2000 1)) 0x1040 32
    (objEntry 0x3000 1)
  { (withTeam atMem (fun t => { t with loc := ((upto 64).zip (leBytes 64 record)).foldl (fun m p => tset m p.1 p.2 0) [] })
      (fun g => { g with caps := g.caps ++ [(4, objCap 1), (5, objCap 2), (6, objCap 3)] })) with
    hbm := wrNat (wrNat m 0x1060 32 (objEntry 0x4000 1)) 0x4000 8 (at_ (2 ^ 20) 20 44 + at_ 1 18 2) }

/-- PREF of a lane that it does not drop. -/
theorem meets_PrefLanes :
    may (atEngine 0) {} false [offRefs (.v 0) false, cRead 4] 1 (fun c => c.alone && cacheRoom (atEngine 0) c.core &&
      !(prefLanes (payIssue (atEngine 0) c 1) c (accessOf c 4 rR 0 0 false (.v 0))).isEmpty) = true := by decide +kernel

def nmRecord (ifmt icap bcap : Nat) : Nat := at_ 4 88 40 + at_ 4 48 40 + at_ 1 36 12 + at_ ifmt 28 8 + at_ icap 24 4 + at_ bcap 20 4

/-- What the engine finds of the rows of an NMRED: a bad record, an absent page, a page that no die serves now. -/
def nmFinds (s : State) (c : Ctx) (scat : Bool) (r : Nat) : Bool × Bool × Bool :=
  let d := nmDesc (BitVec.ofNat 512 r)
  let es := nmEntries c { h := {}, j := 1, w := false, a := 2, r := 2 }
  (d.bad scat, nmAbsent s c.team.ctx (nmSource c d scat es) || nmAbsent s c.team.ctx (nmDest c d scat es),
    nmLost s c.team.ctx (nmSource c d scat es) || nmLost s c.team.ctx (nmDest c d scat es))

/-- NMRED and NMSCAT with a bad record; NMRED whose rows are there, are absent, or stand on a die that does not run. -/
theorem meets_NmRecords :
    [false, true].all (fun scat => may (atEngine (nmRecord 0 4 1)) {} false [sRead 1, vRead 2 2, sName 2] 0 (fun c => c.alone &&
      decide (c.act ≠ 0) && isGo (nmGate { h := {}, j := 1, w := false, a := 2, r := 2 } scat c (atEngine (nmRecord 0 4 1))) &&
      (nmFinds (atEngine (nmRecord 0 4 1)) c scat (nmRecord 0 4 1)).1)) = true ∧
    ([(4, false, false), (5, true, false), (6, false, true)] : List (Nat × Bool × Bool)).all (fun e =>
      let s := atEngine (nmRecord 1 e.1 1)
      may s {} false [sRead 1, vRead 2 2, sName 2] 0 (fun c => c.alone && decide (s.deckles.Pairwise (fun d e => sameEntry d e = false)) &&
        isGo (nmGate { h := {}, j := 1, w := false, a := 2, r := 2 } false c s) &&
        decide (nmFinds s c false (nmRecord 1 e.1 1) = (false, e.2)))) = true := by decide +kernel

/-- A CPY record of n elements of 4 bytes from place 0 to offset at of the destination. -/
def cpyRecord (n scap dcap skind dkind mcast dst : Nat) : Nat :=
  at_ n 448 16 + at_ dst 176 40 + at_ mcast 64 16 + at_ scap 60 4 + at_ dcap 56 4 + at_ skind 52 4 + at_ dkind 48 4 + at_ 2 45 3

/-- CPY with a record of a kind that does not exist, with a feed and no lease, from an absent page, and within local store. -/
theorem meets_CpyRecords :
    ([(cpyRecord 1 0 0 2 0 0 0, true, false, false), (cpyRecord 16 0 0 1 2 1 0, false, true, false),
      (cpyRecord 1 5 0 0 1 0 64, false, false, true), (cpyRecord 1 0 0 1 1 0 64, false, false, false)] :
        List (Nat × Bool × Bool × Bool)).all (fun e =>
      let s := atEngine e.1
      may s {} false [ssrcRefs .zero, sName 2] 0 (fun c =>
        let r := cpyRec (cpyRecOf c { h := {}, a := .zero, r := 2 })
        c.alone && decide (c.act ≠ 0) && isGo (recordGate s c (sregLa c .zero)) && decide (r.bad c.team (teamShape s c.team) = e.2.1) &&
        (e.2.1 || isGo (cpyChecks s c r)) && decide (cpyNoLease s c r = e.2.2.1) && (e.2.1 || decide (cpyAbsent s c r = e.2.2.2)))) = true := by
  decide +kernel

/-- CPYC without a configured slot, and with one of one member. -/
theorem meets_CpycRecords :
    let v := at_ 1 504 8 + at_ 1 328 40 + at_ 4 308 4 + at_ 1 304 4
    let s := atEngine v
    let t := s.updDie 0 (fun d => { d with cslots := [(0, BitVec.ofNat 64 (2 ^ 63 + 2 ^ 49))] })
    may s {} false [ssrcRefs .zero, sName 2] 0 (fun c => isGo (recordGate s c (sregLa c .zero)) &&
      (cpycRec (cpyRecOf c { h := {}, a := .zero, r := 2 })).bad s c.g.die) = true ∧
    may t {} false [ssrcRefs .zero, sName 2] 0 (fun c => isGo (recordGate t c (sregLa c .zero)) &&
      !(cpycRec (cpyRecOf c { h := {}, a := .zero, r := 2 })).bad t c.g.die &&
      isGo (cpycChecks t c (cpycRec (cpyRecOf c { h := {}, a := .zero, r := 2 })))) = true := by decide +kernel

/-! Bond instructions. -/

/-- The team has shape 1 on cluster 0 and, when b, the lease with that bond. -/
def atBond (b : Option Bond) : State :=
  let s := withTeam atMem (fun t => { t with span := 2, bond := 1 }) id
  s.updDie 0 (fun d => { d with bonds := match b with | some b => [(0, b)] | none => [] })

theorem meets_BondInstructionResults :
    let idle : Bond := { die := 0, handle := 0, cluster := 0, shape := 1 }
    let ok := fun (b : Option Bond) (p : State → Ctx → Bool) =>
      may (atBond b) {} false [sName 1] 0 (fun c => c.alone && decide (c.act ≠ 0 ∧ c.team.span = 2 ∧ c.team.bond ≠ 0 ∧ c.team.gleaner = none ∧
        c.team.die = c.die ∧ c.team.handle = c.handle) && p (atBond b) c)
    ok none (fun s c => decide (bondOf s c.die c.handle = none) && !(leaseSpan c.team).any (fun p => (bondAt s p.1 p.2).isSome)) = true ∧
    ok (some { idle with handle := 1 }) (fun s c => decide (bondOf s c.die c.handle = none) &&
      (leaseSpan c.team).any (fun p => (bondAt s p.1 p.2).isSome)) = true ∧
    ok (some idle) (fun s c => decide (bondOf s c.die c.handle = some idle ∧ bondBusy s idle = false ∧ idle.die = c.die)) = true ∧
    ok (some { idle with state := 1 }) (fun s c => decide ((bondOf s c.die c.handle).any (bondBusy s) = true)) = true ∧
    may (atBond (some idle)) {} false [cRead 1, ssrcRefs .zero, sName 1] 0 (fun c => decide (idle.state ≠ 1) &&
      isGo (capGate (atBond (some idle)) c.team.ctx (forkAccess c { h := {}, c := 1, a := .zero, r := 1 }))) = true := by decide +kernel

theorem meets_BondUse :
    may atMem {} false [sName 1] 0 (fun c => c.alone && decide (c.team.span ≠ 2 ∧ c.team.span ≠ 3)) = true ∧
    may (withTeam (atBond none) (fun t => { t with bond := 0 }) id) {} false [sName 1] 0 (fun c => c.alone && decide (c.team.bond = 0)) = true := by
  decide +kernel

/-! Control. Two lanes; k1 is 0, k2 both lanes, k3 the first. -/

def atCtl (g : Group → Group) (t : Team → Team := id) : State :=
  withTeam atMem t (fun x => g { x with masks := [(2, 3), (3, 1)] })

/-- BRA, CALL: no lane, every lane, one of two; JMP with a lane. -/
theorem meets_BranchResults :
    ([(1, 0), (2, 0), (2, 1), (3, 0), (3, 1)] : List (Nat × Nat)).all (fun e => may (atCtl id) (hdrOf 0 e.2) false [kRead e.1] 0 (fun c =>
      let take := c.act &&& readK c.g c.x e.1
      c.alone && isGo (callGate c take 1) && decide (if e.1 = 1 then take = 0 else if e.1 = 2 then take ≠ 0 ∧ take = c.x.mask
        else take ≠ 0 ∧ take ≠ c.x.mask))) = true ∧
    may (atCtl id) {} false [] 0 (fun c => decide (c.x.mask ≠ 0)) = true := by decide +kernel

/-- BRX, CALLX: displacement 0 in lane 0 and 16 in lane 1. -/
theorem meets_LaneBranchResults :
    may (atCtl id) {} false [srcRefs (.v 0) 1] 0 (fun c => c.alone &&
      c.lanes.all (fun l => decide ((((c.sword : Int) + sOf 32 (c.rd (.int 32) (.v 0) l)) % 2 ^ 40).toNat % 4 = 0)) &&
      isGo (callGate c c.act ((laneParts c (.v 0) true).filter (·.call)).length)) = true := by decide +kernel

/-- RET with an entry; JOIN where the split is not at its join, where a member of its family is still to come, and where all wait. -/
theorem meets_SplitAndExitResults :
    met (atCtl (fun g => { g with s0 := some { mask := 3, depth := 1, rsp := some 0 }, rets := [(0, { rpc := 8 })] })) {} (fun c => c.alone &&
      mayPerform (atCtl (fun g => { g with s0 := some { mask := 3, depth := 1, rsp := some 0 }, rets := [(0, { rpc := 8 })] })) c {} false {} 0 true &&
      decide (c.x.depth ≠ 0 ∧ c.x.rsp.bind (tfind c.g.rets) = some { rpc := 8 })) = true ∧
    may (atCtl id) {} false [] 0 (fun c => c.alone && !c.g.joins c.x c.sword) = true ∧
    [Wait.none, .join].all (fun w =>
      may (atCtl (fun g => { g with s0 := some { mask := 1, fam := 1, jpc := some 0 }, fams := [{ id := 1 }]
                                    s1 := some { mask := 2, fam := 1, jpc := some 0, pc := 4, wait := w } })) {} false [] 0 (fun c =>
        let others := (c.g.putSlot c.slot none).splits
        c.alone && c.g.joins c.x c.sword && decide (c.x.fam ≠ 0) && decide (c.g.fam? c.x.fam = some { id := 1 }) &&
        others.all (fun z => decide (z.fam = c.x.fam ∧ z.wait = w ∧ z.jpc = c.x.jpc)) && decide (others ≠ []))) = true ∧
    may (atCtl id) {} false [ssrcRefs .zero] 0 = true := by decide +kernel

/-- A second group of the team, with no arrival anywhere. -/
def besides (g : Group) (t : Team) : Team := { t with ngroups := 2, groups := t.groups ++ [(1, { g with num := 1, slot := 1 })] }
def idleGroup : Group := { num := 1, width := 32, live := 3, s0 := some { mask := 3 } }

/-- EXIT of one lane of two, and of a group's last lanes. -/
theorem meets_ExitResults :
    let ok := fun (c : Ctx) => c.alone && decide (c.team.state = .resident ∧ c.team.gleaner = none ∧ c.team.noDwait = true ∧
      c.team.die = c.die ∧ c.team.handle = c.handle) && c.team.groups.all (fun e => !e.2.exited)
    may (atCtl (fun g => { g with s0 := some { mask := 1 }, s1 := some { mask := 2, pc := 4 } }) (besides idleGroup)) {} false [] 0 (fun c =>
      ok c && decide (c.g.live &&& ~~~c.act ≠ 0)) = true ∧
    may (atCtl id (besides idleGroup)) {} false [] 0 (fun c => ok c && decide (c.g.live &&& ~~~c.act = 0 ∧ c.g.num = c.grp ∧ c.g.pendScalars = 0 ∧
      c.g.pendRegs = [] ∧ lentToEngine (atCtl id (besides idleGroup)) c.team.ctx (groupParty c.die c.handle c.grp) = false ∧
      bondOf (atCtl id (besides idleGroup)) c.die c.handle = none) && c.team.groups.any (fun e => decide (e.1 ≠ c.grp))) = true := by
  decide +kernel

/-! Synchronisation. The grid's record has COHORT. -/

def atSync (g : Group → Group) (o : Group := idleGroup) : State :=
  { (atCtl g (besides o)) with grids := [(0, { state := .running, dies := [0, 1], record := BitVec.ofNat 512 (2 ^ 389) })] }

/-- The other group has yet to arrive; a phase that is complete and one that is not. -/
theorem meets_BarrierResults :
    may (atSync id) {} false [] 0 (fun c => c.alone && decide (c.act ≠ 0 ∧ c.team.gleaner = none ∧ c.team.noDwait = true ∧
      c.team.phaseDone 3 (tget c.g.barCount 3 0) = true ∧ c.g.barMask = [] ∧ c.g.live ≠ 0 ∧ c.g.live &&& ~~~c.x.mask = 0 ∧
      c.team.die = c.die ∧ c.team.handle = c.handle ∧ noCohort c (atSync id) = none ∧ dbarDone (atSync id) c.die c.team.grid c.g.dbarCount = true) &&
      isGo (stuckGate (atSync id) c 1) && isGo (stuckGate (atSync id) c 5)) = true ∧
    (tget idleGroup.barCount 3 0 = 0 ∧ idleGroup.barMask = [] ∧ idleGroup.dbarCount = 0 ∧ idleGroup.dbarMask = 0 ∧
      ∀ y ∈ idleGroup.splits, y.wait = .none) ∧
    may (atSync (fun g => { g with barCount := [(3, 1)] })) {} false [] 0 (fun c => !c.team.phaseDone 3 (tget c.g.barCount 3 0)) = true := by
  decide +kernel

/-- DSIG to the last position of the grid; DWAIT in a grid that stands and in one that is broken; RTEST of a written receipt and of a
pending one. -/
theorem meets_MailboxUnitResults :
    let broken : State := { atSync id with grids := [(0, { state := .broken, dies := [0] })] }
    may (atSync (fun g => { g with scalars := [(1, 1)] })) {} false [ssrcRefs (.s 1), ssrcRefs .one] 0 (fun c => c.alone && decide (c.act ≠ 0) &&
      decide ((([0, 1] : List Nat)[c.rdS false (.s 1) % 16]?) = some 1) &&
      isGo (releaseGate (atSync id) c (sigScope (atSync id) c 1))) = true ∧ ((atSync id).die 1).boot ≠ 3 ∧
    may (atSync id) {} false [ssrcRefs .one, sRead 1] 0 (fun c => isGo (stuckGate (atSync id) c 1) && decide (c.team.gleaner = none ∧
      gridBroken (atSync id) c.team.grid = false ∧ c.team.die = c.die) && c.team.groups.any (fun e => decide (e.1 ≠ c.grp ∧ e.2.dwaitMask = 0))) = true ∧
    may broken {} false [ssrcRefs .one, sRead 1] 0 (fun c => isGo (stuckGate broken c 1) && gridBroken broken c.team.grid) = true ∧
    [0, 2].all (fun p => may (atSync (fun g => { g with pendScalars := p })) {} false [({ s := [2], rs := [1] } : Refs)] 0) = true := by
  decide +kernel

/-! Work, steps and the system. -/

/-- Context 0 with one kernel, whose code capability stands in its entry table. -/
def atGlean : State :=
  { atMem with
    hbm := wrNat (wrNat (wrNat atMem.hbm 0 128 (at_ 0x1000 984 40 + at_ 1 956 28 + at_ 1 424 1 + at_ 0x5000 620 40 + at_ 1 604 16 + at_ 0x6000 384 40))
      0x5000 16 (capBits probeCode)) 0x6000 16 (at_ 4 32 6)
    hbmTags := [0x500] }

/-- An idle mailbox 0 with its episode, and mailbox 16 without one. -/
def atStep : State :=
  atMem.updDie 0 (fun d => { d with episodes := [(0, { mbox := 0 })], mboxes := [(0, { state := .idle 4 })] })

theorem meets_ContinuationAndStepResults :
    may atGlean {} false [vRead 64 16] 2 (fun c => c.alone &&
      c.lanes.all (fun l => decide (entryCause (payIssue atGlean c 2) c.team.ctx (readReg c.g (c.g.wb + 64) l % 2 ^ 16) = none)) &&
      decide (onChip atGlean c.g.die + c.lanes.length ≤ 8192)) = true ∧
    (atGlean.die 0).gleans.Pairwise (fun p q => ¬(p.ctx = q.ctx ∧ p.entry = q.entry)) ∧
    may atStep {} false [srcRefs (.v 0) 1, vRead 8 16, sRead 1] 2 (fun c => c.alone &&
      decide (acceptedLanes atStep c { h := {}, s := 1, k := 4, a := .v 0, b := 8 } = [0]) && isGo (mboxGate atStep c (.v 0)) && isGo (releaseGate atStep c 5)) = true ∧
    (atStep.mbox 0 0).state = .idle 4 ∧
    [true, false].all (fun hd => may atStep {} false [srcRefs (.v 0) 1, vName 8 (takeRegs hd), sName 1] 2 (fun c => c.alone && isGo (mboxGate atStep c (.v 0)))) = true := by
  decide +kernel

/-- TRAP without and with a service ring; BRK without and with a debugger; the last special register; a held event counter. -/
theorem meets_SystemUnitResults :
    let ring := atMem.updDie 0 (fun d => { d with scring := 1 })
    let dbg := atMem.setReg 0x310000 (BitVec.ofNat 64 (2 ^ 63))
    let held : State := { atMem with coreHeld := [0] }
    [atMem, ring].all (fun s => may s {} false [srcRefs (.v 0) 1, sName 1] 0 (fun c => c.alone && decide (c.act ≠ 0) &&
      isGo (localGate c.team 7 64 (trapBlocks c { h := {}, n := 0, a := .zero, r := 1 })) &&
      isGo (seamGate s c 7 (trapBlocks c { h := {}, n := 0, a := .zero, r := 1 })))) = true ∧
    (atMem.die 0).scring.getLsbD 0 = false ∧ (ring.die 0).scring.getLsbD 0 = true ∧
    may atMem {} false [] 0 (fun c => !attached atMem c.team.ctx) = true ∧
    may dbg {} false [] 0 (fun c => attached dbg c.team.ctx && (dbg.grid? c.team.grid).any (fun g => !g.aborted)) = true ∧
    may atMem {} false [vName 8 1] 0 (fun c => c.alone && decide (c.act ≠ 0)) = true ∧ may atMem {} false [sName 1] 0 (fun c => c.alone) = true ∧
    may atMem {} false [ssrcRefs (.s 1)] 0 = true ∧ may held {} false [ssrcRefs .zero] 0 (fun c => decide (2048 * c.team.ctx + c.core ∈ held.coreHeld)) = true := by
  decide +kernel

/-! Rendezvous and the bond stream. -/

/-- A bond of shape 1 that runs the stream of the team. -/
def runBond : Bond := { die := 0, handle := 0, cluster := 0, shape := 1, state := 1 }
def atSeq (b : Bond) (t : Team → Team := id) : State := { (withTeam (atBond (some b)) t id) with curSeq := some (0, 0) }

/-- The sequencer of the state takes the next word of bond b. -/
def seqTakes (s : State) (b : Bond) : Bool :=
  decide (s.curSeq = some (b.die, b.key) ∧ tfind (s.die b.die).bonds b.key = some b ∧ b.saved = false ∧ seqReady s b = true) &&
    (s.die b.die).bonds.all (fun e => decide (e = (b.key, b)))

theorem seqAt_of_takes {s : State} {b : Bond} (h : seqTakes s b = true) : SeqAt s b := by
  unfold seqTakes at h
  simp only [Bool.and_eq_true, decide_eq_true_eq, List.all_eq_true] at h
  obtain ⟨⟨h1, h2, h3, h4⟩, h5⟩ := h
  exact ⟨h1, h2, h3, h4, fun e he _ _ => h5 e he⟩

/-- No count yet, and the same count; the sequencer before and after the last group. -/
theorem meets_RendezvousResults :
    [none, some 1].all (fun n => let s := atBond (some { runBond with rdvs := [(15, { count := n })] })
      may s {} false [ssrcRefs .one] 0 (fun c => c.alone && decide (c.act ≠ 0 ∧ c.team.span = 2 ∧ c.team.bond ≠ 0 ∧ c.team.gleaner = none ∧
        c.team.die = c.die ∧ c.team.handle = c.handle ∧ c.team.noDwait = true ∧ 1 ≤ c.rdS false .one ∧ c.rdS false .one ≤ c.team.ngroups ∧ c.g.live ≠ 0 ∧
        c.g.live &&& ~~~c.x.mask = 0 ∧ c.g.rdvMask = []) && c.team.groups.all (fun e => decide (e.1 = c.grp)) &&
        isGo (stuckGate s c 1) && (bondOf s c.die c.handle).any (fun b => decide (b.broken = false ∧ tget c.g.rdvCount 15 0 ≤ (b.rdv 15).done ∧
          (b.rdv 15).count = n ∧ (b.rdv 15).seqs = 0)))) = true ∧
    [0, 1].all (fun g => let b := { runBond with rdvs := [(15, { count := some 1, groups := g })] }
      seqTakes (atSeq b) b && decide ((b.rdv 15).seqs = 0) && (match (atSeq b).team? 0 0 with
        | some t => decide (t.die = 0 ∧ t.handle = 0 ∧ t.gleaner = none ∧ t.noDwait = true) && !t.groups.isEmpty &&
            t.groups.all (fun e => !e.2.exited && e.2.rdvMask.isEmpty && e.2.splits.all (fun y => !y.atRdv))
        | none => false)) = true := by decide +kernel

/-- A format block: operands of format f (block scaling by stream when scaled), f32 accumulators and output. -/
def block (f bk slen : Nat) : Nat :=
  at_ f 56 8 + at_ bk 52 4 + at_ slen 96 32 + at_ f 184 8 + at_ (if bk = 1 then 2 else bk) 180 4 + at_ slen 224 32 + at_ 1 312 8 + at_ 1 440 8
def withBlock (v : Nat) (t : Team) : Team := { t with loc := ((upto 64).zip (leBytes 64 v)).foldl (fun m p => tset m p.1 p.2 0) [] }

def fmtOf (v : Nat) : FmtBlock := { a := BitVec.ofNat 128 v, b := BitVec.ofNat 128 (v / 2 ^ 128), o := BitVec.ofNat 128 (v / 2 ^ 384) }
def fmtGood (v : Nat) : Bool :=
  let fa := BitVec.ofNat 128 (bits v 127 0)
  let fb := BitVec.ofNat 128 (bits v 255 128)
  operandOk fa 1 && operandOk fb 2 && accOk (BitVec.ofNat 128 (bits v 383 256)) && outputOk (BitVec.ofNat 128 (bits v 511 384)) &&
    decide (fmtClass (descFmt fa) = fmtClass (descFmt fb))

/-- MFMT: a ragged address, one outside the store, a block of no format, one whose scales stand outside, and a good one. -/
theorem meets_FormatBlocks :
    1 % 64 ≠ 0 ∧ (localCheck (bondTeam (atSeq runBond) runBond) 4096 64).isSome = true ∧
    ([(0, false, true), (block 0x13 1 8192, true, false), (block 0x13 0 0, true, true)] : List (Nat × Bool × Bool)).all (fun e =>
      let s := atSeq runBond (withBlock e.1)
      let t := bondTeam s runBond
      seqTakes s runBond && (localCheck t 0 64).isNone && decide (leNat (readLocal t (locIndex t 0 0) 64) = e.1) &&
        decide (fmtGood e.1 = e.2.1) && decide ((streamOk t (fmtOf e.1).a && streamOk t (fmtOf e.1).b) = e.2.2)) = true := by decide +kernel

/-- MLOADB and MDRAIN without a format, with scales that are too short, with a drain past the store, and in order; MMAC of one row
in the three classes, and its faults. -/
theorem meets_StreamOperationResults :
    let plain := { runBond with fmt := some (fmtOf (block 0x13 0 0)) }
    let short := { runBond with fmt := some (fmtOf (block 0x13 1 1)) }
    [runBond, plain, short].all (fun b => seqTakes (atSeq b) b) = true ∧ runBond.fmt = none ∧
    passes (fmtOf (block 0x13 1 1)).b short.curB (scaleBytesB short (fmtOf (block 0x13 1 1))) = true ∧
    passes (fmtOf (block 0x13 0 0)).b plain.curB (scaleBytesB plain (fmtOf (block 0x13 0 0))) = false ∧
    (upto plain.cols).all (fun j => decide ((plain.queue true j).failed = none)) = true ∧
    (bondTeam (atSeq plain) plain).localBytes < 0 + 128 * elemBytes (descFmt (fmtOf (block 0x13 0 0)).o) 128 ∧
    3584 + 1 * elemBytes (descFmt (fmtOf (block 0x13 0 0)).o) 128 ≤ (bondTeam (atSeq plain) plain).localBytes ∧
    (mmacFault runBond false 0 0 1).isSome = true ∧
    [0x13, 0x50, 0x03].all (fun f => let b := { runBond with fmt := some (fmtOf (block f 0 0)), planeFmt := [(0, f), (1, f), (2, f), (3, f)] }
      decide (mmacFault b false 0 0 1 = none) && seqTakes (atSeq b) b) = true := by decide +kernel

/-- MLOOP of no words, with passes left and with none, at the longest body; MSIG past the last position and to it; MWAITF of no bytes, of
bytes that are there, and of the whole queue; MEND with a receipt. -/
theorem meets_StreamControlResults :
    let full := { runBond with feedA := [(0, { bytes := [1, 2] })], receipt := some (0, 15) }
    seqTakes (atSeq full) full = true ∧ (4095 ≠ 0 ∧ 4095 < 4096) ∧ 0 < (tfind full.loops 0).getD (2 - 1) ∧ (tfind full.loops 0).getD (1 - 1) = 0 ∧
    ((atSeq full).grid? (bondTeam (atSeq full) full).grid).any (fun g => decide (g.dies.length ≤ 1 ∧ g.dies[0]? = some 0)) = true ∧
    ((atSeq full).die 0).boot ≠ 3 ∧ ((atSeq full).group? 0 0 0).any (fun g => !g.exited) = true ∧
    (2 ^ full.rows ≤ 2 ^ full.rows ∧ full.capacity false < full.capacity false + 1) ∧
    (1 < 2 ^ full.rows ∧ 2 ≤ full.capacity false ∧ (full.queue false 0).failed = none ∧ 2 ≤ (full.queue false 0).bytes.length) ∧
    (full.queue false 0).bytes.length < full.capacity false := by decide +kernel

/-! The Granary. -/

/-- An episode of mailbox 0 that runs on hart 0 with x10 = 0x10000000, its whole window, and its mailbox as b. -/
def atEpisode (b : Mbox) (restart : Bool := false) : State :=
  let e : Episode := { mbox := 0, size := 1, pc := 0x10000000, state := .run, regs := [(10, 0x10000000), (11, 1)], mayRestart := restart }
  let s := State.reset.updDie 0 (fun d => { d with boot := 1, cycle := 1, episodes := [(0, e)], harts := [(0, { running := some 0 })]
                                                   mboxes := [(0, b)] })
  { s with curHart := some (0, 0) }

theorem meets_GranaryInstructionResults :
    ([{ state := .owe 0 }, { state := .pending 1 }, { state := .idle 2 }, { state := .owe 3, obs := some (0, []) }] : List Mbox).all (fun b =>
      let s := atEpisode b
      decide (s.mbox 0 0 = b) && (s.ep? 0 0).any (fun e => decide (s.curHart = some (0, 0) ∧ e.state = .run ∧ e.spent = false ∧
        risingFrom none (s.die 0).episodes = true ∧ e.rd 10 % 8 = 0 ∧ e.inSram (e.rd 10) 128 = true ∧ e.inSram (e.rd 0) 128 = false ∧
        e.rd 11 % 8 ≠ 0 ∧ imagePoison s 0 (e.rd 10) = false ∧ e.rd 0 % 2 = 0 ∧ e.mayRestart = false) &&
        (s.die 0).episodes.all (fun x => decide (x.2.mbox = x.1)))) = true := by decide +kernel

/-! The steps of the module's other agents: their conditions hold in these states. What Config leaves open (the signature and hash
functions, log 6, the table hash, log 5, and the free values, log 8) decides between clauses whose other conditions hold. -/

/-- Power is off, and on; die 15 is in bring-up. -/
theorem meets_PowerAndBootEvents :
    let boot : State := { State.reset with arg := { State.reset.arg with die := 15, v := 1 } }
    let v := Config.verifyImage boot.fuseDigest (bits boot.arg.v.toNat 63 24) boot.hbm
    ({ State.reset with powered := false } : State).powered = false ∧ State.reset.powered = true ∧
    boot.arg.die < 16 ∧ (boot.die 15).boot ≠ 1 ∧ (boot.die 15).boot ≠ 3 ∧ boot.arg.v.getLsbD 0 = true ∧
    (v.keyOk = false ∨ v.sigOk = false ∨ v.version < boot.rollback ∨ v.keyOk = true ∧ v.sigOk = true ∧ boot.rollback ≤ v.version ∧
      (v.measureOk = false ∨ v.startOk = false ∨ v.measureOk = true ∧ v.startOk = true)) := by
  refine ⟨rfl, rfl, by decide, by decide, by decide, by decide, ?_⟩
  generalize Config.verifyImage _ _ _ = v
  cases v.keyOk <;> cases v.sigOk <;> cases v.measureOk <;> cases v.startOk <;> simp <;> bv_omega

/-- The attestation commands with die 0 up: a version above its own, and its own with and without a fuse that fails. -/
theorem meets_Attestation :
    (lowestUp atUnit).isSome = true ∧ atUnit.running 0 = true ∧ (atUnit.die 0).version < 1 ∧
    (upto 16).all (fun d => !atUnit.running d || decide (0 ≤ (atUnit.die d).version)) = true := by decide +kernel

/-! Queue 0 of context 0, its ring of 64 records in host memory. -/

def rawRecord (teams depv : Nat) (gen : Nat := 1) (cohort : Nat := 0) (deadline : Nat := 0) : Nat :=
  at_ teams 480 32 + at_ 1 468 12 + at_ cohort 389 1 + at_ depv 387 1 + at_ deadline 240 32 + at_ gen 232 8
def withCrc (r : Nat) : Nat := r + at_ (crc16 ((upto 64).map (fun k => BitVec.ofNat 8 (r / 2 ^ (8 * k))))) 216 16

def atQueue (record : Nat) (q : QueueSt) (head : Nat := 0) : State :=
  { atGlean with
    hbm := wrNat atGlean.hbm 0x8000 32 (at_ 0x10000 192 64 + at_ head 128 32 + 1), host := wrNat [] 0x10000 64 record
    mreg := [(0x110, 0x8000)], queues := [(0, q)] }

set_option maxRecDepth 100000 in
/-- A record that is valid, refused for its shape, of another generation at the first fetch and after the eighth. -/
theorem meets_QueueFetch :
    ([(withCrc (rawRecord 1 0), 0), (withCrc (rawRecord 0 0), 0), (rawRecord 1 0 7, 0), (rawRecord 1 0 7, 8)] : List (Nat × Nat)).all (fun e =>
      let s := atQueue e.1 { tail := 1, refetch := e.2 }
      mayFetch s 0 && decide (nextQueue s 0 = some 0 ∧ headRecord s 0 = BitVec.ofNat 512 e.1 ∧
        recordValid (headRecord s 0) 0 64 = decide (e.1 / 2 ^ 232 % 256 = 1))) = true ∧
    (let s := atQueue (withCrc (rawRecord 1 0)) { tail := 1 }
     refusal (HeadTaken s 0) 0 (readQueue s 0) (launchOf (headRecord s 0)) = none) ∧
    (let s := atQueue (withCrc (rawRecord 0 0)) { tail := 1 }
     refusal (HeadTaken s 0) 0 (readQueue s 0) (launchOf (headRecord s 0)) = some 0) := by decide +kernel

/-- A doorbell for 64 records and for 65; the queue error word; a grid that starts, one whose die is down, and the two instants. -/
theorem meets_QueueAndGridEvents :
    let s := atQueue 0 {}
    (readQueue s 0).dev = false ∧ (64 + 2 ^ 32 - (readQueue s 0).head) % 2 ^ 32 ≤ (readQueue s 0).size ∧
    (readQueue s 0).size < (65 + 2 ^ 32 - (readQueue s 0).head) % 2 ^ 32 ∧ (1 : Dword).getLsbD 0 = true ∧
    (let g : Grid := { state := .ready, dies := [0], deadline := some 1, spillSince := some (0, 0) }
     let down : Grid := { state := .ready, dies := [1] }
     let late : State := { s with grids := [(0, g), (1, down)], dies := [(0, { s.die 0 with cycle := 2 ^ 20 })] }
     late.grid? 0 = some g ∧ late.grid? 1 = some down ∧ g.allDies = [0] ∧ down.allDies = [1] ∧ late.running 0 = true ∧ late.running 1 = false ∧
     wordGrids late 0 < 512 ∧ g.missed = false ∧ g.state ≠ .complete ∧ 1 ≤ (late.die 0).cycle ∧ g.spillLogged = false ∧
     0 + 2 ^ 20 ≤ (late.die 0).cycle) := by decide +kernel

/-! Placement and pre-emption. -/

/-- A running grid whose one team is not placed. -/
def atList : State :=
  { atGlean with
    hbm := wrNat atGlean.hbm 0 128 (at_ 0x1000 984 40 + at_ 1 956 28 + at_ 16 780 16 + at_ 1 424 1 + at_ 0x5000 620 40 + at_ 1 604 16 + at_ 0x6000 384 40)
    grids := [(1, { state := .running, dies := [0], record := BitVec.ofNat 512 (rawRecord 1 0) })], arg := { atUnit.arg with die := 0 } }

theorem meets_TeamPlacement :
    atList.running 0 = true ∧ headEnt atList 0 [] = some (.fresh 1 0) ∧ (atList.grid? 1).any (fun g => !g.launch.cohort) = true ∧
    ((wantOf atList 0 (.fresh 1 0)).any (fun w => (spillPlan atList w).any (fun plan => (findSpan atList w).any (fun p =>
      (headEnt (placeFresh atList 1 0 w p.1 (withSpills plan p.2)) 0 []).isNone)))) = true := by decide +kernel

/-- The probe's team in a state with a request, at a count of its die. -/
def atTeam (st : TeamState) (p : Option Preempt) (cycle : Nat := 1) (g : Group → Group := id) (gr : Grid := { state := .running, dies := [0] }) : State :=
  let s := withTeam atUnit (fun t => { t with state := st, preempt := p }) g
  { (s.updDie 0 (fun d => { d with cycle := cycle })) with grids := [(0, gr)] }

def teamOk (s : State) (f : Team → Bool) : Bool := (s.team? 0 0).any (fun x => decide (x.die = 0 ∧ x.handle = 0) && f x)

/-- Decided in time and too late; past its deadline while it drains, saves and discards; saved; discarded, its grid aborted or not;
restored; asked for by the driver with and without a request before; its quantum spent. -/
theorem meets_PlacementAndPreemptionEvents :
    [2 ^ 30, 0].all (fun dl => teamOk (atTeam .deciding (some { deadline := dl })) (fun x => atRest x &&
      decide (bondOf (atTeam .deciding (some { deadline := dl })) 0 0 = none))) = true ∧
    [TeamState.draining, .saving, .discarding].all (fun st => teamOk (atTeam st (some { deadline := 1 })) (fun x => decide (x.state = st) &&
      x.preempt.any (fun p => decide (p.deadline ≤ 1 ∧ p.missed = false)))) = true ∧
    teamOk (atTeam .saving none) atRest = true ∧
    [false, true].all (fun ab => let s := atTeam .discarding none 1 id { state := .running, dies := [0], aborted := ab }
      teamOk s (fun x => mayDispose s x && risingFrom none x.groups && x.groups.all (fun e => decide (e.2.num = e.1))) && (s.grid? 0).any (fun g => decide (g.aborted = ab))) = true ∧
    teamOk (atTeam .restoring none) (fun x => decide (x.gleaner = none ∧ x.groups ≠ [] ∧ x.noDwait = true ∧ x.dwait = none) &&
      x.groups.all (fun e => !e.2.exited && e.2.debugPending.isNone) && decide (bondOf (atTeam .restoring none) 0 0 = none)) = true ∧
    [TeamState.deciding, .draining, .saving, .saved, .discarding, .discarded].all (fun st =>
      teamOk (atTeam st (some { deadline := 5 })) (fun x => x.gleaner.isNone && x.preempt.isSome)) = true ∧
    teamOk (atTeam .resident none) (fun x => x.gleaner.isNone && decide (x.state = .resident)) = true ∧
    teamOk (atTeam .resident none 40001) (fun x => decide (x.quantumSpent = false) && spentQuantum (atTeam .resident none 40001) x &&
      decide ((entries (atTeam .resident none 40001) 0) = [])) = true := by decide +kernel

/-! Waits, messages and services. -/

/-- A split that sleeps until count 1 and one that sleeps until count 2, at count 1; a team's wait that is over because the grid is
broken, because its condition holds, and because its time has come. -/
theorem meets_SleepsAndWaits :
    (match (atTeam .resident none 1 (fun g => { g with s0 := some { mask := 1, wait := .sleep 1 }, s1 := some { mask := 2, wait := .sleep 2 } })).group? 0 0 0 with
      | some g => g.splits.any (fun y => decide (y.wait = .sleep 1)) && g.splits.any (fun y => decide (y.wait = .sleep 2))
      | none => false) = true ∧
    (let wait := fun (b : Bool) (v : Dword) => { (withTeam atUnit (fun t => { t with state := .parked, dwait := some { value := v, deadline := 1 } }) id) with
        grids := [(0, { state := .running, dies := [0], brokenAt := if b then some 0 else none })] }
     ([(true, 0), (false, 0), (false, 1)] : List (Bool × Dword)).all (fun e => teamOk (wait e.1 e.2) (fun x => x.dwait.any (fun o =>
       decide (o.status = none ∧ gridBroken (wait e.1 e.2) x.grid = e.1 ∧ condHolds o.cond (dieWord (wait e.1 e.2) x.grid x.pos o.word) o.value.toNat = decide (e.2 = 0) ∧
         o.deadline ≠ 0 ∧ o.deadline ≤ ((wait e.1 e.2).die x.die).cycle))))) = true := by decide +kernel

/-- A message to a grid whose words stand and to one whose words are gone; a gleaned group whose deadline is reached. -/
theorem meets_MessagesAndGleans :
    let m : Dsig := { grid := 0, pos := 0, word := 63, op := .add, value := 1, from_ := 5 }
    let s := fun held : Bool => { (atUnit.updDie 0 (fun d => { d with dsigs := [m], gleans := [{ ctx := 0, entry := 0, recs := [{ due := 1 }] }] })) with
      grids := [(0, { state := .running, dies := [0], wordsHeld := held })] }
    [false, true].all (fun b => decide (((s b).die 0).dsigs[0]? = some m) && ((s b).grid? 0).any (fun g => decide (g.wordsHeld = b)) &&
      (((s b).die 0).gleans.find? (Glean.is 0 0)).any (fun g => g.recs.any (fun r => decide (r.due ≤ ((s b).die 0).cycle)))) = true := by decide +kernel

/-- A step waits in mailbox 0 for lane 127. -/
theorem meets_StepDelivery :
    let s := { (atUnit.updDie 0 (fun d => { d with mboxes := [(0, { obs := some (1, [2]) })] })) with takes := [{ id := 3, reg := 15, base := 8, lanes := [(127, 0)] }] }
    (s.takes.find? (fun p => decide (p.id = 3))).any (fun o => decide (o.lanes = [(127, 0)] ∧ o.missing = false ∧ o.reg < 16 ∧ takeBefore s 0 o 0 = false)) = true ∧
    (s.mbox 0 0).obs = some (1, [2]) ∧ s.ep? 0 0 = none ∧
    teamOk s (fun x => decide (x.gleaner = none ∧ x.groups ≠ [] ∧ x.noDwait = true ∧ x.dwait = none ∧ bondOf s 0 0 = none ∧ x.state ≠ .discarding) &&
      x.groups.all (fun e => !e.2.exited) && (x.group? 0).any (fun g => decide (g.die = 0))) = true := by decide +kernel

/-- A group parked by TRAP with a block in lane 0, on a ring of one record and one slot; the host's answer to its slot, to a slot that is
free, and of a status that does not exist; its return. -/
def atService (slots : List SvcSlot) (g : Group → Group) : State :=
  (withTeam atUnit id (fun x => g { x with residence := .trapParked, service := some (1, 1, 2, [(0, 64)]), s0 := some { mask := 1, wait := .service } })).updDie 0
    (fun d => { d with scring := 0x100001, svcQueue := [(0, 0, 0)], slots := slots })

theorem meets_Services :
    (let s := atService [] id
     let y := s.die 0
     decide (y.svcQueue = [(0, 0, 0)] ∧ freeSlot y = some 0 ∧ s.running 0 = true ∧ y.scring.getLsbD 0 = true ∧ ringRoom y = true ∧ s.hostLinkDown = false) &&
       teamOk s (fun x => x.locPoison.isEmpty && (x.group? 0).any (fun g => g.service.isSome))) = true ∧
    (let s := atService [{ slot := 0, handle := 0, grp := 0 }] id
     decide (s.running 0 = true) && ((s.die 0).slots.find? (fun e => decide (e.slot = 0))).any (fun e => !e.orphan) && teamOk s (fun x => (x.group? 0).isSome) &&
       (s.die 0).slots.all (fun e => decide (e.slot ≠ 1))) = true ∧
    (let s := atService [] (fun g => { g with serviceStatus := some 0 })
     teamOk s (fun x => decide (x.gleaner = none ∧ x.groups ≠ [] ∧ x.noDwait = true ∧ x.dwait = none ∧ bondOf s 0 0 = none ∧ x.state = .resident) &&
       x.groups.all (fun e => !e.2.exited && e.2.debugPending.isNone) &&
       (x.group? 0).any (fun g => decide (g.serviceStatus = some 0 ∧ g.residence = .trapParked ∧ s.running g.die = true)))) = true := by decide +kernel

/-! Ownership and pages. -/

def ownResult (install : Option (Nat × Nat × Nat × Nat)) (holds : List Hold := []) : State :=
  { atUnit with ownOps := [{ homeOp .lend with result := some 0, install := install, holdSince := none }], holds := holds
                deckles := [region 1 (groupParty 0 0 0)] }

/-- A status without and with a region to enter: a hold, a share, and with a full cache whose hold list has no room. -/
theorem meets_OwnershipStatuses :
    let p := groupParty 0 0 0
    let full : List Hold := (upto 256).map (fun i => { party := p, oid := 0, base := 256 * i, len := 256, cached := [0] })
    (findOwn (ownResult none) 7).any (fun o => decide (o.result.isSome = true ∧ o.quiet = false ∧ o.install = none ∧ o.reg < 16)) = true ∧
    teamOk (ownResult none) (fun x => decide (x.gleaner = none ∧ x.groups ≠ [] ∧ x.noDwait = true ∧ x.dwait = none ∧ bondOf (ownResult none) 0 0 = none ∧
      x.state ≠ .discarding) && x.groups.all (fun e => !e.2.exited) && (x.group? 0).isSome) = true ∧
    spillFor (ownResult (some (p, 0, 0, 256))) 0 p = some (ownResult (some (p, 0, 0, 256))) ∧ (regionExact (ownResult (some (p, 0, 0, 256))) 0 0 0 256).any (fun d => decide (d.holder = p)) = true ∧
    spillFor (ownResult (some (p, 0, 0, 256)) full) 0 p = none := by decide +kernel

/-- A hold in the hold list only; a full list for 2^20 counts. -/
theorem meets_HoldLists :
    let s := { (ownResult none [{ party := groupParty 0 0 0, len := 256 }]) with
      ownOps := [{ homeOp .lend with result := some 0, holdSince := some 0 }], dies := [(0, { atUnit.die 0 with cycle := 2 ^ 20 })] }
    (s.holds[0]?).any (fun h => decide (0 ∈ holdCores s h.party ∧ 0 ∉ h.cached ∧ (cachedOn s 0).length < 256)) = true ∧
    (findOwn s 7).any (fun o => o.holdSince.any (fun t => decide (t + 2 ^ 20 ≤ (s.die o.die).cycle))) = true := by decide +kernel

/-- Reclaims: of bytes that are no region, of one that is not POISONED, of one that is, with and without zeroes. -/
theorem meets_Reclaims :
    let at5 := { atMem with deckles := [{ base := 0, len := 256, state := 5 }] }
    let at1 := { atMem with deckles := [{ base := 0, len := 256, state := 1 }] }
    (bits 1 23 0 ≠ 0) ∧ [at5, at1].all (fun s => (s.deckles.find? (fun d => decide (d.ctx = bits 0 35 24) && decide (d.oid = bits 0 63 36) &&
      decide (d.base = bits 1 63 24))).isSome) = true ∧ (1 : Nat) % 4 = 1 ∧ bits 1 23 2 = 0 ∧ (256 ≠ 0 ∧ 0 % 65536 + 256 ≤ 65536) ∧
    pageState (readPage at5 (readObj at5 0 0) 0) = 1 := by decide +kernel

theorem meets_Reclaims_homes (d : Deckle) : (atMem.die (tableHome d)).boot ≠ 3 := no_failed_die (by decide +kernel) _

/-- The last page of a PAGEIN, resident; an absent page before another, with no free frame and with one; a dirty
line of L1 and one of L2. -/
theorem meets_PagesAndLines :
    let op : PageinOp := { id := 1, oid := 0, reg := 3, pages := [0] }
    let one := { atMem with pageins := [op] }
    let two := { atEngine 0 with pageins := [{ op with oid := 2, pages := [0, 1] }] }
    (one.pageins.find? (fun o => decide (o.id = 1))).any (fun o => decide (o.pages = [0] ∧ pageState (readPage one (readObj one 0 0) 0) = 1 ∧
      one.running (bits (pageFrame (readPage one (readObj one 0 0) 0)) 23 20) = true ∧ o.reg < 16)) = true ∧
    (let ob := readObj two 0 2
     pageState (readPage two ob 0) = 0 ∧ two.running ob.hstk = true ∧ pageAddr ob 0 + 8 ≤ 2 ^ 40 ∧ (readList two 0 ob.hstk).empty = true) ∧
    cachedState.lines.all (fun c => decide (c.dirty ≠ 0)) = true ∧ [false, true].all (fun b => cachedState.lines.any (fun c => c.l2 == b &&
      (bif b then decide (({ atUnit with lines := cachedState.lines } : State).lines.find? (lineIs true c.unit c.line) = some c) && decide (reach { atUnit with lines := cachedState.lines } (c.unit / 16) (128 * c.line) = .ok)
       else cacheRoom cachedState c.unit))) = true := by
  decide +kernel

/-- The press sweep of die 0 comes to the page of object 0: touched, and untouched with its object not to be pressed. -/
theorem meets_PressSweep :
    let ob := readObj atMem 0 0
    let kept := wrByte atMem.hbm (0x1000 + 11) (BitVec.ofNat 8 (rdNat atMem.hbm (0x1000 + 11) 1 ||| 64))
    let at_ := fun (acc : Bool) => wrNat kept (pageAddr ob 0) 8 (readPage atMem ob 0 + acc.toNat * 2 ^ 17)
    [false, true].all (fun acc => let s : State := { atMem with hbm := at_ acc }; let o := readObj s 0 0; let e := readPage s o 0
      decide (nextVisit s 0 = some 0 ∧ s.running 0 = true ∧ o.valid = true ∧ o.far = false ∧ o.nopress = true ∧ 65536 * 0 < o.size ∧ pageState e = 1 ∧
        bits (pageFrame e) 23 20 = 0 ∧ pageAddr o 0 + 8 ≤ 2 ^ 40 ∧ tget s.pressVisits (pageAddr o 0) 0 = 0 ∧ bits e 17 17 = acc.toNat)) = true := by decide +kernel

/-- A free frame on stack 0 for the absent page of object 2; a page that was touched, and one that is never pressed; a line of L2 whose home
has a path. -/
theorem meets_FramesAndSweeps :
    (let s := { atEngine 0 with hbm := wrNat (wrNat (wrNat (atEngine 0).hbm 0 128 (at_ 0x1000 984 40 + at_ 4 956 28 + at_ 0x9000 564 40 + at_ 1 424 1))
        0x9000 64 (at_ 1 160 32 + at_ 0xA000 88 40 + at_ 6 83 5)) 0xA000 8 (at_ 77 16 24) }
     (takeFrame s 0 0).any (fun p => decide (p.1 = 77)) = true ∧ pageState (readPage s (readObj s 0 2) 0) = 0) ∧
    (let s := { atMem with hbm := wrNat (wrNat atMem.hbm 0x2000 8 (at_ 16 20 44 + at_ 1 18 2 + at_ 1 17 1)) 0x1000 32 (objEntry 0x2000 0 + at_ 1 94 1) }
     (readObj s 0 0).nopress = true ∧ bits (readPage s (readObj s 0 0) 0) 17 17 = 1) ∧
    (let s := { atUnit with lines := cachedState.lines }
     (match reach s (0 / 16) (128 * 1) with | .ok => true | _ => false) = true) := by decide +kernel

/-! Engines. -/

def isOk : Got α → Bool
  | .ok _ => true
  | _ => false

def cpyOp (record : Nat) : EngOp := { id := 1, record := BitVec.ofNat 512 record, dst := fullCap, reg := 2, party := copyParty 0 1 }

/-- An engine's operation with the lower half of object 0 lent to it; the schedulers of pair 0 have been served in this count. -/
def atEng (e : EngOp) : State :=
  { (atMem.setPair 0 0 { atMem.pair 0 0 with servedAt := (atMem.die 0).cycle + 1, served := 8 }) with
    engines := [e], arg := { atMem.arg with id := 1 }
    deckles := [{ base := 0, len := 32768, state := 4, holder := e.party, lend := [groupParty 0 0 0] }] }


/-- The move that ends, one whose index word stands outside local store, the last element from local store to the object, and the second of
two ahead of its turn. -/
theorem meets_CopyMoves :
    (let e := { cpyOp (cpyRecord 1 0 0 1 0 0 64) with next := 1 }
     (findEng (atEng e) 1).any (fun x => decide (x.kind = .cpy ∧ x.isFeed = false ∧ x.status = none ∧ x.frozen = false ∧ x.want = 0)) = true ∧
       (cpyRec e.record).total ≤ e.next ∧ teamOk (atEng e) (fun _ => true) = true) ∧
    (let e := cpyOp (cpyRecord 1 0 0 1 0 0 64 + at_ 1 42 1 + at_ 8192 144 32)
     e.next < (cpyRec e.record).total ∧ teamOk (atEng e) (fun x => ((cpyRec e.record).elem x 0 0).isNone) = true) ∧
    (let e := { cpyOp (cpyRecord 1 0 0 1 0 0 64) with paid := 1 }
     let r := cpyRec e.record
     e.next + 1 = r.total ∧ e.short r.es = 0 ∧ teamOk (atEng e) (fun x => (r.elem x 0 0).any (fun y => isOk (elemRead (atEng e) e r x y) &&
       (match elemTargets (atEng e) e r x y.dst false with | .ok (.home _) => true | _ => false))) = true) ∧
    (let e := { cpyOp (cpyRecord 2 0 0 1 0 0 64) with paid := 1 }
     let r := cpyRec e.record
     let i := e.next + 1
     e.ahead = [] ∧ i < r.total ∧ e.short (2 * r.es) = 0 ∧ teamOk (atEng e) (fun x => (r.elem x 0 i).any (fun y => isOk (elemRead (atEng e) e r x y) &&
       (match elemTargets (atEng e) e r x y.dst false with | .ok (.home _) => true | _ => false))) = true) := by decide +kernel

/-- An installment of a copy, and the one of an NMRED's issue. -/
theorem meets_Installments :
    (let e := { cpyOp 0 with want := 3 }
     (findEng (atEng e) 1).any (fun x => decide (x.isNm = false ∧ mayServe (atEng e) 0 0 false x.ticket = true ∧ engOwes (atEng e) x = 3)) = true) ∧
    (let e := { cpyOp 0 with kind := .nmred, count := 16 }
     (findEng (atEng e) 1).any (fun x => decide (x.isNm = true ∧ engOwes (atEng e) x ≠ 0 ∧
       min (engOwes (atEng e) x) ((atEng e).pair 0 0).purse = engOwes (atEng e) x ∧ mayServe (atEng e) 0 0 false x.ticket = true)) = true) := by decide +kernel

/-- A feed that has moved all, and one with a whole unit, to queue 0 of the A feed; a twin's unit at the seam. -/
theorem meets_Feeds :
    let b : Bond := { runBond with state := 0 }
    let at_ := fun e : EngOp => { (atBond (some b)) with engines := [e], arg := { atMem.arg with id := 1 } }
    [{ cpyOp (cpyRecord 16 0 0 1 2 1 0) with next := 16, paid := 1 },
     { cpyOp (cpyRecord 17 0 0 1 2 1 0) with next := 16, unit := List.replicate 64 (7, false), paid := 1 }].all (fun e =>
      (findEng (at_ e) 1).any (fun x => decide (x.isFeed = true ∧ x.status = none ∧ x.frozen = false ∧ x.want = 0 ∧ feedHead (at_ e) b x = true ∧
        bondOf (at_ e) 0 0 = some b ∧ tfind ((at_ e).die 0).bonds 0 = some b ∧ b.key = 0 ∧ b.saved = false ∧ b.op = none ∧ x.handle = b.handle ∧ x.short 64 = 0 ∧
        ((b.queue false 0).bytes.length + 64 ≤ b.capacity false) ∧ (x.unit.length < 64 ∧ (cpyRec x.record).total ≤ x.next ∨
          64 = x.unit.length ∧ x.next < (cpyRec x.record).total)) && x.unit.all (fun y => !y.2))) = true ∧
    (teamOk (atBond (some b)) (fun x => x.groups.any (fun g => !g.2.exited))) = true ∧
    (let t : Bond := { runBond with shape := 5, twin := true, feedA := [(0, { bytes := List.replicate 64 1 })] }
     let s := atBond (some t)
     let q := t.queue false 0
     let sq := tget t.seam 0 { rpos := q.rpos, wpos := q.rpos }
     t.op = none ∧ 0 < t.rows ∧ (tget s.seams 0 {}).losses < 3 ∧ (tget s.seams 0 {}).till = none ∧
     ((q.bytes.drop ((sq.wpos + 2 ^ 32 - q.rpos) % 2 ^ 32)).take 64).length = 64 ∧ sq.bytes.length + 64 ≤ t.capacity false) := by decide +kernel

/-- An NMRED under way with one entry in silo 0 and with none; a receipt without and with a region that goes back. -/
theorem meets_BurstsAndReceipts :
    (let e := { cpyOp (nmRecord 1 4 1) with kind := .nmred, next := 1, entries := [{ lane := 0, row := 0, bag := 1, weight := 0x3F800000 }] }
     (findEng (atEng e) 1).any (fun x => decide (x.isNm = true ∧ x.status = none ∧ x.next ≠ 0 ∧ lendsStand (atEng e) x = true) && [0, 5].all (fun u =>
       decide ((x.entries.filter (fun y => decide (siloOf (elemAddr (atEng e) 0 (nmWritten x y).1 (nmWritten x y).2) = u))).length = if u = 0 then 1 else 0))) = true) ∧
    (let p := groupParty 0 0 0
     let d : Deckle := { base := 0, len := 256, state := 4, holder := copyParty 0 1, lend := [p] }
     let e := { cpyOp 0 with status := some 0, lends := [(0, 0)] }
     let s := { atEng e with deckles := [d] }
     (findEng s 1).any (fun x => decide (x.status = some 0 ∧ x.isFeed = false ∧ x.reg < 16)) = true ∧
     s.deckles.find? (fun y => decide (y.ctx = e.ctx) && decide (y.oid = d.oid) && decide (y.base = d.base) && decide (y.state = 4)) = some d ∧
     nextLender s d.ctx none d.lend.reverse = some (p, []) ∧ spillFor s d.ctx p = some s ∧
     teamOk s (fun x => decide (x.gleaner = none ∧ x.groups ≠ [] ∧ x.noDwait = true ∧ x.dwait = none ∧ bondOf s 0 0 = none ∧ x.state ≠ .discarding) &&
       x.groups.all (fun y => !y.2.exited) && (x.group? 0).isSome) = true) := by decide +kernel

/-- A collective of two members with this module's contribution here; its result; a slot configured and one given up. -/
theorem meets_Collectives :
    let rec_ := at_ 5 504 8 + at_ 1 328 40 + at_ 7 286 16
    let e := { cpyOp rec_ with kind := .cpyc }
    let k : Collective := { slot := 0, seq := 7, fmt := 5, n := 2, ranks := [0], acc := [1] }
    let s := { atEng e with collectives := [k], dies := [(0, { atMem.die 0 with cslots := [(0, BitVec.ofNat 64 (2 ^ 63 + 2 * 2 ^ 49))] })] }
    memberOps s 0 7 = [e] ∧ s.collectives.find? (sameColl 0 7) = some k ∧ 1 ∉ k.ranks ∧ 1 < cpycMembers s 0 (cpycRec e.record) ∧ opRank s e = 0 ∧ farRank (s.setReg 0x118 (BitVec.ofNat 64 (2 ^ 63))) 0 1 = true ∧
    (cpycRec e.record).cop ≤ 1 ∧ k.fmt = (cpycRec e.record).fmt ∧ k.acc.length = (cpycRec e.record).nelem ∧ opRank s e ≠ 1 ∧
    ({ k with ranks := [0, 1] } : Collective).n ≤ ({ k with ranks := [0, 1] } : Collective).ranks.length ∧
    (BitVec.ofNat 64 (2 ^ 63) : Dword).getLsbD 63 = true ∧ (0 : Dword).getLsbD 63 = false ∧ (slotEntry s 0 0).isSome = true := by decide +kernel

/-- A stream to be started; an operation to be charged, of whose pairs none is paid and all are; operations that are ready. -/
theorem meets_BondSteps :
    let w : Bond := { runBond with starting := true }
    let o : BondOp := { instr := .mmac 0 0 1, charge := 4 }
    let unpaid : Bond := { runBond with fmt := some (fmtOf (block 0x13 0 0)), op := some o }
    let paid : Bond := { unpaid with holds := [(0, 8), (1, 8), (2, 8), (3, 8)] }
    let s := (atBond (some unpaid)).setPair 0 0 { servedAt := 2, served := 8 }
    tfind ((atBond (some w)).die 0).bonds 0 = some w ∧ w.key = 0 ∧ w.saved = false ∧ w.starting = true ∧ seqTeam s unpaid = true ∧ o.started = false ∧ o.charge ≠ 0 ∧
    dedup (unpaid.cores.map (fun c => 64 * (c / 128) + c % 128 / 2)) = [0, 1, 2, 3] ∧ mayServe s 0 0 true o.ticket = true ∧
    ([1, 2, 3] : List Nat).all (fun j => decide ((s.pair 0 j).purse = 0 ∧ tget unpaid.holds j 0 < 2 * o.charge)) = true ∧
    ([0, 1, 2, 3] : List Nat).all (fun j => decide (2 * o.charge ≤ tget paid.holds j 0)) = true ∧
    (upto paid.rows).all (fun i => (paid.queue false i).failed.isNone) = true ∧
    ([.mloadb 1, .mmac 7 0 128, .mmact 0 1 32, .mdrain 7 0 128] : List Instr).all (fun i => (opDamage unpaid { o with instr := i, ready := true }).isNone) = true := by
  decide +kernel

/-! Energy and the Granary. -/

/-- Die 0 runs at a count, with f done to it. -/
def atDie (cycle : Nat) (f : Die → Die) : State :=
  atMem.updDie 0 (fun d => f { d with cycle := cycle })

/-- Lap starts at counts 0 and 64; ring stops 0 and 62, with and without a ring error; a lap end whose charge fits in 48 bits on a die with no group;
counters held by a core and in memory. -/
theorem meets_EnergyLaps :
    [0, 64].all (fun n => let s := atDie n id
      s.running 0 && decide ((s.die 0).cycle % 64 = 0 ∧ (s.die 0).ring.lapAt ≠ (s.die 0).cycle + 1)) = true ∧
    [0, 62].all (fun p => let s := atDie p id
      s.running 0 && decide (p < 63 ∧ (s.die 0).cycle % 64 = p ∧ (s.die 0).ring.stopAt ≠ (s.die 0).cycle + 1 ∧ (s.die 0).ring.bad = none) &&
        !((s.die 0).island p).stopped) = true ∧
    (let s := atDie 63 (fun d => { d with ring := { b := 80, c := 11, stopAt := 64 }, teams := [] })
     let x := s.die 0
     s.running 0 = true ∧ x.cycle % 64 = 63 ∧ x.ring.stopAt = x.cycle + 1 ∧ x.ring.endAt ≠ x.cycle + 1 ∧
       (upto 128).all (fun c => (groupsOnCore s 0 c).isEmpty) = true ∧
       x.house.toNat + (lapStatic s 0 + if planBallast x.eplanNow then min x.ring.c (x.ring.b / 8) else 0) < 2 ^ 48) ∧
    ({ atMem with coreHeld := [0] } : State).coreHeld.contains (2048 * 0 + 0) = true ∧ atMem.coreHeld.contains (2048 * 4095 + 2047) = false := by
  decide +kernel

/-- A change whose time has come; a droop 4096 counts ago; an island whose last warning is 2^20 counts old at a lap start. -/
theorem meets_Islands :
    (let s := atDie 4096 (fun d => { d with islands := [(63, { change := some (4096, 2, 1), droopAt := some 0 })] })
     let i := (s.die 0).island 63
     63 < 64 ∧ i.change = some (4096, 2, 1) ∧ 4096 ≤ (s.die 0).cycle ∧ i.droopAt = some 0 ∧ 0 + 4096 ≤ (s.die 0).cycle) ∧
    (let s := atDie (2 ^ 20) (fun d => { d with islands := [(0, { off := true })] })
     let i := (s.die 0).island 0
     islandBond s 0 0 = none ∧ i.off = true ∧ i.held = false ∧ i.warned = false ∧ i.change = none ∧ i.warnAt + 2 ^ 20 ≤ (s.die 0).cycle ∧ (s.die 0).cycle % 64 = 0) := by
  decide +kernel

/-- Samples of a die whose hot temperature is 100 and whose critical one is 120: critical, hot with the level rising and not, cool with the level falling and
not, and between. -/
theorem meets_ThermalSamples :
    let s := fun l n x : Nat => atDie 65536 (fun d => { d with eplan := BitVec.ofNat 64 (100 * 2 ^ 14 + 120 * 2 ^ 6), tlevel := l, tD := n, tX := x })
    let c := fun (l n x temp : Nat) (q : Nat → Nat → Die → Bool) =>
      let d := (s l n x).die 0
      (s l n x).running 0 && decide (d.cycle % 65536 = 0 ∧ d.sampleAt ≠ d.cycle + 1) &&
        q (bits d.eplan.toNat 21 14) (bits d.eplan.toNat 13 6) d && decide (temp < 256)
    c 0 0 0 120 (fun _ crit d => decide (crit ≤ 120 ∧ d.tCrit + 1 < 16)) = true ∧
    [(0, 15), (2, 15)].all (fun e => c e.1 e.2 0 100 (fun hot crit d => decide (100 < crit ∧ hot ≤ 100 ∧ d.tlevel < 3 ∧ 16 ≤ d.tD + 1))) = true ∧
    [(3, 15), (0, 14)].all (fun e => c e.1 e.2 0 119 (fun hot crit d => decide (119 < crit ∧ hot ≤ 119 ∧ (3 ≤ d.tlevel ∨ d.tD + 1 < 16)))) = true ∧
    c 1 15 15 96 (fun hot crit d => decide (96 < crit ∧ 96 + 4 ≤ hot ∧ 1 ≤ d.tlevel ∧ 16 ≤ d.tX + 1 ∧ 16 ≤ d.tD + 1)) = true ∧
    [(0, 15, 15), (3, 15, 14), (3, 14, 15)].all (fun e => c e.1 e.2.1 e.2.2 0 (fun hot crit d =>
      decide (0 < crit ∧ 0 + 4 ≤ hot ∧ (d.tlevel = 0 ∨ d.tX + 1 < 16 ∨ d.tD + 1 < 16)))) = true ∧
    [97, 99].all (fun k => c 3 15 15 k (fun hot crit _ => decide (k < crit ∧ k < hot ∧ hot < k + 4))) = true := by decide +kernel

def okStart (x : Except Nat (Nat × Nat)) : Bool :=
  match x with
  | .ok _ => true
  | .error _ => false

/-- A start whose context is not valid, and one that is accepted: its image of 4 bytes is the immutable object 0, under entry 0. -/
theorem meets_GranaryStarts :
    let v := at_ 4 432 24 + at_ 1 328 12
    let s := { atGlean with hbm := wrNat (wrNat atGlean.hbm 0x1000 32 (objEntry 0x2000 1)) 0x5000 16 (capBits fullCap) }
    atUnit.running 0 = true ∧ (match startCheck State.reset 0 (descEpisode State.reset (BitVec.ofNat 512 v)) with | .error n => n == 1 | .ok _ => false) = true ∧
    s.running 0 = true ∧ okStart (startCheck s 0 (descEpisode s (BitVec.ofNat 512 v))) = true ∧ risingFrom none (s.die 0).episodes = true ∧
    (s.die 0).episodes = [] := by decide +kernel

/-- An episode that runs with its budgets spent and with a free mailbox; one that waits past its time, its budget spent or not; a
hart without fault. -/
def epState (st : EpWait) (instr : Nat) : State :=
  (atEpisode { state := .owe 0 }).updDie 0 (fun d => { d with
    cycle := 20, episodes := d.episodes.map (fun e => (e.1, { e.2 with state := st, stepInstr := instr, stepCycles := 2 ^ 32, hart := 0 })) })

theorem meets_EpisodeEnds :
    (let s := epState .run (2 ^ 32)
     s.running 0 && (s.mbox 0 0).obs.isNone && (s.ep? 0 0).any (fun e => decide (e.cbud < e.stepCycles ∧ e.state = .run ∧ e.ibud ≤ e.stepInstr ∧
       waitsNext s 0 e = false) && e.mbox == 0) && risingFrom none (s.die 0).episodes && !(s.hart 0 0).retired) = true ∧
    ([2 ^ 32, 0] : List Nat).all (fun n => let s := epState (.wait 5 (some 9)) n
      (s.ep? 0 0).any (fun e => decide (e.state = .wait 5 (some 9) ∧ 9 < granCycle s 0 ∧ (e.ibud ≤ e.stepInstr ↔ n = 2 ^ 32)))) = true := by decide +kernel

/-- An instruction of each kind may run: the first and the last doubleword of SRAM's window of one unit, no byte of them poisoned, and a
reservation that holds and one that does not. -/
theorem meets_HartInstructions :
    let s := atEpisode { state := .owe 0 }
    (s.ep? 0 0).any (fun e => decide (s.curHart = some (0, 0) ∧ e.state = .run ∧ e.spent = false ∧ risingFrom none (s.die 0).episodes = true ∧
      e.rd 10 = 0x10000000) && [0, 4088].all (fun o => e.inSram (wrapN (e.rd 10 + (o : Nat)) 64) 8 && !sramMarked s 0 o 8) &&
      (csrValue s 0 e 0xC00).isSome && (csrValue s 0 e 0xC02).isSome && !inReserve e.reserve (e.rd 10) 4 && inReserve (some (e.rd 10, 8)) (e.rd 10 + 4) 4) = true := by
  decide +kernel

/-- A hart whose PMP entries are its episode's reaches the object that the episode holds, in SRAM and in HBM. -/
theorem meets_HartMemory :
    let e : Episode := { mbox := 0, size := 1, hbmCap := fullCap, desc := BitVec.ofNat 512 (at_ 65535 352 40), party := 7, pc := 0x10000000, state := .run }
    let s : State := { atMem with holds := [{ party := 7, len := 32768 }] }.setHart 0 0 { running := some 0, pmp := e.pmp }
    (s.hart 0 e.hart).pmp = e.pmp ∧ e.inSram 0x10000000 8 = true ∧ [false, true].all (fun st => decide (hartAccess s 0 e hbmWindow 8 st ≠ .fault hbmWindow) &&
      (match hartAccess s 0 e hbmWindow 8 st with | .hbm p o => decide (o = 0) && (upto 8).all (fun k => !homePoison s (p + k)) | _ => false)) = true := by
  decide +kernel

/-! The host, the fabric and management. -/

/-- An aperture write of the last byte of its window on a die that runs; circuits of the first and last index, wanted and not, of each state. -/
theorem meets_ApertureAndCircuits :
    ((2 ^ 34 - 1 + [(7 : Byte)].length ≤ 2 ^ 34) ∧ (atMem.reg 0x100).toNat + (2 ^ 34 - 1) + 1 ≤ 2 ^ 40 ∧
      atMem.running (stackOf ((atMem.reg 0x100).toNat + (2 ^ 34 - 1))) = true) ∧
    (let s := fun e : Nat => ({ atMem with circuits := [(1023, BitVec.ofNat 64 e)] } : State)
     1023 < 1024 ∧ (BitVec.ofNat 64 (2 ^ 63) : Dword).getLsbD 63 = true ∧ (0 : Dword).getLsbD 63 = false ∧
     (let e := tget (s (2 ^ 63 + 2 ^ 61)).circuits 1023 0
      e.getLsbD 63 = true ∧ circState e = 1) ∧
     (let e := tget (s (2 ^ 62 + 2 * 2 ^ 43)).circuits 1023 0
      e.getLsbD 63 = false ∧ circState e = 2 ∧ tget (s 0).circLost 1023 0 + 1 < circNw e) ∧
     (let e := tget (s (2 ^ 62 + 2 ^ 43)).circuits 1023 0
      circState e = 2 ∧ circNw e ≤ tget (s 0).circLost 1023 0 + 1)) := by decide +kernel

/-- A path wait of an engine and of a group, 2^20 counts old. -/
theorem meets_PathTimeouts :
    (let w : PathWait := { id := 4, engine := some 1 }
     let s := { (atEng (cpyOp 0)) with paths := [w], dies := [(0, { atMem.die 0 with cycle := 2 ^ 20 })] }
     s.paths.find? (fun w => decide (w.id = 4)) = some w ∧ w.since + 2 ^ 20 ≤ (s.die (waitDie s w)).cycle ∧ (findEng s 1).isSome = true) ∧
    (let w : PathWait := { id := 4, acc := 7 }
     let s := { (atTeam .resident none (2 ^ 20)) with paths := [w] }
     s.paths.find? (fun w => decide (w.id = 4)) = some w ∧ w.since + 2 ^ 20 ≤ (s.die (waitDie s w)).cycle ∧ w.engine = none ∧ w.own = none ∧
     w.handle < 8192 ∧ w.acc ≠ 8 ∧ (s.group? 0 0 0).any (fun g => (g.slotOf 0).isSome && decide (g.num = w.grp)) = true ∧
     teamOk s (fun m => (s.grid? m.grid).any (fun g => !g.aborted)) = true) := by decide +kernel

/-- The first, second and third loss of seam 7, no team a twin; the first and last port, a flit's replays below 15 and at 15, and three wavelengths lost;
one host port out. -/
theorem meets_SeamsAndPorts :
    ([0, 1] : List Nat).all (fun n => decide (7 < 8 ∧ (tget ({ atMem with seams := [(7, { losses := n })] } : State).seams 7 {}).losses < 2)) = true ∧
    (tget ({ atMem with seams := [(7, { losses := 2 })] } : State).seams 7 {}).losses = 2 ∧ atMem.teams.all (fun x => decide (x.span ≠ 3)) = true ∧
    (let s := ({ atMem with replays := [(5, 14), (2 ^ 32 * 35 + 6, 15)], ports := [(35, 3)] } : State)
     0 < 36 ∧ 35 < 36 ∧ tget s.ports 0 0 + 1 < 4 ∧ tget s.ports 35 0 < 4 ∧ 4 ≤ tget s.ports 35 0 + 1 ∧ tget s.replays (2 ^ 32 * 0 + 5) 0 < 15 ∧
     15 ≤ tget s.replays (2 ^ 32 * 35 + 6) 0) ∧
    (0 < 2 ∧ ({ atMem with hostOut := [1 - 0] } : State).hostOut = [1 - 0] ∧ atMem.hostOut = []) := by decide +kernel

/-- A module of the domain with peer 1: its context 0 is bound to the local one, its context 1 is not. Object 1 is the peer's object 9. -/
def atPeer : State :=
  let m := wrNat (wrNat atMem.hbm 0 128 (at_ 0x1000 984 40 + at_ 2 956 28 + at_ 1 424 1)) 0x1020 32
    (at_ (2 ^ 30 + 9 * 4) 160 40 + at_ 65536 120 40 + at_ 1 100 12 + at_ 2 96 4)
  { atMem with hbm := wrNat (wrNat m 0x9008 8 (at_ 1 63 1 + 0xA000)) 0xA000 2 0x8000, mreg := [(0x118, BitVec.ofNat 64 (2 ^ 63)), (0x120, 0x9000)]
               deckles := [{ base := 0, len := 256, state := 1, holder := peerParty 1, lend := [groupParty 0 0 0] }] }

theorem meets_PeerSteps :
    domainUp atPeer = true ∧ atPeer.lostPeers.contains 1 = false ∧ boundCtx atPeer 1 1 = none ∧ boundCtx atPeer 1 0 = some 0 ∧
    (let o := readObj atPeer 0 0
     o.valid = true ∧ o.far = false ∧ 65528 + 8 ≤ o.size ∧ farOk 65528 (.read 8) = true ∧ farOk 65528 (.write (List.replicate 8 0)) = true ∧
     farOk 65528 (.atom .add 8 1 0) = true ∧ (placeOf atPeer o 65528).any (fun p => (homeMarks atPeer p 8).any id) = false ∧
     (readObj atPeer 0 2).valid = false ∧ (placeOf atPeer o 65528).any (fun p => atPeer.running (stackOf p)) = true) ∧
    (let o := readObj atPeer 0 1
     o.far = true ∧ farName o = (1, 9) ∧ atPeer.imports = []) ∧
    (let d : Deckle := { base := 0, len := 256, state := 1, holder := peerParty 1, lend := [groupParty 0 0 0] }
     atPeer.deckles.find? (fun d => decide (d.ctx = 0) && decide (d.oid = 0) && decide (d.base = 0)) = some d ∧ d.state = 1 ∧ d.holder = peerParty 1 ∧
     nextLender atPeer 0 none d.lend.reverse = some (groupParty 0 0 0, []) ∧ spillFor atPeer 0 (groupParty 0 0 0) = some atPeer) ∧ 1 < 1024 := by decide +kernel

/-- MODNUM written and not; table bases while no context is valid; the registers of the die block at die 15 and the first and last word below GSTART's. -/
theorem meets_RegisterWrites :
    ((atPeer.reg 0x118).getLsbD 63 = true ∧ (State.reset.reg 0x118).getLsbD 63 = false) ∧ anyValid State.reset = false ∧
    storedModReg 0x100 = true ∧ storedModReg 0x110 = true ∧ 15 < 16 ∧ (0x2068 : Nat) ∈ [0x1000, 0x1018, 0x2050, 0x2058, 0x2068] ∧ (0 : Nat) < 7 ∧ (6 : Nat) < 7 := by
  decide

/-! Management updates on context 0 with object 0, its page 0, and queue 0. -/

/-- An update of a kind, by object and index, with a new value. -/
def mu (kind ctx oid idx new : Nat) : MuArgs :=
  { sel := BitVec.ofNat 64 (kind * 2 ^ 60 + ctx * 2 ^ 48 + oid * 2 ^ 20), idx := BitVec.ofNat 64 idx, new := new }

def atMu (u : MuArgs) (s : State := atMem) : State := { s with arg := { s.arg with mu := u } }

/-- An object entry of another generation that waits: for an operation under way, and for nothing any more. -/
theorem meets_ObjectUpdatesThatWait :
    let u := mu 0 0 0 0 (at_ 2 100 12 + at_ 1 96 4)
    muKind u = 0 ∧ [true, false].all (fun w => let s := { (if w then atHome .park [] else atMem) with muWait := some u }
      decide (s.muWait = some u) && (muEntry s u).any (fun p => decide (bits u.new 111 100 ≠ bits (muValue s p) 111 100)) &&
      (s.ownOps.any (fun o => decide (o.ctx = muCtx u ∧ o.oid = muOid u)) == w) && (w || s.deckles.all (fun d => decide (d.state ≠ 4)))) = true := by
  decide +kernel

/-- An update asked while another waits; of a kind that does not exist; of an entry that does not exist and of one that does, by kind. -/
theorem meets_UpdateKinds :
    (atMu (mu 0 0 0 0 0)).arg.flag = false ∧ ((({ (atMu (mu 0 0 0 0 0)) with muWait := some (mu 1 0 0 0 0) } : State).muWait).any (fun v => decide (v ≠ mu 0 0 0 0 0)) = true) ∧ atMem.muWait = none ∧
    [8, 15].all (fun k => decide (8 ≤ muKind (mu k 0 0 0 0))) = true ∧ [4, 5, 6].all (fun k => decide (muKind (mu k 4095 0 0 0) = k)) = true ∧
    [mu 0 0 1 0 0, mu 1 0 0 1 0].all (fun u => (muEntry atMem u).isNone) = true ∧
    [mu 0 0 0 0 0, mu 1 0 0 0 0, mu 2 4095 0 0 0, mu 3 0 0 0 0, mu 7 0 0 (2 ^ 22) 0].all (fun u => (muEntry atMem u).any (fun p =>
      decide (p.1 + p.2 ≤ 2 ^ 40 ∧ muKind u ∈ [0, 1, 2, 3, 7]))) = true := by decide +kernel

/-- An object entry of the same generation, and of another, on an object with a region IN-FLIGHT, with an operation under way, and with regions at rest. -/
theorem meets_ObjectUpdates :
    (let u := mu 0 0 0 0 (at_ 1 100 12 + at_ 1 96 4)
     (muEntry atMem u).any (fun p => decide (bits u.new 111 100 = bits (muValue atMem p) 111 100 ∧ bits u.new 99 96 ≠ 0 ∧ bits u.new 95 95 = 0)) = true) ∧
    bits (at_ 1 100 12 + at_ 1 96 4 + at_ 1 95 1) 95 95 = 1 ∧
    ([at_ 2 100 12 + at_ 1 96 4, at_ 1 100 12] : List Nat).all (fun n => (muEntry atMem (mu 0 0 0 0 n)).any (fun p =>
      decide ((bits n 111 100 ≠ bits (muValue atMem p) 111 100 ∨ bits n 99 96 = 0)))) = true ∧
    (({ atMem with deckles := [region 4 0] } : State).deckles.any (fun d => decide (d.ctx = muCtx (mu 0 0 0 0 0) ∧ d.oid = muOid (mu 0 0 0 0 0) ∧ d.state = 4)) &&
      (atHome .park []).ownOps.any (fun o => decide (o.ctx = 0 ∧ o.oid = 0)) && atMem.deckles.all (fun d => decide (d.state ≠ 4)) && atMem.ownOps.isEmpty) = true := by
  decide +kernel

/-- A context of no live grid and of one, its fixed fields as before and changed; an import table entry of a module in and out of the domain. -/
theorem meets_ContextAndImportUpdates :
    (let u := mu 2 0 0 0 (at_ 1 1023 1)
     let v := at_ (bits u.new 1023 437) 437 587 + at_ (muCtx u) 425 12 + at_ (bits u.new 424 384) 384 41
     ctxBusy atMem 0 = true ∧ ctxBusy ({ atMem with grids := [] }) 0 = false ∧
     (muEntry atMem u).any (fun p => decide ((bits v 1023 508, bits v 424 384) ≠ (bits (muValue atMem p) 1023 508, bits (muValue atMem p) 424 384))) = true) ∧
    ((mu 7 0 0 (2 ^ 22 + 1) 0).idx.getLsbD 22 = true ∧ (mu 7 0 0 1 0).idx.getLsbD 22 = false ∧
     bits (rdNat atPeer.hbm ((atPeer.reg 0x120).toNat + 8 * bits (mu 7 0 0 1 0).idx.toNat 9 0) 8) 63 63 = 1 ∧
     bits (rdNat atPeer.hbm ((atPeer.reg 0x120).toNat + 8 * bits (mu 7 0 0 0 0).idx.toNat 9 0) 8) 63 63 = 0 ∧
     [0, 1].all (fun m => (muEntry atPeer (mu 7 0 0 m 0)).any (fun p => decide (p.1 + p.2 ≤ 2 ^ 40))) = true) := by decide +kernel

/-- A frame list of two entries that has room, and one that is full. -/
theorem meets_FrameUpdates :
    let s := fun tail : Nat => ({ atMem with
      hbm := wrNat (wrNat atMem.hbm 0 128 (at_ 0x1000 984 40 + at_ 1 956 28 + at_ 0x9000 564 40 + at_ 1 424 1)) 0x9000 64 (at_ tail 160 32 + at_ 0xA000 88 40 + at_ 1 83 5) } : State)
    muKind (mu 4 0 0 0 0) = 4 ∧ (readList (s 2) 0 0).full = true ∧ (readList (s 1) 0 0).full = false ∧
    (readList (s 1) 0 0).rbase + 8 * 1 + 8 ≤ 2 ^ 40 ∧ listAddr (s 1) 0 0 + 20 + 4 ≤ (readList (s 1) 0 0).rbase + 8 * 1 := by decide +kernel

/-- A host queue's share of 256 bytes at the end of object 0: of a good range and a bad one, of no region, of one HELD and of one POISONED. -/
theorem meets_HostShares :
    let good := fun (s : State) (u : MuArgs) =>
      let ob := readObj s (muCtx u) (muOid u)
      let base := bits u.idx.toNat 39 0
      let len := u.new % 2 ^ 40
      decide (muOid u < (readCtx s (muCtx u)).odlen ∧ ob.valid = true ∧ ob.imm = false ∧ base % 256 = 0 ∧ len % 256 = 0 ∧ len ≠ 0 ∧ base + len ≤ ob.size)
    let quiet := fun s : State => s.ownOps.isEmpty && s.dies.all (fun p => decide (p.2.boot ≠ 3)) && !(readObj s 0 0).far && s.muWait.isNone
    [5, 6].all (fun k => good atMem (mu k 0 0 (65536 - 256) 256) && !good atMem (mu k 0 0 (65536 - 256) 512)) = true ∧
    quiet ({ atMem with deckles := [] }) = true ∧
    [1, 5].all (fun st => let s := { atMem with deckles := [region st (groupParty 0 0 0) (65536 - 256)], holds := [] }
      quiet s && good s (mu 5 0 0 (65536 - 256) 256)) = true := by decide +kernel

/-! Traps and the debugger. The team is team 0 of context 0, its group 0. -/

/-- Its group changed, and its die at count c. -/
def atDbg (g : Group → Group) (c : Nat := 1) : State := atTeam .resident none c g
def groupOk (s : State) (f : Team → Group → Bool) : Bool := teamOk s (fun x => x.ctx == 0 && (x.group? 0).any (fun g => g.num == 0 && f x g))
def stopAll (g : Group) : Group := { g with s0 := some { mask := g.live, stopped := true } }

/-- DBGCTL with a stopped split and without, attached and not, cleared and not. -/
theorem meets_DebugControl :
    let s := fun (g : Group → Group) (v : Nat) => ({ (atDbg g) with mreg := [(0x310000, BitVec.ofNat 64 v)] } : State)
    0 < 4096 ∧ ((s stopAll (2 ^ 63)).reg (0x310000 + 8 * 0)).getLsbD 63 = true ∧ (0 : Dword).getLsbD 63 = false ∧ anyStopped (s stopAll 0) 0 = true ∧
    ((s id 0).reg (0x310000 + 8 * 4095)).getLsbD 63 = false ∧ anyStopped (s id 0) 0 = false := by decide +kernel

/-- A command to a team that does not exist, of another context, and to a group that does not, while no STEP is under way; one while a STEP is. -/
theorem meets_CommandsRefused :
    0 < 16 ∧ stepUnderway (atDbg id) 0 = false ∧ stepUnderway (atDbg (fun g => { g with s0 := some { mask := g.live, stepping := true } })) 0 = true ∧ ((atDbg id).team? 15 4095).isNone = true ∧ teamOk (atDbg id) (fun x => decide (x.ctx ≠ 4095) && (x.group? 127).isNone) = true := by decide +kernel

/-- A group that is saved; one that runs, inside a run and between two; one that is stopped, with edits that fail the checks, that pass, and with a
pending register past the allocation; a stopped split in a slot and in the queue. -/
theorem meets_DebuggerCommands :
    groupOk (atDbg (fun g => { g with residence := .away })) (fun x g => g.awayNow x && decide (g.die < 16)) = true ∧ stepUnderway (atDbg stopAll) 0 = false ∧
    (dbgctl (atDbg id) 0).getLsbD 61 = false ∧
    [none, some { slot := 0 }].all (fun r => groupOk (atDbg (fun g => { g with run := r })) (fun x g => decide (g.awayNow x = false ∧ g.die < 16 ∧ (dbgctl (atDbg id) x.ctx).getLsbD 61 = false) &&
      g.splits.all (fun y => !y.stopped) && (g.slotOf 0).isSome)) = true ∧
    groupOk (atDbg (fun g => { (stopAll g) with s0 := some { mask := 0, stopped := true } })) (fun x g => g.isStopped && !g.editOk x.vregs) = true ∧
    groupOk (atDbg stopAll) (fun x g => g.isStopped && g.editOk x.vregs && decide (g.splits.foldl (fun m y => m ||| y.mask) 0 ≠ (0 : Mask) ∧ g.pendOut x.vregs = none ∧ x.gleaner = none ∧ x.groups ≠ [] ∧
      x.noDwait = true ∧ x.dwait = none ∧ bondOf (atDbg stopAll) 0 0 = none ∧ x.state ≠ .discarding) && x.groups.all (fun e => !e.2.exited)) = true ∧
    groupOk (atDbg (fun g => { (stopAll g) with pendRegs := [4000] })) (fun x g => g.isStopped && g.editOk x.vregs && decide (g.pendOut x.vregs = some 4000) && g.s0.isSome &&
      ((atDbg id).grid? x.grid).any (fun gr => !gr.aborted)) = true ∧
    groupOk (atDbg (fun g => { (stopAll g) with queue := [{ mask := 1, stopped := true }] })) (fun _ g => (g.slotOf 0).any (·.stopped) &&
      (g.queue[2 - 2]?).any (fun y => y.stopped && !y.void) && g.s0.any (·.stopped)) = true := by decide +kernel

/-- The same for the whole team. -/
theorem meets_TeamCommands :
    ([(id, true, false), (stopAll, true, true), (fun g => { (stopAll g) with s0 := some { mask := 0, stopped := true } }, false, true)] : List ((Group → Group) × Bool × Bool)).all
      (fun e => teamOk (atDbg e.1) (fun x => decide (x.ctx = 0 ∧ x.groups ≠ []) && (x.group? 0).isSome && x.groups.all (fun p => decide (p.2.num = p.1 ∧ x.group? p.1 = some p.2 ∧
        p.2.awayNow x = false ∧ (e.2.1 = false ∨ p.2.pendOut x.vregs = none ∧ p.2.splits.foldl (fun m y => m ||| y.mask) 0 ≠ (0 : Mask)) ∧ p.2.isStopped = e.2.2 ∧ p.2.editOk x.vregs = e.2.1)))) = true ∧
    teamOk (atDbg (fun g => { g with residence := .away })) (fun x => decide (x.groups ≠ []) && x.groups.all (fun p => decide (p.2.num = p.1 ∧ p.2.awayNow x = true))) = true ∧
    (dbgctl ({ (atDbg id) with mreg := [(0x310000, BitVec.ofNat 64 (2 ^ 61))] } : State) 0).getLsbD 61 = true := by
  decide +kernel

/-- The divergence window with no group selected, with one that runs, and with one that is stopped: the fields of its first split fit, S15 and the last even lane of
the last register are not pending. -/
theorem meets_DivergenceWindow :
    ((atDbg id).die 0).selected = none ∧
    (let s := fun g : Group → Group => (atDbg g).updDie 0 (fun d => { d with selected := some (0, 0) })
     groupOk (s id) (fun _ g => decide (((s id).die 0).selected = some (0, 0) ∧ g.allStopped = false)) = true ∧ 0x2D % 8 ≠ 0 ∧
     groupOk (s stopAll) (fun x g => decide (g.allStopped = true ∧ g.pendScalars.getLsbD 15 = false ∧ x.vregs - 1 < x.vregs ∧ 30 < g.width ∧ (x.vregs - 1) ∉ g.pendRegs ∧
       (0 < x.vregs ∧ 0 ∉ g.pendRegs)) && (g.slotOf 0).any (fun y => decide (y.stopped = true ∧ y.void = false ∧ y.pc < 2 ^ 40 ∧ y.fam < 2 ^ 16 ∧ y.depth < 2 ^ 8 ∧ y.jpc = none ∧ y.rsp = none))) = true) := by
  decide +kernel

/-- No trap; a trap that the debugger catches, one of an aborted grid, and one that aborts the grid. -/
theorem meets_TrapReports :
    let t := fun c : Bool => ({ code := 1, pc := 4, rpc := 8, mask := 3, caught := c } : Trap)
    let s := fun (c ab st : Bool) => ((atTeam .resident none 1 (fun g => { g with s0 := some { mask := 3, trapped := true, stepping := st } })
      { state := .running, dies := [0], aborted := ab }).updDie 0 (fun d => { d with traps := [t c] }))
    ((atDbg id).die 0).traps = [] ∧
    ([(true, false, false), (false, true, false), (false, false, false), (true, false, true)] : List (Bool × Bool × Bool)).all (fun e =>
      let u := s e.1 e.2.1 e.2.2
      groupOk u (fun x g => decide ((u.die 0).traps = [t e.1] ∧ (t e.1).region = none ∧ (t e.1).tdie = x.die ∧ (t e.1).handle = x.handle ∧ (t e.1).grp = g.num ∧
        x.grid = (t e.1).grid ∧ x.ctx < 4096 ∧ (t e.1).caught = e.1 ∧ (dbgctl u x.ctx).getLsbD 61 = false ∧ (dbgctl u x.ctx).getLsbD 62 = false) &&
      (u.grid? x.grid).any (fun gr => gr.aborted == e.2.1) && (g.slotOf 0).any (fun y => (t e.1).at_ y && (y.stepping == e.2.2)) && g.s1.isNone &&
      (e.2.2 || g.splits.all (fun z => !z.stepping)) && u.teams.all (fun z => decide (z.die = 0 ∧ z.handle = 0 ∧ u.team? 0 0 = some z)))) = true := by decide +kernel

/-- A group idle for its limit, a team watched for its limit, and no limit. -/
theorem meets_Watchdogs :
    let s := fun v : Nat => ({ (withTeam (atDbg (fun g => { g with idle := 7 })) (fun t => { t with watched := 7 * 65536 }) id) with mreg := [(0x300000, BitVec.ofNat 64 v)] } : State)
    gwlim (s 0) 0 = 0 ∧ twlim (s 0) 0 = 0 ∧
    groupOk (s (7 * 2 ^ 32 + 7)) (fun x g => decide (gwlim (s (7 * 2 ^ 32 + 7)) 0 ≠ 0 ∧ gwlim (s (7 * 2 ^ 32 + 7)) 0 ≤ g.idle ∧ gwatchRuns (s (7 * 2 ^ 32 + 7)) x g = true ∧
      twlim (s (7 * 2 ^ 32 + 7)) 0 ≠ 0 ∧ twlim (s (7 * 2 ^ 32 + 7)) 0 ≤ x.watched / 65536 ∧ x.twatchAt ≠ twlim (s (7 * 2 ^ 32 + 7)) 0 ∧ g.die < 16 ∧ g.live ≠ 0 ∧ g.run = none) &&
      x.groupList.all (fun h => decide (h.live ≠ 0 → g.num ≤ h.num ∧ x.group? h.num = some h)) && decide (g.splits.length = 1) &&
      g.splits.all (fun z => !z.trapped) && g.s0.isSome && ((s (7 * 2 ^ 32 + 7)).grid? x.grid).any (fun gr => !gr.aborted)) = true := by decide +kernel

/-! Failures. -/

/-- Cores 0, with a team, and 127, idle, which have not failed; a region that the team's group holds; an island stopped and not, its two cores idle. -/
theorem meets_CoreFailures :
    atMem.running 0 = true ∧ 0 ∉ (atMem.die 0).failedCores ∧ 127 % 128 ∉ (atMem.die (127 / 128)).failedCores ∧
    (atMem.teams.all (fun x => decide (x.die = 0 ∧ x.handle = 0 ∧ (atMem.team? 0 0) = some x) && (atMem.grid? x.grid).any (fun g => !g.aborted || decide (x.state = .discarding))) && atMem.teams.any (teamUses atMem 0) &&
      atMem.deckles.any (fun d => decide (d.state = 1 ∧ d.holder ∈ coreParties atMem 0))) = true ∧
    atMem.deckles.Pairwise (fun a b => sameEntry a b = false) ∧
    [126, 127].all (fun k => decide (coreParties atMem k = []) && atMem.teams.all (fun x => decide (teamUses atMem k x = false ∧ x.state ≠ .discarding) &&
      x.groupList.all (fun g => !groupOn k g))) = true ∧
    63 < 64 ∧ ((atMem.die 0).island 63).stopped = false ∧
    (((atDie 1 (fun d => { d with islands := [(63, { stopped := true })] })).die 0).island 63).stopped = true := by decide +kernel

theorem meets_CoreFailures_homes (d : Deckle) : (atMem.die (tableHome d)).boot ≠ 3 := no_failed_die (by decide +kernel) _

/-- A heartbeat's count and another; die 1, silent for 2^20 counts and not, and too hot and not; a die that failed; a broken grid whose
teams still wait and whose wait is over. -/
theorem meets_DieFailures :
    (let s := atDie (2 ^ 20) id
     s.running 0 = true ∧ (s.die 0).cycle % 65536 = 0 ∧ (atMem.die 0).cycle % 65536 ≠ 0 ∧ s.running 15 = false ∧ (s.die 1).boot ≠ 3 ∧ (s.die 0).boot ≠ 3 ∧
     tget (s.die 0).heard 1 0 + 2 ^ 20 ≤ (s.die 0).cycle ∧ ((upto 16).all (fun e => decide (e = 1 ∨ atMem.running e = false ∨
       (atMem.die e).cycle < tget (atMem.die e).heard 1 0 + 2 ^ 20)) = true) ∧ (s.die 0).tCrit < 16 ∧
     16 ≤ ((atDie 1 (fun d => { d with tCrit := 16 })).die 0).tCrit ∧ ((atDie 1 (fun d => { d with boot := 3 })).die 0).boot = 3 ∧
     s.teams.all (fun x => decide (x.die = 0 ∧ x.handle = 0 ∧ (s.team? 0 0) = some x)) = true) ∧
    (let s := fun c : Nat => ({ (atDie c id) with grids := [(0, { state := .broken, brokenAt := some 0, released := [(0, 0)] })] } : State)
     [2 ^ 20 - 1, 2 ^ 20].all (fun c => ((s c).grid? 0).any (fun g => decide (g.brokenAt = some 0 ∧ ((s c).die g.brokenOn).cycle = c) &&
       (s c).teams.any (fun x => decide (x.grid = 0 ∧ (x.die, x.handle) ∈ g.released)))) = true) := by decide +kernel

/-- A cache line; the last line and the last word of HBM; a region HELD and one POISONED; a purse and a bond's hold; counters; an NMRED under way with an entry in silo 0; bytes of local store
and of SRAM. -/
theorem meets_SoftErrors :
    (cachedState.lines[1]?).isSome = true ∧ cachedState.arg.num ≠ 1 ∧ (2 ^ 40 - 1) / 128 * 128 < 2 ^ 40 ∧ (2 ^ 40 - 1) / 32 * 32 < 2 ^ 40 ∧
    ([1, 5] : List Nat).all (fun st => (regionAt ({ atMem with deckles := [region st 0] }) 0 0 255).any (fun d => decide (d.state = st))) = true ∧
    (let b : Bond := { runBond with holds := [(63, 5)] }
     (tfind ((atBond (some b)).die 0).bonds 0).any (fun x => decide (tget x.holds (64 * 0 + 63) 0 = 5)) = true) ∧
    (readCtx atMem 0).svbase + 8 * 2047 + 8 ≤ 2 ^ 40 ∧ atMem.running (stackOf 0) = true ∧ atMem.running (stackOf (2 ^ 40 - 1)) = false ∧
    (let e := { cpyOp (nmRecord 1 4 1) with kind := .nmred, next := 1, entries := [{ lane := 0, row := 0, bag := 1, weight := 0x3F800000 }] }
     (findEng (atEng e) 1).any (fun x => decide (x.isNm = true ∧ x.status = none ∧ x.next ≠ 0) &&
       x.entries.all (fun y => decide (siloOf (elemAddr (atEng e) x.ctx (nmWritten x y).1 (nmWritten x y).2) = 0))) = true) ∧
    teamOk atMem (fun x => decide (0 < x.localBytes)) = true := by decide +kernel

/-! Steps, memory and the issue of a unit. -/

/-- One word of the table where the next step fetches it: its issuer, sequencer or hart takes it. IADD of v0, v0, v0; MMAC; GMB.READ; a RISC-V addi. -/
theorem meets_StepRunsTheDecodedInstruction :
    (let s := State.reset.withFetchWord 32 0x40102860
     let q := serve { s with agenda := [] } 0 0
     let v := tryIssue q.1 0 0 {}
     s.agenda = [.issue {}] ∧ q.2 = some {} ∧ (s.group? 0 0 0).any (fun g => decide (g.die = 0 ∧ g.core / 2 = 0)) = true ∧
     (nextChoice s (busyPairs s)).2 = some {} ∧ (nextChoice State.reset (busyPairs State.reset)).2 = none ∧
     (match mkCtx v {} { px := none, lit := none } with
       | some c =>
         let t := v
         (match fetchUnit t c.team c.g.die c.unit with | .ok u => !isX u.w && (match decodeUnit u with | .ok k => decide (k = .fadd { h := {}, d := .v 4 false, a := .v 5, b := .v 6 }) | _ => false) | _ => false)
       | none => false) = true) ∧
    (let s := probeQ State.reset 0x18000000
     s.agenda = [.seq 0 0] ∧ (tfind (s.die 0).bonds 0).any (fun b => seqReady { s with agenda := [] } b &&
       (match fetchQ { s with agenda := [] } (bondTeam s b).ctx b b.qpc with | .word w => decide (w = 0x18000000) | _ => false)) = true) ∧
    ([(0x0000100B, true), (0x00100093, false)] : List (Nat × Bool)).all (fun e => let s := probeHart State.reset e.1
      decide (s.agenda = [.hart 0 0] ∧ (s.mbox 0 0).usedAt ≠ (s.die 0).cycle + 1) && (s.ep? 0 0).any (fun x => decide (x.state = .run) && (match hartFetch { s with agenda := [] } 0 x with
        | .ok w => (match decodeHart w with | some (.custom _) => e.2 | some (.rv _ _) => !e.2 | none => false)
        | .error _ => false))) = true ∧
    State.reset.powered = true ∧ State.reset.agenda = [] := by decide +kernel

theorem meets_StepRunsTheDecodedInstruction_word :
    (match fetchWord (State.reset.withFetchWord 32 0x40102860) ((State.reset.withFetchWord 32 0x40102860).team? 0 0 |>.getD {}) 0 0 with
      | .ok w => w == 0x40102860 | _ => false) = true := by decide +kernel

/-- Two memories in their canonical form; a state whose step answers a next state. -/
theorem meets_MemoryStatements :
    Memory.wf (wrNat [] 5 4 0x01000002) = true ∧ Memory.wf [] = true ∧
    (Memory.wf atMem.hbm && Memory.wf atMem.host && Memory.wf atMem.far) = true ∧
    (match step (State.reset.withFetchWord 32 0x40102860) with | .next t => Memory.wf t.hbm | _ => false) = true := by decide +kernel

/-- Groups 0 and 1 of 32 lanes, in the two halves of slot 0 of core 0, at one PC. -/
def atPack : State :=
  withTeam atUnit (fun t => { t with ngroups := 2, groups := t.groups ++ [(1, { num := 1, part := 1, width := 32, live := 3, s0 := some { mask := 3 } })] })
    (fun g => { g with width := 32, live := 3, s0 := some { mask := 3 } })

theorem meets_PackedIssueResults :
    may atPack {} false [dstRefs dv 1 false, srcRefs (.v 8) 1, srcRefs (.v 16) 1] 1 (fun c => decide (dstLatch dv + 1 ≤ 8 ∧ c.g.num = c.grp ∧
      risingFrom none c.team.groups = true ∧ counterAddr atPack c + 8 ≤ 2 ^ 40 ∧ packMates c = [{ die := 0, handle := 0, grp := 1, slot := 0 }]) &&
      c.team.groups.all (fun e => e.2.num == e.1) && (packMates c).all (fun m => (mkCtx atPack m {}).any (fun cm =>
        let r := refsOf [dstRefs dv 1 false, srcRefs (.v 8) 1, srcRefs (.v 16) 1]
        !pendingHit cm.g r && rowsClear cm {} false r false && decide (cm.lanes = [0, 1])))) = true := by decide +kernel

/-- The team's group changed, so that its next unit waits or traps. -/
def atIssue (g : Group → Group) : State := withTeam atUnit id g
def issueRefs : Refs := refsOf [dstRefs dv 1 false, srcRefs (.v 8) 1, srcRefs (.y 2) 1]

/-- A pending register; a purse that does not grant, before and during the wait, for the first choice and a later one. -/
theorem meets_UnitsWaitForOperandsAndSheaves :
    met (atIssue (fun g => { g with pendRegs := [8] })) {} (fun c => mayIssue (atIssue (fun g => { g with pendRegs := [8] })) c.team c.g c.slot && pendingHit c.g issueRefs) = true ∧
    ([fun g => g, fun g => { g with awaits := some 0, awaitPrice := 1 }, fun g => { g with awaits := some 0, awaitPrice := 2 }] : List (Group → Group)).all (fun f =>
      [false, true].all (fun b => let s := { (atIssue f) with dies := [(0, { (atIssue f).die 0 with pairs := [(0, { first := b })] })] }
        s.teams.all (fun x => decide (s.team? 0 0 = some x ∧ x.die = 0 ∧ x.handle = 0 ∧ risingFrom none x.groups = true) && x.groups.all (fun e => e.2.num == e.1)) &&
        met s {} (fun c => mayIssue s c.team c.g c.slot && !pendingHit c.g issueRefs && !grantable s c.g c.slot 1 &&
          decide ((s.pair c.g.die (c.g.core / 2)).first = b ∧ c.g.num = c.grp ∧ c.g.slot < 96)))) = true := by decide +kernel

/-- A window that ends at v7; a latch of no run and one that is not valid; a run of 15 with W = 1; a damaged register. -/
theorem meets_UnitTraps :
    let common := fun (f : Group → Group) (r : Refs) (p : Ctx → Bool) => met (atIssue f) {} (fun c => c.alone && mayIssue (atIssue f) c.team c.g c.slot && !pendingHit c.g r &&
      grantable (atIssue f) c.g c.slot 1 && decide (c.g.num = c.grp) && ((atIssue f).grid? c.team.grid).any (fun gr => !gr.aborted) && decide (c.slot < 2) && p c)
    let plain := refsOf [dstRefs dv 1 false, srcRefs (.v 8) 1, srcRefs (.v 16) 1]
    common (fun g => { g with wb := 4000 }) plain (fun c => (plain.v.find? (fun i => decide (c.team.vregs ≤ c.g.wb + i))).isSome) = true ∧
    ([none, some { slot := 0 }] : List (Option Run)).all (fun r => common (fun g => { g with run := r }) issueRefs (fun c =>
      issueRefs.v.all (fun i => decide (c.g.wb + i < c.team.vregs)) && (issueRefs.y.find? (fun j => decide (c.g.run = none ∨ c.g.latchValid.getLsbD j = false))).isSome)) = true ∧
    common (fun g => { g with run := some { slot := 0, count := 15 } }) plain (fun c => decide (plain.y = []) && plain.v.all (fun i => decide (c.g.wb + i < c.team.vregs)) &&
      c.g.run.any (fun u => decide (15 ≤ u.count)) && dstW dy) = true ∧
    common (fun g => { g with damage := [{ structure_ := 0, number := 8 }] }) plain (fun c => plain.v.all (fun i => decide (c.g.wb + i < c.team.vregs)) && !dstW dv &&
      (softHit c { h := {}, refs := plain }).isSome) = true := by decide +kernel

/-- A group alone, or with no run open, at the gates of the units that complete; a packed one between two runs; the position of a DSIG. The
engines', bonds' and mailboxes' own gates pass in the states of their families. -/
theorem meets_UnitsCompleteAtTheNextUnit :
    may (atSync id) {} false [] 0 (fun c => c.alone && decide (c.g.run = none ∧ c.team.gleaner = none ∧ c.team.state = .resident ∧ c.g.exited = false) &&
      isGo (stuckGate (atSync id) c 1) && isGo (stuckGate (atSync id) c 5) && decide (noCohort c (atSync id) = none) && !c.g.joins c.x c.sword) = true ∧
    may atPack {} false [] 0 (fun c => !c.alone && decide (c.g.run = none) && isGo (releaseGate atPack c 5)) = true ∧
    met (atSync id) {} (fun c => decide (ndieOf (atSync id) c.team.grid = 2)) = true := by decide +kernel

/-- Events only stand in the agenda of a state in which a group issues a unit. -/
theorem meets_NothingStopsTheMachine :
    (match (State.reset.withFetchWord 32 0x40102860).agenda with | .event _ _ :: _ => false | _ => true) = true := by decide +kernel

/-! The manual's worked examples, one unit each. -/

/-- A group of 32 lanes of which n are active, with registers by (register, lane, word), and g done to it. -/
def atLanes (n : Nat) (rs : List (Nat × Nat × Nat)) (g : Group → Group := id) : State :=
  withTeam atUnit id (fun x => g { x with
    width := 32, live := BitVec.ofNat 128 (2 ^ n - 1), s0 := some { mask := BitVec.ofNat 128 (2 ^ n - 1) }
    vregs := rs.foldl (fun m p => tset m (128 * p.1 + p.2.1) (BitVec.ofNat 32 p.2.2) 0) [] })

/-- After the unit that the words decode to, q holds of the group. -/
def after (s : State) (ws : List Nat) (q : Group → Bool) : Bool :=
  match decode ws with
  | .ok i =>
    match exec i s with
    | .next t => (t.group? 0 0 0).any q
    | _ => false
  | .error _ => false

/-- Register r holds these words in lanes 0 upward. -/
def holdsIn (g : Group) (r : Nat) (ws : List Nat) : Bool := decide ((upto ws.length).map (readReg g r) = ws)

/-- File 06: (!k2) IADD.i16 v4, v5, s3; lane 1 stands outside the active set. -/
theorem test_packed_add_under_a_guard :
    after (atLanes 2 [(5, 0, 0x7FFF0001), (5, 1, 0x7FFF0001), (4, 1, 9)] (fun g => { g with masks := [(2, 2)], scalars := [(3, 0x0001FFFF)] }))
      [0xFF410000, 0x00102E30] (fun g => holdsIn g 4 [0x80000000, 9]) = true := by decide +kernel

/-- File 06: FMAX v7, y3, zero ends the run of the first example. -/
theorem test_run_ends_in_a_register :
    after (atLanes 2 [(7, 0, 1)] (fun g => { g with run := some { slot := 0, count := 2 }, latchValid := 0x0C, latches := [(128 * 3, 0xC0900000), (128 * 3 + 1, 0x40200000)] }))
      [0x401FDF04] (fun g => holdsIn g 7 [0, 0x40200000] && g.run.isNone && decide (g.latchValid = 0)) = true := by decide +kernel

/-- File 07: the two adds of a 64-bit sum; the carry of the first stands in k7. -/
theorem test_add_with_carry :
    (let regs := [(0, 0, 0xFFFFFFFF), (1, 0, 1), (2, 0, 1), (3, 0, 0x7FFFFFFF), (0, 1, 0x80000000), (1, 1, 0xFFFFFFFF), (2, 1, 0x80000000), (3, 1, 0)]
     after (atLanes 2 regs (fun g => { g with masks := [(7, 4)] })) [0x0010002C] (fun g => holdsIn g 4 [0, 0] && decide (tget g.masks 7 0 = 7)) &&
       after (atLanes 2 regs (fun g => { g with masks := [(7, 7)] })) [0x0014083C] (fun g => holdsIn g 5 [0x80000001, 0] && decide (tget g.masks 7 0 = 6))) = true := by
  decide +kernel

/-- File 07: CVT.bf16.f32.h1.rz; NX is set. -/
theorem test_convert_to_the_upper_half :
    after (atLanes 1 [(2, 0, 0x3F80C000), (6, 0, 0x12345678)]) [0xFC080000, 0x5418170A] (fun g => holdsIn g 6 [0x3F805678] && decide (g.fflags = 1)) = true := by
  decide +kernel

/-- File 07: FMIN, FMINN and FMAX of the four pairs; no flag is set. -/
theorem test_float_minima_and_maxima :
    (let s := atLanes 4 [(1, 0, 0x7FA00001), (2, 0, 0x3F800000), (1, 1, 0x80000000), (1, 2, 0x7FC00000), (2, 2, 0x7FC00000), (1, 3, 0x40400000), (2, 3, 0xC0000000)]
     after s (encode (.fmin { h := {}, d := .v 3 false, a := .v 1, b := .v 2 })) (fun g => holdsIn g 3 [0x7FC00000, 0x80000000, 0x7FC00000, 0xC0000000] && decide (g.fflags = 0)) &&
       after s (encode (.fminn { h := {}, d := .v 4 false, a := .v 1, b := .v 2 })) (fun g => holdsIn g 4 [0x3F800000, 0x80000000, 0x7FC00000, 0xC0000000] && decide (g.fflags = 0)) &&
       after s (encode (.fmax { h := {}, d := .v 5 false, a := .v 1, b := .v 2 })) (fun g => holdsIn g 5 [0x7FC00000, 0, 0x7FC00000, 0x40400000] && decide (g.fflags = 0))) = true := by
  decide +kernel

/-- R192: FFRAC of -2^-30 is 1.0, with NX; R186: SHLI by 40 shifts by 8; R180: ctl 0x0B gives (a AND NOT b) OR d. -/
theorem test_corners_of_file_07 :
    after (atLanes 1 [(2, 0, 0xB0800000)]) (encode (.ffrac x2)) (fun g => holdsIn g 1 [0x3F800000] && decide (g.fflags = 1)) = true ∧
    after (atLanes 1 [(3, 0, 0x12345678)]) (encode (.shli { h := {}, d := .v 3 false, a := .v 3, n := 40 })) (fun g => holdsIn g 3 [0x34567800]) = true ∧
    after (atLanes 1 [(1, 0, 1), (2, 0, 0xF0), (3, 0, 0x50)]) (encode (.lcomb { h := { px := some { imm := 0x0B } }, d := .v 1 false, a := .v 2, b := .v 3 }))
      (fun g => holdsIn g 1 [0xA1]) = true := by decide +kernel

/-- File 08: the scale of the block, and the quantised elements; OF and NX are set. -/
theorem test_block_scale_and_quantise :
    (let v2 := [(2, 0, 0x42C00000), (2, 1, 0xC47A0000), (2, 2, 0x40400000), (2, 3, 0x40880000)]
     after (atLanes 32 v2) [0xFC000014, 0x5C101700] (fun g => holdsIn g 4 (List.replicate 32 0x81)) &&
       after (atLanes 5 (v2 ++ (upto 5).map (fun l => (4, l, 0x81)))) [0xFC000014, 0x5C0C1041]
         (fun g => holdsIn g 3 [0x64, 0xFF, 0x3C, 0x40, 0] && decide (g.fflags = 5))) = true := by decide +kernel

/-- R179's corners: a quotient and a remainder by 0, and -2^31 by -1. -/
theorem test_division_corners :
    (let s := atLanes 2 [(2, 0, 7), (2, 1, 0x80000000), (3, 1, 0xFFFFFFFF)]
     let x : V3 := { h := {}, d := .v 1 false, a := .v 2, b := .v 3 }
     after s (encode (.idiv x)) (fun g => holdsIn g 1 [0xFFFFFFFF, 0x80000000]) && after s (encode (.irem x)) (fun g => holdsIn g 1 [7, 0])) = true := by decide +kernel

/-- File 03's page states: an LD of an immutable object whose page is not resident sets k3 and loads 0, where the other lane loads its word. -/
theorem test_load_with_a_mask_of_residence :
    (let s := atLanes 2 [(9, 0, 0), (9, 1, 0x10000)] (fun g => { g with caps := [(2, { fullCap with len := 0x20000 })], masks := [(3, 9)] })
     let hbm := wrNat (wrNat (wrNat s.hbm 0x1000 32 (at_ 0x2000 160 40 + at_ 0x20000 120 40 + at_ 1 100 12 + at_ 1 96 4 + at_ 1 95 1)) 0x2008 8 (at_ 2 18 2)) 0x100000 4 0xCAFE
     after { s with hbm := hbm, deckles := [], holds := [] }
       [0xA0884096] (fun g => holdsIn g 8 [0xCAFE, 0] && decide (tget g.masks 3 0 = 10))) = true := by decide +kernel

end
end

section
/-! Memory: what is read after a write, and that canonical memories with the same bytes are the same (R4). -/
namespace Sys2Proof.Machine

theorem leNat_leBytes (n v : Nat) : leNat (leBytes n v) = v % 2 ^ (8 * n) := by
  induction n generalizing v with
  | zero => simp [leBytes, leNat, Nat.mod_one]
  | succ n ih =>
    rw [leBytes, leNat, ih, show 8 * (n + 1) = 8 + 8 * n by omega, Nat.pow_add, Nat.mod_mul]
    simp

/-- A byte outside the bytes written. -/
theorem rdByte_wrBytes_outside (bs : List Byte) (m : List Host.Cell) (a j : Nat) (h : j < a ∨ a + bs.length ≤ j) :
    rdByte (wrBytes m a bs) j = rdByte m j := by
  rw [rdByte_wrBytes, dif_neg (by omega)]

/-- The bytes read back are those written. -/
theorem rdBytes_wrBytes (bs : List Byte) (m : List Host.Cell) (a : Nat) : rdBytes (wrBytes m a bs) a bs.length = bs := by
  induction bs generalizing m a with
  | nil => rfl
  | cons b r ih =>
    have hb : rdByte (wrBytes m a (b :: r)) a = b := by simp [rdByte_wrBytes]
    rw [List.length_cons, rdBytes, hb, wrBytes, ih]

/-- A number written reads back, cut to its bytes. -/
theorem rdNat_wrNat (m : List Host.Cell) (a n v : Nat) : rdNat (wrNat m a n v) a n = v % 2 ^ (8 * n) := by
  have h := rdBytes_wrBytes (leBytes n v) m a
  rw [leBytes_length] at h
  rw [rdNat, wrNat, h, leNat_leBytes]

variable {α : Type}

/-- Keys rise from above the bound: a key at or below it is not listed. -/
theorem tfind_eq_none_of_risingFrom {j k : Nat} (t : Table α) (h : risingFrom (some j) t = true) (hk : k ≤ j) :
    tfind t k = none := by
  induction t generalizing j with
  | nil => rfl
  | cons e r ih =>
    obtain ⟨k', v⟩ := e
    obtain ⟨hj, hr⟩ := (risingFrom_cons ..).1 h
    have := hj j rfl
    rw [tfind, if_neg (by omega), ih hr (by omega)]

theorem noDefault_cons [DecidableEq α] (d : α) (k : Nat) (v : α) (r : Table α) :
    noDefault d ((k, v) :: r) = true ↔ v ≠ d ∧ noDefault d r = true := by
  simp [noDefault]

theorem tget_cons (k j : Nat) (v d : α) (r : Table α) : tget ((k, v) :: r) j d = if k = j then v else tget r j d := by
  unfold tget; rw [tfind]; split <;> rfl

theorem tget_of_risingFrom {j k : Nat} {d : α} {t : Table α} (h : risingFrom (some j) t = true) (hk : k ≤ j) :
    tget t k d = d := by
  rw [tget, tfind_eq_none_of_risingFrom t h hk, Option.getD_none]

/-- Two tables in canonical form with the same entries are the same. -/
theorem table_ext [DecidableEq α] {d : α} {t u : Table α} {b : Option Nat} (ht : risingFrom b t = true) (hu : risingFrom b u = true)
    (nt : noDefault d t = true) (nu : noDefault d u = true) (h : ∀ k, tget t k d = tget u k d) : t = u := by
  induction t generalizing u b with
  | nil =>
    cases u with
    | nil => rfl
    | cons e r =>
      obtain ⟨k, v⟩ := e
      have hk := h k
      rw [tget_cons, if_pos rfl] at hk
      exact absurd hk.symm ((noDefault_cons ..).1 nu).1
  | cons e r ih =>
    obtain ⟨k, v⟩ := e
    obtain ⟨hv, nr⟩ := (noDefault_cons ..).1 nt
    obtain ⟨_, hr⟩ := (risingFrom_cons ..).1 ht
    cases u with
    | nil =>
      have hk := h k
      rw [tget_cons, if_pos rfl] at hk
      exact absurd hk hv
    | cons e' r' =>
      obtain ⟨k', v'⟩ := e'
      obtain ⟨hv', nr'⟩ := (noDefault_cons ..).1 nu
      obtain ⟨_, hr'⟩ := (risingFrom_cons ..).1 hu
      -- the least keys agree, since each is listed in the other table
      have hkk : k = k' := by
        by_contra hne
        rcases Nat.lt_or_gt_of_ne hne with hlt | hgt
        · have hk := h k
          rw [tget_cons, if_pos rfl, tget_cons, if_neg (by omega), tget_of_risingFrom hr' (by omega)] at hk
          exact hv hk
        · have hk := h k'
          rw [tget_cons, if_neg (by omega), tget_of_risingFrom hr (by omega), tget_cons, if_pos rfl] at hk
          exact hv' hk.symm
      subst hkk
      have hvv : v = v' := by simpa [tget_cons] using h k
      have htail : ∀ j, tget r j d = tget r' j d := by
        intro j
        by_cases hj : k = j
        · subst hj; rw [tget_of_risingFrom hr (Nat.le_refl _), tget_of_risingFrom hr' (Nat.le_refl _)]
        · simpa [tget_cons, hj] using h j
      rw [hvv, ih hr hr' nr nr' htail]

theorem Memory.wf_iff (m : List Host.Cell) : Memory.wf m = true ↔ risingFrom none m = true ∧ noDefault (0 : Byte) m = true := by
  simp [Memory.wf, tableWf]

/-- Settles O54, from the tables' read after a write and the extensionality of their canonical form. -/
theorem memoryReadsWhatWasWritten : Obligations.MemoryReadsWhatWasWritten := by
  refine ⟨fun m a n v => ⟨rdNat_wrNat m a n v, fun b hb => ?_, Memory.wf_wrBytes _ m a⟩, fun m k hm hk h => ?_⟩
  · exact rdByte_wrBytes_outside _ m a b (by simpa using hb)
  · obtain ⟨hm, nm⟩ := (Memory.wf_iff m).1 hm
    obtain ⟨hk, nk⟩ := (Memory.wf_iff k).1 hk
    exact table_ext hm hk nm nk h

end Sys2Proof.Machine
end

section
/-! The words of the manual's examples. -/
namespace Sys2Proof.Machine

/-- Settles O51: the decoder, run on each word. -/
theorem exampleWordsDecode : Obligations.ExampleWordsDecode :=
  ⟨rfl, rfl, rfl, rfl, rfl, rfl, rfl, rfl, rfl, rfl, rfl, rfl, rfl, rfl, rfl, rfl, rfl, rfl⟩

end Sys2Proof.Machine
end

section
/-! Counts: what the schedulers do between two counts leaves %cycle and the state of every die; a count adds one where the die is RUNNING or
FAILED (R18). -/
namespace Sys2Proof.Machine

/-- Every die of t stands at the count and in the boot state that it has in s. -/
def SameClocks (s t : State) : Prop := ∀ d, (t.die d).cycle = (s.die d).cycle ∧ (t.die d).boot = (s.die d).boot

variable {s t u : State}

theorem SameClocks.refl (s : State) : SameClocks s s := fun _ => ⟨rfl, rfl⟩

theorem SameClocks.trans (h : SameClocks s t) (k : SameClocks t u) : SameClocks s u :=
  fun d => ⟨(k d).1.trans (h d).1, (k d).2.trans (h d).2⟩

theorem SameClocks.counts (h : SameClocks s t) (d : Nat) : t.counts d = s.counts d := by
  simp only [State.counts, (h d).2]

theorem sameClocks_withAgenda (s : State) (l : List Act) : SameClocks s { s with agenda := l } := fun _ => ⟨rfl, rfl⟩

theorem sameClocks_withHbm (s : State) (m : List Host.Cell) : SameClocks s { s with hbm := m } := fun _ => ⟨rfl, rfl⟩

theorem sameClocks_foldl {α : Type} {f : State → α → State} (hf : ∀ s x, SameClocks s (f s x)) (l : List α) (s : State) :
    SameClocks s (l.foldl f s) := by
  induction l generalizing s with
  | nil => exact .refl s
  | cons x r ih => exact (hf s x).trans (ih (f s x))

theorem sameClocks_updDie (s : State) (d : Nat) {f : Die → Die} (hf : ∀ x, (f x).cycle = x.cycle ∧ (f x).boot = x.boot) :
    SameClocks s (s.updDie d f) := by
  intro e
  rw [State.die_updDie]
  split
  · rename_i he; subst he; exact hf _
  · exact ⟨rfl, rfl⟩

theorem sameClocks_setPair (s : State) (d p : Nat) (x : Pair) : SameClocks s (s.setPair d p x) :=
  sameClocks_updDie s d fun _ => ⟨rfl, rfl⟩

theorem sameClocks_updTeam (s : State) (d h : Nat) (f : Team → Team) : SameClocks s (s.updTeam d h f) := by
  unfold State.updTeam
  split
  · exact .refl s
  · exact sameClocks_updDie s d fun _ => ⟨rfl, rfl⟩

theorem sameClocks_updGroup (s : State) (d h g : Nat) (f : Group → Group) : SameClocks s (s.updGroup d h g f) := by
  unfold State.updGroup
  split
  · exact .refl s
  · exact sameClocks_updTeam s d h _

theorem sameClocks_endWaits (s : State) (l : List (Team × Group)) : SameClocks s (endWaits s l) := by
  unfold endWaits
  exact sameClocks_foldl (fun s (x : Team × Group) => sameClocks_updGroup s x.1.die x.1.handle x.2.num _) _ s

theorem sameClocks_serveOn (d p n : Nat) (s : State) : SameClocks s (serveOn d p n s).1 := by
  induction n generalizing s with
  | zero => exact .refl s
  | succ n ih =>
    rw [serveOn]
    split
    · exact .refl s
    · refine .trans ?_ (ih _)
      split
      · exact sameClocks_setPair s d p _
      · exact (sameClocks_endWaits s _).trans (sameClocks_setPair _ d p _)

theorem sameClocks_serve (s : State) (d p : Nat) : SameClocks s (serve s d p).1 := by
  unfold serve
  split
  · exact .refl s
  · refine .trans ?_ (sameClocks_serveOn d p _ _)
    split
    · exact .refl s
    · exact sameClocks_setPair s d p _

theorem sameClocks_nextChoice (l : List Nat) (s : State) : SameClocks s (nextChoice s l).1 := by
  induction l generalizing s with
  | nil => exact .refl s
  | cons k r ih =>
    have hk := sameClocks_serve s (k / 64) (k % 64)
    rw [nextChoice]
    split <;> rename_i h <;> rw [h] at hk
    · exact hk
    · exact hk.trans (ih _)

theorem sameClocks_launchGlean (s : State) (d ctx e : Nat) : SameClocks s (launchGlean s d ctx e) := by
  unfold launchGlean
  split
  · exact .refl s
  · exact sameClocks_updDie s d fun _ => ⟨rfl, rfl⟩

theorem sameClocks_launchDue (s : State) (d ctx e : Nat) : SameClocks s (launchDue s d ctx e) := by
  unfold launchDue
  split
  · split
    · exact sameClocks_launchGlean s d ctx e
    · exact .refl s
  · exact .refl s

theorem sameClocks_launchAll (s : State) : SameClocks s (launchAll s) := by
  unfold launchAll
  refine sameClocks_foldl (fun s d => ?_) _ s
  exact sameClocks_foldl (fun s (g : Glean) => sameClocks_launchDue s d g.ctx g.entry) _ s

theorem sameClocks_spillOut (s : State) : SameClocks s (spillOut s) := by
  unfold spillOut
  refine sameClocks_foldl (fun s t => ?_) _ s
  refine sameClocks_foldl (fun s g => ?_) _ s
  exact sameClocks_foldl (fun s _ => sameClocks_withHbm s _) _ s

theorem cycle_countDie (s : State) (d e : Nat) :
    ((countDie s d).die e).cycle = (s.die e).cycle + if e = d then 1 else 0 := by
  unfold countDie
  rw [State.die_setDie]
  split
  · rename_i he; subst he; rfl
  · rfl

theorem cycle_foldl_countDie (l : List Nat) (s : State) (d : Nat) :
    ((l.foldl countDie s).die d).cycle = (s.die d).cycle + l.count d := by
  induction l generalizing s with
  | nil => rfl
  | cons e r ih =>
    rw [List.foldl_cons, ih, cycle_countDie, List.count_cons]
    simp only [beq_iff_eq, eq_comm (a := e)]
    omega

/-- One count: each of the 16 dies that counts is at the next %cycle. -/
theorem cycle_passCount (s : State) {d : Nat} (hd : d < 16) :
    ((passCount s).die d).cycle = (s.die d).cycle + if s.counts d then 1 else 0 := by
  rw [passCount, cycle_foldl_countDie]
  congr 1
  have hnodup : ((upto 16).filter s.counts).Nodup := List.nodup_range.filter _
  split
  · rename_i h; exact List.count_eq_one_of_mem hnodup (by simp [upto, hd, h])
  · rename_i h; exact List.count_eq_zero_of_not_mem (by simp [h])

end Sys2Proof.Machine
end

section
/-! A step runs the act at the head of the agenda. -/
namespace Sys2Proof.Machine

variable {s t : State} {r : List Act}

theorem step_of_agenda {a : Act} (h : s.agenda = a :: r) : step s = runAct a { s with agenda := r } := by
  rw [step, h]

/-- The next unit of a group whose first word takes no prefix. -/
theorem nextUnit_of_decodeUnit {c : Ctx} {u : UnitWords} {k : Instr} (hf : fetchUnit s c.team c.g.die c.unit = .ok u)
    (hx : isX u.w = false) (hk : decodeUnit u = .ok k) : nextUnit s c = .inr k := by
  have hr : readUnit u = .ok k := by simp [readUnit, hx, hk]
  simp only [nextUnit, hf, hr]

/-- The choice of the scheduler whose turn it is runs the instruction of its next unit. -/
theorem issueAct_of_choice {i : Issuer} {g : Group} {c : Ctx} {k : Instr} (hg : s.group? i.die i.handle i.grp = some g)
    (hi : (serve s g.die (g.core / 2)).2 = some i)
    (hc : mkCtx (tryIssue (serve s g.die (g.core / 2)).1 g.die (g.core / 2) i) i { px := none, lit := none } = some c)
    (hk : nextUnit (tryIssue (serve s g.die (g.core / 2)).1 g.die (g.core / 2) i) c = .inr k) :
    issueAct i s = exec k { (markUnit (tryIssue (serve s g.die (g.core / 2)).1 g.die (g.core / 2) i) c) with cur := some i } := by
  unfold issueAct
  generalize hq : serve s g.die (g.core / 2) = q at hi hc hk ⊢
  obtain ⟨q, j⟩ := q
  cases hi
  simp only [hg, hq, ne_eq, not_true_eq_false, if_false, hc, hk]

theorem seqAct_of_word {d cl w : Nat} {b : Bond} {k : Instr} (hb : tfind (s.die d).bonds cl = some b) (hr : seqReady s b = true)
    (hw : fetchQ s (bondTeam s b).ctx b b.qpc = .word w) (hk : decodeQ w = .ok k) :
    seqAct d cl s = exec k { (markPage s (readObj s (bondTeam s b).ctx b.code.oid.toNat) false b.qpc) with curSeq := some (d, cl) } := by
  have hn : nextQ s b = .inr k := by simp only [nextQ, hw, hk]
  simp only [seqAct, hb, hr, hn, Bool.not_true, Bool.false_eq_true, if_false]

theorem hartAct_of_next {d m : Nat} {e : Episode} {k : Instr} {a : StepArgs} (he : s.ep? d m = some e) (hrun : e.state = .run)
    (hu : (s.mbox d m).usedAt ≠ (s.die d).cycle + 1) (hn : nextHart s d m e = .inr (k, a)) :
    hartAct d m s = exec k { s with curHart := some (d, m), arg := a } := by
  simp only [hartAct, he, hrun, hu, hn, ne_eq, not_true_eq_false, or_self, if_false]

theorem nextHart_of_custom {d m w : Nat} {e : Episode} {k : Instr} (hw : hartFetch s d e = .ok w)
    (hk : decodeHart w = some (.custom k)) : nextHart s d m e = .inr (k, {}) := by
  simp only [nextHart, hw, hk]

theorem nextHart_of_rv {d m w n : Nat} {e : Episode} {rv : Rv} (hw : hartFetch s d e = .ok w) (hk : decodeHart w = some (.rv rv n)) :
    nextHart s d m e = .inr (.hartInstruction, { rv := rv, num := n, v := BitVec.ofNat 64 w }) := by
  simp only [nextHart, hw, hk]

theorem eventAct_of_powered {k : Instr} {a : StepArgs} (h : s.powered = true ∨ k = .powerUp) :
    eventAct k a s = exec k { s with arg := a, cur := none, curSeq := none, curHart := none } := by
  rw [eventAct, if_pos (by simpa using h)]

theorem eventAct_of_unpowered {k : Instr} {a : StepArgs} (h : s.powered = false) (hk : k ≠ .powerUp) : eventAct k a s = .next s := by
  rw [eventAct, if_neg (by simp [h, hk])]

theorem serveAct_of_choice {i : Issuer} (h : (nextChoice s (busyPairs s)).2 = some i) :
    serveAct s = { s with agenda := .issue i :: .serve :: s.agenda } := by
  unfold serveAct
  split
  · rename_i j hj; rw [hj] at h; cases h; rfl
  · rename_i hj; rw [hj] at h; cases h

theorem tickAct_of_choice {i : Issuer} (h : (nextChoice s (busyPairs s)).2 = some i) :
    tickAct 1 s = { s with agenda := .serve :: .tick 1 :: s.agenda } := by
  rw [tickAct, if_neg (by decide)]
  split
  · rfl
  · rename_i hj; rw [hj] at h; cases h

/-- Without a choice left a count passes. -/
theorem cycle_tickAct (h : (nextChoice s (busyPairs s)).2 = none) {d : Nat} (hd : d < 16) :
    ((tickAct 1 s).die d).cycle = (s.die d).cycle + if s.counts d then 1 else 0 := by
  have hc := sameClocks_nextChoice (busyPairs s) s
  rw [tickAct, if_neg (by decide)]
  split
  · rename_i hj; rw [hj] at h; cases h
  · rename_i t hj
    rw [hj] at hc
    have hall := (hc.trans (sameClocks_launchAll t)).trans (sameClocks_spillOut _)
    calc (({ passCount (spillOut (launchAll t)) with agenda := _ } : State).die d).cycle
        = ((passCount (spillOut (launchAll t))).die d).cycle := (sameClocks_withAgenda (passCount _) _ d).1
      _ = ((spillOut (launchAll t)).die d).cycle + if (spillOut (launchAll t)).counts d then 1 else 0 := cycle_passCount _ hd
      _ = (s.die d).cycle + if s.counts d then 1 else 0 := by rw [(hall d).1, hall.counts d]

/-- A word that is fetched is the four bytes at the place of the code capability's object offset. -/
theorem fetchWord_ok {x : Team} {die a w : Nat} (h : fetchWord s x die a = .ok w) :
    ∃ p, placeOf s (readObj s x.ctx x.code.oid.toNat) a = some p ∧ w = homeNat s p 4 := by
  revert h
  fun_cases fetchWord s x die a with
  | case6 o acc off hcap p hp => rintro ⟨⟩; exact ⟨p, hp, rfl⟩
  | _ => rintro ⟨⟩

/-- Settles O52: one lemma for each kind of act. -/
theorem stepRunsTheDecodedInstruction : Obligations.StepRunsTheDecodedInstruction := by
  refine ⟨fun s r => ?_, fun s x die a w h => fetchWord_ok h⟩
  refine ⟨fun i g c u k h hg => ?_, fun d cl w b k h hb hr hw hk => ?_, fun d m w e h he hrun hu hw => ?_, fun k a h => ?_,
    fun a bs h => step_of_agenda h, ?_, fun h => by rw [step, h]⟩
  · exact fun hi hc hf hx hk => (step_of_agenda h).trans (issueAct_of_choice hg hi hc (nextUnit_of_decodeUnit hf hx hk))
  · exact (step_of_agenda h).trans (seqAct_of_word hb hr hw hk)
  · exact ⟨fun k hk => (step_of_agenda h).trans (hartAct_of_next he hrun hu (nextHart_of_custom hw hk)),
      fun rv n hk => (step_of_agenda h).trans (hartAct_of_next he hrun hu (nextHart_of_rv hw hk))⟩
  · exact ⟨fun hp => (step_of_agenda h).trans (eventAct_of_powered hp),
      fun hp hk => (step_of_agenda h).trans (eventAct_of_unpowered hp hk)⟩
  · refine ⟨fun i hi => ⟨fun h => ?_, fun h => ?_⟩, fun hn h => ⟨_, step_of_agenda h, fun d hd => cycle_tickAct hn hd⟩⟩
    · rw [step_of_agenda h, runAct, serveAct_of_choice hi]
    · rw [step_of_agenda h, runAct, tickAct_of_choice hi]

end Sys2Proof.Machine
end

section
/-! Every step keeps the canonical form of HBM, host memory and the mirror of peers' memory. All of memory is written through `wrByte`, and
otherwise a part of it is left out, so for each function of the model that gives a state there is one lemma, `canon_f`: where f is given
a state in canonical form, the state that it gives is in canonical form. The lemmas stand in the order of the model's files; an
instruction's is in the place of its function, or where its proof is one term in `canon_exec` itself. -/
namespace Sys2Proof.Machine

-- one elaboration after another, as in the tests: a thread of its own for each of the many lemmas is more than the process may hold
set_option Elab.async false

theorem Memory.wf_wrNat (m : List Host.Cell) (a n v : Nat) (h : Memory.wf m = true) : Memory.wf (wrNat m a n v) = true :=
  Memory.wf_wrBytes _ m a h

theorem risingFrom_filter {α : Type} (p : Nat × α → Bool) (t : Table α) (b : Option Nat) (h : risingFrom b t = true) :
    risingFrom b (t.filter p) = true := by
  induction t generalizing b with
  | nil => rfl
  | cons e r ih =>
    rw [risingFrom_cons] at h
    obtain ⟨hb, hr⟩ := h
    rw [List.filter_cons]
    split
    · exact (risingFrom_cons ..).2 ⟨hb, ih _ hr⟩
    · exact ih b (risingFrom_mono r hr fun j hj => (hb j hj).le)

/-- Memory without some of its bytes. -/
theorem Memory.wf_filter (m : List Host.Cell) (p : Host.Cell → Bool) (h : Memory.wf m = true) :
    Memory.wf (m.filter p) = true := by
  simp only [Memory.wf, tableWf, noDefault, Bool.and_eq_true, List.all_eq_true] at h ⊢
  obtain ⟨hr, hd⟩ := h
  exact ⟨risingFrom_filter p m none hr, fun e he => hd e (List.mem_filter.1 he).1⟩

/-- HBM, host memory and the mirror of peers' memory stand in their canonical form. -/
def Canon (s : State) : Prop := Memory.wf s.hbm = true ∧ Memory.wf s.host = true ∧ Memory.wf s.far = true

/-- An outcome that is a next state has its memories in canonical form. -/
def NextCanon : Host.Outcome State Fault Refusal → Prop
  | .next s => Canon s
  | _ => True

/-- The effect of a unit keeps the canonical form. -/
def UnitOp.KeepsCanon (u : UnitOp) : Prop := ∀ c s, Canon s → Canon (u.effect c s)

section
variable {s t : State} {α β : Type}

/-- A state with the same three memories. -/
theorem Canon.same (hs : Canon s) (hb : t.hbm = s.hbm := by rfl) (hh : t.host = s.host := by rfl)
    (hf : t.far = s.far := by rfl) : Canon t := by
  unfold Canon; rwa [hb, hh, hf]

/-- A state whose HBM alone is another. -/
theorem Canon.withHbm (hs : Canon s) (hb : Memory.wf t.hbm = true) (hh : t.host = s.host := by rfl)
    (hf : t.far = s.far := by rfl) : Canon t := by
  unfold Canon; rw [hh, hf]; exact ⟨hb, hs.2⟩

/-- A state whose host memory alone is another. -/
theorem Canon.withHost (hs : Canon s) (hh : Memory.wf t.host = true) (hb : t.hbm = s.hbm := by rfl)
    (hf : t.far = s.far := by rfl) : Canon t := by
  unfold Canon; rw [hb, hf]; exact ⟨hs.1, hh, hs.2.2⟩

theorem Canon.fst {p : State × α} {a : α} (hp : Canon p.1) (e : p = (t, a)) : Canon t := by subst e; exact hp

theorem Canon.snd {p : α × State} {a : α} (hp : Canon p.2) (e : p = (a, t)) : Canon t := by subst e; exact hp

theorem canon_ite {c : Prop} [Decidable c] (hs : Canon s) (ht : Canon t) : Canon (if c then s else t) := by
  split
  exacts [hs, ht]

theorem canon_ite_snd {c : Prop} [Decidable c] {p q : α × State} (hp : Canon p.2) (hq : Canon q.2) :
    Canon (if c then p else q).2 := by
  split
  exacts [hp, hq]

/-- An update made under a condition. -/
theorem canon_when {c : Prop} [Decidable c] (hst : Canon s → Canon t) (hs : Canon s) : Canon (if c then t else s) :=
  canon_ite (hst hs) hs

/-- An update made where a condition fails. -/
theorem canon_unless {c : Prop} [Decidable c] (hst : Canon s → Canon t) (hs : Canon s) : Canon (if c then s else t) :=
  canon_ite hs (hst hs)

theorem canon_foldl {f : State → α → State} {l : List α} (hs : Canon s) (hf : ∀ s a, Canon s → Canon (f s a)) :
    Canon (l.foldl f s) := List.foldlRecOn l f hs fun s hs a _ => hf s a hs

/-- A fold that carries a value beside the state. -/
theorem canon_foldl_fst {f : State × β → α → State × β} {l : List α} {p : State × β} (hp : Canon p.1)
    (hf : ∀ p a, Canon p.1 → Canon (f p a).1) : Canon (l.foldl f p).1 :=
  List.foldlRecOn l f (motive := fun p => Canon p.1) hp fun p hp a _ => hf p a hp

theorem canon_foldl_snd {f : β × State → α → β × State} {l : List α} {p : β × State} (hp : Canon p.2)
    (hf : ∀ p a, Canon p.2 → Canon (f p a).2) : Canon (l.foldl f p).2 :=
  List.foldlRecOn l f (motive := fun p => Canon p.2) hp fun p hp a _ => hf p a hp

/-- A fold of updates that may fail, where it gives a state. -/
theorem canon_foldl_bind {f : State → α → Option State} {l : List α} (hs : Canon s)
    (hf : ∀ {s a t}, Canon s → f s a = some t → Canon t)
    (e : l.foldl (fun (o : Option State) a => o.bind (fun s => f s a)) (some s) = some t) : Canon t := by
  suffices h : ∀ u ∈ l.foldl (fun (o : Option State) a => o.bind (fun s => f s a)) (some s), Canon u from h t e
  refine List.foldlRecOn l _ (motive := fun o => ∀ u ∈ o, Canon u) (by rintro u ⟨⟩; exact hs) ?_
  intro o ho a _ u hu
  obtain ⟨v, hv, e⟩ := Option.bind_eq_some_iff.1 hu
  exact hf (ho v hv) e
end

/-- An update of the management unit that is done leaves the memories in canonical form. -/
def MuResult.Canonical : MuResult → Prop
  | .done s .. => Canon s
  | .wait => True

section
variable {s t : State}

/-! Machine/Access. -/

theorem canon_setDie {d x} (hs : Canon s) : Canon (s.setDie d x) := hs.same

theorem canon_updDie {d f} (hs : Canon s) : Canon (s.updDie d f) := canon_setDie hs

theorem canon_setTeam {d h t} (hs : Canon s) : Canon (s.setTeam d h t) := canon_updDie hs

theorem canon_delTeam {d h} (hs : Canon s) : Canon (s.delTeam d h) := canon_updDie hs

theorem canon_updTeam {d h f} (hs : Canon s) : Canon (s.updTeam d h f) := by
  fun_cases State.updTeam
  exacts [hs, canon_setTeam hs]

theorem canon_setGroup {d h g x} (hs : Canon s) : Canon (s.setGroup d h g x) := canon_updTeam hs

theorem canon_updGroup {d h g f} (hs : Canon s) : Canon (s.updGroup d h g f) := by
  fun_cases State.updGroup
  exacts [hs, canon_setGroup hs]

theorem canon_setGrid {n g} (hs : Canon s) : Canon (s.setGrid n g) := hs.same

theorem canon_updGrid {n f} (hs : Canon s) : Canon (s.updGrid n f) := by
  fun_cases State.updGrid
  exacts [hs, canon_setGrid hs]

theorem canon_setReg {off v} (hs : Canon s) : Canon (s.setReg off v) := hs.same

theorem canon_setPair {d p x} (hs : Canon s) : Canon (s.setPair d p x) := canon_updDie hs

theorem canon_setIsland {d p i} (hs : Canon s) : Canon (s.setIsland d p i) := canon_updDie hs

theorem canon_fresh (hs : Canon s) : Canon (s.fresh).2 := hs.same

theorem canon_drawBool (hs : Canon s) : Canon (s.drawBool).2 := hs.same

theorem canon_drawByte (hs : Canon s) : Canon (s.drawByte).2 := hs.same

theorem canon_signal {v} (hs : Canon s) : Canon (s.signal v) := hs.same

theorem canon_wrHome {a b} (hs : Canon s) : Canon (wrHome s a b) := by
  obtain ⟨hb, hh, hf⟩ := hs
  fun_cases wrHome
  · exact ⟨hb, hh, Memory.wf_wrByte _ _ _ hf⟩
  · exact ⟨Memory.wf_wrByte _ _ _ hb, hh, hf⟩

theorem canon_wrHomes {a bs} (hs : Canon s) : Canon (wrHomes s a bs) := by
  induction bs generalizing s a with
  | nil => exact hs
  | cons b r ih => exact ih (canon_wrHome hs)

theorem canon_wrMarked {a b mark} (hs : Canon s) : Canon (wrMarked s a b mark) := by
  fun_cases wrMarked
  exacts [(canon_wrHome hs).same, canon_wrHome hs]

theorem canon_wrHomeNat {a n v} (hs : Canon s) : Canon (wrHomeNat s a n v) := canon_wrHomes hs

theorem canon_logRecord {base size tailReg headReg rec} (hs : Canon s) : Canon (logRecord s base size tailReg headReg rec) := by
  fun_cases logRecord
  exacts [canon_setReg hs, canon_setReg (canon_wrHomeNat hs)]

theorem canon_logCtx {ctx rec} (hs : Canon s) : Canon (logCtx s ctx rec) := canon_signal (canon_logRecord hs)

theorem canon_logMod {rec} (hs : Canon s) : Canon (logMod s rec) := canon_signal (canon_logRecord hs)

theorem canon_eventCtx {die e} (hs : Canon s) : Canon (eventCtx s die e) := canon_logCtx hs

theorem canon_eventMod {die e} (hs : Canon s) : Canon (eventMod s die e) := canon_logMod hs

theorem canon_regionEvent {die e} (hs : Canon s) : Canon (regionEvent s die e) := canon_logCtx hs

theorem canon_writeEnergy {ctx core v} (hs : Canon s) : Canon (writeEnergy s ctx core v) := by
  fun_cases writeEnergy
  exacts [hs.same, canon_wrHomeNat hs]

theorem canon_charge {ctx core n} (hs : Canon s) : Canon (charge s ctx core n) := by
  fun_cases charge
  exacts [hs, canon_writeEnergy hs]

theorem canon_chargeHouse {d n} (hs : Canon s) : Canon (chargeHouse s d n) := canon_updDie hs

theorem canon_addEvent {ctx core n v} (hs : Canon s) : Canon (addEvent s ctx core n v) := by
  fun_cases addEvent
  exacts [hs.same, canon_wrHomeNat hs]

theorem canon_holdCounters {ctx core} (hs : Canon s) : Canon (holdCounters s ctx core) := by
  fun_cases holdCounters
  exacts [hs, hs.same.same]

theorem canon_dropCounters {ctx core} (hs : Canon s) : Canon (dropCounters s ctx core) := by
  fun_cases dropCounters
  exacts [canon_foldl (canon_wrHomeNat hs.same) fun _ _ hs => canon_wrHomeNat hs, hs]

theorem canon_settleCounters {ctx d core} (hs : Canon s) : Canon (settleCounters s ctx d core) := by
  fun_cases settleCounters
  exacts [hs, canon_dropCounters hs]

/-! Machine/Caches. -/

theorem canon_dropLine {l2 unit line} (hs : Canon s) : Canon (dropLine s l2 unit line) := hs.same

theorem canon_keepLine {c} (hs : Canon s) : Canon (keepLine s c) := by
  fun_cases keepLine with
  | case1 u => exact canon_dropLine hs
  | case2 u => exact Canon.same (s := u) (canon_dropLine hs)

theorem canon_toHome {c} (hs : Canon s) : Canon (toHome s c) := (canon_foldl hs fun _ _ hs => canon_wrMarked hs).same

theorem canon_putL2 {c} (hs : Canon s) : Canon (putL2 s c) := by
  fun_cases putL2
  exacts [canon_keepLine hs, canon_keepLine (canon_dropLine (canon_toHome hs))]

theorem canon_toL2 {c} (hs : Canon s) : Canon (toL2 s c) := canon_putL2 hs

theorem canon_putLine {c} (hs : Canon s) : Canon (putLine s c) := by
  fun_cases putLine
  exacts [canon_putL2 hs, canon_keepLine hs, canon_keepLine (canon_dropLine (canon_ite hs (canon_toL2 hs)))]

theorem canon_l2Line {core place} (hs : Canon s) : Canon (l2Line s core place).2 := by
  fun_cases l2Line
  exacts [hs, canon_putLine hs]

theorem canon_l1Line {core place} (hs : Canon s) : Canon (l1Line s core place).2 := by
  fun_cases l1Line
  exacts [hs, canon_putLine ((canon_l2Line hs).snd ‹_›)]

theorem canon_loadCached {core place n} (hs : Canon s) : Canon (loadCached s core place n).2 := by
  fun_cases loadCached
  exact (canon_ite_snd hs (canon_l1Line hs)).snd ‹_›

theorem canon_storeCached {core place bs tag} (hs : Canon s) : Canon (storeCached s core place bs tag) := canon_putLine hs

theorem canon_writeBack {c} (hs : Canon s) : Canon (writeBack s c) := by
  fun_cases writeBack
  exacts [hs, canon_putLine (canon_ite (canon_toHome hs) (canon_toL2 hs))]

theorem canon_releaseLines {cores depth p} (hs : Canon s) : Canon (releaseLines s cores depth p) := by
  fun_cases releaseLines
  · exact hs
  · exact canon_foldl hs fun _ _ hs => canon_writeBack hs
  · exact canon_foldl (canon_foldl hs fun _ _ hs => canon_writeBack hs) fun _ _ hs => canon_writeBack hs

theorem canon_acquireLines {cores depth p} (hs : Canon s) : Canon (acquireLines s cores depth p) := by
  fun_cases acquireLines
  exacts [hs, hs.same]

theorem canon_flushPlaces {ps} (hs : Canon s) : Canon (flushPlaces s ps) :=
  (canon_foldl (canon_foldl hs fun _ _ hs => canon_writeBack hs) fun _ _ hs => canon_writeBack hs).same

/-! Machine/Own. -/

theorem canon_putDeckle {d} (hs : Canon s) : Canon (putDeckle s d) := by
  fun_cases putDeckle <;> exact hs.same

theorem canon_delDeckle {d} (hs : Canon s) : Canon (delDeckle s d) := hs.same

theorem canon_dropHold {ctx party oid base} (hs : Canon s) : Canon (dropHold s ctx party oid base) := hs.same

theorem canon_dropShare {ctx party oid base} (hs : Canon s) : Canon (dropShare s ctx party oid base) := hs.same

theorem canon_spillOn {core} (hs : Canon s) (e : spillOn s core = some t) : Canon t := by
  revert e
  fun_cases spillOn <;> rintro ⟨⟩
  exacts [hs, hs, hs.same]

theorem canon_spillFor {ctx party} (hs : Canon s) (e : spillFor s ctx party = some t) : Canon t := by
  revert e
  fun_cases spillFor
  · rintro ⟨⟩; exact hs
  · rintro ⟨⟩
  · exact canon_foldl_bind hs canon_spillOn

theorem canon_enterHold {ctx party oid base len kind} (hs : Canon s) : Canon (enterHold s ctx party oid base len kind) :=
  (canon_ite (canon_dropHold hs) (canon_dropShare hs)).same

theorem canon_refillHold {core h} (hs : Canon s) : Canon (refillHold s core h) := by
  fun_cases refillHold
  exacts [hs, (canon_spillOn hs ‹_›).same]

theorem canon_releaseRegion {party scope ctx oid base len} (hs : Canon s) : Canon (releaseRegion s party scope ctx oid base len) :=
  canon_releaseLines hs

theorem canon_acquireRegion {party scope ctx oid base len} (hs : Canon s) : Canon (acquireRegion s party scope ctx oid base len) :=
  canon_acquireLines hs

theorem canon_returnRegion {d p gone} (hs : Canon s) : Canon (returnRegion s d p gone).1 := by
  fun_cases returnRegion
  exacts [canon_delDeckle (canon_dropHold (canon_releaseRegion hs)), canon_putDeckle (canon_dropHold (canon_releaseRegion hs))]

theorem canon_installRegion {p q ctx oid base len kind} (hs : Canon s) : Canon (installRegion s p q ctx oid base len kind) := by
  fun_cases installRegion
  exacts [canon_enterHold (canon_acquireRegion (canon_spillFor hs ‹_›)), ((canon_fresh hs).snd ‹_›).same]

theorem canon_returnNow {d p gone} (hs : Canon s) : Canon (returnNow s d p gone).1 := by
  fun_cases returnNow
  exacts [(canon_returnRegion hs).fst ‹_›, canon_installRegion ((canon_returnRegion hs).fst ‹_›)]

theorem canon_lendEngine {ctx parties d engine} (hs : Canon s) : Canon (lendEngine s ctx parties d engine).2 := by
  fun_cases lendEngine
  exacts [hs, hs, hs, canon_putDeckle (canon_dropHold (canon_releaseRegion hs))]

theorem canon_lowerShare {d} (hs : Canon s) : Canon (lowerShare s d) := by
  fun_cases lowerShare
  exacts [canon_delDeckle hs, canon_putDeckle hs]

theorem canon_rethold {die cause p d after} (hs : Canon s) : Canon (rethold s die cause p d after) := canon_regionEvent hs

theorem canon_disposeHeld {p d} (hs : Canon s) : Canon (disposeHeld s p d).2 := by
  fun_cases disposeHeld
  exacts [canon_putDeckle (canon_dropHold hs), (canon_returnNow hs).fst ‹_›, (canon_returnNow hs).fst ‹_›]

theorem canon_disposeShare {p h} (hs : Canon s) : Canon (disposeShare s p h) := by
  fun_cases disposeShare
  exacts [canon_dropShare hs, canon_lowerShare (canon_dropShare hs)]

theorem canon_retireParty {ctx die p log} (hs : Canon s) : Canon (retireParty s ctx die p log) := by
  unfold retireParty
  refine canon_foldl (canon_foldl hs fun _ _ hs => ?_) fun _ _ hs => canon_when canon_rethold (canon_disposeShare hs)
  split
  · exact canon_when canon_rethold ((canon_disposeHeld hs).snd ‹_›)

/-! Machine/Checks. -/

theorem canon_markPage {o store off} (hs : Canon s) : Canon (markPage s o store off) := by
  fun_cases markPage
  exacts [hs, hs, canon_wrHomeNat hs]

theorem canon_markCap {ctx k store off} (hs : Canon s) : Canon (markCap s ctx k store off) := canon_markPage hs

theorem canon_touchCover {ctx parties oid offs n kinds} (hs : Canon s) : Canon (touchCover s ctx parties oid offs n kinds) :=
  hs.same

/-! Machine/Grids. -/

theorem canon_releaseDep {n} (hs : Canon s) : Canon (releaseDep s n) := canon_updGrid hs

theorem canon_releaseDeps (hs : Canon s) : Canon (releaseDeps s) := by
  fun_cases releaseDeps
  exacts [canon_foldl hs fun _ _ hs => canon_releaseDep hs, hs]

theorem canon_tokState {die cause ctx ix off party} (hs : Canon s) : Canon (tokState s die cause ctx ix off party) := by
  fun_cases tokState <;> exact canon_regionEvent hs

theorem canon_decrementToken {die g} (hs : Canon s) : Canon (decrementToken s die g) := by
  fun_cases decrementToken
  exacts [hs, canon_eventCtx hs, canon_releaseDeps (canon_wrHomeNat hs), canon_tokState hs, canon_tokState hs]

/-! Machine/Ops. -/

theorem canon_queueTrap {die g t} (hs : Canon s) : Canon (queueTrap s die g t) := by
  fun_cases queueTrap
  exacts [hs, hs, hs, canon_updDie hs]

theorem canon_raiseAt {die handle g x code m detail} (hs : Canon s) : Canon (raiseAt s die handle g x code m detail) :=
  canon_queueTrap (canon_setGroup hs)

theorem canon_takeTrap {die handle grp slot pc t} (hs : Canon s) : Canon (takeTrap s die handle grp slot pc t) := by
  fun_cases takeTrap
  exacts [hs, hs, canon_queueTrap (canon_setGroup hs)]

theorem canon_endWaits {l} (hs : Canon s) : Canon (endWaits s l) := canon_foldl hs fun _ _ hs => canon_updGroup hs

theorem canon_awaitSheaves {c price} (hs : Canon s) : Canon (awaitSheaves s c price) := by
  fun_cases awaitSheaves
  exacts [hs, canon_setGroup (canon_setPair (canon_endWaits hs))]

theorem canon_serveOn {d p n} (hs : Canon s) : Canon (serveOn d p n s).1 := by
  induction n generalizing s with
  | zero => exact hs
  | succ n ih =>
    rw [serveOn]
    split
    · exact hs
    · exact ih (canon_setPair (canon_ite hs (canon_endWaits hs)))

theorem canon_serve {d p} (hs : Canon s) : Canon (serve s d p).1 := by
  fun_cases serve
  exacts [hs, canon_serveOn (canon_ite hs (canon_setPair hs))]

theorem canon_tryIssue {d p i} (hs : Canon s) : Canon (tryIssue s d p i) := canon_setPair hs

theorem canon_nextChoice {ks} (hs : Canon s) : Canon (nextChoice s ks).1 := by
  induction ks generalizing s with
  | nil => exact hs
  | cons k r ih =>
    unfold nextChoice
    split
    · exact (canon_serve hs).fst ‹_›
    · exact ih ((canon_serve hs).fst ‹_›)

theorem canon_payIssue {c price} (hs : Canon s) : Canon (payIssue s c price) := by
  fun_cases payIssue
  exacts [hs, canon_charge (canon_setPair hs)]

theorem canon_dropPathWait {c} (hs : Canon s) : Canon (dropPathWait s c) := by
  fun_cases dropPathWait
  exacts [hs.same, hs]

theorem canon_pathWaits {c ep cap acc off m} (hs : Canon s) : Canon (pathWaits s c ep cap acc off m) := by
  fun_cases pathWaits
  exacts [hs, ((canon_fresh hs).snd ‹_›).same]

theorem canon_endStep {c} (hs : Canon s) : Canon (endStep s c) := by
  fun_cases endStep
  exacts [canon_updDie hs, hs]

theorem canon_endRun {c} (hs : Canon s) : Canon (endRun s c) := canon_updGroup (canon_endStep hs)

theorem canon_complete {u c} (hu : u.KeepsCanon) (hs : Canon s) : Canon (complete u c s) := by
  have ht : Canon { dropPathWait s c with issues := s.issues + 1 } := (canon_dropPathWait hs).same
  fun_cases complete
  · exact canon_unless (hu _ _) (canon_updTeam (canon_setGroup ht))
  · exact canon_endRun (canon_unless (hu _ _) (canon_updTeam (canon_setGroup ht)))

theorem canon_mateIssue {u c} (hu : u.KeepsCanon) (hs : Canon s) : Canon (mateIssue u s c) := by
  fun_cases mateIssue
  exacts [canon_takeTrap hs, canon_complete hu hs, hs]

theorem canon_joinRun {c all k} (hs : Canon s) : Canon (joinRun c all s k) := canon_updGroup hs

theorem canon_mateWaits {u c} (hs : Canon s) : Canon (mateWaits u c s) := by
  fun_cases mateWaits
  exacts [hs, canon_refillHold hs, canon_pathWaits hs, hs]

theorem canon_issueUnit {u c} (hu : u.KeepsCanon) (hs : Canon s) : Canon (issueUnit u c s) := by
  have hm {p : Prop} [Decidable p] {n} {l : List Ctx} :
      Canon (l.foldl (fun s m => mateIssue u s m) (if p then payIssue s c n else s)) :=
    canon_foldl (canon_when canon_payIssue hs) fun _ _ hs => canon_mateIssue hu hs
  fun_cases issueUnit with
  | case3 => exact canon_awaitSheaves hs
  | case5 => exact canon_refillHold hs
  | case6 => exact canon_pathWaits hs
  | case7 => exact canon_mateWaits hs
  | case8 =>
    rename_i t v
    unfold v
    split; exacts [canon_takeTrap hm, canon_complete hu hm]
  | case9 =>
    rename_i t v
    refine canon_foldl (s := v) ?_ fun _ _ hs => canon_joinRun hs
    unfold v
    split; exacts [canon_takeTrap hm, canon_complete hu hm]
  | _ => exact hs

theorem canon_issue {u} (hu : u.KeepsCanon) (hs : Canon s) : NextCanon (issue u s) := by
  fun_cases issue
  exacts [trivial, trivial, canon_issueUnit hu hs]

theorem canon_trapIssue {c f} (hs : Canon s) : Canon (trapIssue s c f) := canon_foldl hs fun _ _ hs => canon_takeTrap hs

theorem canon_commit {c f} (hs : Canon s) : Canon (Ctx.commit c s f) := canon_setGroup hs

/-! Machine/Mem. -/

theorem canon_markAccess {c a store kinds offs} (hs : Canon s) : Canon (markAccess s c a store kinds offs) :=
  canon_touchCover (canon_foldl hs fun _ _ hs => canon_markPage hs)

theorem canon_loadLanes {core ctx a} (hs : Canon s) : Canon (loadLanes s core ctx a).2 :=
  canon_foldl_snd hs fun _ _ hs => canon_loadCached hs

theorem canon_releaseAll {c scope} (hs : Canon s) : Canon (releaseAll s c scope) := canon_releaseLines hs

theorem canon_acquireAll {c scope} (hs : Canon s) : Canon (acquireAll s c scope) := canon_acquireLines hs

theorem canon_atomAt {o n place v cmp} (hs : Canon s) : Canon (atomAt s o n place v cmp).2 := canon_wrHomeNat hs

theorem canon_atomLanes {c a o order scope operand} (hs : Canon s) :
    Canon (atomLanes s c a o order scope operand).2 :=
  canon_releaseDeps (canon_when canon_acquireAll (canon_markAccess
    (canon_foldl_snd (canon_when canon_releaseAll hs) fun _ _ hs => canon_atomAt hs)))

theorem canon_writeReceipt {die handle grp i v} (hs : Canon s) : Canon (writeReceipt s die handle grp i v) := canon_updGroup hs

/-! Machine/Feeds. -/

theorem canon_putBond {b} (hs : Canon s) : Canon (putBond s b) := canon_updDie hs

theorem canon_delBond {b} (hs : Canon s) : Canon (delBond s b) := canon_updDie hs

theorem canon_bondReceipt {b} (hs : Canon s) : Canon (bondReceipt s b) := by
  fun_cases bondReceipt
  exacts [hs, canon_putBond (canon_writeReceipt hs)]

theorem canon_returnHolds {b} (hs : Canon s) : Canon (returnHolds s b) := canon_foldl hs fun _ _ hs => canon_setPair hs

theorem canon_breakRdvs {b} (hs : Canon s) : Canon (breakRdvs s b) := canon_updTeam (canon_putBond hs)

theorem canon_bondFault {b code qpc} (hs : Canon s) : Canon (bondFault s b code qpc) := by
  unfold bondFault
  extract_lets s1 b1 s2 s3
  have h2 : Canon s2 := canon_bondReceipt (canon_putBond (canon_returnHolds hs))
  have h3 : Canon s3 := by
    unfold s3
    split
    exacts [canon_unless canon_logCtx h2, h2]
  split
  exacts [canon_breakRdvs h3, h3]

theorem canon_stopFeeds {die handle status} (hs : Canon s) : Canon (stopFeeds s die handle status) := hs.same

theorem canon_releaseBond {b} (hs : Canon s) : Canon (releaseBond s b) := canon_delBond (canon_returnHolds hs)

/-! Machine/Waits. -/

theorem canon_mapGridGroups {die grid f} (hs : Canon s) : Canon (mapGridGroups s die grid f) := canon_updDie hs

theorem canon_sweepDbar {die grid n} (hs : Canon s) : Canon (sweepDbar s die grid n) := by
  induction n generalizing s with
  | zero => exact hs
  | succ n ih => exact ih (canon_mapGridGroups (canon_mapGridGroups hs))

theorem canon_clashRdv {b grp n} (hs : Canon s) : Canon (clashRdv s b grp n) := by
  fun_cases clashRdv
  exacts [hs, canon_setGroup hs, canon_raiseAt (canon_setGroup hs), canon_setGroup hs, hs]

theorem canon_clashRdvs {b} (hs : Canon s) : Canon (clashRdvs s b) := by
  fun_cases clashRdvs
  exacts [hs, canon_foldl hs fun _ _ hs => canon_foldl hs fun _ _ hs => canon_clashRdv hs]

theorem canon_listHolds {ctx ps} (hs : Canon s) : Canon (listHolds s ctx ps) := hs.same

theorem canon_chargeMove {t withLocal ctx extra} (hs : Canon s) : Canon (chargeMove s t withLocal ctx extra) := by
  unfold chargeMove
  refine canon_foldl hs fun _ _ hs => ?_
  split
  · exact canon_charge hs
  · exact canon_chargeHouse hs

theorem canon_teamOff {die handle st} (hs : Canon s) : Canon (teamOff s die handle st) := by
  fun_cases teamOff
  exacts [hs, canon_foldl (canon_setTeam (canon_releaseLines (canon_listHolds hs))) fun _ _ hs => canon_settleCounters hs]

theorem canon_startDwait {t o} (hs : Canon s) : Canon (startDwait s t o) := by
  fun_cases startDwait
  exacts [canon_acquireLines (canon_setTeam hs), canon_teamOff (canon_setTeam (canon_chargeMove hs))]

theorem canon_releaseDwait {die handle status} (hs : Canon s) : Canon (releaseDwait s die handle status) := canon_updTeam hs

theorem canon_sweepDwait {die handle} (hs : Canon s) : Canon (sweepDwait s die handle) := by
  fun_cases sweepDwait
  exacts [canon_startDwait hs, hs, hs, hs]

theorem canon_departGroup {t g} (hs : Canon s) : Canon (departGroup s t g) := by
  fun_cases departGroup
  exacts [hs, canon_acquireLines (canon_ite (canon_acquireLines hs) hs), canon_ite (canon_acquireLines hs) hs]

theorem canon_depart {t teams} (hs : Canon t) : Canon (depart s t teams) := by
  unfold depart
  refine canon_foldl hs fun _ _ hs => ?_
  split
  · exact canon_foldl hs fun _ _ hs => canon_departGroup hs
  · exact hs

theorem canon_sweepWaits {t} (hs : Canon s) : Canon (sweepWaits s t) := by
  fun_cases sweepWaits
  · exact canon_clashRdvs (canon_setTeam (canon_putBond (canon_when canon_sweepDbar (canon_ite (canon_setTeam hs) hs))))
  · exact canon_when canon_sweepDbar (canon_ite (canon_setTeam hs) hs)

theorem canon_sweepTeam {die handle} (hs : Canon s) : Canon (sweepTeam s die handle) := by
  fun_cases sweepTeam
  exacts [hs, canon_sweepDwait (canon_depart (canon_sweepWaits hs))]

/-! Machine/Teams. -/

theorem canon_gridComplete {die n} (hs : Canon s) : Canon (gridComplete s die n) := by
  fun_cases gridComplete
  exacts [hs, canon_decrementToken (canon_setGrid hs), hs]

theorem canon_dropTeam {t} (hs : Canon s) : Canon (dropTeam s t) := by
  fun_cases dropTeam
  exacts [canon_updDie (canon_delTeam hs), canon_delTeam hs, canon_delTeam hs]

theorem canon_sweepGleaners {n} (hs : Canon s) : Canon (sweepGleaners s n) :=
  canon_foldl hs fun _ _ hs => canon_ite (canon_gridComplete (canon_dropTeam (canon_retireParty hs))) hs

theorem canon_settleCores {ctx cores} (hs : Canon s) : Canon (settleCores s ctx cores) :=
  canon_foldl hs fun _ _ hs => canon_settleCounters hs

theorem canon_dropGroup {t g} (hs : Canon s) : Canon (dropGroup s t g) := canon_settleCounters (canon_updTeam hs)

theorem canon_retireGroup {t g} (hs : Canon s) : Canon (retireGroup s t g) := canon_dropGroup (canon_retireParty hs)

theorem canon_retireTeam {t} (hs : Canon s) : Canon (retireTeam s t) := by
  unfold retireTeam
  refine canon_gridComplete (canon_sweepGleaners (canon_sweepDbar (canon_updGrid (canon_delTeam ?_))))
  split
  · exact canon_releaseBond (canon_retireParty (canon_releaseLines hs))
  · exact canon_retireParty (canon_releaseLines hs)

theorem canon_checkOrphan {die handle} (hs : Canon s) : Canon (checkOrphan s die handle) := by
  fun_cases checkOrphan
  exacts [canon_releaseBond (canon_stopFeeds (canon_bondFault hs)), canon_stopFeeds (canon_bondFault hs), hs, hs]

theorem canon_retireQuiet {die handle} (hs : Canon s) : Canon (retireQuiet s die handle) := by
  fun_cases retireQuiet
  exacts [hs, canon_foldl hs fun _ _ hs => canon_retireGroup hs]

theorem canon_settleRetired {die handle} (hs : Canon s) : Canon (settleRetired s die handle) := by
  fun_cases settleRetired
  · exact hs
  · exact canon_retireQuiet (canon_checkOrphan (canon_retireQuiet hs))
  · exact canon_retireTeam (canon_retireQuiet (canon_checkOrphan (canon_retireQuiet hs)))
  · exact canon_sweepGleaners (canon_retireQuiet (canon_checkOrphan (canon_retireQuiet hs)))
  · exact canon_retireQuiet (canon_checkOrphan (canon_retireQuiet hs))

theorem canon_disposeTeam {t} (hs : Canon s) : Canon (disposeTeam s t) :=
  canon_retireParty (canon_foldl hs fun _ _ hs => canon_updTeam (canon_retireParty hs))

theorem canon_orphanSlots {t} (hs : Canon s) : Canon (orphanSlots s t) := hs.same

theorem canon_endAbort {n} (hs : Canon s) : Canon (endAbort s n) := by
  fun_cases endAbort
  exacts [hs, canon_setGrid hs, hs]

theorem canon_discardBond {die handle} (hs : Canon s) : Canon (discardBond s die handle) := by
  fun_cases discardBond
  exacts [hs, canon_releaseBond (canon_stopFeeds (canon_bondReceipt hs)), canon_stopFeeds (canon_bondReceipt hs)]

theorem canon_discardQuiet {die handle} (hs : Canon s) : Canon (discardQuiet s die handle) := by
  fun_cases discardQuiet
  exacts [canon_discardBond hs, hs, hs]

theorem canon_endDiscard {die handle} (hs : Canon s) : Canon (endDiscard s die handle) := by
  fun_cases endDiscard with
  | case2 t ht h ab u v =>
    have hv : Canon v := by
      unfold v
      split
      exacts [canon_delBond (canon_disposeTeam hs), canon_disposeTeam hs]
    exact canon_settleCores (canon_endAbort (canon_dropTeam hv))
  | case3 t ht h ab u v hab id w hw =>
    have hv : Canon v := by
      unfold v
      split
      exacts [canon_delBond (canon_disposeTeam hs), canon_disposeTeam hs]
    exact canon_settleCores (canon_setTeam ((canon_fresh hv).snd hw))
  | _ => exact hs

theorem canon_finishDiscard {die handle} (hs : Canon s) : Canon (finishDiscard s die handle) := by
  fun_cases finishDiscard
  exacts [canon_endDiscard (canon_discardQuiet hs), hs, hs]

theorem canon_stopTeam {die handle} (hs : Canon s) : Canon (stopTeam s die handle) := by
  fun_cases stopTeam
  exacts [hs, canon_finishDiscard (canon_discardBond (canon_updTeam (canon_orphanSlots hs)))]

theorem canon_abortGrid {n} (hs : Canon s) : Canon (abortGrid s n) := by
  fun_cases abortGrid with
  | case3 g hg h u v =>
    exact canon_endAbort (canon_foldl (Canon.same (s := u) (canon_setGrid hs)) fun _ _ hs => canon_stopTeam hs)
  | _ => exact hs

theorem canon_settleTeam {die handle} (hs : Canon s) : Canon (settleTeam s die handle) :=
  canon_sweepTeam (canon_finishDiscard (canon_settleRetired hs))

/-! Machine/Deckles. -/

theorem canon_ownStart {k x c} (hs : Canon s) : Canon (ownStart k x c s) := canon_commit hs.same

theorem canon_ownWaits {o ep} (hs : Canon s) : Canon (ownWaits s o ep) := by
  fun_cases ownWaits
  exacts [hs, ((canon_fresh hs).snd ‹_›).same]

theorem canon_updOwn {id f} (hs : Canon s) : Canon (updOwn s id f) := hs.same

theorem canon_ownReturn {o far} (hs : Canon s) : Canon (ownReturn s o far).s := by
  fun_cases ownReturn with
  | case4 d h1 h2 h3 is his u v => exact Canon.same (s := v) (canon_delDeckle (canon_dropHold (canon_releaseRegion hs)))
  | case5 => exact (canon_returnRegion hs).fst ‹_›
  | case6 => exact (canon_returnRegion hs).fst ‹_›
  | _ => exact hs

theorem canon_ownClaim {o far} (hs : Canon s) : Canon (ownClaim s o far).s := by
  fun_cases ownClaim
  exacts [hs, hs, hs, canon_putDeckle hs]

theorem canon_ownPark {o far} (hs : Canon s) : Canon (ownPark s o far).s := by
  fun_cases ownPark
  exacts [hs, hs, hs, canon_delDeckle (canon_dropHold (canon_releaseRegion hs))]

theorem canon_ownLend {o far} (hs : Canon s) : Canon (ownLend s o far).s := by
  fun_cases ownLend
  exacts [hs, hs, hs, hs, hs, hs,
    canon_putDeckle (canon_when (fun hs => hs.same) (canon_dropHold (canon_releaseRegion hs)))]

theorem canon_ownSplit {o} (hs : Canon s) : Canon (ownSplit s o).s := by
  fun_cases ownSplit
  exacts [hs, hs, (canon_putDeckle (canon_putDeckle hs)).same]

theorem canon_ownJoin {o} (hs : Canon s) : Canon (ownJoin s o).s := by
  fun_cases ownJoin
  exacts [hs, hs, (canon_putDeckle (canon_delDeckle hs)).same, hs]

theorem canon_ownShare {o far} (hs : Canon s) : Canon (ownShare s o far).s := by
  fun_cases ownShare
  exacts [hs, hs, hs, canon_putDeckle hs, hs, hs, canon_putDeckle hs]

theorem canon_ownUnshare {o} (hs : Canon s) : Canon (ownUnshare s o).s := by
  fun_cases ownUnshare
  exacts [hs, hs, canon_lowerShare (canon_dropShare hs)]

theorem canon_ownAtom {o far} (hs : Canon s) : Canon (ownAtom s o far).s := by
  fun_cases ownAtom
  · exact hs
  · exact hs
  · exact hs
  · exact canon_putDeckle (canon_dropHold (canon_acquireRegion (canon_releaseRegion hs)))
  · exact hs
  · exact canon_putDeckle (canon_dropHold hs)

theorem canon_performOwn {o} (hs : Canon s) : Canon (performOwn s o).s := by
  fun_cases performOwn
  · exact canon_ownClaim hs
  · exact canon_ownPark hs
  · exact canon_ownLend hs
  · exact canon_ownReturn hs
  · exact canon_ownSplit hs
  · exact canon_ownJoin hs
  · exact canon_ownShare hs
  · exact canon_ownUnshare hs
  · exact canon_ownAtom hs
  · exact hs

theorem canon_ownOutcome {o} (hs : Canon s) : Canon (ownOutcome s o).s := by
  fun_cases ownOutcome
  exacts [hs, canon_performOwn hs]

theorem canon_deckleOp {o} (hs : Canon s) : Canon (deckleOp s o) := by
  have ht := canon_updOwn (id := o.id)
    (f := fun p => { p with result := some (BitVec.ofNat 64 (ownOutcome s o).result), install := (ownOutcome s o).install,
                            scope := (ownOutcome s o).scope }) (canon_ownOutcome (o := o) hs)
  fun_cases deckleOp
  exacts [hs, canon_ownWaits hs, canon_releaseDeps ht.same, ht.same]

theorem canon_execDeckleOperation (hs : Canon s) : NextCanon (execDeckleOperation s) := by
  fun_cases execDeckleOperation
  exacts [hs, canon_deckleOp hs]

theorem canon_deckleStatus {o} (hs : Canon s) : Canon (deckleStatus s o) := by
  fun_cases deckleStatus with
  | case2 => exact canon_settleTeam (canon_unless canon_writeReceipt hs.same)
  | case4 => exact canon_updOwn hs
  | case5 x hx f q kind base len hi t ht u still v =>
    have hu : Canon (if still = true then enterHold u o.ctx q o.oid base len kind else u) :=
      canon_when canon_enterHold (canon_acquireRegion (canon_spillFor hs ht))
    exact canon_settleTeam (canon_unless canon_writeReceipt hu.same)
  | _ => exact hs

theorem canon_execDeckleStatusWrite (hs : Canon s) : NextCanon (execDeckleStatusWrite s) := by
  fun_cases execDeckleStatusWrite
  exacts [hs, canon_deckleStatus hs]

theorem canon_execHoldListRefill (hs : Canon s) : NextCanon (execHoldListRefill s) := by
  fun_cases execHoldListRefill
  exacts [hs, canon_ite (canon_refillHold hs) hs]

theorem canon_execHoldfull (hs : Canon s) : NextCanon (execHoldfull s) := by
  fun_cases execHoldfull
  exacts [hs, canon_regionEvent (canon_updOwn hs), hs, hs, hs, canon_regionEvent hs.same, hs]

theorem canon_putPage {o p frame state acc dirty age} (hs : Canon s) : Canon (putPage s o p frame state acc dirty age) :=
  canon_wrHomeNat hs

theorem canon_zeroRegion {ctx oid base len} (hs : Canon s) : Canon (zeroRegion s ctx oid base len) :=
  canon_foldl hs fun _ _ hs => canon_ite (canon_wrHomes hs) (canon_putPage (canon_ite hs.same hs))

theorem canon_reclaim {mode} (hs : Canon s) : Canon (reclaim s mode) := by
  fun_cases reclaim
  · exact canon_setReg hs
  · exact hs
  · exact canon_setReg hs
  · exact canon_setReg hs
  · exact canon_setReg hs
  · exact canon_setReg (canon_delDeckle (canon_ite (canon_zeroRegion hs) hs))

theorem canon_poisonQuiet {former d} (hs : Canon s) : Canon (poisonQuiet s former d) := canon_putDeckle hs.same

theorem canon_poisonRegion {die cause party former d} (hs : Canon s) : Canon (poisonRegion s die cause party former d) :=
  canon_regionEvent (canon_poisonQuiet hs)

/-! Machine/Engines. -/

theorem canon_lendAll {ctx parties rs hole} (hs : Canon s) : Canon (lendAll s ctx parties rs hole).2 := by
  fun_cases lendAll
  exacts [hs, canon_foldl hs fun _ _ hs => canon_lendEngine hs]

theorem canon_flushSource {c oid base len} (hs : Canon s) : Canon (flushSource s c oid base len) := canon_releaseLines hs

theorem canon_engineStart {c e} (hs : Canon s) : Canon (engineStart s c e) := canon_commit hs.same

theorem canon_nextXfer {d} (hs : Canon s) : Canon (nextXfer s d).2 := canon_updDie hs

theorem canon_updEng {id f} (hs : Canon s) : Canon (updEng s id f) := hs.same

theorem canon_takeInstallment {e} (hs : Canon s) : Canon (takeInstallment s e).2 := canon_charge (canon_setPair hs)

theorem canon_execEngineInstallment (hs : Canon s) : NextCanon (execEngineInstallment s) := by
  fun_cases execEngineInstallment
  exacts [hs, hs, canon_updEng ((canon_takeInstallment hs).snd ‹_›)]

theorem canon_execMemoryPortInstallment (hs : Canon s) : NextCanon (execMemoryPortInstallment s) := by
  fun_cases execMemoryPortInstallment
  exacts [hs, hs, canon_when (fun hs => hs.same) (canon_updEng ((canon_takeInstallment hs).snd ‹_›))]

theorem canon_cpyEffect {x c} (hs : Canon s) : Canon (cpyEffect x c s) := by
  fun_cases cpyEffect
  · exact canon_engineStart hs
  · exact canon_engineStart hs
  · exact canon_engineStart hs
  · exact canon_engineStart ((canon_lendAll (canon_when canon_flushSource ((canon_nextXfer hs).snd ‹_›))).snd ‹_›)
  · exact canon_engineStart ((canon_lendAll (canon_when canon_flushSource ((canon_nextXfer hs).snd ‹_›))).snd ‹_›)
  · exact canon_engineStart (canon_when canon_flushSource ((canon_nextXfer hs).snd ‹_›))

theorem canon_wrMarkeds {a bs} (hs : Canon s) : Canon (wrMarkeds s a bs) := by
  induction bs generalizing s a with
  | nil => exact hs
  | cons b r ih => exact ih (canon_wrMarked hs)

theorem canon_writeTarget {e bs g} (hs : Canon s) : Canon (writeTarget s e bs g) := by
  cases g with
  | home p => exact canon_wrMarkeds hs
  | store is => exact canon_updTeam hs
  | host a => exact hs.withHost (Memory.wf_wrBytes _ _ _ hs.2.1)

theorem canon_engStop {e status} (hs : Canon s) : Canon (engStop s e status) := hs.same

theorem canon_engPath {e ep} (hs : Canon s) : Canon (engPath s e ep) := by
  fun_cases engPath
  exacts [hs, ((canon_fresh hs).snd ‹_›).same]

theorem canon_engAsk {e n} (hs : Canon s) : Canon (engAsk s e n) := by
  fun_cases engAsk
  exacts [hs, canon_updEng ((canon_fresh hs).snd ‹_›)]

theorem canon_wrote {e n} (hs : Canon s) : Canon (wrote s e n) := canon_updTeam hs

theorem canon_markRead {e r x} (hs : Canon s) : Canon (markRead s e r x) := by
  fun_cases markRead
  exacts [canon_markCap hs, hs, hs]

theorem canon_markWritten {e r x} (hs : Canon s) : Canon (markWritten s e r x) := by
  fun_cases markWritten
  exacts [canon_markCap hs, hs]

theorem canon_cpyOne {e r t full} (hs : Canon s) : Canon (cpyOne s e r t full).1 := by
  fun_cases cpyOne
  · exact canon_engStop hs
  · exact canon_engStop hs
  · exact canon_engPath hs
  · exact canon_updEng (canon_markRead hs)
  · exact canon_engStop hs
  · exact canon_engPath hs
  · exact canon_engAsk hs
  · exact canon_updEng (canon_wrote (canon_unless canon_writeTarget (canon_markWritten (canon_markRead hs))))

theorem canon_cpyAhead {e k full} (hs : Canon s) : Canon (cpyAhead s e k full) := by
  fun_cases cpyAhead
  exacts [hs, hs, hs, hs, canon_updEng (canon_writeTarget (canon_markWritten (canon_markRead hs))), hs, hs]

theorem canon_cpyRun {id full n} (hs : Canon s) : Canon (cpyRun s id full n) := by
  fun_induction cpyRun s id full n with
  | case3 => exact canon_engStop hs
  | case7 => exact canon_engStop hs
  | case8 => rename_i ih; exact ih ((canon_cpyOne hs).fst ‹_›)
  | case9 => exact (canon_cpyOne hs).fst ‹_›
  | _ => exact hs

theorem canon_cpycEffect {x c} (hs : Canon s) : Canon (cpycEffect x c s) := by
  fun_cases cpycEffect
  · exact canon_engineStart hs
  · exact canon_engineStart hs
  · exact canon_engineStart (canon_updDie ((canon_lendAll (canon_flushSource ((canon_nextXfer hs).snd ‹_›))).snd ‹_›))
  · exact canon_engineStart ((canon_lendAll (canon_flushSource ((canon_nextXfer hs).snd ‹_›))).snd ‹_›)

theorem canon_contribute {slot seq rank sent} (hs : Canon s) : Canon (contribute s slot seq rank sent) := by
  fun_cases contribute with
  | case4 e r h rec n fresh k hk own =>
    rename_i u
    have hu : Canon u := by
      unfold u
      clear_value own
      cases own with
      | none => exact hs
      | some e => exact canon_foldl hs fun _ _ hs => canon_markCap hs
    exact hu.same
  | _ => exact hs

theorem canon_execCollectiveRootResult (hs : Canon s) : NextCanon (execCollectiveRootResult s) := by
  fun_cases execCollectiveRootResult
  exacts [hs, hs, hs.same]

theorem canon_cpycOne {e res full} (hs : Canon s) : Canon (cpycOne s e res full).1 := by
  fun_cases cpycOne
  · exact canon_engStop hs
  · exact canon_engPath hs
  · exact canon_engStop hs
  · exact canon_engAsk hs
  · exact canon_updEng (canon_wrote (canon_wrMarked (canon_markCap hs)))

theorem canon_cpycAhead {e k full} (hs : Canon s) : Canon (cpycAhead s e k full) := by
  fun_cases cpycAhead
  exacts [hs, hs, hs, canon_wrMarked (canon_markCap hs), hs]

theorem canon_cpycRun {id full n} (hs : Canon s) : Canon (cpycRun s id full n) := by
  fun_induction cpycRun s id full n with
  | case5 => exact canon_engStop hs
  | case6 => rename_i ih; exact ih ((canon_cpycOne hs).fst ‹_›)
  | case7 => exact (canon_cpycOne hs).fst ‹_›
  | _ => exact hs

theorem canon_execCopyEngineTransfer (hs : Canon s) : NextCanon (execCopyEngineTransfer s) := by
  fun_cases execCopyEngineTransfer
  exacts [hs, canon_ite (canon_cpyRun hs) (canon_cpyAhead hs), canon_ite (canon_cpycRun hs) (canon_cpycAhead hs), hs]

theorem canon_nmEffect {x scat c} (hs : Canon s) : Canon (nmEffect x scat c s) := by
  fun_cases nmEffect
  · exact canon_engineStart hs
  · exact canon_engineStart hs
  · exact canon_engineStart hs
  · exact canon_engineStart ((canon_fresh ((canon_lendAll (canon_foldl hs fun _ _ hs => canon_flushSource hs)).snd ‹_›)).snd ‹_›)
  · exact canon_engineStart ((canon_lendAll (canon_foldl hs fun _ _ hs => canon_flushSource hs)).snd ‹_›)

theorem canon_applyEntry {op first e} (hs : Canon s) : Canon (applyEntry op first s e) :=
  canon_foldl hs fun _ _ hs => canon_wrMarkeds (canon_markCap (canon_markCap hs))

theorem canon_siloBurst {op silo} (hs : Canon s) : Canon (siloBurst s op silo) := by
  fun_cases siloBurst
  · exact hs
  · exact canon_engStop hs
  · exact canon_updEng (canon_wrote (canon_foldl_fst hs fun _ _ hs => canon_applyEntry hs))

theorem canon_execSiloBurstApply (hs : Canon s) : NextCanon (execSiloBurstApply s) := by
  fun_cases execSiloBurstApply
  exacts [hs, canon_ite (canon_siloBurst hs) hs]

theorem canon_failFeeds {e status} (hs : Canon s) : Canon (failFeeds s e status) := by
  fun_cases failFeeds
  exacts [canon_putBond hs, hs, hs]

theorem canon_engineReceipt {e status} (hs : Canon s) : Canon (engineReceipt s e status) :=
  canon_settleTeam (canon_writeReceipt ((canon_failFeeds (canon_foldl hs fun _ _ hs => canon_returnNow hs)).same))

theorem canon_execEngineReceipt (hs : Canon s) : NextCanon (execEngineReceipt s) := by
  fun_cases execEngineReceipt
  exacts [hs, hs, canon_ite (canon_ite hs (canon_updEng hs)) (canon_engineReceipt hs)]

/-! Machine/Reports. -/

theorem canon_killTeam {b code fault qpc detail} (hs : Canon s) : Canon (killTeam s b code fault qpc detail) := by
  fun_cases killTeam
  · exact hs
  · exact canon_stopTeam (canon_updTeam (canon_chargeHouse (canon_logCtx (canon_putBond (canon_returnHolds hs)))))
  · exact canon_abortGrid (canon_updTeam (canon_chargeHouse (canon_logCtx (canon_putBond (canon_returnHolds hs)))))

/-! Machine/Bonds. -/

theorem canon_startStream {b} (hs : Canon s) : Canon (startStream s b) := by
  fun_cases startStream
  exacts [canon_putBond hs, hs]

theorem canon_execBondStreamStart (hs : Canon s) : NextCanon (execBondStreamStart s) := by
  fun_cases execBondStreamStart
  exacts [hs, canon_startStream hs]

theorem canon_rdvEffect {x wait c} (hs : Canon s) : Canon (rdvEffect x wait c s) := by
  fun_cases rdvEffect
  exacts [hs, canon_sweepTeam (canon_ite (canon_commit hs) (canon_commit hs))]

theorem canon_bondStop {b code} (hs : Canon s) : Canon (bondStop s b code) := canon_settleTeam (canon_bondFault hs)

theorem canon_qword {f} (hs : Canon s) (hf : ∀ b, Canon (f b)) : NextCanon (qword s f) := by
  fun_cases qword
  exacts [trivial, trivial, canon_ite (hf _) hs]

theorem canon_execMfmt {a} (hs : Canon s) : NextCanon (execMfmt a s) :=
  canon_qword hs fun _ => canon_ite (canon_bondStop hs) (canon_ite (canon_bondStop hs)
    (canon_ite (canon_bondStop hs) (canon_ite (canon_bondStop hs) (canon_putBond hs))))

theorem canon_pumpOp {b} (hs : Canon s) : Canon (pumpOp s b) := by
  fun_cases pumpOp
  exacts [hs, canon_putBond hs, hs, hs, canon_killTeam (canon_putBond hs), canon_putBond hs]

theorem canon_pump {b} (hs : Canon s) : Canon (pump s b) := canon_checkOrphan (canon_pumpOp hs)

theorem canon_pumpTeam {die handle} (hs : Canon s) : Canon (pumpTeam s die handle) := by
  fun_cases pumpTeam
  exacts [canon_pump hs, hs, hs]

theorem canon_beginOp {b o} (hs : Canon s) : Canon (beginOp s b o) := canon_pump (canon_putBond hs)

theorem canon_execMloadb {p} (hs : Canon s) : NextCanon (execMloadb p s) := by
  unfold execMloadb
  refine canon_qword hs (fun _ => ?_)
  split
  · exact canon_bondStop hs
  · exact canon_ite (canon_bondStop hs) (canon_beginOp hs)

theorem canon_mmacIssue {b i tr t p m} (hs : Canon s) : Canon (mmacIssue s b i tr t p m) := by
  fun_cases mmacIssue
  exacts [canon_bondStop hs, canon_beginOp ((canon_fresh hs).snd ‹_›), hs]

theorem canon_startMmac {b o} (hs : Canon s) : Canon (startMmac s b o) :=
  canon_pump (canon_putBond (canon_updTeam (canon_foldl hs fun _ _ hs => canon_charge hs)))

theorem canon_seqCharge {b} (hs : Canon s) : Canon (seqCharge s b) := by
  fun_cases seqCharge with
  | case3 o ho h ps t b' ht u =>
    refine canon_startMmac (canon_putBond (Canon.fst ?_ ht))
    exact canon_foldl_fst hs fun _ _ hs => canon_setPair hs
  | case4 o ho h ps t b' ht u =>
    refine canon_putBond (Canon.fst ?_ ht)
    exact canon_foldl_fst hs fun _ _ hs => canon_setPair hs
  | _ => exact hs

theorem canon_execSequencerCharge (hs : Canon s) : NextCanon (execSequencerCharge s) := by
  fun_cases execSequencerCharge
  exacts [hs, canon_ite (canon_seqCharge hs) hs]

theorem canon_execMdrain {t off m} (hs : Canon s) : NextCanon (execMdrain t off m s) := by
  unfold execMdrain
  refine canon_qword hs (fun _ => ?_)
  split
  · exact canon_bondStop hs
  · exact canon_ite (canon_bondStop hs) (canon_putBond hs)

theorem canon_landDrain {b f t off m} (hs : Canon s) : Canon (landDrain s b f t off m) := by
  fun_cases landDrain
  exact canon_putBond (Canon.fst (canon_foldl_fst hs fun _ _ hs => canon_foldl_fst hs fun _ _ hs => canon_updTeam hs) ‹_›)

theorem canon_completeOp {b} (hs : Canon s) : Canon (completeOp s b) := by
  fun_cases completeOp
  exacts [hs, canon_killTeam hs, canon_putBond hs, canon_putBond hs, canon_putBond hs, canon_landDrain hs, hs, hs]

theorem canon_execBondOperationComplete (hs : Canon s) : NextCanon (execBondOperationComplete s) := by
  fun_cases execBondOperationComplete
  exacts [hs, canon_completeOp hs]

theorem canon_seqArrive {b n wait} (hs : Canon s) : Canon (seqArrive s b n wait) := by
  fun_cases seqArrive <;> exact canon_settleTeam (canon_putBond hs)

theorem canon_sendDsig {grid pos w op v from_} (hs : Canon s) : Canon (sendDsig s grid pos w op v from_) := by
  fun_cases sendDsig
  exacts [hs, hs, canon_updDie hs]

theorem canon_feedStuck {b} (hs : Canon s) : Canon (feedStuck s b) := by
  fun_cases feedStuck
  exacts [canon_releaseBond (canon_stopFeeds hs), hs, hs]

theorem canon_feedAppend {e} (hs : Canon s) : Canon (feedAppend s e) := by
  fun_cases feedAppend
  · exact hs
  · exact canon_engStop hs
  · exact hs
  · exact canon_engStop hs
  · exact hs
  · exact canon_feedStuck hs
  · exact canon_engAsk hs
  · exact canon_engStop (canon_pumpTeam (canon_updEng (canon_wrote (canon_putBond hs))))
  · exact canon_pumpTeam (canon_updEng (canon_wrote (canon_putBond hs)))
  · exact canon_pumpTeam (canon_updEng (canon_wrote (canon_putBond hs)))

theorem canon_execFeedUnitAppend (hs : Canon s) : NextCanon (execFeedUnitAppend s) := by
  fun_cases execFeedUnitAppend
  exacts [hs, canon_feedAppend hs]

theorem canon_seamCopy {b i} (hs : Canon s) : Canon (seamCopy s b i) := by
  fun_cases seamCopy
  exacts [hs, canon_pumpTeam (canon_putBond hs)]

theorem canon_execSeamUnitCopy (hs : Canon s) : NextCanon (execSeamUnitCopy s) := by
  fun_cases execSeamUnitCopy
  exacts [hs, canon_seamCopy hs]

/-! Machine/Gleaner. -/

theorem canon_releaseBroken {n} (hs : Canon s) : Canon (releaseBroken s n).1 := by
  refine canon_foldl_fst hs fun _ _ hs => ?_
  dsimp only
  split
  · split
    exacts [canon_releaseDwait hs, hs]
  · split
    exacts [canon_updTeam hs, hs]

theorem canon_markBroken {n cause by_} (hs : Canon s) : Canon (markBroken s n cause by_) := by
  fun_cases markBroken
  exacts [hs, hs, canon_updGrid ((canon_releaseBroken (canon_foldl (canon_setGrid hs) fun _ _ hs => canon_eventCtx hs)).fst ‹_›)]

theorem canon_dropRec {d ctx e kind cause r} (hs : Canon s) : Canon (dropRec s d ctx e kind cause r) :=
  canon_markBroken (canon_ite (canon_updDie (canon_eventCtx hs)) (canon_updDie hs))

theorem canon_launchGlean {d ctx e} (hs : Canon s) : Canon (launchGlean s d ctx e) := by
  fun_cases launchGlean
  exacts [hs, canon_updDie hs]

theorem canon_appendRec {d ctx e r} (hs : Canon s) : Canon (appendRec s d ctx e r) := by
  fun_cases appendRec
  exacts [canon_launchGlean (canon_updDie hs), canon_updDie hs, canon_updDie hs]

theorem canon_launchDue {d ctx e} (hs : Canon s) : Canon (launchDue s d ctx e) := by
  fun_cases launchDue
  exacts [canon_launchGlean hs, hs, hs]

theorem canon_arriveRec {d ctx grid b} (hs : Canon s) : Canon (arriveRec s d ctx grid b) := by
  fun_cases arriveRec
  exacts [canon_dropRec hs, canon_appendRec hs, canon_appendRec hs, canon_dropRec hs]

theorem canon_emitRecs {d ctx grid rs} (hs : Canon s) : Canon (emitRecs s d ctx grid rs) :=
  canon_foldl hs fun _ _ hs => canon_arriveRec hs

theorem canon_launchAll (hs : Canon s) : Canon (launchAll s) :=
  canon_foldl hs fun _ _ hs => canon_foldl hs fun _ _ hs => canon_launchDue hs

/-! Machine/Queues. -/

theorem canon_setQueue {q x} (hs : Canon s) : Canon (s.setQueue q x) := hs.same

theorem canon_writeHead {q v} (hs : Canon s) : Canon (writeHead s q v) := canon_wrHomeNat hs

theorem canon_disableQueue {q} (hs : Canon s) : Canon (disableQueue s q) := canon_wrHome hs

theorem canon_noteQerr {q head cause} (hs : Canon s) : Canon (noteQerr s q head cause) := canon_setQueue hs

theorem canon_stopQueue {q x cause tail} (hs : Canon s) : Canon (stopQueue s q x cause tail) :=
  canon_eventCtx (canon_noteQerr (canon_disableQueue hs))

theorem canon_execQerrWrite (hs : Canon s) : NextCanon (execQerrWrite s) := by
  fun_cases execQerrWrite
  exacts [hs, canon_setQueue hs]

theorem canon_doorbell {q size v} (hs : Canon s) : Canon (doorbell s q size v) := by
  fun_cases doorbell
  exacts [hs, canon_stopQueue hs, canon_setQueue hs]

theorem canon_enterRecord {q x r} (hs : Canon s) : Canon (enterRecord s q x r) := by
  fun_cases enterRecord with
  | case1 => exact canon_eventCtx (canon_noteQerr (canon_writeHead hs))
  | case2 d l u hr id v hv n g =>
    exact canon_releaseDep (Canon.same (s := v.setGrid n g) (canon_setGrid ((canon_fresh (canon_writeHead hs)).snd hv)))

theorem canon_fetchRecord {q} (hs : Canon s) : Canon (fetchRecord s q) := by
  fun_cases fetchRecord
  · exact canon_enterRecord (canon_setQueue (canon_updDie hs))
  · exact canon_stopQueue (canon_setQueue (canon_updDie hs))
  · exact canon_setQueue (canon_updDie hs)

theorem canon_execQueueFetch (hs : Canon s) : NextCanon (execQueueFetch s) := by
  fun_cases execQueueFetch
  exacts [hs, canon_fetchRecord hs, hs]

theorem canon_execRecordRefetch (hs : Canon s) : NextCanon (execRecordRefetch s) := by
  fun_cases execRecordRefetch
  exacts [canon_fetchRecord hs, hs]

theorem canon_startGrid {n} (hs : Canon s) : Canon (startGrid s n) := by
  fun_cases startGrid
  exacts [hs, canon_setGrid hs, hs]

theorem canon_missGrid {n} (hs : Canon s) : Canon (missGrid s n) := by
  fun_cases missGrid
  exacts [hs, hs, canon_eventCtx (canon_setGrid hs), hs]

/-! Machine/System. -/

theorem canon_trapPark {x c} (hs : Canon s) : Canon (trapPark x c s) :=
  canon_updDie (canon_listHolds (canon_settleCounters (canon_charge (canon_setGroup hs))))

/-! Machine/Window. -/

theorem canon_spillOut (hs : Canon s) : Canon (spillOut s) :=
  canon_foldl hs fun _ _ hs => canon_foldl hs fun _ _ hs => canon_foldl hs fun _ _ hs =>
    hs.withHbm (Memory.wf_wrNat _ _ _ _ hs.1)

theorem canon_windowWrite {die off v} (hs : Canon s) : Canon (windowWrite s die off v) := by
  fun_cases windowWrite
  exacts [hs, hs, canon_updGroup hs]

/-! Machine/Traps. -/

theorem canon_stopGroup {t g} (hs : Canon s) : Canon (stopGroup s t g) := canon_updGroup hs

theorem canon_spreadStop {die handle grp} (hs : Canon s) : Canon (spreadStop s die handle grp) := by
  fun_cases spreadStop
  exacts [hs, canon_foldl hs fun _ _ hs => canon_stopGroup hs, canon_stopGroup hs, hs, hs]

theorem canon_logTrap {die ctx t disp} (hs : Canon s) : Canon (logTrap s die ctx t disp) := by
  fun_cases logTrap
  exacts [canon_logCtx hs, canon_signal (canon_setReg hs), canon_logCtx (canon_logCtx hs)]

theorem canon_stopTrapped {t} (hs : Canon s) : Canon (stopTrapped s t) := canon_updGroup hs

theorem canon_stepTrapped {t} (hs : Canon s) : Canon (stepTrapped s t) := by
  fun_cases stepTrapped
  exacts [canon_updDie hs, hs, hs]

theorem canon_reportTrap {die} (hs : Canon s) : Canon (reportTrap s die) := by
  fun_cases reportTrap
  · exact hs
  · exact canon_logTrap (canon_stepTrapped (canon_updDie hs))
  · exact canon_spreadStop (canon_stopTrapped (canon_logTrap (canon_stepTrapped (canon_updDie hs))))
  · exact canon_abortGrid (canon_logTrap (canon_stepTrapped (canon_updDie hs)))

theorem canon_raiseWatch {die handle grp code m detail} (hs : Canon s) : Canon (raiseWatch s die handle grp code m detail) := by
  fun_cases raiseWatch
  exacts [hs, hs, canon_raiseAt hs]

theorem canon_gwatch {die handle grp} (hs : Canon s) : Canon (gwatch s die handle grp) := by
  fun_cases gwatch
  exacts [hs, hs, canon_raiseWatch (canon_setGroup hs), hs]

theorem canon_twatch {die handle} (hs : Canon s) : Canon (twatch s die handle) := by
  fun_cases twatch
  exacts [hs, canon_raiseWatch (canon_setTeam hs), hs, hs, hs]

theorem canon_writeDbgctl {ctx v} (hs : Canon s) : Canon (writeDbgctl s ctx v) := by
  fun_cases writeDbgctl
  exacts [hs, hs, canon_setReg hs]

theorem canon_setDsts {die v} (hs : Canon s) : Canon (setDsts s die v) := canon_updDie hs

theorem canon_dbgCommand {f} (hs : Canon s) (hf : ∀ t, Canon (f t)) : Canon (dbgCommand s f) := by
  fun_cases dbgCommand
  exacts [hs, canon_setDsts hs, hf _]

theorem canon_dbgOnGroup {f} (hs : Canon s) (hf : ∀ t g, Canon (f t g)) : Canon (dbgOnGroup s f) := by
  refine canon_dbgCommand hs fun t => ?_
  split
  exacts [canon_setDsts hs, hf _ _]

theorem canon_resumeGroup {t g} (hs : Canon s) : Canon (resumeGroup s t g) := by
  fun_cases resumeGroup
  exacts [canon_raiseAt hs, hs, canon_setGroup hs]

theorem canon_resumeAll {t gs} (hs : Canon s) : Canon (resumeAll s t gs) := by
  fun_cases resumeAll
  exacts [canon_foldl hs fun _ _ hs => canon_resumeGroup hs, canon_settleTeam (canon_foldl hs fun _ _ hs => canon_resumeGroup hs)]

theorem canon_execResume (hs : Canon s) : NextCanon (execResume s) :=
  canon_dbgOnGroup hs fun _ _ => canon_ite (canon_setDsts (canon_setGroup hs))
    (canon_ite (canon_setDsts hs) (canon_ite (canon_setDsts hs) (canon_setDsts (canon_resumeAll hs))))

theorem canon_execTresume (hs : Canon s) : NextCanon (execTresume s) :=
  canon_dbgCommand hs fun _ => canon_ite (canon_setDsts hs) (canon_ite (canon_setDsts hs)
    (canon_setDsts (canon_resumeAll (canon_foldl hs fun _ _ hs => canon_setGroup hs))))

theorem canon_execStep (hs : Canon s) : NextCanon (execStep s) := by
  unfold execStep
  refine canon_dbgOnGroup hs (fun _ _ => ?_)
  split
  · exact canon_setDsts hs
  · split
    · exact canon_setGroup hs
    · exact canon_setDsts hs

/-! Machine/Placement. -/

theorem canon_takeCounters {ctx seats} (hs : Canon s) : Canon (takeCounters s ctx seats) :=
  canon_foldl hs fun _ _ hs => canon_holdCounters hs

theorem canon_placeFresh {n pos w place seats} (hs : Canon s) : Canon (placeFresh s n pos w place seats) := by
  fun_cases placeFresh
  exacts [hs, canon_takeCounters (canon_when canon_acquireLines (canon_setTeam (canon_setGrid hs)))]

theorem canon_placeAgain {t place seats} (hs : Canon s) : Canon (placeAgain s t place seats) := by
  fun_cases placeAgain
  exacts [hs, canon_takeCounters (canon_setTeam hs)]

theorem canon_placeBack {t place seats} (hs : Canon s) : Canon (placeBack s t place seats) := by
  unfold placeBack
  refine canon_takeCounters (canon_setTeam ?_)
  split
  · exact canon_putBond (canon_delBond hs)
  · exact hs

theorem canon_placeGlean {d i w seats} (hs : Canon s) : Canon (placeGlean s d i w seats) := by
  fun_cases placeGlean
  exacts [canon_takeCounters (canon_setTeam (canon_updDie hs)), hs]

theorem canon_placeOne {d e} (hs : Canon s) (h : placeOne s d e = some t) : Canon t := by
  unfold placeOne at h
  obtain ⟨w, -, h⟩ := Option.bind_eq_some_iff.1 h
  obtain ⟨plan, -, h⟩ := Option.bind_eq_some_iff.1 h
  obtain ⟨⟨p, seats⟩, -, rfl⟩ := Option.map_eq_some_iff.1 h
  cases e with
  | fresh n pos => exact canon_placeFresh hs
  | back h =>
    dsimp only
    split
    exacts [canon_ite (canon_placeAgain hs) (canon_placeBack hs), hs]
  | glean i => exact canon_placeGlean hs

theorem canon_placeRest {d n pos k} (hs : Canon s) (e : placeRest d n pos k s = some t) : Canon t := by
  induction k generalizing s with
  | zero => cases e; exact hs
  | succ k ih =>
    obtain ⟨u, hu, e⟩ := Option.bind_eq_some_iff.1 e
    exact ih (canon_placeOne hs hu) e

theorem canon_tryEnt {d e} (hs : Canon s) (h : tryEnt s d e = some t) : Canon t := by
  revert h
  fun_cases tryEnt
  · exact canon_placeRest hs
  · rintro ⟨⟩
  · exact canon_placeOne hs
  · rintro ⟨⟩
  · intro h
    obtain ⟨l, -, h⟩ := Option.bind_eq_some_iff.1 h
    exact canon_foldl_bind hs canon_placeOne h
  · exact canon_placeOne hs
  · exact canon_placeOne hs

theorem canon_placeLoop {d n failed} (hs : Canon s) : Canon (placeLoop d n s failed).1 := by
  induction n generalizing s failed with
  | zero => exact hs
  | succ n ih =>
    unfold placeLoop
    split
    · exact hs
    · split
      exacts [ih hs, ih (canon_tryEnt hs ‹_›)]

theorem canon_noteSpills {d failed} (hs : Canon s) : Canon (noteSpills s d failed) := by
  unfold noteSpills
  refine canon_foldl hs fun _ _ hs => ?_
  split
  · exact hs
  · exact canon_updGrid hs

theorem canon_spillWait {n} (hs : Canon s) : Canon (spillWait s n) := by
  fun_cases spillWait
  exacts [hs, hs, canon_eventCtx (canon_setGrid hs), hs]

theorem canon_requestPreempt {die handle deadline by_} (hs : Canon s) : Canon (requestPreempt s die handle deadline by_) :=
  canon_updTeam hs

theorem canon_seekVictims {d} (hs : Canon s) : Canon (seekVictims s d) := by
  fun_cases seekVictims
  exacts [hs, hs, hs, canon_foldl hs fun _ _ hs => canon_requestPreempt hs, hs]

theorem canon_placeTeams {d} (hs : Canon s) : Canon (placeTeams s d) := by
  fun_cases placeTeams with
  | case1 t failed h => exact canon_seekVictims (canon_noteSpills ((canon_placeLoop hs).fst h))

theorem canon_execTeamPlacement (hs : Canon s) : NextCanon (execTeamPlacement s) := by
  fun_cases execTeamPlacement
  exacts [canon_placeTeams hs, hs]

theorem canon_pendingDebug {t} (hs : Canon s) : Canon (pendingDebug s t) := by
  unfold pendingDebug
  refine canon_foldl hs fun _ _ hs => ?_
  split
  · exact hs
  · exact canon_ite hs (canon_ite (canon_setGroup (canon_setGroup hs)) (canon_when canon_resumeGroup (canon_setGroup hs)))

theorem canon_restored {die handle} (hs : Canon s) : Canon (restored s die handle) := by
  fun_cases restored with
  | case3 t ht h cyc bond parked move u feed v w t' x y =>
    have hx : Canon x := canon_setTeam (canon_acquireLines (Canon.same (s := u) (canon_chargeMove hs)))
    have hy : Canon y := by
      unfold y
      split
      exacts [canon_acquireLines (canon_updTeam hx), hx]
    exact canon_settleTeam (canon_pendingDebug (canon_pumpTeam hy))
  | case4 t ht h cyc bond parked move u feed v w t' x y =>
    have hx : Canon x := canon_setTeam (canon_acquireLines (Canon.same (s := u) (canon_chargeMove hs)))
    have hy : Canon y := by
      unfold y
      split
      exacts [canon_acquireLines (canon_updTeam hx), hx]
    exact canon_pumpTeam hy
  | _ => exact hs

/-! Machine/Preempt. -/

theorem canon_teamEvent {t code cause value} (hs : Canon s) : Canon (teamEvent s t code cause value) := canon_eventCtx hs

theorem canon_missPre {t p choice} (hs : Canon s) : Canon (missPre s t p choice) := by
  fun_cases missPre
  exacts [hs, canon_teamEvent (canon_updTeam hs)]

theorem canon_startDiscard {t} (hs : Canon s) : Canon (startDiscard s t) :=
  canon_teamEvent (canon_discardQuiet (canon_updTeam hs))

theorem canon_decidePreempt {die handle} (hs : Canon s) : Canon (decidePreempt s die handle) := by
  fun_cases decidePreempt
  · exact hs
  · exact hs
  · exact canon_updTeam (canon_when canon_missPre (canon_setTeam hs))
  · exact canon_updTeam (canon_when canon_missPre (canon_setTeam hs))
  · exact canon_startDiscard (canon_when canon_missPre (canon_setTeam hs))
  · exact canon_when canon_missPre (canon_setTeam hs)
  · exact hs

theorem canon_preDeadline {die handle} (hs : Canon s) : Canon (preDeadline s die handle) := by
  fun_cases preDeadline
  exacts [hs, hs, hs, canon_setTeam hs, canon_missPre hs, canon_missPre hs, hs]

theorem canon_saveBond {t b} (hs : Canon s) : Canon (saveBond s t b) :=
  canon_updTeam (canon_putBond (Canon.same (s := delBond (returnHolds s b) b) (canon_delBond (canon_returnHolds hs))))

theorem canon_chargeSave {t by_} (hs : Canon s) : Canon (chargeSave s t by_) := canon_chargeMove hs

theorem canon_completeSave {die handle} (hs : Canon s) : Canon (completeSave s die handle) := by
  fun_cases completeSave
  · exact hs
  · exact hs
  · exact canon_teamOff (canon_updTeam (canon_fresh (canon_chargeSave hs)))
  · exact canon_killTeam hs
  · exact canon_teamOff (canon_updTeam (canon_fresh (canon_saveBond (canon_chargeSave hs))))
  · exact hs

theorem canon_saveParked {die handle} (hs : Canon s) : Canon (saveParked s die handle) := by
  fun_cases saveParked with
  | case2 => exact canon_setTeam hs
  | case3 => exact canon_killTeam hs
  | case4 t ht h b hb hd hq by_ u =>
    have hu : Canon u := by
      refine canon_foldl hs fun s c hs => ?_
      clear_value by_
      cases by_ with
      | none => exact canon_chargeHouse hs
      | some x => exact canon_charge hs
    exact canon_updTeam (canon_saveBond hu)
  | _ => exact hs

theorem canon_driverRequest {die handle deadline} (hs : Canon s) : Canon (driverRequest s die handle deadline) :=
  canon_saveParked (canon_requestPreempt hs)

theorem canon_spendQuantum {die handle} (hs : Canon s) : Canon (spendQuantum s die handle) := by
  fun_cases spendQuantum
  exacts [hs, canon_placeTeams (canon_setTeam hs), hs]

/-! Machine/Energy. -/

theorem canon_countLap {d} (hs : Canon s) : Canon (countLap s d) := by
  unfold countLap
  extract_lets grp t u op v
  have hv : Canon v := canon_updDie (canon_when canon_updDie (canon_updDie hs))
  exact hv.same

theorem canon_clearWarned {d p} (hs : Canon s) : Canon (clearWarned s d p) := by
  fun_cases clearWarned
  exacts [canon_foldl hs fun _ _ hs => canon_setIsland hs, canon_setIsland hs]

theorem canon_moved {d p f} (hs : Canon s) : Canon (moved s d p f) := by
  fun_cases moved
  exacts [canon_foldl (canon_setIsland hs) fun _ _ hs => canon_setIsland hs, canon_setIsland hs]

theorem canon_leadLap {d p} (hs : Canon s) : Canon (leadLap s d p) := by
  fun_cases leadLap
  · exact hs
  · exact canon_moved (canon_clearWarned hs)
  · exact canon_clearWarned hs
  · exact canon_eventMod (canon_setIsland (canon_clearWarned hs))
  · exact hs
  · exact canon_setIsland hs

theorem canon_islandLap {d p} (hs : Canon s) : Canon (islandLap s d p) := by
  fun_cases islandLap
  exacts [hs, canon_leadLap hs, hs, canon_setIsland hs, canon_leadLap hs]

theorem canon_islctl {d p v} (hs : Canon s) : Canon (islctl s d p v) := canon_setIsland hs

theorem canon_execIslctlWrite (hs : Canon s) : NextCanon (execIslctlWrite s) := by
  fun_cases execIslctlWrite
  exacts [canon_islctl hs, hs]

theorem canon_ratioDone {d p} (hs : Canon s) : Canon (ratioDone s d p) := by
  fun_cases ratioDone
  exacts [canon_chargeHouse (canon_setIsland hs), hs, hs]

theorem canon_execDroopRecover (hs : Canon s) : NextCanon (execDroopRecover s) := by
  fun_cases execDroopRecover
  exacts [canon_setIsland hs, hs, hs]

theorem canon_canaryRelax {d p} (hs : Canon s) : Canon (canaryRelax s d p) := by
  fun_cases canaryRelax
  exacts [canon_setIsland hs, hs]

theorem canon_lapStart {d} (hs : Canon s) : Canon (lapStart s d) := by
  fun_cases lapStart
  exacts [hs, canon_foldl (canon_updDie (canon_countLap (canon_updDie hs))) fun _ _ hs => canon_islandLap hs]

theorem canon_lapCheck {d cause p t} (hs : Canon s) : Canon (lapCheck s d cause p t) := canon_eventMod hs

theorem canon_checkLap {d} (hs : Canon s) : Canon (checkLap s d) := by
  fun_cases checkLap
  exacts [canon_lapCheck (canon_updDie hs), canon_updDie hs]

theorem canon_ringStop {d p err} (hs : Canon s) : Canon (ringStop s d p err) := by
  unfold ringStop
  extract_lets x pr _ _ first bad back n r u v
  have hu : Canon u :=
    canon_ite (canon_updDie hs) (canon_ite (canon_updDie (canon_setPair hs)) (canon_updDie (canon_setPair hs)))
  exact canon_ite hs (canon_when canon_checkLap (canon_when canon_lapCheck hu))

theorem canon_staticCore {d core} (hs : Canon s) : Canon (staticCore s d core) :=
  canon_chargeHouse (canon_foldl hs fun _ _ hs => canon_charge hs)

theorem canon_lapEnd {d} (hs : Canon s) : Canon (lapEnd s d) := by
  fun_cases lapEnd
  exacts [hs, canon_updDie (canon_when canon_chargeHouse (canon_foldl hs fun _ _ hs => canon_staticCore hs))]

/-! Machine/Manage. -/

theorem canon_muSts {st own} (hs : Canon s) : Canon (muSts s st own) := canon_setReg hs

theorem canon_muOld {v} (hs : Canon s) : Canon (muOld s v) := canon_foldl hs fun _ _ hs => canon_setReg hs

theorem canon_muLatch {u} (hs : Canon s) : Canon (muLatch s u) :=
  canon_foldl (canon_setReg (canon_setReg hs)) fun _ _ hs => canon_setReg hs

theorem canon_muPerform {f u} (hs : Canon s) (hf : (f s u).Canonical) : Canon (muPerform s f u) := by
  unfold muPerform
  split
  · exact canon_setReg hs.same
  · rename_i v w old e
    rw [e] at hf
    refine canon_muSts ?_
    split
    exacts [canon_muOld hf.same, hf.same]

theorem canon_muRun {own f} (hs : Canon s) (hf : ∀ s u, Canon s → (f s u).Canonical) : Canon (muRun s own f) := by
  fun_cases muRun
  · exact canon_setReg hs
  · exact canon_muPerform hs (hf _ _ hs)
  · exact hs
  · exact hs
  · exact canon_muSts (canon_muLatch hs)
  · exact canon_muPerform (canon_muLatch hs) (hf _ _ (canon_muLatch hs))
  · exact canon_muLatch hs

theorem canon_dropDeckles {ctx oid} (hs : Canon s) : Canon (dropDeckles s ctx oid) := hs.same

theorem canon_retireObject {ctx oid} (hs : Canon s) : Canon (retireObject s ctx oid) := by
  unfold retireObject
  extract_lets mine ds t clean u
  have hu : Canon u := canon_dropDeckles (canon_foldl hs fun _ _ hs => canon_rethold hs)
  exact hu.same

theorem canon_appendFrame {ctx stack v} (hs : Canon s) : Canon (appendFrame s ctx stack v) :=
  canon_wrHomeNat (canon_wrHomeNat hs)

theorem canon_takeFrame {ctx stack f} (hs : Canon s) (e : takeFrame s ctx stack = some (f, t)) : Canon t := by
  revert e
  fun_cases takeFrame <;> rintro ⟨⟩
  exact canon_wrHomeNat hs

theorem canon_lookupDeckle {sel off} (hs : Canon s) : Canon (lookupDeckle s sel off) :=
  canon_foldl (canon_setReg (canon_setReg (canon_setReg hs))) fun _ _ hs => canon_setReg hs

theorem canon_execApertureAccess (hs : Canon s) : NextCanon (execApertureAccess s) := by
  fun_cases execApertureAccess
  exacts [hs, canon_wrHomes hs, hs]

theorem canon_writeModReg {off v} (hs : Canon s) : Canon (writeModReg s off v) := by
  fun_cases writeModReg
  exacts [hs, hs, canon_setReg hs]

theorem canon_writeDieReg {d off v} (hs : Canon s) : Canon (writeDieReg s d off v) := by
  fun_cases writeDieReg
  · exact hs
  · exact canon_updDie hs
  · exact canon_updDie hs
  · exact canon_updDie hs
  · exact canon_updDie hs
  · exact canon_updDie hs
  · exact canon_updDie hs
  · exact canon_updDie hs
  · exact canon_updDie hs
  · exact hs
  · exact canon_updDie hs
  · exact hs

theorem canon_execRegisterWrite (hs : Canon s) : NextCanon (execRegisterWrite s) := by
  fun_cases execRegisterWrite
  exacts [canon_writeDieReg hs, canon_writeModReg hs]

theorem canon_execModnumWrite (hs : Canon s) : NextCanon (execModnumWrite s) := by
  fun_cases execModnumWrite
  exacts [hs, canon_setReg hs]

theorem canon_clearSlot {d slot} (hs : Canon s) : Canon (clearSlot s d slot) := by
  fun_cases clearSlot
  exacts [hs, (canon_foldl hs fun _ _ hs => canon_engStop hs).same]

theorem canon_execCollectiveSlotWrite (hs : Canon s) : NextCanon (execCollectiveSlotWrite s) := by
  fun_cases execCollectiveSlotWrite
  exacts [hs, canon_updDie (canon_ite hs (canon_clearSlot hs))]

/-! Machine/Failures. -/

theorem canon_strikeDeckle {die ps d} (hs : Canon s) : Canon (strikeDeckle s die ps d) := by
  fun_cases strikeDeckle
  exacts [hs, canon_poisonRegion hs, canon_regionEvent (canon_putDeckle (canon_dropHold hs)), canon_putDeckle hs, hs]

theorem canon_strikeParties {die ps} (hs : Canon s) : Canon (strikeParties s die ps) :=
  (canon_foldl (canon_foldl hs fun _ _ hs => canon_strikeDeckle hs) fun _ _ hs => canon_disposeShare hs).same

theorem canon_disposeFailed {before ps t} (hs : Canon s) : Canon (disposeFailed before s ps t).1 :=
  canon_ite (canon_stopTeam (canon_updTeam hs)) (canon_abortGrid (canon_updTeam hs))

theorem canon_disposeAll {before ps ts} (hs : Canon s) : Canon (disposeAll before ps ts s).1 :=
  canon_foldl_fst hs fun _ _ hs => canon_disposeFailed hs

theorem canon_coreFailLogs {die value l} (hs : Canon s) : Canon (coreFailLogs s die value l) := by
  induction l generalizing s with
  | nil => exact hs
  | cons _ r ih => exact ih (canon_unless canon_eventCtx hs)

theorem canon_failCore {core cause} (hs : Canon s) : Canon (failCore s core cause) := by
  fun_cases failCore with
  | case1 => exact hs
  | case2 d c h ps ts b t u v w e x r hx y z =>
    have hw : Canon w := canon_foldl (canon_strikeParties (Canon.same (s := t) (canon_updDie hs))) fun _ _ hs =>
      canon_when canon_updTeam hs
    exact canon_setPair (canon_foldl (canon_coreFailLogs ((canon_disposeAll (canon_eventMod hw)).fst hx))
      fun _ _ hs => canon_finishDiscard hs)
  | case3 d c h ps ts b t u v w e x r hx y z =>
    have hw : Canon w := canon_foldl (canon_strikeParties (Canon.same (s := t) (canon_updDie hs))) fun _ _ hs =>
      canon_when canon_updTeam hs
    exact canon_foldl (canon_coreFailLogs ((canon_disposeAll (canon_eventMod hw)).fst hx))
      fun _ _ hs => canon_finishDiscard hs

theorem canon_execConverterFault (hs : Canon s) : NextCanon (execConverterFault s) := by
  fun_cases execConverterFault
  exacts [hs, canon_failCore (canon_failCore (canon_eventMod (canon_setIsland hs)))]

theorem canon_loseCtx {d c} (hs : Canon s) : Canon (loseCtx s d c) := by
  fun_cases loseCtx
  exacts [canon_wrHome (canon_foldl hs fun _ _ hs => canon_ite (canon_markBroken hs) hs), hs]

theorem canon_breakCollectives {d} (hs : Canon s) : Canon (breakCollectives s d) :=
  (canon_foldl hs fun _ _ hs => canon_engStop hs).same

theorem canon_clearDie {d} (hs : Canon s) : Canon (clearDie s d) :=
  canon_updDie (canon_foldl ((canon_foldl hs fun _ _ hs => canon_releaseBond hs).same) fun _ _ hs => canon_delTeam hs)

theorem canon_loseHomed {d} (hs : Canon s) : Canon (loseHomed s d) := hs.same

theorem canon_failDie {d cause} (hs : Canon s) : Canon (failDie s d cause) := by
  fun_cases failDie
  · exact hs
  · have h := canon_eventMod (die := (lowestUp (s.updDie d fun x => { x with boot := 3 })).getD d)
      (e := { code := 0x89, cause := cause, value := d }) (canon_updDie (d := d) (f := fun x => { x with boot := 3 }) hs)
    exact canon_foldl (canon_foldl (canon_loseHomed (canon_clearDie (canon_strikeParties (canon_breakCollectives h))))
      fun _ _ hs => canon_markBroken hs) fun _ _ hs => canon_unless canon_loseCtx hs

theorem canon_execDiefail (hs : Canon s) : NextCanon (execDiefail s) := by
  unfold execDiefail
  split
  · exact canon_ite (canon_failDie hs) hs
  · exact canon_ite (canon_failDie hs) hs
  · exact canon_failDie (canon_updDie hs)
  · exact hs

theorem canon_execHeartbeat (hs : Canon s) : NextCanon (execHeartbeat s) := by
  fun_cases execHeartbeat
  exacts [canon_foldl hs fun _ _ hs => canon_ite (canon_updDie hs) hs, hs]

theorem canon_brokenAbort {n} (hs : Canon s) : Canon (brokenAbort s n) := by
  fun_cases brokenAbort
  exacts [hs, hs, hs, canon_abortGrid hs]

theorem canon_thermalSample {d temp} (hs : Canon s) : Canon (thermalSample s d temp) := by
  fun_cases thermalSample
  · exact hs
  · exact canon_failDie (canon_eventMod (canon_unless canon_eventMod (canon_setDie hs)))
  · exact canon_eventMod (canon_unless canon_eventMod (canon_setDie hs))
  · exact canon_unless canon_eventMod (canon_setDie hs)
  · exact canon_unless canon_eventMod (canon_setDie hs)
  · exact canon_unless canon_eventMod (canon_setDie hs)
  · exact canon_unless canon_eventMod (canon_setDie hs)
  · exact canon_unless canon_eventMod (canon_setDie hs)

theorem canon_countUe {d} (hs : Canon s) : Canon (countUe s d) := canon_updDie hs

theorem canon_cacheUe {i ctl} (hs : Canon s) : Canon (cacheUe s i ctl) := by
  fun_cases cacheUe
  exacts [hs, canon_putLine (canon_countUe hs), canon_putLine (canon_countUe hs)]

theorem canon_markHome {a n} (hs : Canon s) : Canon (markHome s a n) := hs.same

theorem canon_llcUe {a dirty ctl} (hs : Canon s) : Canon (llcUe s a dirty ctl) := by
  fun_cases llcUe
  exacts [hs, canon_countUe hs.same]

theorem canon_execHbmWordUe (hs : Canon s) : NextCanon (execHbmWordUe s) := by
  fun_cases execHbmWordUe
  exacts [hs, canon_countUe (canon_markHome hs)]

theorem canon_execDeckleEntryUe (hs : Canon s) : NextCanon (execDeckleEntryUe s) := by
  fun_cases execDeckleEntryUe
  exacts [hs, hs, canon_poisonRegion (canon_countUe hs)]

theorem canon_execPatrolScrub (hs : Canon s) : NextCanon (execPatrolScrub s) := by
  fun_cases execPatrolScrub
  exacts [hs, canon_chargeHouse hs, canon_updDie (canon_chargeHouse ((canon_drawBool hs).snd ‹_›))]

theorem canon_localUe {t} (hs : Canon s) : Canon (localUe s t) := by
  fun_cases localUe
  exacts [hs, canon_countUe (canon_setTeam hs), canon_countUe (canon_updDie hs)]

theorem canon_siloUe {op silo} (hs : Canon s) : Canon (siloUe s op silo) := by
  fun_cases siloUe
  exacts [hs, canon_engStop (canon_countUe (canon_foldl hs fun _ _ hs => canon_markHome hs))]

theorem canon_execSiloUnitUe (hs : Canon s) : NextCanon (execSiloUnitUe s) := by
  fun_cases execSiloUnitUe
  exacts [hs, canon_ite (canon_siloUe hs) hs]

/-! Machine/Mailboxes. -/

theorem canon_setMbox {d m x} (hs : Canon s) : Canon (s.setMbox d m x) := canon_updDie hs

theorem canon_setHart {d h x} (hs : Canon s) : Canon (s.setHart d h x) := canon_updDie hs

theorem canon_updEp {d m f} (hs : Canon s) : Canon (s.updEp d m f) := by
  fun_cases State.updEp
  exacts [hs, canon_updDie hs]

theorem canon_schedHart {d h} (hs : Canon s) : Canon (schedHart s d h) := by
  fun_cases schedHart
  exacts [hs, hs, canon_updEp (canon_setHart hs)]

theorem canon_blockHart {d h} (hs : Canon s) : Canon (blockHart s d h) := canon_schedHart (canon_setHart hs)

theorem canon_takeAction {d m rd} (hs : Canon s) : Canon (takeAction s d m rd) := by
  fun_cases takeAction
  exacts [canon_updEp (canon_setMbox hs), hs]

theorem canon_unblock {d m} (hs : Canon s) : Canon (unblock s d m) := by
  fun_cases unblock
  exacts [hs, canon_schedHart (canon_updEp hs)]

theorem canon_acceptAction {d m v bs} (hs : Canon s) : Canon (acceptAction s d m v bs) := by
  fun_cases acceptAction
  · exact canon_unblock (canon_takeAction (canon_setMbox (canon_updEp ((canon_fresh hs).snd ‹_›))))
  · exact canon_setMbox (canon_updEp ((canon_fresh hs).snd ‹_›))
  · exact hs

theorem canon_wrSram {d i b mark} (hs : Canon s) : Canon (wrSram s d i b mark) := canon_updDie hs

theorem canon_scrubWindow {d win size} (hs : Canon s) : Canon (scrubWindow s d win size) := canon_updDie hs

theorem canon_loadImage {d e} (hs : Canon s) : Canon (loadImage s d e) := by
  unfold loadImage
  refine canon_foldl (canon_scrubWindow hs) fun _ _ hs => ?_
  split
  · exact canon_wrSram hs
  · split
    · exact canon_wrSram ((canon_drawByte hs).snd ‹_›)

theorem canon_beginEpisode {d e} (hs : Canon s) : Canon (beginEpisode s d e) := by
  fun_cases beginEpisode
  exact canon_schedHart (canon_loadImage (canon_setMbox (canon_updDie (canon_setHart ((canon_fresh hs).snd ‹_›)))))

theorem canon_completeWord {d e} (hs : Canon s) : Canon (completeWord s d e) := by
  fun_cases completeWord
  exacts [hs, canon_releaseDeps (canon_wrHomeNat hs), canon_tokState hs, canon_tokState hs]

theorem canon_endRecord {d rec} (hs : Canon s) : Canon (endRecord s d rec) :=
  canon_signal (canon_ite (canon_updDie hs) (canon_updDie (canon_wrHomeNat hs)))

theorem canon_dropHartWait {d m} (hs : Canon s) : Canon (dropHartWait s d m) := by
  fun_cases dropHartWait
  exacts [hs.same, hs]

theorem canon_leaveHart {d h m} (hs : Canon s) : Canon (leaveHart s d h m) := by
  fun_cases leaveHart
  exacts [canon_setHart hs, hs]

theorem canon_endSteps {d e cause code killed} (hs : Canon s) : Canon (endSteps s d e cause code killed) := by
  unfold endSteps
  exact canon_completeWord (canon_endRecord (canon_scrubWindow (canon_retireParty (canon_setMbox (canon_leaveHart
    (canon_dropHartWait hs))))))

theorem canon_endEpisode {d m cause code killed again} (hs : Canon s) : Canon (endEpisode s d m cause code killed again) := by
  fun_cases endEpisode
  exacts [hs, canon_beginEpisode (canon_endSteps hs), canon_schedHart (canon_setMbox (canon_updDie (canon_endSteps hs)))]

theorem canon_faultEpisode {d m cause mtval} (hs : Canon s) : Canon (faultEpisode s d m cause mtval) := by
  fun_cases faultEpisode
  exacts [hs, canon_endEpisode (canon_eventCtx hs)]

theorem canon_postNow {d e rd addr} (hs : Canon s) : Canon (postNow s d e rd addr) := by
  fun_cases postNow
  exacts [canon_faultEpisode hs, canon_updEp (canon_setMbox hs), hs]

theorem canon_refillSlot {d m} (hs : Canon s) : Canon (refillSlot s d m) := by
  fun_cases refillSlot
  exacts [canon_setMbox hs, canon_postNow (canon_setMbox hs), canon_setMbox hs, canon_setMbox hs]

/-! Machine/Hart. -/

theorem canon_wrSramNat {d i n v} (hs : Canon s) : Canon (wrSramNat s d i n v) := canon_foldl hs fun _ _ hs => canon_wrSram hs

theorem canon_hartPathWait {d m ep cause addr} (hs : Canon s) : Canon (hartPathWait s d m ep cause addr) := by
  fun_cases hartPathWait
  exacts [hs, ((canon_fresh hs).snd ‹_›).same]

theorem canon_hartRetire {d m pc f} (hs : Canon s) : Canon (hartRetire s d m pc f) := canon_updEp (canon_dropHartWait hs)

theorem canon_hartFault {d m cause mtval} (hs : Canon s) : Canon (hartFault s d m cause mtval) :=
  canon_faultEpisode (canon_dropHartWait hs)

theorem canon_hartLoad {d m e a n pc acc f} (hs : Canon s) : Canon (hartLoad s d m e a n pc acc f) := by
  fun_cases hartLoad
  · exact canon_hartFault hs
  · exact canon_hartRetire hs
  · exact canon_hartFault hs
  · exact canon_hartRetire (canon_markPage hs)
  · exact canon_hartPathWait hs
  · exact canon_hartFault hs

theorem canon_hartStore {d m e a n v pc acc} (hs : Canon s) : Canon (hartStore s d m e a n v pc acc) := by
  fun_cases hartStore
  · exact canon_hartRetire (canon_wrSramNat hs)
  · exact canon_hartRetire (canon_wrHomes (canon_markPage hs))
  · exact canon_hartPathWait hs
  · exact canon_hartFault hs

theorem canon_runRv {d m e r len} (hs : Canon s) : Canon (runRv s d m e r len) := by
  fun_cases runRv
  · exact canon_hartRetire hs
  · exact canon_hartRetire hs
  · exact canon_hartRetire hs
  · exact canon_hartRetire hs
  · exact canon_hartRetire hs
  · exact canon_hartLoad hs
  · exact canon_hartStore hs
  · exact canon_hartRetire hs
  · exact canon_hartRetire hs
  · exact canon_hartRetire hs
  · exact canon_hartLoad hs
  · exact canon_hartRetire (canon_ite (canon_wrSramNat hs) hs)
  · exact canon_hartFault hs
  · exact hs
  · exact canon_hartFault hs
  · exact canon_hartRetire (canon_wrSramNat hs)
  · exact canon_hartFault hs
  · exact hs
  · exact canon_hartFault hs
  · exact canon_hartRetire hs
  · exact canon_hartFault hs
  · exact canon_hartRetire hs
  · exact canon_hartRetire hs
  · exact canon_hartFault hs
  · exact canon_hartFault hs

theorem canon_hartRun {f} (hs : Canon s) (hf : ∀ d m e, Canon (f d m e)) : NextCanon (hartRun s f) := by
  fun_cases hartRun
  exacts [trivial, trivial, hf _ _ _, hs]

theorem canon_budgeted {f d m e} (hs : Canon s) (hf : ∀ d m e, Canon (f d m e)) : Canon (budgeted s f d m e) :=
  canon_ite (canon_endEpisode hs) (hf _ _ _)

theorem canon_execHartException (hs : Canon s) : NextCanon (execHartException s) := by
  unfold execHartException
  split
  · exact hs
  · exact canon_ite (canon_hartFault hs) hs

/-! Machine/Fabric. -/

theorem canon_putCircuit {i v st} (hs : Canon s) : Canon (putCircuit s i v st) := by
  unfold putCircuit
  exact hs.same

theorem canon_circuitSet {i v} (hs : Canon s) : Canon (circuitSet s i v) := by
  fun_cases circuitSet
  exacts [hs, canon_putCircuit hs.same]

theorem canon_execCircuitClear (hs : Canon s) : NextCanon (execCircuitClear s) := by
  fun_cases execCircuitClear
  exacts [hs, canon_putCircuit (canon_ite hs.same hs)]

theorem canon_execCircuitUp (hs : Canon s) : NextCanon (execCircuitUp s) := by
  fun_cases execCircuitUp
  exacts [canon_putCircuit hs, hs]

theorem canon_execCircuitDown (hs : Canon s) : NextCanon (execCircuitDown s) := by
  fun_cases execCircuitDown
  exacts [hs.same, canon_putCircuit hs.same]

theorem canon_moduleEvent {e} (hs : Canon s) : Canon (moduleEvent s e) := canon_eventMod hs

theorem canon_execWavelengthLoss (hs : Canon s) : NextCanon (execWavelengthLoss s) := by
  fun_cases execWavelengthLoss
  exacts [hs, canon_moduleEvent (canon_when canon_putCircuit hs.same)]

theorem canon_loseHeld {o} (hs : Canon s) : Canon (loseHeld s o) := canon_foldl hs fun _ _ hs => canon_poisonQuiet hs

theorem canon_ownPathLost {o} (hs : Canon s) : Canon (ownPathLost s o) := canon_updOwn (canon_loseHeld hs)

theorem canon_releasePathLost {core} (hs : Canon s) : Canon (releasePathLost s core) :=
  (canon_foldl hs fun _ _ hs => canon_poisonQuiet hs).same

theorem canon_pathLost {w} (hs : Canon s) : Canon (pathLost s w) := by
  fun_cases pathLost
  · exact canon_engStop hs.same
  · exact hs.same
  · exact canon_ownPathLost hs.same
  · exact hs.same
  · exact canon_hartFault hs.same
  · exact hs.same
  · exact canon_releasePathLost hs.same
  · exact canon_takeTrap hs.same

theorem canon_execPathTimeout (hs : Canon s) : NextCanon (execPathTimeout s) := by
  fun_cases execPathTimeout
  exacts [hs, canon_pathLost hs, hs]

theorem canon_seamFails {t} (hs : Canon s) : Canon (seamFails s t) := by
  fun_cases seamFails
  exacts [hs, canon_eventMod hs.same, canon_disposeAll (canon_eventMod hs.same)]

theorem canon_linkDown {p} (hs : Canon s) : Canon (linkDown s p) := by
  fun_cases linkDown
  exacts [hs, canon_moduleEvent hs.same]

theorem canon_execFlitReplay (hs : Canon s) : NextCanon (execFlitReplay s) := by
  fun_cases execFlitReplay
  exacts [hs, hs.same, canon_linkDown hs, hs.same]

theorem canon_execFabricLinkDown (hs : Canon s) : NextCanon (execFabricLinkDown s) := by
  fun_cases execFabricLinkDown
  exacts [hs.same, canon_linkDown hs]

theorem canon_execHostLinkFailure (hs : Canon s) : NextCanon (execHostLinkFailure s) := by
  fun_cases execHostLinkFailure <;> exact hs.same

theorem canon_farPerform {place k} (hs : Canon s) : Canon (farPerform s place k).2.2 := by
  fun_cases farPerform
  exacts [hs, canon_wrHomes hs, hs, (canon_atomAt hs).snd ‹_›]

theorem canon_farAccess {m c roid off k} (hs : Canon s) : Canon (farAccess s m c roid off k) := by
  fun_cases farAccess with
  | case6 ans h1 ctx h2 o h3 p h4 h5 bs marks u hu =>
    have ht := canon_farPerform (place := p) (k := k) (canon_markPage (o := o) (store := farStores k) (off := off) hs)
    rw [hu] at ht
    exact Canon.same (s := releaseDeps u) (canon_releaseDeps ht)
  | case1 => exact hs
  | case5 => exact hs
  | _ => exact hs.same

theorem canon_farMessage {m c oid a4} (hs : Canon s) : Canon (farMessage s m c oid a4) := by
  fun_cases farMessage
  exacts [hs.same, hs, hs, canon_returnNow hs, hs, hs]

theorem canon_execFarOwnershipMessage (hs : Canon s) : NextCanon (execFarOwnershipMessage s) := by
  fun_cases execFarOwnershipMessage
  exacts [hs, canon_farMessage hs]

theorem canon_loseImport {i} (hs : Canon s) : Canon (loseImport s i) :=
  canon_foldl (canon_foldl hs fun _ _ hs => canon_poisonQuiet hs) fun _ _ hs => canon_putDeckle hs

theorem canon_losePeer {m} (hs : Canon s) : Canon (losePeer s m) := by
  have h : Canon { s with lostPeers := sIns s.lostPeers m } := hs.same
  exact canon_foldl (canon_moduleEvent (canon_unless canon_wrHome (canon_foldl (canon_foldl (canon_foldl h
    fun _ _ hs => canon_poisonQuiet hs) fun _ _ hs => canon_disposeShare hs) fun _ _ hs => canon_loseImport hs)))
    fun _ _ hs => canon_eventCtx hs

theorem canon_execPeercmd (hs : Canon s) : NextCanon (execPeercmd s) := by
  fun_cases execPeercmd
  exacts [canon_losePeer hs, hs]

/-! Machine/Boot. -/

theorem canon_afterPower {on} (hs : Canon s) : Canon (afterPower s on) := ⟨rfl, hs.2⟩

theorem canon_execPowerUp (hs : Canon s) : NextCanon (execPowerUp s) := by
  fun_cases execPowerUp
  exacts [hs, canon_afterPower hs]

theorem canon_execPowerDown (hs : Canon s) : NextCanon (execPowerDown s) := by
  fun_cases execPowerDown
  exacts [canon_afterPower hs, hs]

theorem canon_joinCircuits {d} (hs : Canon s) : Canon (joinCircuits s d) :=
  canon_foldl hs fun _ _ hs => canon_circuitSet (canon_circuitSet (canon_circuitSet hs))

theorem canon_logAbsent (hs : Canon s) : Canon (logAbsent s) :=
  canon_foldl hs fun _ _ hs => canon_ite (canon_moduleEvent (canon_setDie hs)) hs

theorem canon_bootDie {d addr} (hs : Canon s) : Canon (bootDie s d addr) := by
  fun_cases bootDie
  exacts [canon_logAbsent (canon_setDie hs), canon_logAbsent (canon_joinCircuits (canon_setDie hs))]

theorem canon_execBootcmd (hs : Canon s) : NextCanon (execBootcmd s) := by
  fun_cases execBootcmd
  exacts [hs, canon_bootDie hs]

theorem canon_attestStatus {n} (hs : Canon s) : Canon (attestStatus s n) := canon_setReg hs

theorem canon_execAttestReport (hs : Canon s) : NextCanon (execAttestReport s) := by
  fun_cases execAttestReport
  exacts [hs, canon_attestStatus hs.same]

theorem canon_execAttestRaise (hs : Canon s) : NextCanon (execAttestRaise s) := by
  fun_cases execAttestRaise
  exacts [hs, canon_attestStatus hs, canon_attestStatus hs, canon_attestStatus hs.same]

/-! Machine/Granary. -/

theorem canon_hartPut {d m rd v} (hs : Canon s) : Canon (hartPut s d m rd v) := canon_updEp hs

theorem canon_gmbWait {rd rs d m e} (hs : Canon s) : Canon (gmbWait s rd rs d m e) := by
  fun_cases gmbWait
  exacts [canon_budgeted hs (fun _ _ _ => canon_hartPut hs), canon_takeAction hs, canon_blockHart (canon_updEp hs), hs]

theorem canon_gmbPost {rd rs d m e} (hs : Canon s) : Canon (gmbPost s rd rs d m e) := by
  fun_cases gmbPost
  exacts [canon_hartPut hs, canon_postNow hs, canon_updEp hs, canon_hartPut hs]

theorem canon_gepEnd {rs d m e} (hs : Canon s) : Canon (gepEnd s rs d m e) := canon_endEpisode (canon_updEp hs)

theorem canon_gepVer {rd rs d m e} (hs : Canon s) : Canon (gepVer s rd rs d m e) := canon_updEp (canon_hartPut hs)

theorem canon_startEpisode {d v} (hs : Canon s) : Canon (startEpisode s d v) := by
  fun_cases startEpisode
  exacts [canon_updDie hs, canon_updDie (canon_beginEpisode hs)]

theorem canon_execGstart (hs : Canon s) : NextCanon (execGstart s) := by
  fun_cases execGstart
  exacts [canon_startEpisode hs, hs]

theorem canon_execCycleBudgetExpiry (hs : Canon s) : NextCanon (execCycleBudgetExpiry s) := by
  unfold execCycleBudgetExpiry
  split
  · exact hs
  · exact canon_ite (canon_endEpisode hs) hs

theorem canon_execInstructionBudgetRunaway (hs : Canon s) : NextCanon (execInstructionBudgetRunaway s) := by
  unfold execInstructionBudgetRunaway
  split
  · exact hs
  · exact canon_ite (canon_endEpisode hs) hs

theorem canon_waitTimeout {d m} (hs : Canon s) : Canon (waitTimeout s d m) := by
  fun_cases waitTimeout
  exacts [hs, hs, canon_endEpisode hs, canon_unblock (canon_updEp (canon_hartPut ((canon_fresh hs).snd ‹_›))), hs]

theorem canon_failHart {d h} (hs : Canon s) : Canon (failHart s d h) := by
  fun_cases failHart
  exacts [hs, canon_eventMod (canon_foldl (canon_setHart hs) fun _ _ hs => canon_faultEpisode hs)]

theorem canon_execHartFailure (hs : Canon s) : NextCanon (execHartFailure s) := by
  fun_cases execHartFailure
  exacts [canon_failHart hs, hs]

theorem canon_execMailboxError (hs : Canon s) : NextCanon (execMailboxError s) := by
  fun_cases execMailboxError
  exacts [canon_endEpisode (canon_setMbox hs), hs]

/-! Machine/Pages. -/

theorem canon_clearFrame {a} (hs : Canon s) : Canon (clearFrame s a) := hs.withHbm (Memory.wf_filter _ _ hs.1)

theorem canon_putImage {a m} (hs : Canon s) : Canon (putImage s a m) :=
  Canon.withHbm (s := clearFrame s a) (canon_clearFrame hs) (List.foldlRecOn (motive := fun h => Memory.wf h = true) _ _
    (canon_clearFrame hs).1 fun h hh e _ => Memory.wf_wrByte h _ _ hh)

theorem canon_makeResident {ctx o p m} (hs : Canon s) : Canon (makeResident s ctx o p m).2 := by
  fun_cases makeResident
  exacts [hs, canon_putPage (canon_when (fun hs => hs.same) (canon_putImage (canon_takeFrame hs ‹_›)))]

theorem canon_damagedPage {ctx oid o p} (hs : Canon s) : Canon (damagedPage s ctx oid o p) :=
  canon_foldl (canon_putPage hs.same) fun _ _ hs => canon_poisonRegion hs

theorem canon_pageAction {ctx oid p out} (hs : Canon s) : Canon (pageAction s ctx oid p out).2 := by
  fun_cases pageAction
  exacts [hs, hs, canon_damagedPage hs, canon_makeResident hs, hs, canon_makeResident hs, canon_makeResident hs]

theorem canon_pageinStep {id out} (hs : Canon s) : Canon (pageinStep s id out) := by
  unfold pageinStep
  split
  · exact hs
  · rename_i o _
    have hp : Canon (match o.pages with
      | [] => (0, s)
      | p :: _ => let (r, s) := pageAction s o.ctx o.oid p out; (r, releaseDeps s)).2 := by
      split
      exacts [hs, canon_releaseDeps (canon_pageAction hs)]
    exact canon_ite hp.same (canon_settleTeam (canon_writeReceipt hp.same))

theorem canon_pressSkip {d ctx} (hs : Canon s) : Canon (pressSkip s d ctx) := by
  fun_cases pressSkip
  exacts [canon_updDie (canon_regionEvent (canon_setReg hs)), canon_updDie (canon_setReg hs)]

theorem canon_sweepVisit {ctx oid p image} (hs : Canon s) : Canon (sweepVisit s ctx oid p image) := by
  fun_cases sweepVisit with
  | case1 => exact hs
  | case2 => exact canon_wrHomeNat hs.same
  | case3 => exact canon_wrHomeNat hs.same
  | case4 => exact canon_pressSkip (canon_wrHomeNat hs.same)
  | case5 o e a d key last h t aged h' age u =>
    have hu : Canon u := canon_wrHomeNat hs.same
    exact canon_appendFrame (canon_putPage hu.same)

theorem canon_sweepNext {d image} (hs : Canon s) : Canon (sweepNext s d image) := by
  fun_cases sweepNext
  exacts [hs, hs, canon_updDie (canon_sweepVisit hs)]

theorem canon_earlyBack {i out} (hs : Canon s) : Canon (earlyBack s i out) := by
  fun_cases earlyBack
  exacts [hs, hs, canon_dropLine (canon_writeBack hs), canon_writeBack hs]

/-! Machine/Services. -/

theorem canon_copyOut {t grp addr la} (hs : Canon s) : Canon (copyOut t grp addr la s) :=
  canon_foldl hs fun _ _ hs => canon_ite ((canon_drawByte hs).withHost (Memory.wf_wrByte _ _ _ hs.2.1))
    (hs.withHost (Memory.wf_wrByte _ _ _ hs.2.1))

theorem canon_postRequest {d} (hs : Canon s) : Canon (postRequest s d) := by
  fun_cases postRequest with
  | case4 x e h n rest hq drop t ht g hg svc act y blocks k hk hrun u v =>
    have hu : Canon u := canon_foldl hs fun _ b hs => canon_copyOut hs
    have hv : Canon v := hu.withHost (Memory.wf_wrNat _ _ _ _ hu.2.1)
    exact canon_signal (canon_updDie hv)
  | case1 => exact hs
  | case5 => exact hs
  | case7 => exact hs
  | _ => exact canon_updDie hs

theorem canon_answer {d v} (hs : Canon s) : Canon (answer s d v) := by
  fun_cases answer
  · exact canon_eventMod hs
  · exact canon_eventMod hs
  · exact canon_updDie hs
  · exact canon_updDie hs
  · exact canon_updDie hs
  · exact canon_setTeam (canon_updDie hs)

theorem canon_execScdone (hs : Canon s) : NextCanon (execScdone s) := by
  fun_cases execScdone
  exacts [canon_answer hs, hs]

theorem canon_restoreTrapped {d h n} (hs : Canon s) : Canon (restoreTrapped s d h n) := by
  fun_cases restoreTrapped
  · exact hs
  · exact hs
  · exact canon_settleTeam (canon_pendingDebug (canon_writeReceipt (canon_charge (canon_holdCounters (canon_setGroup hs)))))
  · exact canon_writeReceipt (canon_charge (canon_holdCounters (canon_setGroup hs)))
  · exact hs
  · exact hs

/-! Machine/Sync. -/

theorem canon_wakeDwaits {grid pos word} (hs : Canon s) : Canon (wakeDwaits s grid pos word) := by
  unfold wakeDwaits
  refine canon_foldl hs fun _ _ hs => ?_
  split
  · split
    · exact canon_ite (canon_releaseDwait hs) hs
    · exact hs
  · exact hs

theorem canon_arriveDsig {d i} (hs : Canon s) : Canon (arriveDsig s d i) := by
  fun_cases arriveDsig
  exacts [hs, hs, canon_wakeDwaits (canon_updGrid (canon_updDie hs)), canon_updDie hs]

theorem canon_execDwaitTimeout (hs : Canon s) : NextCanon (execDwaitTimeout s) := by
  fun_cases execDwaitTimeout
  exacts [hs, hs, hs, canon_releaseDwait hs, hs]

/-! Machine/Work. -/

theorem canon_useMboxes {c a} (hs : Canon s) : Canon (useMboxes s c a) := canon_foldl hs fun _ _ hs => canon_setMbox hs

theorem canon_takeMbox {d m o} (hs : Canon s) : Canon (takeMbox d m s o).1 := by
  fun_cases takeMbox
  exacts [hs, canon_refillSlot (canon_setMbox (canon_updGroup hs)), canon_updGroup hs, hs]

theorem canon_deliverTake {id} (hs : Canon s) : Canon (deliverTake s id) := by
  fun_cases deliverTake
  · exact hs
  · exact hs
  · have h := Canon.fst (canon_foldl_fst hs fun _ _ hs => canon_takeMbox hs) ‹_›
    exact canon_settleTeam (canon_writeReceipt (canon_acquireLines (canon_updGroup h.same)))
  · exact (Canon.fst (canon_foldl_fst hs fun _ _ hs => canon_takeMbox hs) ‹_›).same

/-! Machine/Fetch. -/

theorem canon_takeFetch {cause a c} (hs : Canon s) : Canon (takeFetch s cause a c) := canon_takeTrap (canon_updGroup hs)

theorem canon_fetchTrap {c cause a} (hs : Canon s) : Canon (fetchTrap s c cause a) :=
  canon_foldl hs fun _ _ hs => canon_takeFetch hs

theorem canon_unassignedTrap {c u} (hs : Canon s) : Canon (unassignedTrap s c u) := canon_trapIssue hs

theorem canon_nextUnit {c} (hs : Canon s) (e : nextUnit s c = .inl t) : Canon t := by
  revert e
  fun_cases nextUnit <;> rintro ⟨⟩
  exacts [canon_fetchTrap hs, canon_takeTrap hs, canon_pathWaits hs, canon_unassignedTrap hs]

theorem canon_nextQ {b} (hs : Canon s) (e : nextQ s b = .inl t) : Canon t := by
  revert e
  fun_cases nextQ <;> rintro ⟨⟩
  exacts [canon_bondStop hs, hs, canon_bondStop hs]

theorem canon_nextHart {d m e} (hs : Canon s) (h : nextHart s d m e = .inl t) : Canon t := by
  revert h
  fun_cases nextHart <;> rintro ⟨⟩
  · exact canon_budgeted hs fun _ _ _ => canon_hartFault hs
  · exact canon_budgeted hs fun _ _ _ => canon_hartFault hs

/-! Machine/Time. -/

theorem canon_countDie {d} (hs : Canon s) : Canon (countDie s d) := canon_setDie hs

theorem canon_passCount (hs : Canon s) : Canon (passCount s) := canon_foldl hs fun _ _ hs => canon_countDie hs

/-! Machine/Run. -/

theorem canon_markUnit {c} (hs : Canon s) : Canon (markUnit s c) := canon_markPage (canon_markPage hs)

/-! Updates of the management unit. -/

theorem canon_muObject {u} (hs : Canon s) : (muObject s u).Canonical := by
  fun_cases muObject
  · exact hs
  · trivial
  · exact canon_wrHomeNat (canon_when canon_dropDeckles (canon_ite (canon_retireObject hs) (canon_flushPlaces hs)))

theorem canon_muPage {u} (hs : Canon s) : (muPage s u).Canonical := by
  fun_cases muPage
  · exact hs
  · exact canon_releaseDeps (canon_wrHomeNat (canon_when (fun hs => hs.same) (canon_when canon_flushPlaces hs)))

theorem canon_muContext {u} (hs : Canon s) : (muContext s u).Canonical := by
  fun_cases muContext
  exacts [hs, hs, canon_wrHomeNat hs]

theorem canon_muQueue {u} (hs : Canon s) : (muQueue s u).Canonical := by
  fun_cases muQueue
  exacts [hs, canon_wrHomeNat hs]

theorem canon_muFrame {u} (hs : Canon s) : (muFrame s u).Canonical := by
  fun_cases muFrame
  exacts [hs, canon_appendFrame hs]

theorem canon_muShare {k u} (hs : Canon s) : (muShare k s u).Canonical := by
  fun_cases muShare with
  | case1 => exact hs
  | case2 => trivial
  | case3 c o q b l ob h id v hv op hr r t =>
    have hr : Canon r.s := canon_ownOutcome ((canon_fresh hs).snd hv)
    clear_value r
    change Canon t
    unfold t
    split
    exacts [canon_enterHold (canon_acquireRegion hr), hr]

theorem canon_muDomain {u} (hs : Canon s) : (muDomain s u).Canonical := by
  fun_cases muDomain
  exacts [hs, canon_wrHomeNat hs, hs, canon_wrHomeNat hs]

theorem canon_muRead {u} (hs : Canon s) : (muRead s u).Canonical := by
  fun_cases muRead <;> exact hs

/-! Units. -/

theorem canon_execLd {x} (hs : Canon s) : NextCanon (execLd x s) := by
  refine canon_issue (fun c s hs => ?_) hs
  dsimp only
  exact canon_commit (canon_markAccess (canon_loadLanes hs))

theorem canon_execLdu {x} (hs : Canon s) : NextCanon (execLdu x s) := by
  refine canon_issue (fun c s hs => ?_) hs
  dsimp only
  exact canon_commit (canon_markAccess (canon_loadLanes hs))

theorem canon_execSt {x} (hs : Canon s) : NextCanon (execSt x s) := by
  refine canon_issue (fun c s hs => ?_) hs
  dsimp only
  exact canon_commit (canon_markAccess (canon_foldl hs fun _ _ hs => canon_storeCached hs))

theorem canon_execStu {x} (hs : Canon s) : NextCanon (execStu x s) := by
  refine canon_issue (fun c s hs => ?_) hs
  dsimp only
  exact canon_commit (canon_markAccess (canon_foldl hs fun _ _ hs => canon_storeCached hs))

theorem canon_execBlease {x} (hs : Canon s) : NextCanon (execBlease x s) := by
  refine canon_issue (fun c s hs => ?_) hs
  dsimp only
  exact canon_commit (canon_when (fun hs => canon_updTeam (canon_putBond hs)) hs)

theorem canon_execExit {x} (hs : Canon s) : NextCanon (execExit x s) := by
  refine canon_issue (fun c s hs => ?_) hs
  dsimp only
  exact canon_settleTeam (canon_commit hs)

theorem canon_execStepTake {x} (hs : Canon s) : NextCanon (execStepTake x s) := by
  refine canon_issue (fun c s hs => ?_) hs
  dsimp only
  exact canon_commit (canon_useMboxes hs).same

theorem canon_execAtom {x} (hs : Canon s) : NextCanon (execAtom x s) := by
  fun_cases execAtom
  refine canon_issue (fun c s hs => ?_) hs
  dsimp only
  exact canon_commit (canon_atomLanes hs)

theorem canon_execRed {x} (hs : Canon s) : NextCanon (execRed x s) := by
  fun_cases execRed
  refine canon_issue (fun c s hs => ?_) hs
  dsimp only
  exact canon_atomLanes hs

theorem canon_execFence {x} (hs : Canon s) : NextCanon (execFence x s) := by
  fun_cases execFence
  exact canon_issue (fun _ _ hs => canon_when canon_acquireAll (canon_when canon_releaseAll hs)) hs

theorem canon_execRedux {x} (hs : Canon s) : NextCanon (execRedux x s) := by
  fun_cases execRedux <;> exact canon_issue (fun _ _ hs => canon_setGroup hs) hs

theorem canon_execSread {x} (hs : Canon s) : NextCanon (execSread x s) := by
  fun_cases execSread <;> exact canon_issue (fun _ _ hs => canon_setGroup hs) hs

theorem canon_execBfork {x} (hs : Canon s) : NextCanon (execBfork x s) := by
  refine canon_issue (fun c s hs => ?_) hs
  dsimp only
  split
  exacts [canon_commit (canon_putBond hs), hs]

theorem canon_execBfree {x} (hs : Canon s) : NextCanon (execBfree x s) := by
  refine canon_issue (fun c s hs => ?_) hs
  dsimp only
  split
  exacts [canon_commit hs, canon_ite (canon_commit hs) (canon_commit (canon_releaseBond hs))]

/-- Every instruction: a unit, a word of a sequencer or of a hart, or another step of the table. -/
theorem canon_exec {i} (hs : Canon s) : NextCanon (exec i s) :=
  match i with
  | .iadd _ | .isub _ | .iadds _ | .isubs _ | .imin _ | .imax _ | .nmin _ | .nmax _ | .iabs _ | .ineg _ | .iavg _ | .idiff _ | .iaddc _
  | .isubb _ | .imul _ | .imulh _ | .nmulh _ | .imad _ | .imadh _ | .idot4 _ | .idot2 _ | .idiv _ | .irem _ | .ndiv _ | .nrem _ | .and _
  | .or _ | .xor _ | .andn _ | .orn _ | .xnor _ | .not _ | .lcomb _ | .shl _ | .shr _ | .sra _ | .rol _ | .ror _ | .fshl _ | .fshr _
  | .popc _ | .clz _ | .ctz _ | .brev _ | .bfx _ | .bfxn _ | .bfi _ | .bmsk _ | .permb _ | .sext _ | .zext _ | .icmp _ | .sel _ | .mov _
  | .movk _ | .kmov _ | .iaddi _ | .andi _ | .ori _ | .xori _ | .shli _ | .shri _ | .srai _ | .roli _ | .movi _ | .sadd _ | .ssub _
  | .smul _ | .smulh _ | .sand _ | .sor _ | .sxor _ | .sshl _ | .sshr _ | .ssra _ | .smin _ | .smax _ | .snmin _ | .snmax _ | .saddi _
  | .scmp _ | .smov _ | .srdk _ | .swrk _ | .spopk _ | .fadd _ | .fsub _ | .fmul _ | .fmin _ | .fmax _ | .fminn _ | .fmaxn _ | .fabs _
  | .fneg _ | .fcpys _ | .fscale _ | .ffrac _ | .ffloor _ | .fceil _ | .ftrunc _ | .frint _ | .ffma _ | .ffms _ | .ffnma _ | .ffnms _
  | .frcp _ | .frsq _ | .fsqrt _ | .fdiv _ | .fexp2 _ | .flog2 _ | .fsin _ | .fcos _ | .ftanh _ | .fsigm _ | .fcmp _ | .fclass _ | .fdot2 _
  | .fdot4 _ | .cvt _ | .cvt8 _ | .cvt8x _ | .cvt4 _ | .cvt4x _ | .pack8 _ | .unpk8 _ | .bscan _ | .qnt8 _ | .dqnt8 _ | .qnt4 _ | .dqnt4 _
  | .shfli _ | .shflu _ | .shfld _ | .shflx _ | .bcast _ | .rdlane _ | .wrlane _ | .scan _ | .vall _ | .vany _ | .vballot _ | .kand _
  | .kor _ | .kxor _ | .kandn _ | .knot _ | .kfirst _ | .wbase _ | .ldl _ | .cderive _ | .crights _ | .cgetb _ | .cgetl _ | .cgetr _
  | .ctest _ | .cnull _ | .cmov _ | .dquerySelf _ | .bstat _ | .bra _ | .call _ | .jmp _ | .ret _ | .join _ | .brx _ | .callx _ | .yield _
  | .sleep _ | .rtest _ | .swrite _ | .enrg _ => canon_issue (fun _ _ hs => canon_setGroup hs) hs
  | .stl _ => canon_issue (fun _ _ hs => canon_updTeam hs) hs
  | .pref _ => canon_issue (fun _ _ hs => canon_foldl hs fun _ _ hs =>
    canon_ite (canon_l1Line (canon_markPage hs)) (canon_ite (canon_l2Line (canon_markPage hs)) (canon_markPage hs))) hs
  | .pagein _ => canon_issue (fun _ _ hs => canon_ite hs (canon_commit hs.same)) hs
  | .cldc _ => canon_issue (fun _ _ hs => canon_ite (canon_commit hs) (canon_commit (canon_markAccess (canon_loadLanes hs)))) hs
  | .cstc _ => canon_issue (fun _ _ hs => canon_ite (canon_updTeam hs)
    (canon_markAccess (canon_foldl hs fun _ _ hs => canon_storeCached hs))) hs
  | .dclaim _ | .dpark _ | .dlend _ | .dreturn _ | .dsplit _ | .djoin _ | .dshare _ | .dunshare _ | .datom _ | .dquery _ =>
    canon_issue (fun _ _ hs => canon_ownStart hs) hs
  | .nmred _ | .nmscat _ => canon_issue (fun _ _ hs => canon_nmEffect hs) hs
  | .cpy _ => canon_issue (fun _ _ hs => canon_cpyEffect hs) hs
  | .cpyc _ => canon_issue (fun _ _ hs => canon_cpycEffect hs) hs
  | .brdv _ | .barv _ => canon_issue (fun _ _ hs => canon_rdvEffect (canon_releaseAll hs)) hs
  | .nop _ => canon_issue (fun _ _ hs => hs) hs
  | .bar _ | .bara _ => canon_issue (fun _ _ hs => canon_sweepTeam (canon_commit (canon_when canon_releaseAll hs))) hs
  | .barw _ => canon_issue (fun _ _ hs => canon_commit (canon_when canon_acquireAll hs)) hs
  | .dbar _ => canon_issue (fun _ _ hs => canon_sweepTeam (canon_commit (canon_releaseAll hs))) hs
  | .dsig _ => canon_issue (fun _ _ hs => canon_sendDsig (canon_releaseAll hs)) hs
  | .dwait _ => canon_issue (fun _ _ hs => canon_ite (canon_commit hs) (canon_sweepTeam (canon_commit (canon_releaseAll hs)))) hs
  | .cont _ => canon_issue (fun _ _ hs => canon_emitRecs hs) hs
  | .stepSend _ => canon_issue (fun _ _ hs => canon_commit (canon_foldl (canon_unless canon_releaseAll (canon_useMboxes hs))
    fun _ _ hs => canon_acceptAction hs)) hs
  | .trap _ => canon_issue (fun _ _ hs => canon_ite (canon_trapPark hs) (canon_commit hs)) hs
  | .brk _ => canon_issue (fun _ _ hs => canon_ite (canon_queueTrap (canon_commit hs)) hs) hs
  | .evt _ => canon_issue (fun _ _ hs => canon_addEvent hs) hs
  | .redux _ => canon_execRedux hs
  | .ld _ => canon_execLd hs
  | .st _ => canon_execSt hs
  | .ldu _ => canon_execLdu hs
  | .stu _ => canon_execStu hs
  | .atom _ => canon_execAtom hs
  | .red _ => canon_execRed hs
  | .fence _ => canon_execFence hs
  | .blease _ => canon_execBlease hs
  | .bfree _ => canon_execBfree hs
  | .bfork _ => canon_execBfork hs
  | .exit _ => canon_execExit hs
  | .stepTake _ => canon_execStepTake hs
  | .sread _ => canon_execSread hs
  | .mfmt _ => canon_execMfmt hs
  | .mzero _ | .mnop => canon_qword hs (fun _ => canon_putBond hs)
  | .mloadb _ => canon_execMloadb hs
  | .mmac _ _ _ | .mmact _ _ _ => canon_qword hs (fun _ => canon_mmacIssue hs)
  | .mdrain _ _ _ => canon_execMdrain hs
  | .mloop _ _ _ => canon_qword hs (fun _ => canon_ite (canon_bondStop hs) (canon_putBond hs))
  | .mend => canon_qword hs (fun _ => canon_settleTeam (canon_bondReceipt (canon_putBond hs)))
  | .mbar _ | .marv _ => canon_qword hs (fun _ => canon_seqArrive hs)
  | .msig _ _ _ _ => canon_qword hs (fun _ => canon_ite (canon_bondStop hs) (canon_sendDsig (canon_putBond hs)))
  | .mwaitf _ _ _ => canon_qword hs (fun _ => canon_ite (canon_bondStop hs) (canon_beginOp hs))
  | .gmbWait _ _ => canon_hartRun hs (fun _ _ _ => canon_gmbWait hs)
  | .gmbRead _ _ => canon_hartRun hs (fun _ _ _ => canon_budgeted hs (fun _ _ _ => canon_hartPut hs))
  | .gmbPost _ _ => canon_hartRun hs (fun _ _ _ => canon_budgeted hs (fun _ _ _ => canon_gmbPost hs))
  | .gepEnd _ => canon_hartRun hs (fun _ _ _ => canon_budgeted hs (fun _ _ _ => canon_gepEnd hs))
  | .gepVer _ _ => canon_hartRun hs (fun _ _ _ => canon_budgeted hs (fun _ _ _ => canon_gepVer hs))
  | .powerUp => canon_execPowerUp hs
  | .powerDown => canon_execPowerDown hs
  | .bootcmd => canon_execBootcmd hs
  | .attestReport => canon_execAttestReport hs
  | .attestRaise => canon_execAttestRaise hs
  | .doorbellWrite => canon_doorbell hs
  | .queueFetch => canon_execQueueFetch (s := s) hs
  | .recordRefetch => canon_execRecordRefetch hs
  | .gridStart => canon_startGrid hs
  | .teamPlacement => canon_execTeamPlacement hs
  | .preemptDecide => canon_decidePreempt hs
  | .saveComplete => canon_saveParked (canon_completeSave hs)
  | .discardComplete => canon_finishDiscard hs
  | .restoreComplete => canon_restored hs
  | .preemptDeadline => canon_preDeadline hs
  | .quantumSpent => canon_spendQuantum hs
  | .gridDeadlineMiss => canon_missGrid hs
  | .gleanDeadline => canon_ite hs (canon_launchDue hs)
  | .dsigMessage => canon_arriveDsig hs
  | .dwaitTimeout => canon_execDwaitTimeout hs
  | .sleepExpiry => canon_updGroup hs
  | .earlyWriteBack => canon_earlyBack hs
  | .holdListRefill => canon_execHoldListRefill hs
  | .deckleOperation => canon_execDeckleOperation hs
  | .deckleStatusWrite => canon_execDeckleStatusWrite hs
  | .pageinPageAction => canon_pageinStep hs
  | .pressSweepVisit => canon_ite (canon_sweepNext hs) hs
  | .copyEngineTransfer => canon_execCopyEngineTransfer hs
  | .engineInstallment => canon_execEngineInstallment hs
  | .feedUnitAppend => canon_execFeedUnitAppend hs
  | .seamUnitCopy => canon_execSeamUnitCopy hs
  | .memoryPortInstallment => canon_execMemoryPortInstallment hs
  | .siloBurstApply => canon_execSiloBurstApply hs
  | .engineReceipt => canon_execEngineReceipt hs
  | .collectiveContribution => canon_contribute hs
  | .collectiveRootResult => canon_execCollectiveRootResult hs
  | .bondStreamStart => canon_execBondStreamStart hs
  | .sequencerCharge => canon_execSequencerCharge hs
  | .serviceRequestPost => canon_postRequest hs
  | .scdone => canon_execScdone hs
  | .trapGroupRestore => canon_restoreTrapped hs
  | .stepTakeDelivery => canon_deliverTake hs
  | .lapStart => canon_lapStart hs
  | .ringStopVisit => canon_ringStop hs
  | .lapEndStaticCharge => canon_lapEnd hs
  | .energyReadClear => (canon_wrHomeNat (canon_writeEnergy hs)).same
  | .eplanWrite => canon_updDie hs
  | .islctlWrite => canon_execIslctlWrite hs
  | .ratioChangeComplete => canon_ratioDone hs
  | .droopDetect | .canaryWarning => canon_setIsland hs
  | .droopRecover => canon_execDroopRecover hs
  | .canaryRelax => canon_canaryRelax hs
  | .thermalSample => canon_thermalSample hs
  | .gstart => canon_execGstart hs
  | .gstopNow => canon_endEpisode hs
  | .gstopForbidRestart => canon_updEp hs
  | .cycleBudgetExpiry => canon_execCycleBudgetExpiry hs
  | .instructionBudgetRunaway => canon_execInstructionBudgetRunaway hs
  | .gmbWaitTimeout => canon_waitTimeout hs
  | .hartException => canon_execHartException hs
  | .hartFailure => canon_execHartFailure hs
  | .mailboxError => canon_execMailboxError hs
  | .apertureAccess => canon_execApertureAccess hs
  | .circuitSet => canon_circuitSet hs
  | .circuitClear => canon_execCircuitClear hs
  | .circuitUp => canon_execCircuitUp hs
  | .circuitDown => canon_execCircuitDown hs
  | .pathTimeout => canon_execPathTimeout hs
  | .wavelengthLoss => canon_execWavelengthLoss hs
  | .seamRetrain => canon_seamFails hs
  | .farAccessArrival => canon_farAccess hs
  | .farOwnershipMessage => canon_execFarOwnershipMessage hs
  | .flitReplay => canon_execFlitReplay hs
  | .fabricLinkDown => canon_execFabricLinkDown hs
  | .hostLinkFailure => canon_execHostLinkFailure hs
  | .peercmd => canon_execPeercmd hs
  | .modnumWrite => canon_execModnumWrite hs
  | .muObjectEntry => canon_muRun hs fun _ _ hs => canon_muObject hs
  | .muPageEntry => canon_muRun hs fun _ _ hs => canon_muPage hs
  | .muContextDescriptor => canon_muRun hs fun _ _ hs => canon_muContext hs
  | .muQueueDescriptor => canon_muRun hs fun _ _ hs => canon_muQueue hs
  | .muFrameAppend => canon_muRun hs fun _ _ hs => canon_muFrame hs
  | .muHostShare | .muHostUnshare => canon_muRun hs fun _ _ hs => canon_muShare hs
  | .muDomainImport => canon_muRun hs fun _ _ hs => canon_muDomain hs
  | .muReadOnly => canon_muRun hs fun _ _ hs => canon_muRead hs
  | .deckleLookup => canon_lookupDeckle hs
  | .drclKeep | .drclZero => canon_reclaim hs
  | .qerrWrite => canon_execQerrWrite hs
  | .collectiveSlotWrite => canon_execCollectiveSlotWrite hs
  | .dbgctlWrite => canon_writeDbgctl hs
  | .gstop => canon_dbgOnGroup hs (fun _ _ => canon_setDsts (canon_spreadStop (canon_stopGroup hs)))
  | .tstop => canon_dbgCommand hs (fun _ => canon_setDsts (canon_foldl hs fun _ _ hs => canon_stopGroup hs))
  | .resume => canon_execResume hs
  | .step => canon_execStep hs
  | .select => canon_dbgOnGroup hs (fun _ _ => canon_setDsts (canon_updDie hs))
  | .tresume => canon_execTresume hs
  | .divergenceWindowWrite => canon_windowWrite hs
  | .trapReport => canon_reportTrap hs
  | .gwatch => canon_gwatch hs
  | .twatch => canon_twatch hs
  | .spillwait => canon_spillWait hs
  | .holdfull => canon_execHoldfull hs
  | .cfence => canon_ite (canon_failCore hs) hs
  | .converterFault => canon_execConverterFault hs
  | .heartbeat => canon_execHeartbeat hs
  | .diefail => canon_execDiefail hs
  | .dfence => canon_failDie hs
  | .brokenGridAbort => canon_brokenAbort hs
  | .cacheLineUe => canon_ite (canon_llcUe hs) (canon_cacheUe hs)
  | .hbmWordUe => canon_execHbmWordUe hs
  | .deckleEntryUe => canon_execDeckleEntryUe hs
  | .purseUe => canon_eventMod (canon_ite hs.same (canon_setPair hs))
  | .energyCounterUe => canon_eventCtx (canon_writeEnergy hs)
  | .patrolScrub => canon_execPatrolScrub hs
  | .registerWrite => canon_execRegisterWrite hs
  | .hartInstruction => canon_hartRun hs (fun _ _ _ => canon_budgeted hs (fun _ _ _ => canon_runRv hs))
  | .driverPreemptionRequest => canon_driverRequest hs
  | .bondOperationComplete => canon_execBondOperationComplete hs
  | .seamRetrainComplete => hs.same
  | .coreStateUe => canon_ite (canon_failCore (canon_updDie hs)) hs
  | .siloUnitUe => canon_execSiloUnitUe hs
  | .localStoreUe => canon_localUe hs

/-! Acts. -/

theorem canon_issueAct {i} (hs : Canon s) : NextCanon (issueAct i s) := by
  fun_cases issueAct
  · exact hs
  · exact hs
  · exact hs
  · exact hs
  · exact canon_nextUnit (canon_tryIssue ((canon_serve hs).fst ‹_›)) ‹_›
  · exact canon_exec ((canon_markUnit (canon_tryIssue ((canon_serve hs).fst ‹_›))).same)

theorem canon_serveAct (hs : Canon s) : Canon (serveAct s) := by
  fun_cases serveAct
  exacts [hs.same, (canon_nextChoice hs).fst ‹_›]

theorem canon_seqAct {d cl} (hs : Canon s) : NextCanon (seqAct d cl s) := by
  fun_cases seqAct
  exacts [hs, hs, canon_nextQ hs ‹_›, canon_exec ((canon_markPage hs).same)]

theorem canon_hartAct {d m} (hs : Canon s) : NextCanon (hartAct d m s) := by
  fun_cases hartAct
  exacts [hs, hs, canon_nextHart hs ‹_›, canon_exec hs.same]

theorem canon_eventAct {k a} (hs : Canon s) : NextCanon (eventAct k a s) := by
  fun_cases eventAct
  exacts [canon_exec hs.same, hs]

theorem canon_tickAct {n} (hs : Canon s) : Canon (tickAct n s) := by
  fun_cases tickAct with
  | case1 => exact hs
  | case2 => exact hs.same
  | case3 h t ht u =>
    have hu : Canon u := canon_passCount (canon_spillOut (canon_launchAll ((canon_nextChoice hs).fst ht)))
    clear_value u
    exact hu.same

theorem canon_runAct {a} (hs : Canon s) : NextCanon (runAct a s) := by
  cases a with
  | issue i => exact canon_issueAct hs
  | serve => exact canon_serveAct hs
  | seq d cl => exact canon_seqAct hs
  | hart d m => exact canon_hartAct hs
  | event k a => exact canon_eventAct hs
  | hostWrite a bs => exact hs.withHost (Memory.wf_wrBytes _ _ _ hs.2.1)
  | tick n => exact canon_tickAct hs

theorem canon_step (hs : Canon s) : NextCanon (step s) := by
  fun_cases step
  exacts [hs.same, canon_runAct hs.same]

end

/-- Settles O55: the lemmas of the model's functions, put together along the dispatch of a step. -/
theorem everyStepKeepsMemoryCanonical : Obligations.EveryStepKeepsMemoryCanonical := by
  intro s t h hb hh hf
  have hn : NextCanon (step s) := canon_step ⟨hb, hh, hf⟩
  rwa [h] at hn

end Sys2Proof.Machine
end

section
/-! Frames by parts of the state: a part that is as before stays so through a second step and a fold of steps, and which parts the
module's basic updates touch. -/
namespace Sys2Proof.Machine

variable {s t u : State} {xs ys : List StatePart}

theorem Same.refl (p : StatePart) (s : State) : Same p s s := by cases p <;> simp [Same]

theorem Same.trans {p : StatePart} (h : Same p s t) (k : Same p t u) : Same p s u := by
  cases p with
  | bytes => exact fun a => (k a).trans (h a)
  | stores | teams | pairs => exact fun d n => (k d n).trans (h d n)
  | dies => exact fun d => (k d).trans (h d)
  | power | fabric | circuits | pressed | counters => simp only [Same] at *; simp only [k, h, and_self]
  | _ => exact Eq.trans k h

theorem Kept.refl (s : State) : Kept xs s s := fun p _ => .refl p s

theorem Kept.trans (h : Kept xs s t) (k : Kept xs t u) : Kept xs s u := fun p hp => (h p hp).trans (k p hp)

/-- More parts may change. -/
theorem Kept.mono (h : Kept xs s t) (hxy : xs ⊆ ys) : Kept ys s t := fun p hp => h p fun hx => hp (hxy hx)

theorem kept_foldl {α : Type} {f : State → α → State} {l : List α} (hf : ∀ s a, Kept xs s (f s a)) : Kept xs s (l.foldl f s) :=
  List.foldlRecOn l f (.refl s) fun u hu a _ => hu.trans (hf u a)

theorem kept_setReg {o : Nat} {v : Dword} : Kept [.mreg] s (s.setReg o v) := by
  intro p hp
  cases p with
  | mreg => simp at hp
  | _ => simp [Same, homeByte, State.team?, State.pair, State.die]

theorem kept_signal {v : Nat} : Kept [.msix] s (s.signal v) := by
  intro p hp
  cases p with
  | msix => simp at hp
  | _ => simp [Same, homeByte, State.team?, State.pair, State.die]

/-- A change of a die that leaves its teams and its pairs. -/
theorem kept_setDie {d : Nat} {x : Die} (hteams : x.teams = (s.die d).teams) (hpairs : x.pairs = (s.die d).pairs) :
    Kept [.dies] s (s.setDie d x) := by
  have hteam : ∀ e h, (s.setDie d x).team? e h = s.team? e h := s.team?_updDie d (fun _ => x) hteams
  intro p hp
  cases p with
  | dies => simp at hp
  | pairs =>
    intro e k
    rw [State.pair, State.die_setDie]
    split
    · subst e; rw [State.pair, hpairs]
    · rfl
  | _ => simp [Same, homeByte, hteam]

theorem kept_withCircuits {m : Table Dword} {n : Table Nat} : Kept [.circuits] s { s with circuits := m, circLost := n } := by
  intro p hp
  cases p with
  | circuits => simp at hp
  | _ => simp [Same, homeByte, State.team?, State.pair, State.die]

theorem kept_circuitSet {i : Nat} {v : Dword} : Kept [.circuits] s (circuitSet s i v) := by
  unfold circuitSet
  split
  · exact .refl s
  · exact kept_withCircuits

theorem kept_wrHome {a : Nat} {b : Byte} : Kept [.bytes] s (wrHome s a b) := by
  unfold wrHome
  split
  all_goals
    intro p hp
    cases p with
    | bytes => simp at hp
    | _ => simp [Same, State.team?, State.pair, State.die]

theorem kept_wrHomes {bs : List Byte} {a : Nat} : Kept [.bytes] s (wrHomes s a bs) := by
  induction bs generalizing s a with
  | nil => exact .refl s
  | cons b r ih => exact kept_wrHome.trans ih

theorem kept_logRecord {base size tailReg headReg rec : Nat} :
    Kept [.bytes, .mreg] s (logRecord s base size tailReg headReg rec) := by
  unfold logRecord
  dsimp only
  split
  · exact kept_setReg.mono (by simp)
  · exact (kept_wrHomes.mono (by simp)).trans (kept_setReg.mono (by simp))

/-- An event of the module is bytes of its log, the log's tail and a signal (R460). -/
theorem kept_eventMod {die : Nat} {e : Event} : Kept [.bytes, .mreg, .msix] s (eventMod s die e) :=
  (kept_logRecord.mono (by simp)).trans (kept_signal.mono (by simp))

/-- Every die of t is as it is in s. -/
def SameDies (s t : State) : Prop := t.dies = s.dies

theorem SameDies.trans (h : SameDies s t) (k : SameDies t u) : SameDies s u := Eq.trans k h

theorem SameDies.die (h : SameDies s t) (d : Nat) : t.die d = s.die d := congrArg (tget · d ({} : Die)) h

theorem sameDies_wrHome {a : Nat} {b : Byte} : SameDies s (wrHome s a b) := by
  unfold wrHome
  split <;> rfl

theorem sameDies_wrHomes {bs : List Byte} {a : Nat} : SameDies s (wrHomes s a bs) := by
  induction bs generalizing s a with
  | nil => rfl
  | cons b r ih => exact sameDies_wrHome.trans ih

theorem sameDies_setReg {o : Nat} {v : Dword} : SameDies s (s.setReg o v) := rfl

theorem sameDies_logRecord {base size tailReg headReg rec : Nat} : SameDies s (logRecord s base size tailReg headReg rec) := by
  unfold logRecord
  dsimp only
  split
  · exact sameDies_setReg
  · exact sameDies_wrHomes.trans sameDies_setReg

theorem sameDies_eventMod {die : Nat} {e : Event} : SameDies s (eventMod s die e) := sameDies_logRecord.trans rfl

theorem sameDies_withCircuits {m : Table Dword} {n : Table Nat} : SameDies s { s with circuits := m, circLost := n } := rfl

theorem sameDies_circuitSet {i : Nat} {v : Dword} : SameDies s (circuitSet s i v) := by
  unfold circuitSet
  split
  · rfl
  · exact sameDies_withCircuits

theorem State.reg_setReg (s : State) (o p : Nat) (v : Dword) : (s.setReg o v).reg p = if p = o then v else s.reg p :=
  tget_tset s.mreg o p v 0

end Sys2Proof.Machine
end

section
/-! Power (R23, R24), and the bring-up of a die (R25, R379, R476). -/
namespace Sys2Proof.Machine

variable {s : State} {d : Nat}

theorem powerCycle_afterPower (s : State) (on : Bool) : PowerCycle s (afterPower s on) on := by
  refine ⟨rfl, rfl, rfl, rfl, rfl, rfl, fun a ha => ?_, rfl, rfl, rfl, rfl, rfl, rfl, rfl, rfl, fun d => ⟨rfl, rfl, rfl, rfl⟩⟩
  have hfar : isFar a = false := by simpa [isFar] using ha
  rw [homeByte, hfar]
  rfl

theorem kept_joinCircuits : Kept [.circuits] s (joinCircuits s d) :=
  kept_foldl fun _ _ => (kept_circuitSet.trans kept_circuitSet).trans kept_circuitSet

theorem sameDies_joinCircuits : SameDies s (joinCircuits s d) :=
  List.foldlRecOn _ _ (motive := SameDies s) rfl fun _ ht _ _ =>
    ht.trans ((sameDies_circuitSet.trans sameDies_circuitSet).trans sameDies_circuitSet)

theorem kept_moduleEvent {e : Event} : Kept [.bytes, .mreg, .msix] s (moduleEvent s e) := kept_eventMod

theorem kept_logAbsent : Kept [.bytes, .mreg, .msix, .dies] s (logAbsent s) := by
  refine kept_foldl fun s d => ?_
  dsimp only
  split
  · have hdie : Kept [.dies] s (s.setDie d { s.die d with absentLogged := true }) := kept_setDie rfl rfl
    exact (hdie.mono (by simp)).trans (kept_moduleEvent.mono (by simp))
  · exact .refl s

/-- Of a die's own state the log of absent dies changes its note that the die is logged. -/
theorem die_logAbsent (s : State) (d : Nat) : ∃ b, (logAbsent s).die d = { s.die d with absentLogged := b } := by
  refine List.foldlRecOn _ _ (motive := fun t : State => ∃ b, t.die d = { s.die d with absentLogged := b }) ⟨_, rfl⟩ ?_
  rintro t ⟨b, hb⟩ e -
  dsimp only
  split
  · rw [moduleEvent, sameDies_eventMod.die, State.die_setDie]
    split
    · subst e; exact ⟨true, by rw [hb]⟩
    · exact ⟨b, hb⟩
  · exact ⟨b, hb⟩

/-- What the boot ROM finds in the image that a BOOTCMD names. -/
def bootVerdict (s : State) : Config.ImageVerdict := Config.verifyImage s.fuseDigest (bits s.arg.v.toNat 63 24) s.hbm

/-- A BOOTCMD that starts the bring-up of its die. -/
def BootStarts (s : State) : Prop :=
  s.powered = true ∧ s.arg.die < 16 ∧ (s.die s.arg.die).boot ≠ 1 ∧ (s.die s.arg.die).boot ≠ 3 ∧ s.arg.v.getLsbD 0 = true

theorem execBootcmd_of_starts (h : BootStarts s) : exec .bootcmd s = .next (bootDie s s.arg.die (bits s.arg.v.toNat 63 24)) := by
  obtain ⟨hpow, hd, h1, h3, hgo⟩ := h
  have hno : ¬(s.powered = false ∨ 16 ≤ s.arg.die ∨ (s.die s.arg.die).boot = 1 ∨ (s.die s.arg.die).boot = 3 ∨
      s.arg.v.getLsbD 0 = false) := by simp [hpow, h1, h3, hgo, hd]
  have hexec : exec .bootcmd s = execBootcmd s := rfl
  rw [hexec, execBootcmd, if_neg hno]

/-- The die's version and its count of tries after a BOOTCMD. -/
def BootTried (s t : State) : Prop :=
  (t.die s.arg.die).version = (bootVerdict s).version ∧ (t.die s.arg.die).tries = min 15 ((s.die s.arg.die).tries + 1)

theorem bootDie_of_fails {addr n : Nat} (h : bootFails (Config.verifyImage s.fuseDigest addr s.hbm) s.rollback = some n) :
    ∃ x : Die, bootDie s d addr = logAbsent (s.setDie d x) ∧ x.boot = 2 ∧ x.bootStep = n ∧
      x.version = (Config.verifyImage s.fuseDigest addr s.hbm).version ∧ x.tries = min 15 ((s.die d).tries + 1) ∧
      x.teams = (s.die d).teams ∧ x.pairs = (s.die d).pairs := by
  simp only [bootDie, h]
  exact ⟨_, rfl, rfl, rfl, rfl, rfl, rfl, rfl⟩

theorem bootDie_of_succeeds {addr : Nat} (h : bootFails (Config.verifyImage s.fuseDigest addr s.hbm) s.rollback = none) :
    ∃ x : Die, bootDie s d addr = logAbsent (joinCircuits (s.setDie d x) d) ∧ x.boot = 1 ∧ x.bootStep = 0 ∧
      x.measurement = (Config.verifyImage s.fuseDigest addr s.hbm).measurement ∧ x.cycle = 0 ∧
      x.version = (Config.verifyImage s.fuseDigest addr s.hbm).version ∧ x.tries = min 15 ((s.die d).tries + 1) ∧
      x.teams = (s.die d).teams ∧ x.pairs = (s.die d).pairs := by
  simp only [bootDie, h]
  exact ⟨_, rfl, rfl, rfl, rfl, rfl, rfl, rfl, rfl, rfl⟩

/-- A step of R25 that fails leaves the die REJECTED at that step. -/
theorem bootcmd_rejects {n : Nat} (h : BootStarts s) (hn : bootFails (bootVerdict s) s.rollback = some n) :
    Does .bootcmd s [.bytes, .mreg, .msix, .dies] (fun t =>
      (t.die s.arg.die).boot = 2 ∧ (t.die s.arg.die).bootStep = n ∧ BootTried s t) := by
  obtain ⟨x, hx, hboot, hstep, hver, htries, hteams, hpairs⟩ := bootDie_of_fails (d := s.arg.die) hn
  obtain ⟨b, hb⟩ := die_logAbsent (s.setDie s.arg.die x) s.arg.die
  rw [State.die_setDie_self] at hb
  refine ⟨_, (execBootcmd_of_starts h).trans (congrArg _ hx), ?_, ?_⟩
  · simp only [BootTried, hb]
    exact ⟨hboot, hstep, hver, htries⟩
  · exact Kept.trans ((kept_setDie hteams hpairs).mono (by simp)) kept_logAbsent

/-- Where every step of R25 succeeds the die is RUNNING, at count 0. -/
theorem bootcmd_runs (h : BootStarts s) (hn : bootFails (bootVerdict s) s.rollback = none) :
    Does .bootcmd s [.bytes, .circuits, .mreg, .msix, .dies] (fun t =>
      (t.die s.arg.die).boot = 1 ∧ (t.die s.arg.die).bootStep = 0 ∧
      (t.die s.arg.die).measurement = (bootVerdict s).measurement ∧ (t.die s.arg.die).cycle = 0 ∧ BootTried s t) := by
  obtain ⟨x, hx, hboot, hstep, hmeas, hcycle, hver, htries, hteams, hpairs⟩ := bootDie_of_succeeds (d := s.arg.die) hn
  obtain ⟨b, hb⟩ := die_logAbsent (joinCircuits (s.setDie s.arg.die x) s.arg.die) s.arg.die
  rw [sameDies_joinCircuits.die, State.die_setDie_self] at hb
  refine ⟨_, (execBootcmd_of_starts h).trans (congrArg _ hx), ?_, ?_⟩
  · simp only [BootTried, hb]
    exact ⟨hboot, hstep, hmeas, hcycle, hver, htries⟩
  · exact Kept.trans ((kept_setDie hteams hpairs).mono (by simp))
      (Kept.trans (kept_joinCircuits.mono (by simp)) (kept_logAbsent.mono (by simp)))

end Sys2Proof.Machine
end

section
/-! The attestation report and the rollback counter (R26, R477, R478). -/
namespace Sys2Proof.Machine

variable {s : State}

/-- The sum of 2^d over the numbers d below n where f is false has bit d exactly there. -/
theorem sum_powers (f : Nat → Bool) (n : Nat) :
    let m := (upto n).foldl (fun v d => v + (if f d then 0 else 2 ^ d)) 0
    m < 2 ^ n ∧ ∀ d < n, m.testBit d = !f d := by
  induction n with
  | zero => simp [upto]
  | succ n ih =>
    obtain ⟨hlt, hbit⟩ := ih
    have e : upto (n + 1) = upto n ++ [n] := List.range_succ
    simp only [e, List.foldl_append, List.foldl_cons, List.foldl_nil]
    generalize (upto n).foldl (fun v d => v + (if f d then 0 else 2 ^ d)) 0 = m at hlt hbit ⊢
    cases hf : f n with
    | true =>
      rw [if_pos rfl, Nat.add_zero]
      refine ⟨by omega, fun d hd => ?_⟩
      rcases Nat.lt_succ_iff_lt_or_eq.1 hd with hd | rfl
      · exact hbit d hd
      · rw [Nat.testBit_lt_two_pow hlt, hf]; rfl
    | false =>
      rw [if_neg Bool.false_ne_true, Nat.add_comm]
      refine ⟨by omega, fun d hd => ?_⟩
      rcases Nat.lt_succ_iff_lt_or_eq.1 hd with hd | rfl
      · rw [Nat.testBit_two_pow_add_gt hd, hbit d hd]
      · rw [Nat.testBit_two_pow_add_eq, Nat.testBit_lt_two_pow hlt, hf]

theorem testBit_absentMask {d : Nat} (hd : d < 16) : (absentMask s).testBit d = !s.running d := (sum_powers s.running 16).2 d hd

theorem absentMask_eq_zero_iff : absentMask s = 0 ↔ (upto 16).all s.running = true := by
  have hall : (upto 16).all s.running = true ↔ ∀ d < 16, s.running d = true := by simp [upto]
  rw [hall]
  constructor
  · intro h d hd
    have hb := testBit_absentMask (s := s) hd
    rw [h, Nat.zero_testBit] at hb
    simpa using hb.symm
  · intro h
    refine Nat.eq_of_testBit_eq fun d => ?_
    rw [Nat.zero_testBit]
    by_cases hd : d < 16
    · rw [testBit_absentMask hd, h d hd]; rfl
    · have hlt : absentMask s < 2 ^ 16 := (sum_powers s.running 16).1
      exact Nat.testBit_lt_two_pow (hlt.trans_le (Nat.pow_le_pow_right (by decide) (by omega)))

/-- The report that a command writes (R478). -/
def attestation (s : State) : Config.AttestReport where
  code := "ETV-BZ1"
  key := Config.identityKey s.fuseSeed
  measurements := (upto 16).map (fun d => if s.running d then (s.die d).measurement else 0)
  rollback := s.rollback
  nonce := attestNonce s
  absent := BitVec.ofNat 16 (absentMask s)

theorem execAttestReport_eq (h : (lowestUp s).isSome = true) :
    exec .attestReport s = .next (attestStatus { s with report := some (attestation s) } (if absentMask s = 0 then 0 else 2)) := by
  have hexec : exec .attestReport s = execAttestReport s := rfl
  rw [hexec, execAttestReport, if_neg (by simpa [Option.isSome_iff_ne_none] using h)]
  rfl

/-- Some die that runs has firmware older than a version. -/
def olderRuns (s : State) (v : BitVec 16) : Bool := (upto 16).any (fun d => s.running d && decide ((s.die d).version < v))

theorem olderRuns_eq_true {v : BitVec 16} : olderRuns s v = true ↔ ∃ d < 16, s.running d = true ∧ (s.die d).version < v := by
  simp [olderRuns, upto]

theorem olderRuns_eq_false {v : BitVec 16} : olderRuns s v = false ↔ ∀ d < 16, s.running d = true → v ≤ (s.die d).version := by
  simp [olderRuns, upto]

/-- The version that an ATTEST_RAISE names. -/
def raiseVersion (s : State) : BitVec 16 := BitVec.ofNat 16 (bits s.arg.v.toNat 31 16)

theorem execAttestRaise_eq (h : (lowestUp s).isSome = true) :
    exec .attestRaise s = .next (
      if olderRuns s (raiseVersion s) then attestStatus s 3 else if s.arg.flag then attestStatus s 4
      else attestStatus { s with rollback := if s.rollback < raiseVersion s then raiseVersion s else s.rollback } 0) := by
  have hexec : exec .attestRaise s = execAttestRaise s := rfl
  rw [hexec, execAttestRaise, if_neg (by simpa [Option.isSome_iff_ne_none] using h)]
  change (if olderRuns s (raiseVersion s) then _ else _) = _
  split
  · rfl
  · split <;> rfl

theorem attestRaise_of_older (h : (lowestUp s).isSome = true) (ho : olderRuns s (raiseVersion s) = true) :
    exec .attestRaise s = .next (attestStatus s 3) := by
  rw [execAttestRaise_eq h, if_pos ho]

theorem attestRaise_of_fuseFails (h : (lowestUp s).isSome = true) (ho : olderRuns s (raiseVersion s) = false)
    (hf : s.arg.flag = true) : exec .attestRaise s = .next (attestStatus s 4) := by
  rw [execAttestRaise_eq h, if_neg (by simp [ho]), if_pos hf]

theorem attestRaise_rises (h : (lowestUp s).isSome = true) (ho : olderRuns s (raiseVersion s) = false) (hf : s.arg.flag = false) :
    exec .attestRaise s =
      .next (attestStatus { s with rollback := if s.rollback < raiseVersion s then raiseVersion s else s.rollback } 0) := by
  rw [execAttestRaise_eq h, if_neg (by simp [ho]), if_neg (by simp [hf])]

theorem kept_withPower (s : State) (r : Option Config.AttestReport) (n : BitVec 16) :
    Kept [.power] s { s with report := r, rollback := n } := by
  intro p hp
  cases p with
  | power => simp at hp
  | _ => simp [Same, homeByte, State.team?, State.pair, State.die]

theorem kept_attestStatus {n : Nat} : Kept [.mreg] s (attestStatus s n) := kept_setReg

theorem reg_attestStatus {n : Nat} (o : Nat) : (attestStatus s n).reg o = if o = 0x390028 then BitVec.ofNat 64 n else s.reg o :=
  s.reg_setReg ..

/-- A raise that ends with a status and a value of the counter. -/
theorem attestRaise_ends {n : Nat} {r : BitVec 16} (h : exec .attestRaise s = .next (attestStatus { s with rollback := r } n)) :
    Does .attestRaise s [.mreg, .power] (fun t => t.rollback = r ∧ t.reg 0x390028 = BitVec.ofNat 64 n ∧
      (∀ o, o ≠ 0x390028 → t.reg o = s.reg o) ∧ t.powered = s.powered ∧ t.fuseDigest = s.fuseDigest ∧ t.fuseSeed = s.fuseSeed ∧
      t.report = s.report) := by
  refine ⟨_, h, ⟨rfl, ?_, fun o ho => ?_, rfl, rfl, rfl, rfl⟩, ?_⟩
  · rw [reg_attestStatus, if_pos rfl]
  · rw [reg_attestStatus, if_neg ho]; rfl
  · exact ((kept_withPower s s.report r).mono (by simp)).trans (kept_attestStatus.mono (by simp))

/-- The report and its STATUS: 0 where every die runs, else 2. -/
theorem attestReport_writes (h : (lowestUp s).isSome = true) :
    Does .attestReport s [.mreg, .power] (fun t => t.report = some (attestation s) ∧
      t.reg 0x390028 = (if (upto 16).all s.running then 0 else 2) ∧ (∀ o, o ≠ 0x390028 → t.reg o = s.reg o) ∧
      t.powered = s.powered ∧ t.fuseDigest = s.fuseDigest ∧ t.fuseSeed = s.fuseSeed ∧ t.rollback = s.rollback) := by
  refine ⟨_, execAttestReport_eq h, ⟨rfl, ?_, fun o ho => ?_, rfl, rfl, rfl, rfl⟩, ?_⟩
  · rw [reg_attestStatus, if_pos rfl]
    simp only [absentMask_eq_zero_iff]
    split <;> rfl
  · rw [reg_attestStatus, if_neg ho]; rfl
  · exact ((kept_withPower s _ s.rollback).mono (by simp)).trans (kept_attestStatus.mono (by simp))

theorem measurements_attestation {d : Nat} (hd : d < 16) :
    (attestation s).measurements[d]? = some (if s.running d then (s.die d).measurement else 0) := by
  simp [attestation, upto, hd]

theorem absent_attestation {d : Nat} (hd : d < 16) : (attestation s).absent.getLsbD d = !s.running d := by
  rw [attestation, BitVec.getLsbD_ofNat, testBit_absentMask hd]
  simp [hd]

end Sys2Proof.Machine
end

section
/-! What power, bring-up and attestation do, put together; and what reset leaves. -/
namespace Sys2Proof.Machine

/-- Settles O37: power-up and power-down by what outlives the power, bring-up by which step of R25 fails, the attestation commands by
their answers. A raise to a version below the counter answers 0 and leaves the counter, the model's choice (log 6). -/
theorem powerAndBootEvents : Obligations.PowerAndBootEvents := by
  refine ⟨fun s h => ⟨_, ?_, powerCycle_afterPower s true⟩, fun s h => ⟨_, ?_, powerCycle_afterPower s false⟩, ?_, fun s h => ?_,
    fun s h => ?_⟩
  · exact if_neg (by simp [h])
  · exact if_pos h
  · intro s d x hpow hd h1 h3 hgo v tried fails
    have hs : BootStarts s := ⟨hpow, hd, h1, h3, hgo⟩
    have rejects : ∀ n, bootFails v s.rollback = some n → fails n := fun n hn => bootcmd_rejects hs hn
    refine ⟨fun hk => rejects 1 ?_, fun hk hg => rejects 2 ?_, fun hk hg hv => rejects 3 ?_, fun hk hg hv hm => rejects 4 ?_,
      fun hk hg hv hm hst => rejects 5 ?_, fun hk hg hv hm hst => bootcmd_runs hs ?_⟩
    · simp [bootFails, hk]
    · simp [bootFails, hk, hg]
    · simp [bootFails, hk, hg, hv]
    · simp [bootFails, hk, hg, BitVec.not_lt.2 hv, hm]
    · simp [bootFails, hk, hg, BitVec.not_lt.2 hv, hm, hst]
    · show bootFails v s.rollback = none
      simp [bootFails, hk, hg, BitVec.not_lt.2 hv, hm, hst]
  · obtain ⟨t, ht, ⟨hrep, hrest⟩, hkept⟩ := attestReport_writes h
    exact ⟨t, ht, ⟨⟨_, hrep, rfl, rfl, rfl, rfl, fun d => measurements_attestation, fun d => absent_attestation⟩, hrest⟩, hkept⟩
  · exact ⟨fun ho => attestRaise_ends (attestRaise_of_older h (olderRuns_eq_true.2 ho)),
      fun ho hf => attestRaise_ends (attestRaise_of_fuseFails h (olderRuns_eq_false.2 ho) hf),
      fun ho hf => attestRaise_ends (attestRaise_rises h (olderRuns_eq_false.2 ho) hf)⟩

theorem die_reset (d : Nat) : State.reset.die d = {} := rfl

/-- Settles O53: every field of the state after reset is its initial value. -/
theorem resetLeavesTheModule : Obligations.ResetLeavesTheModule := by
  refine ⟨rfl, rfl, rfl, rfl, rfl, rfl, rfl, rfl, rfl, rfl, rfl, fun o => rfl, rfl, fun d => ?_⟩
  rw [State.running, die_reset]
  exact ⟨rfl, rfl, rfl, rfl, rfl, rfl, rfl⟩

end Sys2Proof.Machine
end

section
/-! The five checks of R67 on one access. -/
namespace Sys2Proof.Machine

variable {o : ObjEntry} {a : Access}

/-- Without an immutable object and without a choice of rights, check 2 asks that no right needed is missing. -/
theorem rightsOk_eq (hi : o.imm = false) (he : a.either = false) :
    rightsOk a o.imm = decide (a.c.rights.toNat &&& a.need = a.need) := by
  simp [rightsOk, hi, he]

/-- The access stays inside the capability's range and, where the entry is valid, inside the object. -/
def Access.inside (o : ObjEntry) (a : Access) (off : Nat) : Prop :=
  off + a.n ≤ a.c.len.toNat ∧ (o.valid = true → a.c.base.toNat + off + a.n ≤ o.size)

open Classical in
theorem capCheck_eq (hi : o.imm = false) (he : a.either = false) (off : Nat) :
    capCheck o a off = if a.c.tag = false then some 1 else if a.c.rights.toNat &&& a.need ≠ a.need then some 2
      else if ¬a.inside o off then some 3 else if (a.c.base.toNat + off) % a.n ≠ 0 then some 4
      else if ¬(o.valid = true ∧ a.c.gen.toNat = o.gen) then some 5 else none := by
  have hrange : (a.c.len.toNat < off + a.n ∨ (o.valid ∧ o.size < a.c.base.toNat + off + a.n)) ↔ ¬a.inside o off := by
    cases hv : o.valid <;> simp [Access.inside, hv]; omega
  have hentry : (o.valid = false ∨ ¬a.c.gen.toNat = o.gen) ↔ ¬(o.valid = true ∧ a.c.gen.toNat = o.gen) := by
    cases o.valid <;> simp
  unfold capCheck
  simp only [rightsOk_eq hi he, hrange, hentry, Bool.not_eq_true', decide_eq_false_iff_not, ne_eq]

/-- Settles O22: each check in turn. -/
theorem capabilityChecksInOrder : Obligations.CapabilityChecksInOrder := by
  intro o a off hi he _ ok1 ok2 ok3 ok4 ok5
  rw [capCheck_eq hi he off]
  refine ⟨fun h1 => if_pos (by simpa [ok1] using h1), fun h1 h2 => ?_, fun h1 h2 h3 => ?_, fun h1 h2 h3 h4 => ?_,
    fun h1 h2 h3 h4 h5 => ?_, fun h1 h2 h3 h4 h5 => ?_⟩
  all_goals rw [if_neg (by simpa using h1)]
  · exact if_pos h2
  all_goals rw [if_neg (not_not.2 h2)]
  · exact if_pos h3
  all_goals rw [if_neg (show ¬¬a.inside o off from not_not.2 h3)]
  · exact if_pos h4
  all_goals rw [if_neg (not_not.2 h4)]
  · exact if_pos h5
  · exact if_neg (not_not.2 h5)

end Sys2Proof.Machine
end

section
/-! A frame list whose next entry stands in the context's own descriptor. -/
namespace Sys2Proof.Machine

/-- Context 0 has its frame list for stack 0 at 0x1010, and the list's ring stands at byte 64: the eight bytes of the entry that is
written next cover the low bits of FPBASE in the descriptor of R300, at bytes 70 and 71. -/
def listInDescriptor : State :=
  { State.reset with
    hbm := wrNat (wrNat [] 0 128 (at_ 0x1010 564 40)) 0x1010 64 (at_ 64 88 40 + at_ 1 83 5)
    arg := { State.reset.arg with flag := false, mu := { sel := 0x4000000000000000, idx := 0, new := 0 } } }

theorem listInDescriptor_ring :
    let x := readList listInDescriptor 0 0
    x.full = false ∧ x.rbase + 8 * (x.tail % 2 ^ x.log2n) = 64 ∧ listAddr listInDescriptor 0 0 + 20 = 0x1024 ∧ x.tail = 0 := by
  decide +kernel

/-- The list's new TAIL goes to where the written descriptor then has the list, 16 bytes lower. -/
theorem tail_not_raised : ∀ t, exec .muFrameAppend listInDescriptor = .next t → rdNat t.hbm 0x1024 4 = 0 := by
  intro t ht
  have hrun : (match exec .muFrameAppend listInDescriptor with | .next u => rdNat u.hbm 0x1024 4 | _ => 0) = 0 := by decide +kernel
  rwa [ht] at hrun

/-- Refutes O46: the clause on a frame appended to a list does not keep the ring's next entry out of the context's descriptor. There
the entry moves FPBASE before TAIL is written, and the list's own TAIL stays as it was. -/
theorem not_managementEvents : ¬ Obligations.ManagementEvents := by
  intro h
  obtain ⟨-, -, -, -, -, hframe, -⟩ := h
  obtain ⟨hfull, hentry, hword, htail⟩ := listInDescriptor_ring
  obtain ⟨-, hroom⟩ := hframe listInDescriptor rfl rfl rfl
  obtain ⟨t, ht, ⟨-, -, hraised, -⟩, -⟩ := hroom hfull (by decide +kernel) (by decide +kernel) (by decide +kernel)
  have hctx : muCtx listInDescriptor.arg.mu = 0 := by decide +kernel
  have hstack : bits listInDescriptor.arg.mu.sel.toNat 23 20 = 0 := by decide +kernel
  rw [hctx, hstack, hword, htail, tail_not_raised t ht] at hraised
  exact absurd hraised (by decide)

end Sys2Proof.Machine
end

section
/-! Two ownership operations of one id, on dies whose counts differ. -/
namespace Sys2Proof.Machine

/-- Its status waits: what it installs goes to the hold list of context 0, for a party of no core, and the list has no room. -/
def firstOfTwo : OwnOp := { id := 7, result := some 0, install := some (teamParty 0 1, 0, 0, 256), reg := 1 }

/-- Die 0 is at count 1 and die 1 at count 5. -/
def sharedId : State :=
  { State.reset with
    dies := [(0, probeDie {}), (1, { cycle := 5, boot := 1 })]
    ownOps := [firstOfTwo, { firstOfTwo with die := 1 }]
    arg := { State.reset.arg with id := 7 } }

theorem sharedId_calm : Calm sharedId 0 0 (probeTeam 1) :=
  ⟨⟨rfl, rfl, rfl⟩, rfl, List.cons_ne_nil _ _, by decide, rfl, by decide +kernel, by decide, by decide⟩

/-- The wait of each operation begins at the count of its own die. -/
theorem sharedId_since : ∀ t, exec .deckleStatusWrite sharedId = .next t → t.ownOps.map (·.holdSince) = [some 1, some 5] := by
  intro t ht
  have hrun : (match exec .deckleStatusWrite sharedId with | .next u => u.ownOps.map (·.holdSince) | _ => []) = [some 1, some 5] := by
    decide +kernel
  rwa [ht] at hrun

/-- Refutes O41: where a hold list is full, the wait of an operation is to begin at the count of the die of the operation named, for every
operation of its id; nothing makes ids unique, and each begins at the count of its own die. -/
theorem not_ownershipAndPageEvents : ¬ Obligations.OwnershipAndPageEvents := by
  rintro ⟨hstatus, -⟩
  obtain ⟨-, hinstall⟩ := hstatus sharedId firstOfTwo 0 (probeTeam 1) (probeGroup 1) (by decide +kernel) rfl (by decide) rfl sharedId_calm rfl
  obtain ⟨-, hwait⟩ := hinstall _ _ _ _ rfl
  obtain ⟨t, ht, hown, -⟩ := hwait (by decide +kernel) rfl
  have hsince := sharedId_since t ht
  rw [hown] at hsince
  exact absurd hsince (by decide +kernel)

end Sys2Proof.Machine
end

section
/-! Page lists whose place in memory changes while an access is made. -/
namespace Sys2Proof.Machine

/-- A capability with R to the two pages of object 0. -/
def twoPageCap : Cap := { oid := 0, rights := 1, base := 0, len := 0x20000, gen := 1, tag := true }

/-- Lanes 0 and 1 of a group name bytes 0 and 65536 of object 0, one in each of its pages, through v0 and c1. -/
def twoPageGroup (live : Mask) : Group :=
  { probeGroup 1 with live := live, s0 := some { mask := live }, width := 32, caps := [(1, twoPageCap)], vregs := [(1, 0x10000)] }

/-- The group runs on die 0 with those lanes over an immutable object of two pages. The directory begins at `dir`, the object's entry is
its first, with its page list at `list`; page `p` of the object is RESIDENT (R69, R70). -/
def twoPages (live : Mask) (dir list p : Nat) : State :=
  { probeUnit State.reset 0 with
    hbm := wrNat (wrNat (wrNat [] 0 128 (at_ dir 984 40 + at_ 1 956 28 + at_ 1 424 1))
      dir 32 (at_ list 160 40 + at_ 0x20000 120 40 + at_ 1 100 12 + at_ 1 96 4 + at_ 1 95 1)) (list + 8 * p) 8 (at_ 1 18 2)
    dies := [(0, { probeDie {} with teams := [(0, { probeTeam 1 with groups := [(0, twoPageGroup live)] })] })]
    cur := some { die := 0, handle := 0, grp := 0, slot := 0 } }

/-- What the home holds at `b` after an instruction that completes. -/
def byteAfter (i : Instr) (s : State) (b : Nat) : Byte :=
  match exec i s with
  | .next t => homeByte t b
  | _ => 0

def dirtyAt (s : State) (b : Nat) : Prop := ∃ l ∈ s.lines, l.line = b / 128 ∧ mbit l.dirty (b % 128) = true

/-- A byte that no exception names and no line has dirty must stay as it was. -/
theorem not_homesKept {i : Instr} {s t : State} {x : Nat → Prop} {b : Nat} (ht : exec i s = .next t) (hx : ¬x b) (hl : ¬dirtyAt s b)
    (hb : byteAfter i s b ≠ homeByte s b) : ¬HomesKept s t x := by
  intro hk
  rw [byteAfter, ht] at hb
  obtain he | ⟨l, hm, hline, hdirty, -⟩ := hk b hx
  · exact hb he
  · exact hl ⟨l, hm, hline, hdirty⟩

/-- None of the eight bytes from `b` is `a`. -/
def clearOf (a b : Nat) : Bool := decide (a < b ∨ b + 8 ≤ a)

theorem ne_of_clearOf {a b k : Nat} (h : clearOf a b = true) (hk : k < 8) : a ≠ b + k := by
  have := of_decide_eq_true h
  omega

theorem not_chargedByte {s : State} {c : Ctx} {a : Nat} (h : clearOf a (counterAddr s c) = true) : ¬chargedByte s c a := by
  rintro ⟨k, hk, rfl⟩
  exact ne_of_clearOf h hk rfl

theorem not_entryByte {s : State} {ctx : Nat} {a : Access} {b : Nat}
    (h : a.offs.all (fun p => clearOf b (pageAddr (readObj s ctx a.c.oid.toNat) (a.objOff p.2 / 65536))) = true) :
    ¬entryByte s ctx a b := by
  rintro ⟨p, hp, k, hk, rfl⟩
  exact ne_of_clearOf (List.all_eq_true.1 h p hp) hk rfl

/-- The page list begins at byte 19 of the object's own directory entry: bits [17:16] of its first page entry are bits [9:8] of PLIST. -/
def listInEntry : State := twoPages 3 0x3ED 0x400 1

/-- PREF of lanes 0 and 1, of hint level 2: the pages' ACC bits are its only trace. -/
def prefBoth : PrefU := { h := {}, c := 1, o40 := false, a := .v 0, lvl := 2 }

theorem clean_listInEntry (b : Nat) : ¬dirtyAt listInEntry b := by
  rintro ⟨l, hm, -⟩
  exact absurd hm List.not_mem_nil

theorem prefBoth_performs : ∃ c, issuerCtx listInEntry {} = some c ∧ (c.alone &&
    mayPerform listInEntry c {} false (refsOf [offRefs (.v 0) false, cRead 1]) 1 &&
    clearOf 0x60A (counterAddr listInEntry c) &&
    (accessOf c 1 rR 0 0 false (.v 0)).offs.all (fun p => clearOf 0x60A (pageAddr
      (readObj (payIssue listInEntry c 1) c.team.ctx (accessOf c 1 rR 0 0 false (.v 0)).c.oid.toNat)
      ((accessOf c 1 rR 0 0 false (.v 0)).objOff p.2 / 65536)))) = true :=
  (Option.any_eq_true _ _).1 (by decide +kernel)

/-- The first lane's ACC is bit 9 of PLIST, so the second lane's goes to byte 0x60A and not to its entry at 0x408. -/
theorem prefBoth_writes : byteAfter (.pref prefBoth) listInEntry 0x60A ≠ homeByte listInEntry 0x60A := by decide +kernel

/-- Refutes O20: PREF reads the object again for each lane, and nothing keeps the page list out of the object's own directory entry. The
first lane's ACC moves the list of `listInEntry`, so the second lane's changes a byte of no page entry. -/
theorem not_memoryControlResults : ¬ Obligations.MemoryControlResults := by
  intro h
  obtain ⟨c, hc, hf⟩ := prefBoth_performs
  simp only [Bool.and_eq_true] at hf
  obtain ⟨⟨⟨ha, hm⟩, hcharge⟩, hentry⟩ := hf
  obtain ⟨-, hpref, -⟩ := h listInEntry c ha
  obtain ⟨t, g', ⟨ht, -⟩, -, -, hk, -⟩ := hpref prefBoth ⟨hc, hm⟩
  exact not_homesKept ht (not_or.2 ⟨not_chargedByte hcharge, not_entryByte hentry⟩) (clean_listInEntry _) prefBoth_writes hk

end Sys2Proof.Machine
end

section
/-! The lines of the caches: which line a level finds, which bytes it has known or dirty, and what a write, a fill and a write-back leave
of them (R75, R80). -/
namespace Sys2Proof.Machine

/-! Tables and masks written over a list of places. -/

theorem tget_tsets (L : List Nat) (t : Table Byte) (f : Nat → Byte) (j : Nat) :
    tget (L.foldl (fun d i => tset d i (f i) 0) t) j 0 = if j ∈ L then f j else tget t j 0 := by
  induction L generalizing t with
  | nil => simp
  | cons i L ih =>
    rw [List.foldl_cons, ih, tget_tset]
    by_cases hj : j ∈ L
    · simp [hj]
    · by_cases hi : j = i
      · subst hi; simp [hj]
      · simp [hj, hi]

theorem mbit_or (m k : Mask) (i : Nat) : mbit (m ||| k) i = (mbit m i || mbit k i) := BitVec.getLsbD_or ..

@[simp] theorem mbit_zero (i : Nat) : mbit 0#128 i = false := BitVec.getLsbD_zero

theorem mbit_allOnes128 {i : Nat} (hi : i < 128) : mbit allOnes128 i = true :=
  (BitVec.getLsbD_allOnes ..).trans (decide_eq_true hi)

/-- The bits of a 32-bit word set. -/
def setWord (m : Mask) (w : Nat) : Mask := (upto 4).foldl (fun m i => mset m (4 * w + i) true) m

theorem mbit_setWord (m : Mask) {w : Nat} (hw : w < 32) (j : Nat) : mbit (setWord m w) j = (decide (j / 4 = w) || mbit m j) := by
  have hset : setWord m w = ((upto 4).map (4 * w + ·)).foldl (fun m i => mset m i true) m := by rw [setWord, List.foldl_map]
  rw [hset, mbit_msets _ _ (fun _ => true)]
  · have hmem : j ∈ (upto 4).map (4 * w + ·) ↔ j / 4 = w := by
      simp only [upto, List.mem_map, List.mem_range]
      exact ⟨by rintro ⟨i, hi, rfl⟩; omega, fun h => ⟨j % 4, by omega, by omega⟩⟩
    by_cases h : j / 4 = w <;> simp [hmem, h]
  · simp only [upto, List.mem_map, List.mem_range]
    rintro _ ⟨i, hi, rfl⟩
    omega

theorem mbit_setWords (L : List Nat) (hL : ∀ w ∈ L, w < 32) (m : Mask) (j : Nat) :
    mbit (L.foldl setWord m) j = (decide (j / 4 ∈ L) || mbit m j) := by
  induction L generalizing m with
  | nil => simp
  | cons w L ih =>
    rw [List.foldl_cons, ih (fun v hv => hL v (by simp [hv])), mbit_setWord m (hL w (by simp))]
    by_cases h : j / 4 = w <;> simp [h]

/-- A word is whole where all of its bytes are. -/
theorem mbit_of_wholeWords {m : Mask} {j : Nat} (h : mbit (wholeWords m) j = true) : mbit m j = true := by
  have hwhole : wholeWords m = ((upto 32).filter (fun w => (upto 4).all (fun i => mbit m (4 * w + i)))).foldl setWord 0 := by
    rw [List.foldl_filter]; rfl
  rw [hwhole, mbit_setWords] at h
  · rw [show mbit 0 j = false from mbit_zero j] at h
    simp only [Bool.or_false, decide_eq_true_eq, List.mem_filter, List.all_eq_true, upto, List.mem_range] at h
    have := h.2 (j % 4) (by omega)
    rwa [Nat.div_add_mod] at this
  · simp only [List.mem_filter, upto, List.mem_range]
    exact fun w h => h.1

/-! Finding a line. -/

variable {s t : State} {c : CLine} {l2 : Bool} {u n : Nat}

/-- A line stands in a level of a core or of an L2, under its number. -/
abbrev CLine.At (c : CLine) (l2 : Bool) (u n : Nat) : Prop := c.l2 = l2 ∧ c.unit = u ∧ c.line = n

theorem lineIs_iff : lineIs l2 u n c = true ↔ c.At l2 u n := by
  simp [lineIs, CLine.At, and_assoc]

theorem findLine_some (h : findLine s l2 u n = some c) : c ∈ s.lines ∧ c.At l2 u n :=
  ⟨List.mem_of_find?_eq_some h, lineIs_iff.1 (List.find?_some h)⟩

theorem findLine_none : findLine s l2 u n = none ↔ ∀ c ∈ s.lines, ¬c.At l2 u n := by
  simp [findLine, List.find?_eq_none, lineIs_iff]

theorem findLine_dropLine (k : Bool) (v m : Nat) :
    findLine (dropLine s k v m) l2 u n = if k = l2 ∧ v = u ∧ m = n then none else findLine s l2 u n := by
  split
  next h =>
    obtain ⟨rfl, rfl, rfl⟩ := h
    rw [findLine_none]
    simp only [dropLine, List.mem_filter, Bool.not_eq_true', ← lineIs_iff]
    rintro c ⟨-, hc⟩ hk
    rw [hk] at hc
    cases hc
  next h =>
    simp only [findLine, dropLine, List.find?_filter]
    congr 1
    funext c
    by_cases hc : lineIs l2 u n c = true
    · obtain ⟨h1, h2, h3⟩ := lineIs_iff.1 hc
      have : lineIs k v m c = false := by
        rw [← Bool.not_eq_true, lineIs_iff]
        rintro ⟨k1, k2, k3⟩
        exact h ⟨k1.symm.trans h1, k2.symm.trans h2, k3.symm.trans h3⟩
      simp [this, hc]
    · simp [hc]

/-- A line with nothing known and nothing dirty is not kept. -/
abbrev CLine.blank (c : CLine) : Prop := c.known = 0 ∧ c.dirty = 0 ∧ c.tagDirty = 0

theorem findLine_keepLine (c : CLine) : findLine (keepLine s c) l2 u n =
    if c.At l2 u n then (if c.blank then none else some c) else findLine s l2 u n := by
  have hkeep : findLine (keepLine s c) l2 u n = if c.blank then findLine (dropLine s c.l2 c.unit c.line) l2 u n
      else if c.At l2 u n then some c else findLine (dropLine s c.l2 c.unit c.line) l2 u n := by
    unfold keepLine CLine.blank
    by_cases hb : c.known = 0 ∧ c.dirty = 0 ∧ c.tagDirty = 0
    · simp [hb]
    · simp only [hb, if_false, findLine, List.find?_cons, ← lineIs_iff]
      by_cases hl : lineIs l2 u n c = true <;> simp [hl]
  rw [hkeep, findLine_dropLine]
  by_cases hc : c.At l2 u n
  · simp only [if_pos hc]
  · simp only [if_neg hc, ite_self]

end Sys2Proof.Machine
end

section
/-! What a core reads of its caches (R80), and what a store and an acquire change of it (R82). -/
namespace Sys2Proof.Machine

variable {s t : State}

/-- The line that a level has there, or the blank one. -/
def lineAt (s : State) (l2 : Bool) (u place : Nat) : CLine := (findLine s l2 u (place / 128)).getD (newLine l2 u place)

theorem lineAt_known_ne {s : State} {l2 : Bool} {u place i : Nat} (hi : i < 128) (h : mbit (lineAt s l2 u place).known i = false) :
    (lineAt s l2 u place).known ≠ allOnes128 := by
  intro e
  rw [e, mbit_allOnes128 hi] at h
  cases h

/-- A fill leaves the dirty bytes and takes the others from its source. -/
theorem tget_fillFrom (c : CLine) (src : Nat → FillByte) (tag : Nat → Bool) {i : Nat} (hi : i < 128) :
    tget (fillFrom c src tag).data i 0 = if mbit c.dirty i then tget c.data i 0 else (src i).b := by
  unfold fillFrom
  rw [tget_tsets _ _ (fun i => (src i).b)]
  by_cases hd : mbit c.dirty i = true <;> simp [upto, hi, hd]

/-- What the L2 of a core gives for a byte: its own where it has the byte dirty or the whole line known, and the home's otherwise. -/
theorem tget_l2Line (s : State) (core place : Nat) {i : Nat} (hi : i < 128) :
    tget (l2Line s core place).1.data i 0 =
      if (lineAt s true (l2Of core) place).known = allOnes128 ∨ mbit (lineAt s true (l2Of core) place).dirty i = true
      then tget (lineAt s true (l2Of core) place).data i 0 else homeByte s (128 * (place / 128) + i) := by
  unfold l2Line
  simp only [← lineAt.eq_1]
  by_cases hk : (lineAt s true (l2Of core) place).known = allOnes128
  · simp [hk]
  · simp only [hk, if_false, false_or]
    rw [tget_fillFrom _ _ _ hi]
    rfl

/-- A byte that the L1 does not know is its own where it is dirty, and what the L2 gives otherwise. -/
theorem tget_l1Line (s : State) (core place : Nat) {i : Nat} (hi : i < 128) (hk : mbit (lineAt s false core place).known i = false) :
    tget (l1Line s core place).1.data i 0 = if mbit (lineAt s false core place).dirty i then tget (lineAt s false core place).data i 0
      else tget (l2Line s core place).1.data i 0 := by
  unfold l1Line
  simp only [← lineAt.eq_1, lineAt_known_ne hi hk, if_false]
  rw [tget_fillFrom _ _ _ hi]

/-- R80: the L1's byte where it knows it or has it dirty; then the L2's where it has it dirty or the whole line known; then the home's. -/
theorem seesByte_eq (s : State) (core a : Nat) : seesByte s core a =
    let c := lineAt s false core a
    let d := lineAt s true (l2Of core) a
    if mbit c.known (a % 128) = true ∨ mbit c.dirty (a % 128) = true then tget c.data (a % 128) 0
    else if d.known = allOnes128 ∨ mbit d.dirty (a % 128) = true then tget d.data (a % 128) 0 else homeByte s a := by
  have hi : a % 128 < 128 := Nat.mod_lt _ (by decide)
  have hone : upto 1 = [0] := rfl
  unfold seesByte loadCached
  simp only [← lineAt.eq_1, hone, List.all_cons, List.all_nil, Bool.and_true, Nat.add_zero, List.map_cons, List.headD_cons]
  by_cases hk : mbit (lineAt s false core a).known (a % 128) = true
  · simp [hk]
  · rw [Bool.not_eq_true] at hk
    simp only [hk, Bool.false_eq_true, if_false, false_or, tget_l1Line s core a hi hk, tget_l2Line s core a hi, Nat.div_add_mod]

/-- A byte that a core sees hangs on its own two lines and on the home. -/
theorem seesByte_congr {k a : Nat} (h1 : findLine t false k (a / 128) = findLine s false k (a / 128))
    (h2 : findLine t true (l2Of k) (a / 128) = findLine s true (l2Of k) (a / 128)) (hh : homeByte t a = homeByte s a) :
    seesByte t k a = seesByte s k a := by
  have e1 : lineAt t false k a = lineAt s false k a := by rw [lineAt, h1, lineAt]
  have e2 : lineAt t true (l2Of k) a = lineAt s true (l2Of k) a := by rw [lineAt, h2, lineAt]
  rw [seesByte_eq, seesByte_eq, e1, e2, hh]

theorem findLine_keepLine_ne {c : CLine} {l2 : Bool} {u n : Nat} (h : ¬c.At l2 u n) :
    findLine (keepLine s c) l2 u n = findLine s l2 u n := by
  rw [findLine_keepLine, if_neg h]

/-! Stores. -/

/-- The bytes that a write of `n` bytes from `o` names. -/
theorem mem_places {o n j : Nat} : j ∈ (upto n).map (o + ·) ↔ o ≤ j ∧ j < o + n := by
  simp only [upto, List.mem_map, List.mem_range]
  exact ⟨by rintro ⟨i, hi, rfl⟩; omega, fun h => ⟨j - o, by omega, by omega⟩⟩

theorem tget_lineWrite (c : CLine) (o : Nat) (bs : List Byte) (tag : Bool) (j : Nat) :
    tget (lineWrite c o bs tag).data j 0 = if o ≤ j ∧ j < o + bs.length then bs.getD (j - o) 0 else tget c.data j 0 := by
  have hdata : (lineWrite c o bs tag).data =
      ((upto bs.length).map (o + ·)).foldl (fun d j => tset d j (bs.getD (j - o) 0) 0) c.data := by
    simp only [lineWrite, List.foldl_map, Nat.add_sub_cancel_left]
  rw [hdata, tget_tsets _ _ (fun j => bs.getD (j - o) 0)]
  simp only [mem_places]

theorem dirty_lineWrite (c : CLine) {o : Nat} {bs : List Byte} (ho : o + bs.length ≤ 128) (tag : Bool) (j : Nat) :
    mbit (lineWrite c o bs tag).dirty j = (decide (o ≤ j ∧ j < o + bs.length) || mbit c.dirty j) := by
  have hdirty : (lineWrite c o bs tag).dirty = ((upto bs.length).map (o + ·)).foldl (fun m j => mset m j true) c.dirty := by
    simp only [lineWrite, List.foldl_map]
  rw [hdirty, mbit_msets _ _ (fun _ => true) (fun l hl => by have := (mem_places.1 hl).2; omega)]
  simp only [mem_places]
  by_cases hj : o ≤ j ∧ j < o + bs.length <;> simp [hj]

/-- The words that a write covers are known after it; no other byte becomes so. -/
theorem known_lineWrite (c : CLine) (o : Nat) (bs : List Byte) (tag : Bool) {j : Nat} (hj : ¬(o ≤ j ∧ j < o + bs.length)) :
    mbit (lineWrite c o bs tag).known j = mbit c.known j := by
  have hknown : (lineWrite c o bs tag).known =
      ((upto 32).filter (fun w => decide (o ≤ 4 * w ∧ 4 * w + 4 ≤ o + bs.length))).foldl setWord c.known := rfl
  rw [hknown, mbit_setWords _ (by simp [upto]; omega)]
  simp only [List.mem_filter, decide_eq_true_eq, Bool.or_eq_right_iff_imp]
  rintro ⟨-, h⟩
  omega

theorem lineWrite_at {c : CLine} {l2 : Bool} {u n : Nat} (h : c.At l2 u n) (o : Nat) (bs : List Byte) (tag : Bool) :
    (lineWrite c o bs tag).At l2 u n := h

theorem lineAt_at (s : State) (l2 : Bool) (u place : Nat) : (lineAt s l2 u place).At l2 u (place / 128) := by
  unfold lineAt
  cases h : findLine s l2 u (place / 128) with
  | none => exact ⟨rfl, rfl, rfl⟩
  | some c => exact (findLine_some h).2

/-- A line that its level holds or has room for goes in, and no line goes out for it. -/
theorem putLine_eq_keepLine {c : CLine} (h : (findLine s c.l2 c.unit c.line).isSome = true ∨
    (s.lines.filter (fun x => decide (x.l2 = c.l2) && decide (x.unit = c.unit))).length < lineCap c.l2) : putLine s c = keepLine s c := by
  have hout : ∀ can, outgoing s c can = none := by
    intro can
    unfold outgoing
    obtain h | h := h
    · rw [if_pos h]
    · split
      · rfl
      · exact if_pos h
  unfold putLine putL2
  rw [hout, hout]
  exact ite_self _

theorem room_l1 {core : Nat} (h : cacheRoom s core = true) :
    (s.lines.filter (fun x => decide (x.l2 = false) && decide (x.unit = core))).length < lineCap false := by
  simp only [cacheRoom, Bool.and_eq_true, decide_eq_true_eq, beq_eq_decide] at h
  omega

theorem storeCached_eq {core p : Nat} (bs : List Byte) (tag : Bool)
    (h : (findLine s false core (p / 128)).isSome = true ∨ cacheRoom s core = true) :
    storeCached s core p bs tag = keepLine s (lineWrite (lineAt s false core p) (p % 128) bs tag) := by
  obtain ⟨h1, h2, h3⟩ := lineWrite_at (lineAt_at s false core p) (p % 128) bs tag
  show putLine s (lineWrite (lineAt s false core p) (p % 128) bs tag) = _
  apply putLine_eq_keepLine
  rw [h1, h2, h3]
  exact h.imp_right room_l1

/-- The line found after one was kept: that line, or a new one where nothing in it is known or dirty. -/
theorem lineAt_keepLine {c : CLine} {l2 : Bool} {u place : Nat} (h : c.At l2 u (place / 128)) :
    lineAt (keepLine s c) l2 u place = c ∨ c.blank ∧ lineAt (keepLine s c) l2 u place = newLine l2 u place := by
  unfold lineAt
  rw [findLine_keepLine, if_pos h]
  by_cases hb : c.blank
  · exact .inr ⟨hb, by rw [if_pos hb]; rfl⟩
  · exact .inl (by rw [if_neg hb]; rfl)

@[simp] theorem homeByte_keepLine (c : CLine) (a : Nat) : homeByte (keepLine s c) a = homeByte s a := by
  unfold keepLine
  split <;> rfl

/-- A byte of a line that was kept in an L1: the line's own where it knows it or has it dirty, and what the levels beyond give otherwise. -/
theorem seesByte_keepLine {c : CLine} {core a : Nat} (h : c.At false core (a / 128)) : seesByte (keepLine s c) core a =
    if mbit c.known (a % 128) = true ∨ mbit c.dirty (a % 128) = true then tget c.data (a % 128) 0
    else tget (l2Line s core a).1.data (a % 128) 0 := by
  have hd : lineAt (keepLine s c) true (l2Of core) a = lineAt s true (l2Of core) a := by
    unfold lineAt
    rw [findLine_keepLine_ne (by rintro ⟨h1, -⟩; rw [h.1] at h1; cases h1)]
  rw [seesByte_eq, hd, homeByte_keepLine]
  rw [tget_l2Line s core a (Nat.mod_lt _ (by decide)), Nat.div_add_mod]
  obtain hc | ⟨⟨hk, hdirty, -⟩, hc⟩ := lineAt_keepLine h (s := s)
  · rw [hc]
  · rw [hc, hk, hdirty]
    simp [newLine]

theorem seesByte_eq_l2 (s : State) (core a : Nat) : seesByte s core a =
    if mbit (lineAt s false core a).known (a % 128) = true ∨ mbit (lineAt s false core a).dirty (a % 128) = true
    then tget (lineAt s false core a).data (a % 128) 0 else tget (l2Line s core a).1.data (a % 128) 0 := by
  rw [seesByte_eq, tget_l2Line s core a (Nat.mod_lt _ (by decide)), Nat.div_add_mod]

theorem storeCached_seesByte {core p : Nat} {bs : List Byte} (tag : Bool) (hp : p % 128 + bs.length ≤ 128)
    (h : (findLine s false core (p / 128)).isSome = true ∨ cacheRoom s core = true) (k a : Nat) :
    seesByte (storeCached s core p bs tag) k a = (if k = core ∧ p ≤ a then bs[a - p]? else none).getD (seesByte s k a) := by
  rw [storeCached_eq bs tag h]
  have hat := lineAt_at s false core p
  by_cases hline : k = core ∧ a / 128 = p / 128
  · obtain ⟨rfl, hline⟩ := hline
    have hsame : lineAt s false k a = lineAt s false k p := by unfold lineAt newLine; rw [hline]
    rw [seesByte_keepLine (lineWrite_at (hline ▸ hat) ..), seesByte_eq_l2, hsame, dirty_lineWrite _ hp, tget_lineWrite]
    by_cases hin : p % 128 ≤ a % 128 ∧ a % 128 < p % 128 + bs.length
    · have hget : bs[a - p]? = some (bs.getD (a % 128 - p % 128) 0) := by
        rw [show a - p = a % 128 - p % 128 by omega, List.getD_eq_getElem?_getD, List.getElem?_eq_getElem (by omega)]
        rfl
      have hpa : p ≤ a := by omega
      simp [hget, hin, hpa]
    · have hget : (if k = k ∧ p ≤ a then bs[a - p]? else none) = none := by
        split
        · exact List.getElem?_eq_none (by omega)
        · rfl
      rw [hget, known_lineWrite _ _ _ _ hin]
      simp [hin]
  · have hget : (if k = core ∧ p ≤ a then bs[a - p]? else none) = none := by
      split
      next hk => exact List.getElem?_eq_none (by have : a / 128 ≠ p / 128 := fun e => hline ⟨hk.1, e⟩; omega)
      next => rfl
    rw [hget]
    refine seesByte_congr (findLine_keepLine_ne ?_) (findLine_keepLine_ne ?_) (homeByte_keepLine _ _)
    · rintro ⟨-, h2, h3⟩
      exact hline ⟨h2.symm.trans hat.2.1, h3.symm.trans hat.2.2⟩
    · rintro ⟨h1, -⟩
      exact absurd (h1.symm.trans hat.1) (by decide)

theorem cachesAnswerNearestFirst : CachesAnswerNearestFirstHold := by
  intro s core a
  refine ⟨fun l hl hk => ?_, fun h1 h2 => ?_, fun l h1 h2 hd => ?_, fun p bs tag hp h k => storeCached_seesByte tag hp h k a⟩
  · rw [seesByte_eq]
    simp [lineAt, hl, hk]
  · rw [seesByte_eq]
    simp [lineAt, h1, h2, newLine, allOnes128]
  · rw [seesByte_eq]
    simp [lineAt, h1, h2, newLine, hd]

/-! An acquire. -/

/-- A line that a level of the core's path finds after an acquire knows its whole dirty words alone. -/
theorem known_of_acquireLines {core u n : Nat} {l2 : Bool} {c : CLine} (hu : u = if l2 then l2Of core else core)
    (h : findLine (acquireLines s [core] 2 (fun _ => true)) l2 u n = some c) :
    ∃ l ∈ s.lines, l.line = n ∧ c = { l with known := wholeWords l.dirty } := by
  obtain ⟨hmem, hat⟩ := findLine_some h
  obtain ⟨l, hl, rfl⟩ := List.mem_map.1 (List.mem_filter.1 hmem).1
  have hl2 : l.At l2 u n := by
    split at hat
    · exact hat
    · exact hat
  obtain ⟨rfl, h2, h3⟩ := hl2
  refine ⟨l, hl, h3, if_pos ?_⟩
  have hunit : l.unit = if l.l2 then l2Of core else core := h2.trans hu
  cases hb : l.l2 <;> simp [hb, hunit]

/-- So it does not know, or have dirty, a byte that no line has dirty before the acquire. -/
theorem clean_lineAt_acquireLines {core u a : Nat} {l2 : Bool} (hu : u = if l2 then l2Of core else core)
    (hclean : ∀ l ∈ s.lines, l.line = a / 128 → mbit l.dirty (a % 128) = false) :
    let c := lineAt (acquireLines s [core] 2 (fun _ => true)) l2 u a
    mbit c.known (a % 128) = false ∧ mbit c.dirty (a % 128) = false := by
  intro c
  cases h : findLine (acquireLines s [core] 2 (fun _ => true)) l2 u (a / 128) with
  | none =>
    have hc : c = newLine l2 u a := by simp [c, lineAt, h]
    rw [hc]
    exact ⟨mbit_zero _, mbit_zero _⟩
  | some d =>
    obtain ⟨l, hl, hline, rfl⟩ := known_of_acquireLines hu h
    have hc : c = { l with known := wholeWords l.dirty } := by simp [c, lineAt, h]
    have hd := hclean l hl hline
    rw [hc]
    refine ⟨Bool.eq_false_iff.2 fun hk => ?_, hd⟩
    rw [mbit_of_wholeWords hk] at hd
    cases hd

theorem acquireReadsTheHome : AcquireReadsTheHomeHold := by
  intro s core a
  refine ⟨fun _ => rfl, fun hclean => ?_⟩
  obtain ⟨hk1, hd1⟩ := clean_lineAt_acquireLines (l2 := false) (u := core) (core := core) rfl hclean
  obtain ⟨hk2, hd2⟩ := clean_lineAt_acquireLines (l2 := true) (u := l2Of core) (core := core) rfl hclean
  rw [seesByte_eq]
  simp only [hk1, hd1, hd2, lineAt_known_ne (Nat.mod_lt _ (by decide)) hk2, Bool.false_eq_true, or_self, if_false]
  rfl

end Sys2Proof.Machine
end

section
/-! A release of L1 and L2 (R82): what a byte of a core's path holds stays, line by line, until no line of the path has it dirty and it is
the home's. -/
namespace Sys2Proof.Machine

variable {s t : State}

/-- The byte of a line, where it is dirty. -/
def CLine.dirtyByte (c : CLine) (i : Nat) : Option Byte := if mbit c.dirty i then some (tget c.data i 0) else none

/-- The dirty byte that a level has. -/
def dirtyIn (s : State) (l2 : Bool) (u n i : Nat) : Option Byte := (findLine s l2 u n).bind (·.dirtyByte i)

theorem dirtyIn_eq_filter (s : State) (l2 : Bool) (u n i : Nat) :
    dirtyIn s l2 u n i = ((findLine s l2 u n).filter (fun l => mbit l.dirty i)).map (fun l => tget l.data i 0) := by
  unfold dirtyIn CLine.dirtyByte
  cases findLine s l2 u n with
  | none => rfl
  | some c => by_cases hd : mbit c.dirty i = true <;> simp [hd]

/-- What an L2 and the home hold of a byte: the L2's where it is dirty. -/
def l2Byte (s : State) (u n i : Nat) : Byte := (dirtyIn s true u n i).getD (homeByte s (128 * n + i))

/-- What a core's path holds of a byte: the L1's where it is dirty, then the L2's, then the home's. -/
def pathByte (s : State) (core n i : Nat) : Byte := (dirtyIn s false core n i).getD (l2Byte s (l2Of core) n i)

/-- No two lines stand in one place. -/
def OneLineEach (s : State) : Prop := s.lines.Pairwise (fun l m => ¬(l.l2 = m.l2 ∧ l.unit = m.unit ∧ l.line = m.line))

theorem findLine_of_mem (hs : OneLineEach s) {c : CLine} (hc : c ∈ s.lines) : findLine s c.l2 c.unit c.line = some c := by
  cases h : findLine s c.l2 c.unit c.line with
  | none => exact absurd ⟨rfl, rfl, rfl⟩ (findLine_none.1 h c hc)
  | some d =>
    obtain ⟨hd, hat⟩ := findLine_some h
    have : Std.Symm (fun l m : CLine => ¬(l.l2 = m.l2 ∧ l.unit = m.unit ∧ l.line = m.line)) :=
      ⟨fun l m hlm hml => hlm ⟨hml.1.symm, hml.2.1.symm, hml.2.2.symm⟩⟩
    by_contra hne
    exact hs.forall hd hc (fun e => hne (congrArg some e)) hat

theorem oneLineEach_dropLine (hs : OneLineEach s) (l2 : Bool) (u n : Nat) : OneLineEach (dropLine s l2 u n) := hs.filter _

theorem oneLineEach_keepLine (hs : OneLineEach s) (c : CLine) : OneLineEach (keepLine s c) := by
  have hdrop := oneLineEach_dropLine hs c.l2 c.unit c.line
  unfold keepLine
  split
  · exact hdrop
  · refine List.pairwise_cons.2 ⟨fun m hm hat => ?_, hdrop⟩
    have hnot := (List.mem_filter.1 hm).2
    rw [lineIs_iff.2 ⟨hat.1.symm, hat.2.1.symm, hat.2.2.symm⟩] at hnot
    cases hnot

theorem memOnly_wrMarked (a : Nat) (v : Byte) (k : Bool) : MemOnly s (wrMarked s a v k) := by
  refine (memOnly_wrHome s a v).trans ?_
  unfold wrMarked
  split <;> rfl

theorem memOnly_toHome (c : CLine) : MemOnly s (toHome s c) := by
  have hbytes : ∀ (L : List Nat) (s : State),
      MemOnly s (L.foldl (fun s i => wrMarked s (128 * c.line + i) (tget c.data i 0) (mbit c.poison i)) s) := by
    intro L
    induction L with
    | nil => exact fun _ => rfl
    | cons i L ih => exact fun s => (memOnly_wrMarked _ _ _).trans (ih _)
  exact (hbytes _ s).trans rfl

theorem lines_toHome (c : CLine) : (toHome s c).lines = s.lines := by
  have h := congrArg State.lines (memOnly_toHome (s := s) c)
  exact h

theorem findLine_toHome (c : CLine) (l2 : Bool) (u n : Nat) : findLine (toHome s c) l2 u n = findLine s l2 u n := by
  rw [findLine, lines_toHome, findLine]

theorem homeByte_wrMarked (a b : Nat) (v : Byte) (k : Bool) : homeByte (wrMarked s a v k) b = if b = a then v else homeByte s b := by
  rw [← homeByte_wrHome]
  unfold wrMarked
  split <;> rfl

theorem homeByte_toHome (c : CLine) {n i : Nat} (hi : i < 128) :
    homeByte (toHome s c) (128 * n + i) = if n = c.line then (c.dirtyByte i).getD (homeByte s (128 * n + i)) else homeByte s (128 * n + i) := by
  have hfold : ∀ (L : List Nat), (∀ j ∈ L, j < 128) → ∀ s : State,
      homeByte (L.foldl (fun s i => wrMarked s (128 * c.line + i) (tget c.data i 0) (mbit c.poison i)) s) (128 * n + i) =
        if n = c.line ∧ i ∈ L then tget c.data i 0 else homeByte s (128 * n + i) := by
    intro L hL
    induction L with
    | nil => simp
    | cons j L ih =>
      intro s
      have hj := hL j (by simp)
      rw [List.foldl_cons, ih (fun k hk => hL k (by simp [hk])), homeByte_wrMarked]
      by_cases hn : n = c.line
      · subst hn
        by_cases hij : i = j
        · subst hij; simp
        · simp [hij]
      · have : 128 * n + i ≠ 128 * c.line + j := by omega
        simp [hn, this]
  refine (hfold _ (fun j hj => by simpa [upto] using (List.mem_filter.1 hj).1) s).trans ?_
  unfold CLine.dirtyByte
  by_cases hn : n = c.line <;> by_cases hd : mbit c.dirty i = true <;> simp [hn, hd, upto, hi]

theorem CLine.dirtyByte_of_clean {c : CLine} (h : c.dirty = 0) (i : Nat) : c.dirtyByte i = none := by
  simp [dirtyByte, h]

theorem dirtyIn_keepLine (c : CLine) (l2 : Bool) (u n i : Nat) :
    dirtyIn (keepLine s c) l2 u n i = if c.At l2 u n then c.dirtyByte i else dirtyIn s l2 u n i := by
  unfold dirtyIn
  rw [findLine_keepLine]
  by_cases hat : c.At l2 u n
  · rw [if_pos hat, if_pos hat]
    by_cases hb : c.blank
    · rw [if_pos hb, CLine.dirtyByte_of_clean hb.2.1]
      rfl
    · rw [if_neg hb]
      rfl
  · rw [if_neg hat, if_neg hat]

theorem dirtyIn_of_findLine {l2 : Bool} {u n : Nat} (h : findLine t l2 u n = findLine s l2 u n) (i : Nat) :
    dirtyIn t l2 u n i = dirtyIn s l2 u n i := by
  rw [dirtyIn, h, dirtyIn]

/-- A line goes into its L2 where there is room; where there is none, a line of that L2 goes out, its dirty bytes to the homes. -/
theorem putL2_cases (s : State) (d : CLine) : putL2 s d = keepLine s d ∨
    ∃ x ∈ s.lines, x.l2 = d.l2 ∧ x.unit = d.unit ∧ findLine s d.l2 d.unit d.line = none ∧
      putL2 s d = keepLine (dropLine (toHome s x) true x.unit x.line) d := by
  unfold putL2
  cases hout : outgoing s d (canLeave s) with
  | none => exact .inl rfl
  | some x =>
    unfold outgoing at hout
    split at hout
    · cases hout
    next hnone =>
      dsimp only at hout
      split at hout
      · cases hout
      · have hx := List.mem_of_find?_eq_some hout
        simp only [List.mem_reverse, List.mem_filter, Bool.and_eq_true, decide_eq_true_eq] at hx
        exact .inr ⟨x, hx.1, hx.2.1, hx.2.2, by simpa using hnone, rfl⟩

variable {d : CLine}

theorem findLine_putL2_l1 (hd : d.l2 = true) (u n : Nat) : findLine (putL2 s d) false u n = findLine s false u n := by
  have hnot : ¬d.At false u n := fun h => by rw [h.1] at hd; cases hd
  obtain h | ⟨x, -, -, -, -, h⟩ := putL2_cases s d
  · rw [h, findLine_keepLine, if_neg hnot]
  · rw [h, findLine_keepLine, if_neg hnot, findLine_dropLine, if_neg (by rintro ⟨⟨⟩, -⟩), findLine_toHome]

theorem oneLineEach_putL2 (hs : OneLineEach s) : OneLineEach (putL2 s d) := by
  obtain h | ⟨x, -, -, -, -, h⟩ := putL2_cases s d
  · rw [h]; exact oneLineEach_keepLine hs d
  · rw [h]
    have hhome : OneLineEach (toHome s x) := by rw [OneLineEach, lines_toHome]; exact hs
    exact oneLineEach_keepLine (oneLineEach_dropLine hhome ..) d

/-- A line that goes into an L2 changes what the L2 and the homes hold of that line alone, whatever goes out for it. -/
theorem l2Byte_putL2 (hs : OneLineEach s) (hd : d.l2 = true) (n : Nat) {i : Nat} (hi : i < 128) :
    l2Byte (putL2 s d) d.unit n i = if d.line = n then (d.dirtyByte i).getD (homeByte s (128 * n + i)) else l2Byte s d.unit n i := by
  have hat : d.At true d.unit n ↔ d.line = n := by simp [CLine.At, hd]
  obtain h | ⟨x, hx, hx2, hxu, hnone, h⟩ := putL2_cases s d
  · rw [h, l2Byte, dirtyIn_keepLine, homeByte_keepLine]
    simp only [hat]
    split <;> rfl
  · have hne : x.line ≠ d.line := fun e => findLine_none.1 hnone x hx ⟨hx2, hxu, e⟩
    have hxd : dirtyIn s true d.unit x.line i = x.dirtyByte i := by
      have := findLine_of_mem hs hx
      rw [hx2, hd, hxu] at this
      rw [dirtyIn, this]
      rfl
    have hhome : homeByte (keepLine (dropLine (toHome s x) true x.unit x.line) d) (128 * n + i) = homeByte (toHome s x) (128 * n + i) :=
      homeByte_keepLine ..
    have hdrop : dirtyIn (dropLine (toHome s x) true x.unit x.line) true d.unit n i =
        if x.line = n then none else dirtyIn s true d.unit n i := by
      rw [dirtyIn, findLine_dropLine, findLine_toHome, hxu]
      by_cases hn : x.line = n <;> simp [hn, dirtyIn]
    rw [h, l2Byte, dirtyIn_keepLine, hdrop, hhome, homeByte_toHome x hi]
    simp only [hat]
    by_cases hn : d.line = n
    · have : n ≠ x.line := fun e => hne (e.symm.trans hn.symm)
      simp [hn, this]
    · by_cases hxn : n = x.line
      · subst hxn
        simp [hn, l2Byte, hxd]
      · have : x.line ≠ n := fun e => hxn e.symm
        simp [hn, hxn, this, l2Byte]

/-- What a line of an L1 hands to its L2: its own dirty bytes over those of the L2. -/
theorem toL2_eq (s : State) (c : CLine) : ∃ d, toL2 s c = putL2 s d ∧ d.At true (l2Of c.unit) c.line ∧
    ∀ i < 128, d.dirtyByte i = (c.dirtyByte i).or (dirtyIn s true (l2Of c.unit) c.line i) := by
  refine ⟨_, rfl, ?_, fun i hi => ?_⟩
  · cases h : findLine s true (l2Of c.unit) c.line with
    | none => exact ⟨rfl, rfl, by simp [newLine]⟩
    | some l => exact (findLine_some h).2
  · simp only [CLine.dirtyByte, mbit_or, tget_tsets _ _ (fun i => tget c.data i 0), upto, List.mem_filter, List.mem_range, hi, true_and]
    by_cases hc : mbit c.dirty i = true
    · simp [hc]
    · rw [Bool.not_eq_true] at hc
      unfold dirtyIn
      cases h : findLine s true (l2Of c.unit) c.line <;> simp [hc, newLine, CLine.dirtyByte]

/-- What the write-back of a line of a core's path leaves: the path's bytes, no dirty byte in that line, and every other line of an L1 (of an
L2 too, where the line is one of an L2). -/
structure LineWrittenBack (core : Nat) (c : CLine) (s t : State) : Prop where
  one : OneLineEach t
  path : ∀ n, ∀ i < 128, pathByte t core n i = pathByte s core n i
  clean : ∀ i, dirtyIn t c.l2 c.unit c.line i = none
  others : ∀ l2 u n, (l2 = false ∨ c.l2 = true) → ¬c.At l2 u n → findLine t l2 u n = findLine s l2 u n

theorem pathByte_keepLine_l1 {c : CLine} (hc : c.dirty = 0) (hl : c.l2 = false) (n i : Nat) :
    pathByte (keepLine s c) c.unit n i = if c.line = n then l2Byte s (l2Of c.unit) n i else pathByte s c.unit n i := by
  have hat : c.At false c.unit n ↔ c.line = n := by simp [CLine.At, hl]
  have hnot : ¬c.At true (l2Of c.unit) n := fun h => by rw [h.1] at hl; cases hl
  rw [pathByte, l2Byte, dirtyIn_keepLine, dirtyIn_keepLine, homeByte_keepLine, if_neg hnot, CLine.dirtyByte_of_clean hc]
  simp only [hat]
  split <;> rfl

theorem l2Byte_keepLine_l2 {c : CLine} (hc : c.dirty = 0) (hl : c.l2 = true) (n i : Nat) :
    l2Byte (keepLine s c) c.unit n i = if c.line = n then homeByte s (128 * n + i) else l2Byte s c.unit n i := by
  have hat : c.At true c.unit n ↔ c.line = n := by simp [CLine.At, hl]
  rw [l2Byte, dirtyIn_keepLine, homeByte_keepLine, CLine.dirtyByte_of_clean hc]
  simp only [hat]
  split <;> rfl

/-- The line of a write-back, when it is done. -/
abbrev CLine.cleaned (c : CLine) : CLine := { c with dirty := 0, tagDirty := 0 }

theorem writeBack_dirty {c : CLine} (hd : ¬(c.dirty = 0 ∧ c.tagDirty = 0)) :
    writeBack s c = putLine (if c.l2 then toHome s c else toL2 s c) c.cleaned := if_neg hd

/-- A line of an L1 goes to the L2 and stays, clean. -/
theorem writeBack_l1 (hs : OneLineEach s) {c : CLine} (hc : c ∈ s.lines) (hl : c.l2 = false)
    (hd : ¬(c.dirty = 0 ∧ c.tagDirty = 0)) : LineWrittenBack c.unit c s (writeBack s c) := by
  obtain ⟨d, htoL2, ⟨hd2, hdu, hdn⟩, hbyte⟩ := toL2_eq s c
  have hfound : findLine s false c.unit c.line = some c := hl ▸ findLine_of_mem hs hc
  have hkept : writeBack s c = keepLine (putL2 s d) c.cleaned := by
    rw [writeBack_dirty hd, hl, if_neg (by decide), htoL2]
    refine putLine_eq_keepLine (.inl ?_)
    show (findLine (putL2 s d) c.l2 c.unit c.line).isSome = true
    rw [hl, findLine_putL2_l1 hd2, hfound]
    rfl
  rw [hkept]
  refine ⟨oneLineEach_keepLine (oneLineEach_putL2 hs) _, fun n i hi => ?_, fun i => ?_, fun l2 u n hor hnot => ?_⟩
  · have hl2 := l2Byte_putL2 hs hd2 n hi
    rw [hdu, hdn] at hl2
    rw [pathByte_keepLine_l1 (c := c.cleaned) rfl hl, hl2]
    by_cases hn : c.line = n
    · subst hn
      have hown : dirtyIn s false c.unit c.line i = c.dirtyByte i := by rw [dirtyIn, hfound]; rfl
      rw [if_pos rfl, if_pos rfl, hbyte i hi, pathByte, hown, l2Byte]
      cases c.dirtyByte i <;> rfl
    · rw [if_neg hn, pathByte, dirtyIn_of_findLine (findLine_putL2_l1 hd2 ..), hl2, if_neg hn, pathByte]
  · rw [dirtyIn_keepLine, if_pos ⟨rfl, rfl, rfl⟩]
    exact CLine.dirtyByte_of_clean rfl i
  · obtain rfl : l2 = false := hor.resolve_right (by simp [hl])
    rw [findLine_keepLine, if_neg (show ¬c.cleaned.At false u n from hnot), findLine_putL2_l1 hd2]

/-- A line of the L2 goes to the homes and stays, clean. -/
theorem writeBack_l2 (hs : OneLineEach s) {core : Nat} {c : CLine} (hc : c ∈ s.lines) (hl : c.l2 = true) (hu : c.unit = l2Of core)
    (hd : ¬(c.dirty = 0 ∧ c.tagDirty = 0)) : LineWrittenBack core c s (writeBack s c) := by
  have hfound : findLine s true c.unit c.line = some c := hl ▸ findLine_of_mem hs hc
  have hkept : writeBack s c = keepLine (toHome s c) c.cleaned := by
    rw [writeBack_dirty hd, hl, if_pos rfl]
    refine putLine_eq_keepLine (.inl ?_)
    show (findLine (toHome s c) c.l2 c.unit c.line).isSome = true
    rw [hl, findLine_toHome, hfound]
    rfl
  have hstay : ∀ l2 u n, ¬c.At l2 u n → findLine (keepLine (toHome s c) c.cleaned) l2 u n = findLine s l2 u n := fun l2 u n h => by
    rw [findLine_keepLine, if_neg (show ¬c.cleaned.At l2 u n from h), findLine_toHome]
  rw [hkept]
  have hhome : OneLineEach (toHome s c) := by rw [OneLineEach, lines_toHome]; exact hs
  refine ⟨oneLineEach_keepLine hhome _, fun n i hi => ?_, fun i => ?_, fun l2 u n _ hnot => hstay l2 u n hnot⟩
  · have hl2 : l2Byte (keepLine (toHome s c) c.cleaned) c.unit n i = l2Byte s c.unit n i := by
      rw [l2Byte_keepLine_l2 (c := c.cleaned) rfl hl, l2Byte, dirtyIn_of_findLine (findLine_toHome ..), homeByte_toHome c hi]
      by_cases hn : n = c.line
      · subst hn
        rw [if_pos rfl, if_pos rfl, l2Byte, dirtyIn, hfound]
        rfl
      · rw [if_neg (fun e => hn e.symm), if_neg hn, l2Byte]
    rw [hu] at hl2
    rw [pathByte, pathByte, hl2, dirtyIn_of_findLine (hstay _ _ _ fun h => by rw [h.1] at hl; cases hl)]
  · rw [dirtyIn_keepLine, if_pos ⟨rfl, rfl, rfl⟩]
    exact CLine.dirtyByte_of_clean rfl i

/-- The unit of a level of a core's path. -/
def pathUnit (core : Nat) (l2 : Bool) : Nat := if l2 then l2Of core else core

theorem writeBack_leaves (hs : OneLineEach s) {core : Nat} {c : CLine} (hc : c ∈ s.lines) (hu : c.unit = pathUnit core c.l2) :
    LineWrittenBack core c s (writeBack s c) := by
  by_cases hd : c.dirty = 0 ∧ c.tagDirty = 0
  · have hsame : writeBack s c = s := if_pos hd
    rw [hsame]
    exact ⟨hs, fun _ _ _ => rfl, fun i => by rw [dirtyIn, findLine_of_mem hs hc]; exact CLine.dirtyByte_of_clean hd.1 i, fun _ _ _ _ _ => rfl⟩
  · cases hl : c.l2 with
    | false =>
      rw [hl] at hu
      obtain rfl : c.unit = core := hu
      exact writeBack_l1 hs hc hl hd
    | true =>
      rw [hl] at hu
      exact writeBack_l2 hs hc hl hu hd

/-- What the write-backs of lines of one level of a core's path leave. -/
structure LinesWrittenBack (core : Nat) (l2 : Bool) (L : List CLine) (s t : State) : Prop where
  one : OneLineEach t
  path : ∀ n, ∀ i < 128, pathByte t core n i = pathByte s core n i
  clean : ∀ c ∈ L, ∀ i, dirtyIn t l2 (pathUnit core l2) c.line i = none
  others : ∀ k u n, (k = false ∨ l2 = true) → (∀ c ∈ L, ¬c.At k u n) → findLine t k u n = findLine s k u n

theorem writeBacks_leave {core : Nat} {l2 : Bool} {L : List CLine} (hs : OneLineEach s)
    (hL : ∀ c ∈ L, c ∈ s.lines ∧ c.At l2 (pathUnit core l2) c.line)
    (hone : L.Pairwise (fun l m => ¬(l.l2 = m.l2 ∧ l.unit = m.unit ∧ l.line = m.line))) :
    LinesWrittenBack core l2 L s (L.foldl writeBack s) := by
  induction L generalizing s with
  | nil => exact ⟨hs, fun _ _ _ => rfl, by simp, fun _ _ _ _ _ => rfl⟩
  | cons c L ih =>
    obtain ⟨hfirst, hrest⟩ := List.pairwise_cons.1 hone
    obtain ⟨hc, rfl, hcu, -⟩ := hL c (by simp)
    have hstep := writeBack_leaves hs hc hcu
    have hlines : ∀ d ∈ L, d ∈ (writeBack s c).lines ∧ d.At c.l2 (pathUnit core c.l2) d.line := fun d hd => by
      obtain ⟨hds, hdat⟩ := hL d (by simp [hd])
      have hfound := hstep.others d.l2 d.unit d.line (by rw [hdat.1]; cases c.l2 <;> simp) (hfirst d hd)
      rw [findLine_of_mem hs hds] at hfound
      exact ⟨(findLine_some hfound).1, hdat⟩
    obtain ⟨one, path, clean, others⟩ := ih hstep.one hlines hrest
    refine ⟨one, fun n i hi => (path n i hi).trans (hstep.path n i hi), fun d hd i => ?_, fun k u n hk hnot => ?_⟩
    · obtain rfl | hd := List.mem_cons.1 hd
      · have hsame := others d.l2 d.unit d.line (by cases d.l2 <;> simp) (fun e he hat => hfirst e he ⟨hat.1.symm, hat.2.1.symm, hat.2.2.symm⟩)
        rw [← hcu, List.foldl_cons, dirtyIn_of_findLine hsame]
        exact hstep.clean i
      · exact clean d hd i
    · rw [List.foldl_cons, others k u n hk fun e he => hnot e (by simp [he])]
      exact hstep.others k u n hk (hnot c (by simp))

/-- When every line of a level is written back, the level has no dirty byte. -/
theorem level_clean {core : Nat} {l2 : Bool} {L : List CLine} (h : LinesWrittenBack core l2 L s t)
    (hL : ∀ c, c ∈ L ↔ c ∈ s.lines ∧ c.At l2 (pathUnit core l2) c.line) (n i : Nat) : dirtyIn t l2 (pathUnit core l2) n i = none := by
  cases hf : findLine s l2 (pathUnit core l2) n with
  | some c =>
    obtain ⟨hc, h1, h2, rfl⟩ := findLine_some hf
    exact h.clean c ((hL c).2 ⟨hc, h1, h2, rfl⟩) i
  | none =>
    have hnot : ∀ c ∈ L, ¬c.At l2 (pathUnit core l2) n := fun c hc => findLine_none.1 hf c ((hL c).1 hc).1
    rw [dirtyIn, h.others l2 _ n (by cases l2 <;> simp) hnot, hf]
    rfl

/-- The lines of one level of a core's path. -/
def levelLines (s : State) (core : Nat) (l2 : Bool) : List CLine := s.lines.filter (fun c => c.l2 == l2 && decide (c.unit = pathUnit core l2))

theorem mem_levelLines {core : Nat} {l2 : Bool} {c : CLine} :
    c ∈ levelLines s core l2 ↔ c ∈ s.lines ∧ c.At l2 (pathUnit core l2) c.line := by
  simp [levelLines, CLine.At]

theorem level_writtenBack (hs : OneLineEach s) (core : Nat) (l2 : Bool) :
    LinesWrittenBack core l2 (levelLines s core l2) s ((levelLines s core l2).foldl writeBack s) :=
  writeBacks_leave hs (fun _ hc => mem_levelLines.1 hc) (hs.filter _)

theorem releaseLines_eq (s : State) (core : Nat) : releaseLines s [core] 2 (fun _ => true) =
    let t := (levelLines s core false).foldl writeBack s
    (levelLines t core true).foldl writeBack t := by
  have h1 : ∀ s, s.lines.filter (fun c => !c.l2 && [core].contains c.unit && true) = levelLines s core false := fun s => by
    unfold levelLines
    congr 1
    funext c
    cases c.l2 <;> simp [pathUnit]
  have h2 : ∀ s, s.lines.filter (fun c => c.l2 && ([core].map l2Of).contains c.unit && true) = levelLines s core true := fun s => by
    unfold levelLines
    congr 1
    funext c
    cases c.l2 <;> simp [pathUnit]
  unfold releaseLines
  rw [if_neg (by decide), if_neg (by decide), h1, h2]

theorem releaseWritesDirtyBytesHome : ReleaseWritesDirtyBytesHomeHold := by
  intro s core hs t n i hi
  let r := (levelLines s core false).foldl writeBack s
  have ht : t = (levelLines r core true).foldl writeBack r := releaseLines_eq s core
  have h1 : LinesWrittenBack core false (levelLines s core false) s r := level_writtenBack hs core false
  have h2 : LinesWrittenBack core true (levelLines r core true) r t := ht ▸ level_writtenBack h1.one core true
  have hl1 : dirtyIn t false core n i = none := by
    have hkeep : findLine t false core n = findLine r false core n := h2.others false core n (.inl rfl)
      (fun c hc hat => by have := (mem_levelLines.1 hc).2.1; rw [hat.1] at this; cases this)
    rw [dirtyIn_of_findLine hkeep]
    exact level_clean h1 (fun c => mem_levelLines) n i
  have hl2 : dirtyIn t true (l2Of core) n i = none := level_clean h2 (fun c => mem_levelLines) n i
  have hpath := (h2.path n i hi).trans (h1.path n i hi)
  rw [pathByte, hl1, l2Byte, hl2] at hpath
  refine hpath.trans ?_
  rw [pathByte, l2Byte, dirtyIn_eq_filter, dirtyIn_eq_filter]
  generalize (findLine s false core n).filter _ = p
  generalize (findLine s true (l2Of core) n).filter _ = q
  match p, q with
  | some _, _ => rfl
  | none, some _ => rfl
  | none, none => rfl

/-- Settles O23: what a core sees of a byte follows from its two lines and the home (`seesByte_eq`); a release keeps what the path holds
(`pathByte`) and leaves no line of it dirty. -/
theorem cachesAndScopes : Obligations.CachesAndScopes :=
  ⟨cachesAnswerNearestFirst, acquireReadsTheHome, releaseWritesDirtyBytesHome⟩

end Sys2Proof.Machine
end

section
/-! A load that finds its line in neither level of its core's path, while the L2 is full. -/
namespace Sys2Proof.Machine

variable {s : State} {core place n : Nat}

theorem mbit_fillFrom_poison (c : CLine) (src : Nat → FillByte) (tag : Nat → Bool) {i : Nat} (hi : i < 128) :
    mbit (fillFrom c src tag).poison i = if mbit c.dirty i then mbit c.poison i else (src i).mark := by
  unfold fillFrom
  rw [mbit_msets _ _ (fun i => (src i).mark) (fun l hl => by simpa [upto] using (List.mem_filter.1 hl).1)]
  by_cases hd : mbit c.dirty i = true <;> simp [upto, hi, hd]

theorem l2Line_miss (h : findLine s true (l2Of core) (place / 128) = none) :
    l2Line s core place = (fillFrom (newLine true (l2Of core) place) (homeFill s (place / 128)) (homeTag s (place / 128)),
      putL2 s (fillFrom (newLine true (l2Of core) place) (homeFill s (place / 128)) (homeTag s (place / 128)))) := by
  unfold l2Line
  dsimp only
  rw [h]
  rfl

/-- The line that a load brings to an L1 that has nothing of it. -/
def filled (s : State) (core place : Nat) : CLine :=
  fillFrom (newLine false core place) (fun i => { b := tget (l2Line s core place).1.data i 0, mark := mbit (l2Line s core place).1.poison i })
    (fun g => (l2Line s core place).1.tags.getLsbD g)

theorem loadCached_miss (hn : 0 < n) (h : findLine s false core (place / 128) = none) : loadCached s core place n =
    ((upto n).map (fun i => (tget (filled s core place).data (place % 128 + i) 0, mbit (filled s core place).poison (place % 128 + i))),
      putLine (l2Line s core place).2 (filled s core place)) := by
  have hmiss : (upto n).all (fun i => mbit (newLine false core place).known (place % 128 + i)) = false :=
    List.all_eq_false.2 ⟨0, List.mem_range.2 hn, by simp [newLine]⟩
  have hl1 : l1Line s core place = (filled s core place, putLine (l2Line s core place).2 (filled s core place)) := by
    unfold l1Line
    dsimp only
    rw [h]
    rfl
  unfold loadCached
  simp only [h, Option.getD_none, hmiss, Bool.false_eq_true, if_false, hl1]

/-- Its marks are the home's. -/
theorem marks_miss (hn : 0 < n) (hp : place % 128 + n ≤ 128) (h1 : findLine s false core (place / 128) = none)
    (h2 : findLine s true (l2Of core) (place / 128) = none) :
    (loadCached s core place n).1.map (·.2) = (upto n).map (fun i => homePoison s (place + i)) := by
  rw [loadCached_miss hn h1, List.map_map]
  refine List.map_congr_left fun i hi => ?_
  have hi : i < n := List.mem_range.1 hi
  have hlt : place % 128 + i < 128 := by omega
  have hsum : 128 * (place / 128) + (place % 128 + i) = place + i := by omega
  simp only [Function.comp, filled, mbit_fillFrom_poison _ _ _ hlt, l2Line_miss h2]
  simp [newLine, homeFill, hsum]

theorem mem_keepLine {c x : CLine} (h : x ∈ (keepLine s c).lines) : x = c ∨ x ∈ s.lines := by
  unfold keepLine at h
  split at h
  · exact .inr (List.mem_filter.1 h).1
  · exact (List.mem_cons.1 h).imp_right fun h => (List.mem_filter.1 h).1

theorem keepLine_eq (s : State) (c : CLine) : keepLine s c = { s with lines := (keepLine s c).lines } := by
  unfold keepLine
  split <;> rfl

/-- The L2 gives up its last line for the fill, and the L1 has room. -/
theorem loadCached_gives_up {pre : List CLine} {y : CLine} (hn : 0 < n) (hs : s.lines = pre ++ [y])
    (hall : ∀ c ∈ s.lines, c.l2 = true ∧ c.unit = l2Of core ∧ c.line ≠ place / 128) (hlen : pre.length = 32767) (hy : canLeave s y = true) :
    ∃ ls, (loadCached s core place n).2 = { toHome s y with lines := ls } := by
  have h1 : findLine s false core (place / 128) = none := findLine_none.2 fun c hc hat => by
    exact absurd ((hall c hc).1.symm.trans hat.1) (by decide)
  have h2 : findLine s true (l2Of core) (place / 128) = none := findLine_none.2 fun c hc hat => (hall c hc).2.2 hat.2.2
  have hout : ∀ c : CLine, c.At true (l2Of core) (place / 128) → outgoing s c (canLeave s) = some y := by
    rintro c ⟨hc1, hc2, hc3⟩
    have hlevel : s.lines.filter (fun x => decide (x.l2 = true) && decide (x.unit = l2Of core)) = s.lines :=
      List.filter_eq_self.2 fun x hx => by simp [(hall x hx).1, (hall x hx).2.1]
    unfold outgoing
    rw [hc1, hc2, hc3, h2, hlevel, hs]
    simp [lineCap, hlen, hy]
  let c := fillFrom (newLine true (l2Of core) place) (homeFill s (place / 128)) (homeTag s (place / 128))
  let r := keepLine (dropLine (toHome s y) true y.unit y.line) c
  have hput : putL2 s c = r := by
    unfold putL2
    rw [hout c ⟨rfl, rfl, rfl⟩]
  have hl2 : ∀ x ∈ r.lines, x.l2 = true := fun x hx => by
    obtain rfl | hx := mem_keepLine hx
    · rfl
    · have hx := (List.mem_filter.1 hx).1
      rw [lines_toHome] at hx
      exact (hall x hx).1
  have hroom : putLine r (filled s core place) = keepLine r (filled s core place) := by
    refine putLine_eq_keepLine (.inr ?_)
    rw [List.filter_eq_nil_iff.2 fun x hx => by simp [hl2 x hx, filled, fillFrom, newLine]]
    exact (by decide : 0 < lineCap false)
  rw [loadCached_miss hn h1, l2Line_miss h2]
  dsimp only
  rw [hput, hroom, keepLine_eq, show r = _ from keepLine_eq _ _]
  exact ⟨_, rfl⟩

/-! One lane's load. -/

variable {ctx : Nat} {a : Access} {c : Ctx} {l off place : Nat}

/-- The access names one lane, at a place that a page of its object gives. -/
def OneLane (s : State) (ctx : Nat) (a : Access) (l off place : Nat) : Prop :=
  a.offs = [(l, off)] ∧ placeOf s (readObj s ctx a.c.oid.toNat) (a.objOff off) = some place

theorem OneLane.placed (h : OneLane s ctx a l off place) : placed s ctx a = [(l, a.objOff off, place)] := by
  obtain ⟨hoffs, hplace⟩ := h
  unfold Machine.placed
  rw [hoffs]
  simp [hplace]

theorem OneLane.loadLanes (h : OneLane s ctx a l off place) : loadLanes s core ctx a =
    ([(l, a.objOff off, (loadCached s core place a.n).1)], (loadCached s core place a.n).2) := by
  unfold Machine.loadLanes
  rw [h.placed]
  rfl

/-- A load that misses passes its gates where those that look at no cache let it go on and the home has no poison there. -/
theorem loadGate_miss {must : Bool} (h : OneLane s c.team.ctx a l off place) (hn : 0 < a.n) (hp : place % 128 + a.n ≤ 128)
    (h1 : findLine s false c.core (place / 128) = none) (h2 : findLine s true (l2Of c.core) (place / 128) = none)
    (hpoison : s.hbmPoison = []) (hown : ownGate s c.team.ctx c.parties a = .go) (hcap : capGate s c.team.ctx a = .go)
    (hres : residencyGate s c.team.ctx a = .go) (hcover : coverGate s c.team.ctx c.core c.parties a loadKinds = .go)
    (hpath : pathGate s c.team.ctx c.g.die a = .go) : loadGate s c a must = .go := by
  have hfill : fillPath s c a = .go := by
    have hmiss : inCaches s c.core place a.n = false := by unfold inCaches; rw [h1, h2]; rfl
    unfold fillPath
    dsimp only
    rw [List.filter_eq_self.2 fun p hp => ?_]
    · exact hpath
    · rw [h.1] at hp
      obtain rfl := List.mem_singleton.1 hp
      simp [h.2, hmiss]
  have hmarks : (loadCached s c.core place a.n).1.map (·.2) = (upto a.n).map (fun _ => false) :=
    (marks_miss hn hp h1 h2).trans (List.map_congr_left fun i _ => by simp [homePoison, hpoison])
  unfold loadGate
  rw [hown, hcap, hcover, hfill, h.loadLanes]
  cases must <;> simp [Gate.both, hres, poisonGate, hmarks]

end Sys2Proof.Machine
end

section
/-! A load whose fill moves the page list of its own object: the full L2 gives up a dirty line with bytes of the directory entry. -/
namespace Sys2Proof.Machine

variable {s t : State} {c : Ctx} {a : Access}

/-! A unit's memory, from its issue to its effect and on to its end. -/

theorem groupsOnly_homeByte {P : Nat → Nat → Nat → Prop} (h : GroupsOnly P s t) (b : Nat) : homeByte t b = homeByte s b := by
  rw [h.1]
  rfl

/-- The end of a unit leaves the homes as its effect left them. -/
theorem homeByte_complete (u : UnitOp) (h : c.act ≠ 0) (b : Nat) :
    homeByte (complete u c s) b = homeByte (u.effect (startUnit s u c) (begun u c s)) b := by
  rw [complete_eq]
  simp only [h, and_false, if_false]
  split
  · rfl
  · exact groupsOnly_homeByte (groupsOnly_endRun (P := fun _ _ _ => True) _ c trivial) b

theorem homeByte_commit (f : Group → Group) (b : Nat) : homeByte (c.commit s f) b = homeByte s b :=
  groupsOnly_homeByte (groupsOnly_setGroup (P := fun _ _ _ => True) _ _ _ _ _ trivial) b

/-- What a load reads of a state: HBM, the module's registers, the lines, and whether die 0 runs. -/
def SameLoads (s t : State) : Prop :=
  t.hbm = s.hbm ∧ t.mreg = s.mreg ∧ t.lines = s.lines ∧ (t.die 0).boot = (s.die 0).boot

theorem SameLoads.trans {u : State} (h : SameLoads s t) (k : SameLoads t u) : SameLoads s u :=
  ⟨k.1.trans h.1, k.2.1.trans h.2.1, k.2.2.1.trans h.2.2.1, k.2.2.2.trans h.2.2.2⟩

theorem sameLoads_updDie {d : Nat} {f : Die → Die} (hf : ∀ x, (f x).boot = x.boot) : SameLoads s (s.updDie d f) := by
  refine ⟨rfl, rfl, rfl, ?_⟩
  rw [State.die_updDie]
  split
  next h => rw [hf, h]
  next => rfl

theorem sameLoads_updTeam {d h : Nat} {f : Team → Team} : SameLoads s (s.updTeam d h f) := by
  unfold State.updTeam
  split
  · exact ⟨rfl, rfl, rfl, rfl⟩
  · exact sameLoads_updDie fun _ => rfl

theorem sameLoads_begun (u : UnitOp) : SameLoads s (begun u c s) := by
  have hpath : SameLoads s { (dropPathWait s c) with issues := s.issues + 1 } := by
    unfold dropPathWait
    split <;> exact ⟨rfl, rfl, rfl, rfl⟩
  exact hpath.trans (sameLoads_updTeam.trans sameLoads_updTeam)

theorem sameLoads_charge {ctx core : Nat} (hheld : s.coreHeld.contains (2048 * ctx + core) = true) (n : Nat) :
    SameLoads s (charge s ctx core n) := by
  unfold charge writeEnergy
  rw [if_pos hheld]
  split <;> exact ⟨rfl, rfl, rfl, rfl⟩

/-- A price that goes to a counter in its register, and none to memory (R335). -/
theorem sameLoads_payIssue (hheld : s.coreHeld.contains (2048 * c.team.ctx + c.core) = true) (n : Nat) : SameLoads s (payIssue s c n) := by
  unfold payIssue
  split
  · exact ⟨rfl, rfl, rfl, rfl⟩
  · have hpair : SameLoads s (s.setPair c.g.die (c.g.core / 2)
        { s.pair c.g.die (c.g.core / 2) with purse := (s.pair c.g.die (c.g.core / 2)).purse - n }) := sameLoads_updDie fun _ => rfl
    have hkeeps : ∀ x, (s.setPair c.g.die (c.g.core / 2) x).coreHeld = s.coreHeld := fun _ => rfl
    refine hpair.trans (sameLoads_charge ?_ n)
    rw [hkeeps]
    exact hheld

/-! Reads that hang on HBM alone. -/

theorem readObj_congr (h : t.hbm = s.hbm) (hr : t.mreg = s.mreg) (ctx oid : Nat) : readObj t ctx oid = readObj s ctx oid := by
  unfold readObj readCtx ctxDesc ctxAddr State.reg
  rw [h, hr]

theorem placeOf_congr (h : t.hbm = s.hbm) (o : ObjEntry) (off : Nat) : placeOf t o off = placeOf s o off := by
  unfold placeOf readPage
  rw [h]

theorem homeByte_congr (h : t.hbm = s.hbm) {b : Nat} (hb : isFar b = false) : homeByte t b = homeByte s b := by
  unfold homeByte
  rw [hb, h]
  rfl

theorem wrHomes_congr (h : t.hbm = s.hbm) (p : Nat) (bs : List Byte) : (wrHomes t p bs).hbm = (wrHomes s p bs).hbm := by
  induction bs generalizing s t p with
  | nil => exact h
  | cons b r ih =>
    refine ih ?_ _
    unfold wrHome
    split
    · exact h
    · exact congrArg (wrByte · p b) h

theorem markPage_congr (h : t.hbm = s.hbm) (o : ObjEntry) (store : Bool) (off : Nat) :
    (markPage t o store off).hbm = (markPage s o store off).hbm := by
  have hpage : readPage t o (off / 65536) = readPage s o (off / 65536) := by rw [readPage, h, readPage]
  unfold markPage
  rw [hpage]
  generalize readPage s o (off / 65536) = e
  by_cases hf : o.far = true
  · rw [if_pos hf, if_pos hf, h]
  · rw [if_neg hf, if_neg hf]
    dsimp only
    by_cases he : e = e ||| 2 ^ 17 ||| (if store then 2 ^ 16 else 0)
    · rw [if_pos he, if_pos he, h]
    · rw [if_neg he, if_neg he]
      exact wrHomes_congr h _ _

theorem homeByte_markAccess (store : Bool) (kinds : List Nat) (off b : Nat) : homeByte (markAccess s c a store kinds [off]) b =
    homeByte (markPage s (readObj s c.team.ctx a.c.oid.toNat) store off) b := rfl

/-! The state. -/

/-- Lines that fill the L2 of core 0 but for one. -/
def fillers : List CLine := (List.range 32767).map (fun i => { l2 := true, line := 0x1000 + i, known := allOnes128 })

/-- A dirty line of that L2: the byte of object 0's directory entry with bits [15:8] of PLIST, with 6 for the home's 5. -/
def listLine : CLine := { l2 := true, line := 8, data := [(21, 6)], dirty := 1 <<< 21 }

/-- The L2 of core 0 is full, and `listLine` is what it gives up next. Byte 0 is in no cache. -/
def listLeaving : State := { twoPages 1 0x400 0x500 0 with lines := fillers ++ [listLine], coreHeld := [0] }

theorem listLeaving_lines_eq : listLeaving.lines = fillers ++ [listLine] := rfl

theorem listLeaving_lines : ∀ c ∈ listLeaving.lines, c.l2 = true ∧ c.unit = 0 ∧ c.line ≠ 0 ∧ c.line ≠ 12 := by
  intro c hc
  rw [listLeaving_lines_eq] at hc
  obtain hc | hc := List.mem_append.1 hc
  · unfold fillers at hc
    obtain ⟨i, -, rfl⟩ := List.mem_map.1 hc
    exact ⟨rfl, rfl, by simp, by simp; omega⟩
  · obtain rfl := List.mem_singleton.1 hc
    exact ⟨rfl, rfl, by decide, by decide⟩

theorem clean_listLeaving : ¬dirtyAt listLeaving 0x602 := by
  rintro ⟨l, hm, hline, -⟩
  exact (listLeaving_lines l hm).2.2.2 hline

/-- The homes once `listLine` has gone to them. -/
def listGone : State :=
  { listLeaving with lines := [], hbm := wrByte listLeaving.hbm (128 * listLine.line + 21) 6 }

theorem wrMarked_clear (p : Nat) (b : Byte) (hp : isFar p = false) : (wrMarked t p b false).hbm = wrByte t.hbm p b := by
  unfold wrMarked wrHome
  rw [hp]
  rfl

theorem toHome_hbm (y : CLine) : (toHome t y).hbm = (((upto 128).filter (fun i => mbit y.dirty i)).foldl
    (fun s i => wrMarked s (128 * y.line + i) (tget y.data i 0) (mbit y.poison i)) t).hbm := rfl

theorem listGone_hbm : listGone.hbm = wrByte listLeaving.hbm (128 * listLine.line + 21) 6 := by
  simp only [listGone]

theorem toHome_listLine (h : t.hbm = listLeaving.hbm) : (toHome t listLine).hbm = listGone.hbm := by
  have hdirty : (upto 128).filter (fun i => mbit listLine.dirty i) = [21] := by decide +kernel
  have hbyte : tget listLine.data 21 0 = 6 := by decide +kernel
  have hmark : mbit listLine.poison 21 = false := by decide +kernel
  rw [toHome_hbm, hdirty, List.foldl_cons, List.foldl_nil, hbyte, hmark, wrMarked_clear _ _ (by decide +kernel), h, listGone_hbm]

/-- The fill writes `listLine` back, and ACC goes to where the page list is then. -/
theorem load_moves_list (ht : SameLoads listLeaving t) (hctx : c.team.ctx = 0) (hcore : c.core = 0) (hoffs : a.offs = [(0, 0)])
    (hcap : a.c = twoPageCap) (hn : 0 < a.n) :
    homeByte (markAccess (loadLanes t c.core c.team.ctx a).2 c a false loadKinds ((loadLanes t c.core c.team.ctx a).1.map (·.2.1))) 0x602 = 2 := by
  obtain ⟨hhbm, hregs, hlines, hboot⟩ := ht
  have hlane : OneLane t c.team.ctx a 0 0 0 := by
    refine ⟨hoffs, ?_⟩
    rw [readObj_congr hhbm hregs, placeOf_congr hhbm, hctx, Access.objOff, hcap]
    decide +kernel
  have hcan : canLeave t listLine = true := by
    have hrun : t.running 0 = true := by
      rw [State.running, hboot]
      decide +kernel
    have hstack : stackOf (128 * listLine.line) = 0 := by decide +kernel
    have hfar : isFar (128 * listLine.line) = false := by decide +kernel
    have hreach : reach t (listLine.unit / 16) (128 * listLine.line) = .ok := by
      unfold reach
      rw [hfar, hstack]
      simp only [Bool.false_eq_true, if_false, hrun, Bool.not_true]
      rfl
    simp [canLeave, hreach]
  obtain ⟨ls, hload⟩ := loadCached_gives_up (core := c.core) (place := 0) hn hlines (by
    rw [hlines, hcore]
    exact fun x hx => ⟨(listLeaving_lines x hx).1, (listLeaving_lines x hx).2.1, (listLeaving_lines x hx).2.2.1⟩) (by simp [fillers]) hcan
  rw [hlane.loadLanes, hload]
  have hgone : ({ toHome t listLine with lines := ls } : State).hbm = listGone.hbm := toHome_listLine hhbm
  have hobj : readObj { toHome t listLine with lines := ls } c.team.ctx a.c.oid.toNat = readObj listGone 0 0 := by
    have hregs : ({ toHome t listLine with lines := ls } : State).mreg = listGone.mreg :=
      (congrArg State.mreg (memOnly_toHome (s := t) listLine)).trans hregs
    rw [readObj_congr hgone hregs, hctx, hcap]
    rfl
  have hbyte : homeByte (markPage listGone (readObj listGone 0 0) false 0) 0x602 = 2 := by decide +kernel
  have hoff : a.objOff 0 = 0 := by rw [Access.objOff, hcap]; decide +kernel
  have hmark : homeByte (markPage { toHome t listLine with lines := ls } (readObj listGone 0 0) false 0) 0x602 = 2 :=
    (homeByte_congr (markPage_congr hgone _ _ _) (by decide +kernel)).trans hbyte
  rw [List.map_cons, List.map_nil, homeByte_markAccess, hobj, hoff]
  exact hmark

/-! The unit. -/

theorem started_core (u : UnitOp) : (startUnit s u c).core = c.core := by
  unfold startUnit Ctx.core Group.putSlot latchesClear
  dsimp only
  split <;> split <;> rfl

/-- What a unit of a group alone leaves at a byte is what its effect leaves there, from a state with the same lines and memory. -/
theorem byteAfter_of_effect {u : UnitOp} {i : Instr} {b : Nat} {v : Byte} (hi : exec i s = issue u s) (hc : issuerCtx s u.h = some c)
    (hm : mayPerform s c u.h u.w u.refs u.price u.ret = true) (ha : c.alone = true) (hact : c.act ≠ 0)
    (hrow : u.row3 c s = none) (hg : u.gate c s = .go) (hheld : s.coreHeld.contains (2048 * c.team.ctx + c.core) = true)
    (heffect : ∀ t, SameLoads s t → ∀ r, homeByte (u.effect (startUnit r u c) t) b = v) : byteAfter i s b = v := by
  obtain ⟨j, hj⟩ := issuerCtx_mk hc
  obtain ⟨hteam, hgroup, -⟩ := mkCtx_team hj
  have hrefresh : c.refresh (payIssue s c u.price) = c := refresh_eq ((payIssue_team? ..).trans hteam) hgroup
  have hpaid : SameLoads s (payIssue s c u.price) := sameLoads_payIssue hheld _
  unfold byteAfter
  rw [hi, issue_alone hc hm ha hrow (.inr hg), hrefresh]
  exact (homeByte_complete u hact _).trans (heffect _ (hpaid.trans (sameLoads_begun u)) _)

/-- Lane 0's access to bytes from 0 of object 0. -/
def firstBytes (n acc : Nat) : Access := { cap := 1, c := twoPageCap, need := rR, n := n, acc := acc, offs := [(0, 0)] }

theorem listLeaving_issuer : ∃ c, issuerCtx listLeaving {} = some c ∧ (c.alone && decide (c.act ≠ 0) && decide (c.g.width ≤ 128) &&
    decide (c.lanes = [0]) && decide (c.cap 1 = twoPageCap) && decide (c.core = 0) && decide (c.team.ctx = 0) &&
    mayPerform listLeaving c {} false (refsOf [sName 1, ssrcRefs .zero, cRead 1]) 2 &&
    mayPerform listLeaving c {} false (refsOf [ssrcRefs .zero, cRead 1]) 0 &&
    [(1, 0), (16, 6)].all (fun p => decide (ownGate listLeaving c.team.ctx c.parties (firstBytes p.1 p.2) = .go ∧
      capGate listLeaving c.team.ctx (firstBytes p.1 p.2) = .go ∧ residencyGate listLeaving c.team.ctx (firstBytes p.1 p.2) = .go ∧
      coverGate listLeaving c.team.ctx c.core c.parties (firstBytes p.1 p.2) loadKinds = .go ∧
      pathGate listLeaving c.team.ctx c.g.die (firstBytes p.1 p.2) = .go)) &&
    clearOf 0x602 (counterAddr listLeaving c) &&
    clearOf 0x602 (pageAddr (readObj (payIssue listLeaving c 2) 0 0) 0) && clearOf 0x602 (pageAddr (readObj listLeaving 0 0) 0)) = true :=
  (Option.any_eq_true _ _).1 (by decide +kernel)

end Sys2Proof.Machine
end

section
/-! LDU and CLDC of the first bytes of the object, from `listLeaving`. -/
namespace Sys2Proof.Machine

variable {c : Ctx} {n acc : Nat}

theorem homeByte_listLeaving : homeByte listLeaving 0x602 = 0 := by decide +kernel

/-- The gates that look at no cache let the access go on. -/
def GatesOpen (c : Ctx) (a : Access) : Prop :=
  ownGate listLeaving c.team.ctx c.parties a = .go ∧ capGate listLeaving c.team.ctx a = .go ∧ residencyGate listLeaving c.team.ctx a = .go ∧
    coverGate listLeaving c.team.ctx c.core c.parties a loadKinds = .go ∧ pathGate listLeaving c.team.ctx c.g.die a = .go

theorem firstBytes_oid : (firstBytes n acc).c.oid.toNat = 0 := rfl
theorem firstBytes_objOff : (firstBytes n acc).objOff 0 = 0 := rfl

theorem oneLane_firstBytes (hctx : c.team.ctx = 0) : OneLane listLeaving c.team.ctx (firstBytes n acc) 0 0 0 := by
  refine ⟨rfl, ?_⟩
  rw [hctx, firstBytes_oid, firstBytes_objOff]
  decide +kernel

theorem loadGate_firstBytes (hctx : c.team.ctx = 0) (hn : 0 < n) (hle : n ≤ 128) (hg : GatesOpen c (firstBytes n acc)) :
    loadGate listLeaving c (firstBytes n acc) true = .go := by
  obtain ⟨hown, hcap, hres, hcover, hpath⟩ := hg
  refine loadGate_miss (oneLane_firstBytes hctx) hn (by simpa [firstBytes] using hle) (findLine_none.2 fun x hx hat => ?_)
    (findLine_none.2 fun x hx hat => (listLeaving_lines x hx).2.2.1 hat.2.2) rfl hown hcap hres hcover hpath
  exact absurd ((listLeaving_lines x hx).1.symm.trans hat.1) (by decide)

/-- What the units below ask of the issuer: one lane, the capability, the price, the gates, and that neither its counter nor page entry 0 of
the object holds byte 0x602. -/
structure FirstLane (c : Ctx) : Prop where
  alone : c.alone = true
  act : c.act ≠ 0
  width : c.g.width ≤ 128
  lanes : c.lanes = [0]
  cap : c.cap 1 = twoPageCap
  core : c.core = 0
  ctx : c.team.ctx = 0
  ldu : mayPerform listLeaving c {} false (refsOf [sName 1, ssrcRefs .zero, cRead 1]) 2 = true
  cldc : mayPerform listLeaving c {} false (refsOf [ssrcRefs .zero, cRead 1]) 0 = true
  gates : GatesOpen c (firstBytes 1 0) ∧ GatesOpen c (firstBytes 16 6)
  counter : clearOf 0x602 (counterAddr listLeaving c) = true
  entry : clearOf 0x602 (pageAddr (readObj (payIssue listLeaving c 2) 0 0) 0) = true ∧ clearOf 0x602 (pageAddr (readObj listLeaving 0 0) 0) = true

theorem listLeaving_firstLane : ∃ c, issuerCtx listLeaving {} = some c ∧ FirstLane c := by
  obtain ⟨c, hc, hf⟩ := listLeaving_issuer
  simp only [Bool.and_eq_true, decide_eq_true_eq, List.all_cons, List.all_nil, and_true] at hf
  obtain ⟨⟨⟨⟨⟨⟨⟨⟨⟨⟨⟨⟨h1, h2⟩, h3⟩, h4⟩, h5⟩, h6⟩, h7⟩, h8⟩, h9⟩, h10⟩, h11⟩, h12⟩, h13⟩ := hf
  exact ⟨c, hc, h1, h2, h3, h4, h5, h6, h7, h8, h9, h10, h11, h12, h13⟩

theorem not_entryByte_firstBytes {s : State} (hctx : c.team.ctx = 0) (h : clearOf 0x602 (pageAddr (readObj s 0 0) 0) = true) :
    ¬entryByte s c.team.ctx (firstBytes n acc) 0x602 := by
  rw [hctx]
  refine not_entryByte (List.all_eq_true.2 fun p hp => ?_)
  rw [show p = (0, 0) from List.mem_singleton.1 hp, firstBytes_oid, firstBytes_objOff]
  exact h

/-! LDU. -/

/-- LDU of byte 0 of object 0. -/
def lduFirst : LduU := { h := {}, c := 1, sz := 0, o40 := false, d := 1, a := .zero, res := 0 }

theorem uniAccess_firstBytes {sz : Nat} {o40 : Bool} (hlanes : c.lanes = [0]) (hcap : c.cap 1 = twoPageCap) :
    uniAccess c 1 rR sz acc o40 .zero = firstBytes (2 ^ sz) acc := by
  unfold uniAccess firstBytes
  rw [hlanes, hcap]
  rfl

theorem started_firstBytes {u : UnitOp} (r : State) {sz : Nat} {o40 : Bool} (h : FirstLane c) :
    uniAccess (startUnit r u c) 1 rR sz acc o40 .zero = firstBytes (2 ^ sz) acc :=
  uniAccess_firstBytes ((started_lanes r u c c.team).trans h.lanes) ((started_cap r u c c.team 1).trans h.cap)

/-- The fill's write-back moves the page list before ACC is set. -/
theorem lduFirst_writes (hc : issuerCtx listLeaving {} = some c) (h : FirstLane c) : byteAfter (.ldu lduFirst) listLeaving 0x602 = 2 := by
  refine byteAfter_of_effect rfl hc h.ldu h.alone h.act rfl ?_ (by rw [h.ctx, h.core]; rfl) fun t ht r => ?_
  · show loadGate listLeaving c (uniAccess c 1 rR 0 0 false .zero) true = .go
    rw [uniAccess_firstBytes h.lanes h.cap]
    exact loadGate_firstBytes h.ctx (by decide) (by decide) h.gates.1
  · dsimp only
    rw [homeByte_commit, show uniAccess _ lduFirst.c rR lduFirst.sz 0 lduFirst.o40 lduFirst.a = firstBytes 1 0 from started_firstBytes r h]
    exact load_moves_list ht h.ctx ((started_core _).trans h.core) rfl rfl (by decide)

/-- Refutes O18: a load into a full L2 writes a dirty line to the homes, and nothing keeps its own object's directory entry out of that
line. The page list has moved when ACC is set, so a byte of no page entry changes. -/
theorem not_loadAndStoreResults : ¬ Obligations.LoadAndStoreResults := by
  rintro ⟨⟨-, hldu⟩, -⟩
  obtain ⟨c, hc, h⟩ := listLeaving_firstLane
  have haccess : uniAccess c 1 rR 0 0 false .zero = firstBytes 1 0 := uniAccess_firstBytes h.lanes h.cap
  obtain ⟨t, g', ⟨ht, -⟩, -, -, -, -, -, -, -, -, hk, -⟩ := hldu lduFirst listLeaving c (by decide) ⟨hc, h.ldu⟩ h.alone h.act (by
    show loadGate listLeaving c (uniAccess c 1 rR 0 0 false .zero) true = .go
    rw [haccess]
    exact loadGate_firstBytes h.ctx (by decide) (by decide) h.gates.1) h.width
  rw [show uniAccess c lduFirst.c rR lduFirst.sz 0 lduFirst.o40 lduFirst.a = firstBytes 1 0 from haccess] at hk
  refine not_homesKept ht (not_or.2 ⟨not_chargedByte h.counter, not_entryByte_firstBytes h.ctx h.entry.1⟩) clean_listLeaving ?_ hk
  rw [lduFirst_writes hc h, homeByte_listLeaving]
  decide

/-! CLDC. -/

/-- CLDC of bytes 0 to 15 of object 0. -/
def cldcFirst : CmemU := { h := {}, ct := 2, cf := 1, loc := false, a := .zero }

theorem cldcFirst_writes (hc : issuerCtx listLeaving {} = some c) (h : FirstLane c) : byteAfter (.cldc cldcFirst) listLeaving 0x602 = 2 := by
  refine byteAfter_of_effect rfl hc h.cldc h.alone h.act rfl ?_ (by rw [h.ctx, h.core]; rfl) fun t ht r => ?_
  · show loadGate listLeaving c (uniAccess c 1 rR 4 6 true .zero) true = .go
    rw [uniAccess_firstBytes h.lanes h.cap]
    exact loadGate_firstBytes h.ctx (by decide) (by decide) h.gates.2
  · have hloc : cldcFirst.loc = false := rfl
    simp only [hloc, Bool.false_eq_true, if_false]
    rw [homeByte_commit, show capAccess _ cldcFirst rR = firstBytes 16 6 from started_firstBytes r h]
    exact load_moves_list ht h.ctx ((started_core _).trans h.core) rfl rfl (by decide)

/-- Refutes O21: CLDC's load moves the page list as LDU's does. -/
theorem not_capabilityMemoryResults : ¬ Obligations.CapabilityMemoryResults := by
  intro hall
  obtain ⟨c, hc, h⟩ := listLeaving_firstLane
  have haccess : capAccess c cldcFirst rR = firstBytes 16 6 := uniAccess_firstBytes h.lanes h.cap
  obtain ⟨hcldc, -⟩ := hall listLeaving c cldcFirst h.alone h.act
  obtain ⟨-, hload⟩ := hcldc ⟨hc, h.cldc⟩
  obtain ⟨t, g', ⟨ht, -⟩, -, -, -, -, -, -, -, -, hk⟩ := hload rfl (by
    rw [haccess]
    exact loadGate_firstBytes h.ctx (by decide) (by decide) h.gates.2)
  rw [haccess] at hk
  refine not_homesKept ht (not_entryByte_firstBytes h.ctx h.entry.2) clean_listLeaving ?_ hk
  rw [cldcFirst_writes hc h, homeByte_listLeaving]
  decide

end Sys2Proof.Machine
end

section
/-! Dirty bytes on their way to the homes: after write-backs, room made and releases, each byte at its home is the one that stood there or one
that some line held dirty, and each byte still dirty is one that some line held dirty (R80, R82). -/
namespace Sys2Proof.Machine

variable {r s : State} {c : CLine}

/-- The dirty bytes of a line are dirty bytes that lines of r hold of it. -/
def DirtyFrom (r : State) (c : CLine) : Prop :=
  ∀ i < 128, ∀ b, c.dirtyByte i = some b → ∃ l ∈ r.lines, l.line = c.line ∧ l.dirtyByte i = some b

/-- From r to s dirty bytes have moved to other levels or to their homes, and no other byte of either has changed. -/
structure FlowsHome (r s : State) : Prop where
  lines : ∀ c ∈ s.lines, DirtyFrom r c
  homes : WrittenBack r s

theorem CLine.dirtyByte_some {i : Nat} {b : Byte} : c.dirtyByte i = some b ↔ mbit c.dirty i = true ∧ tget c.data i 0 = b := by
  unfold dirtyByte
  by_cases hd : mbit c.dirty i = true <;> simp [hd]

theorem dirtyFrom_of_mem (h : c ∈ s.lines) : DirtyFrom s c := fun _ _ _ hb => ⟨c, h, rfl, hb⟩

theorem dirtyFrom_of_clean (h : c.dirty = 0) : DirtyFrom s c := fun i _ b hb => by
  rw [CLine.dirtyByte_of_clean h] at hb
  cases hb

theorem FlowsHome.refl (s : State) : FlowsHome s s := ⟨fun _ => dirtyFrom_of_mem, fun _ _ => .inl rfl⟩

/-- Lines that stood there, or whose dirty bytes come from there, and the same homes. -/
theorem FlowsHome.withLines {t : State} (h : FlowsHome r s) (hl : ∀ c ∈ t.lines, DirtyFrom r c)
    (hh : ∀ a, homeByte t a = homeByte s a) : FlowsHome r t :=
  ⟨hl, fun a ha => by rw [hh]; exact h.homes a ha⟩

theorem FlowsHome.dropLine (h : FlowsHome r s) (l2 : Bool) (u n : Nat) : FlowsHome r (dropLine s l2 u n) :=
  h.withLines (fun c hc => h.lines c (List.mem_filter.1 hc).1) fun _ => rfl

theorem FlowsHome.keepLine (h : FlowsHome r s) (hc : DirtyFrom r c) : FlowsHome r (keepLine s c) := by
  refine h.withLines (fun d hd => ?_) (homeByte_keepLine c)
  obtain rfl | hd := mem_keepLine hd
  · exact hc
  · exact h.lines d hd

theorem FlowsHome.toHome (h : FlowsHome r s) (hc : DirtyFrom r c) : FlowsHome r (toHome s c) := by
  refine ⟨fun d hd => h.lines d (lines_toHome c ▸ hd), fun a ha => ?_⟩
  have hi : a % 128 < 128 := Nat.mod_lt _ (by decide)
  have hbyte := homeByte_toHome (s := s) c (n := a / 128) hi
  rw [Nat.div_add_mod] at hbyte
  by_cases hn : a / 128 = c.line
  · cases hd : c.dirtyByte (a % 128) with
    | none =>
      rw [if_pos hn, hd] at hbyte
      rw [hbyte]
      exact h.homes a ha
    | some b =>
      rw [if_pos hn, hd] at hbyte
      obtain ⟨l, hl, hline, hb⟩ := hc _ hi b hd
      obtain ⟨hdirty, hdata⟩ := CLine.dirtyByte_some.1 hb
      exact .inr ⟨l, hl, hline.trans hn.symm, hdirty, hbyte.trans hdata.symm⟩
  · rw [if_neg hn] at hbyte
    rw [hbyte]
    exact h.homes a ha

theorem FlowsHome.putL2 (h : FlowsHome r s) (hc : DirtyFrom r c) : FlowsHome r (putL2 s c) := by
  obtain hput | ⟨x, hx, -, -, -, hput⟩ := putL2_cases s c
  · rw [hput]
    exact h.keepLine hc
  · rw [hput]
    exact ((h.toHome (h.lines x hx)).dropLine ..).keepLine hc

theorem FlowsHome.toL2 (h : FlowsHome r s) (hc : DirtyFrom r c) : FlowsHome r (toL2 s c) := by
  obtain ⟨d, hput, ⟨-, -, hline⟩, hbyte⟩ := toL2_eq s c
  rw [hput]
  refine h.putL2 fun i hi b hb => ?_
  rw [hline]
  rw [hbyte i hi] at hb
  cases hd : c.dirtyByte i with
  | some v =>
    rw [hd] at hb
    cases hb
    exact hc i hi _ hd
  | none =>
    rw [hd, Option.none_or, dirtyIn] at hb
    obtain ⟨l, hl, hb⟩ := Option.bind_eq_some_iff.1 hb
    obtain ⟨hmem, -, -, hat⟩ := findLine_some hl
    rw [← hat]
    exact h.lines l hmem i hi b hb

/-- The line that leaves an L1 stood in it. -/
theorem putLine_l1_cases (s : State) {c : CLine} (hl : c.l2 = false) : putLine s c = keepLine s c ∨
    ∃ x ∈ s.lines, putLine s c = keepLine (dropLine (if x.dirty = 0 ∧ x.tagDirty = 0 then s else toL2 s x) false x.unit x.line) c := by
  unfold putLine
  rw [if_neg (by simp [hl])]
  cases hout : outgoing s c (fun _ => true) with
  | none => exact .inl rfl
  | some x =>
    refine .inr ⟨x, ?_, rfl⟩
    unfold outgoing at hout
    split at hout
    · cases hout
    · dsimp only at hout
      split at hout
      · cases hout
      · have hx := List.mem_of_find?_eq_some hout
        exact (List.mem_filter.1 (List.mem_reverse.1 hx)).1

theorem FlowsHome.putLine (h : FlowsHome r s) (hc : DirtyFrom r c) : FlowsHome r (putLine s c) := by
  cases hl : c.l2 with
  | true =>
    have hput : Machine.putLine s c = Machine.putL2 s c := if_pos hl
    rw [hput]
    exact h.putL2 hc
  | false =>
    obtain hput | ⟨x, hx, hput⟩ := putLine_l1_cases s hl
    · rw [hput]
      exact h.keepLine hc
    · rw [hput]
      refine FlowsHome.keepLine (.dropLine ?_ ..) hc
      split
      · exact h
      · exact h.toL2 (h.lines x hx)

theorem FlowsHome.writeBack (h : FlowsHome r s) (hc : DirtyFrom r c) : FlowsHome r (writeBack s c) := by
  by_cases hd : c.dirty = 0 ∧ c.tagDirty = 0
  · have hsame : Machine.writeBack s c = s := if_pos hd
    rwa [hsame]
  · rw [writeBack_dirty hd]
    refine FlowsHome.putLine ?_ (dirtyFrom_of_clean rfl)
    split
    · exact h.toHome hc
    · exact h.toL2 hc

theorem FlowsHome.writeBacks (h : FlowsHome r s) (q : CLine → Bool) : FlowsHome r ((s.lines.filter q).foldl Machine.writeBack s) :=
  List.foldlRecOn _ _ h fun _ ht c hc => ht.writeBack (h.lines c (List.mem_filter.1 hc).1)

/-- A release at any depth, of any cores and lines. -/
theorem FlowsHome.releaseLines (h : FlowsHome r s) (cores : List Nat) (depth : Nat) (p : CLine → Bool) :
    FlowsHome r (releaseLines s cores depth p) := by
  unfold Machine.releaseLines
  split
  · exact h
  · dsimp only
    split
    · exact h.writeBacks _
    · exact (h.writeBacks _).writeBacks _

theorem FlowsHome.acquireLines (h : FlowsHome r s) (cores : List Nat) (depth : Nat) (p : CLine → Bool) :
    FlowsHome r (acquireLines s cores depth p) := by
  unfold Machine.acquireLines
  split
  · exact h
  · refine h.withLines (fun c hc => ?_) fun _ => rfl
    obtain ⟨l, hl, rfl⟩ := List.mem_map.1 (List.mem_filter.1 hc).1
    have hfrom := h.lines l hl
    split
    · exact hfrom
    · exact hfrom

end Sys2Proof.Machine
end

section
/-! Frames of the caches' operations: what moves between lines and homes leaves every other part of the state. -/
namespace Sys2Proof.Machine

variable {s : State} {xs : List StatePart}

theorem kept_withLines {ls : List CLine} : Kept [.lines] s { s with lines := ls } := by
  intro p hp
  cases p with
  | lines => simp at hp
  | _ => simp [Same, homeByte, State.team?, State.pair, State.die]

theorem kept_keepLine {c : CLine} : Kept [.lines] s (keepLine s c) := by
  rw [keepLine_eq]
  exact kept_withLines

theorem kept_dropLine {l2 : Bool} {u n : Nat} : Kept [.lines] s (dropLine s l2 u n) := kept_withLines

/-- Marks and tags beside memory's bytes are no part of their own. -/
theorem kept_withMarks {tags poison : List Nat} : Kept [] s { s with hbmTags := tags, hbmPoison := poison } := by
  intro p _
  cases p <;> simp [Same, homeByte, State.team?, State.pair, State.die]

theorem kept_wrMarked {a : Nat} {b : Byte} {mark : Bool} : Kept [.bytes] s (wrMarked s a b mark) := by
  unfold wrMarked
  dsimp only
  split
  · exact kept_wrHome.trans (kept_withMarks.mono (by simp))
  · exact kept_wrHome

theorem kept_toHome {c : CLine} : Kept [.bytes] s (toHome s c) := by
  unfold toHome
  exact (kept_foldl fun _ _ => kept_wrMarked).trans (kept_withMarks.mono (by simp))

theorem kept_putL2 {c : CLine} : Kept [.bytes, .lines] s (putL2 s c) := by
  obtain hput | ⟨x, -, -, -, -, hput⟩ := putL2_cases s c
  · rw [hput]
    exact kept_keepLine.mono (by simp)
  · rw [hput]
    exact (kept_toHome.mono (by simp)).trans ((kept_dropLine.trans kept_keepLine).mono (by simp))

theorem kept_toL2 {c : CLine} : Kept [.bytes, .lines] s (toL2 s c) := kept_putL2

theorem kept_putLine {c : CLine} : Kept [.bytes, .lines] s (putLine s c) := by
  cases hl : c.l2 with
  | true =>
    have hput : putLine s c = putL2 s c := if_pos hl
    rw [hput]
    exact kept_putL2
  | false =>
    obtain hput | ⟨x, -, hput⟩ := putLine_l1_cases s hl
    · rw [hput]
      exact kept_keepLine.mono (by simp)
    · rw [hput]
      refine Kept.trans ?_ ((kept_dropLine.trans kept_keepLine).mono (by simp))
      split
      · exact .refl s
      · exact kept_toL2

theorem kept_writeBack {c : CLine} : Kept [.bytes, .lines] s (writeBack s c) := by
  unfold writeBack
  split
  · exact .refl s
  · refine Kept.trans ?_ kept_putLine
    split
    · exact kept_toHome.mono (by simp)
    · exact kept_toL2

theorem kept_releaseLines {cores : List Nat} {depth : Nat} {p : CLine → Bool} :
    Kept [.bytes, .lines] s (releaseLines s cores depth p) := by
  unfold releaseLines
  split
  · exact .refl s
  · have hfold : ∀ (L : List CLine) (s : State), Kept [.bytes, .lines] s (L.foldl writeBack s) :=
      fun _ _ => kept_foldl fun _ _ => kept_writeBack
    dsimp only
    split
    · exact hfold _ s
    · exact (hfold _ s).trans (hfold _ _)

theorem kept_acquireLines {cores : List Nat} {depth : Nat} {p : CLine → Bool} : Kept [.lines] s (acquireLines s cores depth p) := by
  unfold acquireLines
  split
  · exact .refl s
  · exact kept_withLines

end Sys2Proof.Machine
end

section
/-! The deckle table and the hold lists: what an update leaves of them, and of every other part of the state (R89, R91). -/
namespace Sys2Proof.Machine

variable {s : State} {d e : Deckle}

theorem kept_withDeckles {ds : List Deckle} : Kept [.deckles] s { s with deckles := ds } := by
  intro p hp
  cases p with
  | deckles => simp at hp
  | _ => simp [Same, homeByte, State.team?, State.pair, State.die]

theorem kept_withHolds {hs : List Hold} : Kept [.holds] s { s with holds := hs } := by
  intro p hp
  cases p with
  | holds => simp at hp
  | _ => simp [Same, homeByte, State.team?, State.pair, State.die]

theorem sameEntry_iff : sameEntry d e = true ↔ d.ctx = e.ctx ∧ d.oid = e.oid ∧ d.base = e.base := by
  simp [sameEntry, and_assoc]

theorem kept_putDeckle : Kept [.deckles] s (putDeckle s d) := by
  unfold putDeckle
  split
  · exact kept_withDeckles
  · exact kept_withDeckles

theorem kept_delDeckle : Kept [.deckles] s (delDeckle s d) := kept_withDeckles

theorem kept_dropHold {ctx party oid base : Nat} : Kept [.holds] s (dropHold s ctx party oid base) := kept_withHolds

theorem holds_putDeckle : (putDeckle s d).holds = s.holds := by
  unfold putDeckle
  split <;> rfl

/-- An entry that is put stands in the table. -/
theorem mem_putDeckle : d ∈ (putDeckle s d).deckles := by
  unfold putDeckle
  split
  next h =>
    obtain ⟨e, he, hde⟩ := List.any_eq_true.1 h
    exact List.mem_map.2 ⟨e, he, if_pos hde⟩
  next => exact List.mem_append_right _ (List.mem_singleton.2 rfl)

/-- It replaces no entry but its own. -/
theorem mem_putDeckle_of_other (he : e ∈ s.deckles) (hn : sameEntry d e = false) : e ∈ (putDeckle s d).deckles := by
  unfold putDeckle
  split
  · exact List.mem_map.2 ⟨e, he, if_neg (by simp [hn])⟩
  · exact List.mem_append_left _ he

/-- A new entry goes to the end. -/
theorem deckles_putDeckle_new (h : ∀ e ∈ s.deckles, ¬(e.ctx = d.ctx ∧ e.oid = d.oid ∧ e.base = d.base)) :
    (putDeckle s d).deckles = s.deckles ++ [d] := by
  have hnone : s.deckles.any (sameEntry d) = false := List.any_eq_false.2 fun e he hde => by
    obtain ⟨h1, h2, h3⟩ := sameEntry_iff.1 hde
    exact h e he ⟨h1.symm, h2.symm, h3.symm⟩
  unfold putDeckle
  rw [if_neg (by simp [hnone])]

theorem mem_delDeckle : e ∈ (delDeckle s d).deckles ↔ e ∈ s.deckles ∧ sameEntry d e = false := by
  simp [delDeckle]

theorem mem_dropHold {ctx party oid base : Nat} {h : Hold} :
    h ∈ (dropHold s ctx party oid base).holds ↔ h ∈ s.holds ∧ isHold ctx party oid base 0 h = false := by
  simp [dropHold]

theorem heldBy_iff {p : Nat} : heldBy p d = true ↔ d.state = 1 ∧ d.holder = p := by
  simp [heldBy]

theorem anyPoisoned_false {rs : List Deckle} (h : ∀ d ∈ rs, d.state ≠ 5) : rs.any (fun d => decide (d.state = 5)) = false :=
  List.any_eq_false.2 fun d hd => by simpa using h d hd

theorem kept_releaseRegion {party scope ctx oid base len : Nat} :
    Kept [.bytes, .lines] s (releaseRegion s party scope ctx oid base len) := kept_releaseLines

theorem flowsHome_releaseRegion {r : State} (h : FlowsHome r s) (party scope ctx oid base len : Nat) :
    FlowsHome r (releaseRegion s party scope ctx oid base len) := h.releaseLines ..

/-- Parts other than lines and bytes do not touch what goes home. -/
theorem FlowsHome.kept {r t : State} {xs : List StatePart} (h : FlowsHome r s) (k : Kept xs s t)
    (hx : StatePart.lines ∉ xs ∧ StatePart.bytes ∉ xs) : FlowsHome r t :=
  h.withLines (fun c hc => h.lines c ((k .lines hx.1 : t.lines = s.lines) ▸ hc)) (k .bytes hx.2)

end Sys2Proof.Machine
end

section
/-! An ownership operation whose turn it is at its table home (R90): it is answered with what its performance comes to. -/
namespace Sys2Proof.Machine

variable {s t : State} {o : OwnOp} {p : Perf} {r : Nat} {i : Option (Nat × Nat × Nat × Nat)}

theorem kept_withOwnOps {os : List OwnOp} : Kept [.ownOps] s { s with ownOps := os } := by
  intro p hp
  cases p with
  | ownOps => simp at hp
  | _ => simp [Same, homeByte, State.team?, State.pair, State.die]

theorem kept_withPaths {ps : List PathWait} : Kept [] s { s with paths := ps } := by
  intro p _
  cases p <;> simp [Same, homeByte, State.team?, State.pair, State.die]

theorem kept_setGrid {n : Nat} {g : Grid} : Kept [.grids] s (s.setGrid n g) := by
  intro p hp
  cases p with
  | grids => simp at hp
  | _ => simp [Same, State.setGrid, homeByte, State.team?, State.pair, State.die]

theorem kept_releaseDeps : Kept [.grids] s (releaseDeps s) := by
  unfold releaseDeps
  split
  · refine kept_foldl fun s g => ?_
    unfold releaseDep State.updGrid
    split
    · exact .refl s
    · exact kept_setGrid
  · exact .refl s

/-- The status of an operation is due, with what it installs; its wait for a path has ended. -/
def answeredState (o : OwnOp) (p : Perf) : State :=
  let t := updOwn p.s o.id (fun o => { o with result := some (BitVec.ofNat 64 p.result), install := p.install, scope := p.scope })
  { t with paths := t.paths.filter (fun w => !decide (w.own = some o.id)) }

theorem kept_answeredState : Kept [.ownOps] p.s (answeredState o p) :=
  kept_withOwnOps.trans (kept_withPaths.mono (by simp))

/-- A performance's frame is that of its answer, but for the operation itself. -/
theorem kept_to_answeredState {xs : List StatePart} (h : Kept xs s p.s) :
    Kept (.ownOps :: xs) s (answeredState o p) :=
  (h.mono (List.subset_cons_self ..)).trans (kept_answeredState.mono (by simp))

/-- An operation whose turn it is and whose write-back is not stuck. -/
theorem execDeckleOperation_of_turn (h : HomeTurn s o) (hp : performOwn s o = p) (hstuck : p.result = 0 → stuckLine s o p.scope = none) :
    exec .deckleOperation s = .next (if o.kind = .atom then releaseDeps (answeredState o p) else answeredState o p) := by
  obtain ⟨hfind, hres, hcycle, hready, hlost⟩ := h
  have hexec : exec .deckleOperation s = match findOwn s s.arg.id with
      | none => .next s
      | some o => .next (deckleOp s o) := rfl
  have hout : ownOutcome s o = p := by rw [ownOutcome, hlost, if_neg Bool.false_ne_true, hp]
  have hnone : (if p.result = 0 then stuckLine s o p.scope else none) = none := by
    split
    next h0 => exact hstuck h0
    next => rfl
  have hturn : (o.result.isSome || decide ((s.die o.die).cycle < o.at_) || !ownReady s o) = false := by
    simp [hres, hready, hcycle]
  rw [hexec, hfind]
  simp only [deckleOp, hturn, hout, hnone, Bool.false_eq_true, if_false]
  rfl

theorem answered_answeredState (h : HomeTurn s o) (hq : p.s.ownOps = s.ownOps) :
    Answered s (answeredState o p) o p.result p.install := by
  obtain ⟨hfind, hres, -⟩ := h
  have hid : o.id = s.arg.id := by simpa using List.find?_some hfind
  rw [← hid] at hfind
  have hops : (answeredState o p).ownOps = updWhere (fun x => decide (x.id = o.id))
      (fun o => { o with result := some (BitVec.ofNat 64 p.result), install := p.install, scope := p.scope }) s.ownOps :=
    congrArg (updWhere _ _) hq
  refine ⟨{ o with result := some (BitVec.ofNat 64 p.result), install := p.install, scope := p.scope }, ?_, rfl, rfl, ?_, fun q hmem hne => ?_⟩
  · rw [findOwn, hops, updWhere, List.find?_map]
    have hsame : (fun x : OwnOp => decide (x.id = o.id)) ∘ (fun x => if decide (x.id = o.id) = true then
        { x with result := some (BitVec.ofNat 64 p.result), install := p.install, scope := p.scope } else x) =
        fun x => decide (x.id = o.id) := by
      funext x
      by_cases hx : x.id = o.id <;> simp [hx]
    have hfound : s.ownOps.find? (fun x => decide (x.id = o.id)) = some o := hfind
    rw [hsame, hfound]
    simp
  · rw [← hres]
  · rw [hops]
    exact List.mem_map.2 ⟨q, hmem, if_neg (by simpa using hne)⟩

theorem answered_of_ownOps {u : State} (h : Answered s t o r i) (hu : u.ownOps = t.ownOps) : Answered s u o r i := by
  unfold Answered findOwn at *
  rwa [hu]

/-- What the table home leaves of an operation that is not a DATOM. -/
theorem tableHome_performs (h : HomeTurn s o) (hkind : o.kind ≠ .atom) (hp : performOwn s o = p)
    (hstuck : p.result = 0 → stuckLine s o p.scope = none) (hq : p.s.ownOps = s.ownOps) :
    exec .deckleOperation s = .next (answeredState o p) ∧ Answered s (answeredState o p) o p.result p.install := by
  refine ⟨?_, answered_answeredState h hq⟩
  rw [execDeckleOperation_of_turn h hp hstuck, if_neg hkind]

theorem stuckLine_of_noRelease (h : o.kind.releases = false) (n : Nat) : stuckLine s o n = none := if_pos (by simp [h])

theorem stuckLine_of_clear (h : stuckDirty s (partyCores s o.party) (inRegion s o.ctx o.oid o.base o.len) = none) (n : Nat) :
    stuckLine s o n = none := by
  unfold stuckLine stuckIn
  split
  · rfl
  · exact h

/-- A status or value alone: the table stays as it is. -/
theorem tableHome_answers (h : HomeTurn s o) (hkind : o.kind ≠ .atom) (hp : performOwn s o = ownAnswer s r)
    (hr : r ≠ 0 ∨ o.kind.releases = false) :
    ∃ t, exec .deckleOperation s = .next t ∧ Answered s t o r none ∧ Kept [.ownOps] s t := by
  obtain ⟨ht, ha⟩ := tableHome_performs h hkind hp
    (fun h0 => stuckLine_of_noRelease (hr.resolve_left fun hne => hne h0) _) rfl
  exact ⟨_, ht, ha, kept_answeredState (p := ownAnswer s r)⟩

theorem tableHome_answers_atom (h : HomeTurn s o) (hkind : o.kind = .atom) (hp : performOwn s o = ownAnswer s r) (hr : r ≠ 0) :
    ∃ t, exec .deckleOperation s = .next t ∧ Answered s t o r none ∧ Kept [.ownOps, .grids] s t := by
  have hexec := execDeckleOperation_of_turn h hp fun h0 => absurd h0 hr
  rw [if_pos hkind] at hexec
  have hgrids : Kept [.grids] (answeredState o (ownAnswer s r)) (releaseDeps (answeredState o (ownAnswer s r))) := kept_releaseDeps
  have ha : Answered s (answeredState o (ownAnswer s r)) o r none := answered_answeredState (p := ownAnswer s r) h rfl
  have hops : Kept [.ownOps] s (answeredState o (ownAnswer s r)) := kept_answeredState (p := ownAnswer s r)
  exact ⟨_, hexec, answered_of_ownOps ha (hgrids .ownOps (by simp)), (hops.mono (by simp)).trans (hgrids.mono (by simp))⟩

/-- A new entry of the table, installed for the party: DCLAIM and DSHARE (R94). -/
theorem tableHome_enters {e : Deckle} {n : Nat} (h : HomeTurn s o) (hkind : o.kind ≠ .atom)
    (hp : performOwn s o = { s := putDeckle s e, result := 0, install := i, scope := n }) (hr : o.kind.releases = false)
    (hnew : ∀ d ∈ s.deckles, ¬(d.ctx = e.ctx ∧ d.oid = e.oid ∧ d.base = e.base)) :
    ∃ t, exec .deckleOperation s = .next t ∧ Answered s t o 0 i ∧ Kept [.ownOps, .deckles] s t ∧ t.deckles = s.deckles ++ [e] := by
  have hput : Kept [.deckles] s (putDeckle s e) := kept_putDeckle
  obtain ⟨ht, ha⟩ := tableHome_performs h hkind hp (fun _ => stuckLine_of_noRelease hr _) (hput .ownOps (by simp))
  exact ⟨_, ht, ha, kept_to_answeredState hput, deckles_putDeckle_new hnew⟩

end Sys2Proof.Machine
end

section
/-! What each kind of ownership operation comes to, case by case (R94, R228). -/
namespace Sys2Proof.Machine

variable {s : State} {o : OwnOp} {d : Deckle}

theorem regionsIn_mem_state {ctx oid base len : Nat} (h : ∃ d ∈ regionsIn s ctx oid base len, d.state = 5) :
    (regionsIn s ctx oid base len).any (fun d => decide (d.state = 5)) = true := by
  obtain ⟨d, hd, h5⟩ := h
  exact List.any_eq_true.2 ⟨d, hd, by simpa using h5⟩

theorem ownClaim_free (h : regionsIn s o.ctx o.oid o.base o.len = []) : ownClaim s o false =
    { s := putDeckle s { ctx := o.ctx, oid := o.oid, base := o.base, len := o.len, state := 1, holder := o.party }
      result := 0, install := some (o.party, 0, o.base, o.len), scope := 5 } := by
  simp [ownClaim, h]

theorem ownClaim_poisoned (h : ∃ d ∈ regionsIn s o.ctx o.oid o.base o.len, d.state = 5) : ownClaim s o false = ownAnswer s 7 :=
  if_pos (regionsIn_mem_state h)

theorem ownClaim_taken (hne : regionsIn s o.ctx o.oid o.base o.len ≠ []) (h5 : ∀ d ∈ regionsIn s o.ctx o.oid o.base o.len, d.state ≠ 5)
    (hmine : ∀ d ∈ regionsIn s o.ctx o.oid o.base o.len, ¬(d.state = 1 ∧ d.holder = o.party ∧ d.base = o.base ∧ d.len = o.len)) :
    ownClaim s o false = ownAnswer s 1 := by
  have hnot : (regionsIn s o.ctx o.oid o.base o.len).any
      (fun d => heldBy o.party d && decide (d.base = o.base) && decide (d.len = o.len)) = false :=
    List.any_eq_false.2 fun d hd hall => hmine d hd (by
      simpa only [Bool.and_eq_true, heldBy_iff, decide_eq_true_eq, and_assoc] using hall)
  unfold ownClaim
  dsimp only
  rw [anyPoisoned_false h5, hnot]
  simp [hne]

theorem ownShare_free (h : regionsIn s o.ctx o.oid o.base o.len = []) : ∃ n, ownShare s o false =
    { s := putDeckle s { ctx := o.ctx, oid := o.oid, base := o.base, len := o.len, state := 2, shares := 1 }
      result := 0, install := some (o.party, 1, o.base, o.len), scope := n } := by
  unfold ownShare
  rw [h]
  exact ⟨_, rfl⟩

theorem ownUnshare_unheld (h : ∀ d, regionExact s o.ctx o.oid o.base o.len = some d → sharesOf s o.ctx o.party o.oid d.base = none) :
    ownUnshare s o = ownAnswer s 8 := by
  unfold ownUnshare
  cases hr : regionExact s o.ctx o.oid o.base o.len with
  | none => rfl
  | some d => simp only [h d hr]

theorem queryValue_eq (ctx oid off : Nat) : queryValue s ctx oid off =
    if (readObj s ctx oid).imm then 0 else match (regionsIn s ctx oid off 1).head? with
      | none => 0
      | some d => d.holder % 2 ^ 32 + d.shares % 2 ^ 16 * 2 ^ 32 + d.state % 2 ^ 4 * 2 ^ 48 + d.lend.length % 2 ^ 4 * 2 ^ 52 := by
  unfold queryValue regionAt
  by_cases hi : (readObj s ctx oid).imm = true
  · rw [if_pos hi, if_pos hi]
  · rw [if_neg hi, if_neg hi]
    cases (regionsIn s ctx oid off 1).head? with
    | none => rfl
    | some d =>
      show at_ d.lend.length 52 4 + at_ d.state 48 4 + at_ d.shares 32 16 + at_ d.holder 0 32 = _
      simp only [at_]
      omega

theorem ownLend_noRegion (h5 : ∀ d ∈ regionsIn s o.ctx o.oid o.base o.len, d.state ≠ 5)
    (hr : regionExact s o.ctx o.oid o.base o.len = none) : ownLend s o false = ownAnswer s 2 := by
  unfold ownLend
  rw [anyPoisoned_false h5, if_neg Bool.false_ne_true, hr]

/-! The operation by its kind, of an object of this module. -/

theorem performOwn_claim (hk : o.kind = .claim) (hfar : isFarObj s o.ctx o.oid = false) : performOwn s o = ownClaim s o false := by
  simp only [performOwn, hk, hfar]

theorem performOwn_park (hk : o.kind = .park) (hfar : isFarObj s o.ctx o.oid = false) : performOwn s o = ownPark s o false := by
  simp only [performOwn, hk, hfar]

theorem performOwn_lend (hk : o.kind = .lend) (hfar : isFarObj s o.ctx o.oid = false) : performOwn s o = ownLend s o false := by
  simp only [performOwn, hk, hfar]

theorem performOwn_share (hk : o.kind = .share) (hfar : isFarObj s o.ctx o.oid = false) : performOwn s o = ownShare s o false := by
  simp only [performOwn, hk, hfar]

theorem performOwn_unshare (hk : o.kind = .unshare) : performOwn s o = ownUnshare s o := by simp only [performOwn, hk]

theorem performOwn_query (hk : o.kind = .query) : performOwn s o = ownAnswer s (queryValue s o.ctx o.oid o.base) := by
  simp only [performOwn, hk]

/-- DPARK, DRETURN, DATOM and DSPLIT of no region. -/
theorem performOwn_noRegion (hk : o.kind = .park ∨ o.kind = .dreturn ∨ o.kind = .atom ∨ o.kind = .split)
    (hr : regionExact s o.ctx o.oid o.base o.len = none) (ha : regionAt s o.ctx o.oid o.base = none) : performOwn s o = ownAnswer s 2 := by
  unfold performOwn
  obtain hk | hk | hk | hk := hk
  · simp only [hk, ownPark, hr]
  · simp only [hk, ownReturn, hr]
  · simp only [hk, ownAtom, hr]
  · simp only [hk, ownSplit, ha]

/-- Each case of R94 is one of `tableHome_answers` and `tableHome_enters`. -/
theorem tableHomeAnswers : TableHomeAnswersHold := by
  intro s o h hfar rs kept
  refine ⟨fun hk => ?_, fun hk hrs hnew => ?_, fun hk hno => ?_, fun hk => ?_, fun hk hr ha => ?_, fun hk h5 hr => ?_⟩
  · have hatom : o.kind ≠ .atom := by rw [hk]; decide
    have hrel : o.kind.releases = false := by rw [hk]; rfl
    have hperf := performOwn_claim hk hfar
    refine ⟨fun hrs hnew => ?_, fun h5 => ?_, fun hne h5 hmine => ?_⟩
    · exact tableHome_enters h hatom (hperf.trans (ownClaim_free hrs)) hrel hnew
    · exact tableHome_answers h hatom (hperf.trans (ownClaim_poisoned h5)) (.inr hrel)
    · exact tableHome_answers h hatom (hperf.trans (ownClaim_taken hne h5 hmine)) (.inr hrel)
  · obtain ⟨n, hn⟩ := ownShare_free (s := s) (o := o) hrs
    exact tableHome_enters h (by rw [hk]; decide) ((performOwn_share hk hfar).trans hn) (by rw [hk]; rfl) hnew
  · exact tableHome_answers h (by rw [hk]; decide) ((performOwn_unshare hk).trans (ownUnshare_unheld hno)) (.inl (by decide))
  · obtain ⟨t, ht, ha, hkept⟩ := tableHome_answers h (by rw [hk]; decide) (performOwn_query hk) (.inr (by rw [hk]; rfl))
    rw [queryValue_eq] at ha
    exact ⟨t, ht, hkept, ha⟩
  · have hperf := performOwn_noRegion hk hr ha
    by_cases hatom : o.kind = .atom
    · rw [if_pos hatom]
      exact tableHome_answers_atom h hatom hperf (by decide)
    · rw [if_neg hatom]
      exact tableHome_answers h hatom hperf (.inl (by decide))
  · exact tableHome_answers h (by rw [hk]; decide) ((performOwn_lend hk hfar).trans (ownLend_noRegion h5 hr)) (.inl (by decide))

/-- The party of the operation has given its region up: its lines have gone home and its hold is dropped; the table is as it was. -/
structure GivenUp (s : State) (o : OwnOp) (q : State) : Prop where
  kept : Kept [.bytes, .lines, .holds] s q
  home : FlowsHome s q
  holds : ∀ h ∈ q.holds, isHold o.ctx o.party o.oid o.base 0 h = false

theorem givenUp_release (s : State) (o : OwnOp) (n : Nat) :
    GivenUp s o (dropHold (releaseRegion s o.party n o.ctx o.oid o.base o.len) o.ctx o.party o.oid o.base) where
  kept := (kept_releaseRegion.mono (by simp)).trans (kept_dropHold.mono (by simp))
  home := (flowsHome_releaseRegion (.refl s) ..).kept kept_dropHold (by simp)
  holds := fun _ hh => (mem_dropHold.1 hh).2

/-- A lend of a held region to a live party of this module. -/
theorem ownLend_held (hd : regionExact s o.ctx o.oid o.base o.len = some d) (hstate : d.state = 1) (hholder : d.holder = o.party)
    (htarget : o.target ≠ o.party) (hlive : partyLive s o.ctx o.target = true) (hkind : partyKind o.target ≠ 8)
    (hdepth : d.lend.length < 4) (h5 : ∀ e ∈ regionsIn s o.ctx o.oid o.base o.len, e.state ≠ 5) :
    ∃ q n, GivenUp s o q ∧ ownLend s o false =
      { s := putDeckle q { d with holder := o.target, lend := d.lend ++ [o.party] }
        result := 0, install := some (o.target, 0, o.base, o.len), scope := n } := by
  refine ⟨_, transferScope s o.party o.target false, givenUp_release s o (transferScope s o.party o.target false), ?_⟩
  unfold ownLend
  rw [anyPoisoned_false h5, if_neg Bool.false_ne_true, hd]
  simp only [heldBy_iff.2 ⟨hstate, hholder⟩, htarget, hlive, hkind, Nat.not_le.2 hdepth, Bool.not_true, Bool.false_eq_true, if_false]

/-- A park of a held region with no lender. -/
theorem ownPark_held (hd : regionExact s o.ctx o.oid o.base o.len = some d) (hstate : d.state = 1) (hholder : d.holder = o.party)
    (hlend : d.lend = []) : ∃ q, GivenUp s o q ∧ ownPark s o false = ownAnswer (delDeckle q d) 0 := by
  refine ⟨_, givenUp_release s o 5, ?_⟩
  unfold ownPark
  rw [hd]
  simp [heldBy_iff.2 ⟨hstate, hholder⟩, hlend]

variable {q : State}

theorem other_of_not_same {x : Deckle} (h : ¬(x.ctx = d.ctx ∧ x.oid = d.oid ∧ x.base = d.base)) : sameEntry d x = false :=
  Bool.eq_false_iff.2 fun hsame => by
    obtain ⟨h1, h2, h3⟩ := sameEntry_iff.1 hsame
    exact h ⟨h1.symm, h2.symm, h3.symm⟩

/-- What a transfer that changes one entry of the table leaves, once its status is due. -/
theorem GivenUp.transfer {p : Perf} (hq : GivenUp s o q) (hp : Kept [.deckles] q p.s) (hholds : p.s.holds = q.holds) :
    (∀ h ∈ (answeredState o p).holds, isHold o.ctx o.party o.oid o.base 0 h = false) ∧ WrittenBack s (answeredState o p) ∧
      Kept [.ownOps, .deckles, .holds, .bytes, .lines] s (answeredState o p) := by
  have hkept : Kept [.bytes, .lines, .holds, .deckles] s p.s := (hq.kept.mono (by simp)).trans (hp.mono (by simp))
  have hhome : FlowsHome s (answeredState o p) := (hq.home.kept hp (by simp)).kept kept_answeredState (by simp)
  exact ⟨fun h hh => hq.holds h (hholds ▸ hh), hhome.homes, (kept_to_answeredState hkept).mono (by simp)⟩

/-- The region's lines go home (`FlowsHome.releaseLines`), the party's hold goes, and one entry changes. -/
theorem lendAndParkTransfer : LendAndParkTransferHold := by
  intro s o d h hd hfar hstate hholder hclear
  have hstuck : ∀ n, stuckLine s o n = none := stuckLine_of_clear hclear
  refine ⟨fun hk htarget hlive hkind hdepth h5 => ?_, fun hk hlend => ?_⟩
  · obtain ⟨q, n, hq, hlent⟩ := ownLend_held hd hstate hholder htarget hlive hkind hdepth h5
    have hput : Kept [.deckles] q (putDeckle q { d with holder := o.target, lend := d.lend ++ [o.party] }) := kept_putDeckle
    have hdeckles : q.deckles = s.deckles := hq.kept .deckles (by simp)
    obtain ⟨ht, ha⟩ := tableHome_performs h (by rw [hk]; decide) ((performOwn_lend hk hfar).trans hlent) (fun _ => hstuck _)
      ((hq.kept .ownOps (by simp)).trans (hput .ownOps (by simp)))
    refine ⟨_, ht, ha, mem_putDeckle (s := q), fun x hx hne => ?_, hq.transfer hput holds_putDeckle⟩
    exact mem_putDeckle_of_other (s := q) (hdeckles ▸ hx) (other_of_not_same hne)
  · obtain ⟨q, hq, hparked⟩ := ownPark_held hd hstate hholder hlend
    have hdel : Kept [.deckles] q (delDeckle q d) := kept_delDeckle
    have hdeckles : q.deckles = s.deckles := hq.kept .deckles (by simp)
    obtain ⟨ht, ha⟩ := tableHome_performs h (by rw [hk]; decide) ((performOwn_park hk hfar).trans hparked) (fun _ => hstuck _)
      ((hq.kept .ownOps (by simp)).trans (hdel .ownOps (by simp)))
    refine ⟨_, ht, ha, fun x hx hsame => ?_, fun x hx hne => ?_, hq.transfer (p := ownAnswer (delDeckle q d) 0) hdel rfl⟩
    · have hother := (mem_delDeckle (s := q).1 hx).2
      rw [sameEntry_iff.2 ⟨hsame.1.symm, hsame.2.1.symm, hsame.2.2.symm⟩] at hother
      cases hother
    · exact mem_delDeckle (s := q).2 ⟨hdeckles ▸ hx, other_of_not_same hne⟩

/-- Settles O25: each answer by what the operation comes to, and the transfers by what a release of the region's lines leaves. -/
theorem ownershipAtTheTableHome : Obligations.OwnershipAtTheTableHome := ⟨tableHomeAnswers, lendAndParkTransfer⟩

end Sys2Proof.Machine
end

section
/-! A unit of a group that issues alone: the state as its effect begins, what its end leaves, and the frame of both (R34, R154, R315). -/
namespace Sys2Proof.Machine

variable {s t u p q e : State} {c : Ctx} {xs : List StatePart}

/-! Steps of an issue: they change the issuing group, and of the dies what stands beside their own state. -/

/-- Of every die its own state and its pairs' purses are as before. -/
def DiesKept (s t : State) : Prop := ∀ d, (t.die d).own = (s.die d).own ∧ (t.die d).pairs = (s.die d).pairs

theorem DiesKept.refl (s : State) : DiesKept s s := fun _ => ⟨rfl, rfl⟩

theorem DiesKept.trans (h : DiesKept s t) (k : DiesKept t u) : DiesKept s u :=
  fun d => ⟨(k d).1.trans (h d).1, (k d).2.trans (h d).2⟩

theorem diesKept_updDie {d : Nat} {f : Die → Die} (hf : ∀ x, (f x).own = x.own ∧ (f x).pairs = x.pairs) : DiesKept s (s.updDie d f) := by
  intro k
  rw [State.die_updDie]
  split
  next h => rw [h]; exact hf _
  next => exact ⟨rfl, rfl⟩

theorem diesKept_updTeam {d h : Nat} {f : Team → Team} : DiesKept s (s.updTeam d h f) := by
  unfold State.updTeam
  split
  · exact .refl s
  · exact diesKept_updDie fun _ => ⟨rfl, rfl⟩

theorem diesKept_updGroup {d h g : Nat} {f : Group → Group} : DiesKept s (s.updGroup d h g f) := by
  unfold State.updGroup
  split
  · exact .refl s
  · exact diesKept_updTeam

theorem diesKept_endRun : DiesKept s (endRun s c) := by
  refine DiesKept.trans ?_ diesKept_updGroup
  unfold endStep
  split
  · exact diesKept_updDie fun _ => ⟨rfl, rfl⟩
  · exact .refl s

theorem diesKept_begun (u : UnitOp) : DiesKept s (begun u c s) := by
  have hpath : DiesKept s { (dropPathWait s c) with issues := s.issues + 1 } := by
    unfold dropPathWait
    split <;> exact fun _ => ⟨rfl, rfl⟩
  exact hpath.trans (DiesKept.trans diesKept_updTeam diesKept_updTeam)

/-- The issuing group alone, of the teams, and no die's own state. -/
structure IssueKept (c : Ctx) (s t : State) : Prop where
  groups : GroupsOnly (fun d h k => (d, h, k) = (c.die, c.handle, c.grp)) s t
  dies : DiesKept s t

theorem IssueKept.refl (s : State) : IssueKept c s s := ⟨.refl _ s, .refl s⟩

theorem IssueKept.trans (h : IssueKept c s t) (k : IssueKept c t u) : IssueKept c s u := ⟨h.groups.trans k.groups, h.dies.trans k.dies⟩

theorem issueKept_begun (u : UnitOp) : IssueKept c s (begun u c s) := ⟨groupsOnly_begun u c s rfl, diesKept_begun u⟩

theorem issueKept_commit {k : Ctx} (f : Group → Group) (hk : (k.die, k.handle, k.grp) = (c.die, c.handle, c.grp)) :
    IssueKept c s (k.commit s f) := ⟨groupsOnly_setGroup s _ _ _ _ hk, diesKept_updTeam⟩

theorem issueKept_endRun : IssueKept c s (endRun s c) := ⟨groupsOnly_endRun s c rfl, diesKept_endRun⟩

theorem IssueKept.kept (h : IssueKept c s t) : Kept [.teams] s t := by
  obtain ⟨⟨he, hstore, -, -⟩, hdies⟩ := h
  intro p hp
  cases p with
  | teams => simp at hp
  | stores => exact hstore
  | pairs => exact fun d k => congrArg (tget · k ({} : Pair)) (hdies d).2
  | dies => exact fun d => (hdies d).1
  | _ => rw [he]; simp [Same, homeByte]

theorem IssueKept.others (h : IssueKept c s t) : OthersKept s t c := by
  obtain ⟨⟨-, -, -, hothers⟩, -⟩ := h
  exact hothers

/-! The price. -/

theorem payIssue_zero (s : State) (c : Ctx) : payIssue s c 0 = s := if_pos rfl

theorem kept_setPair {d k : Nat} {x : Pair} : Kept [.pairs] s (s.setPair d k x) := by
  have hdie : ∀ e, ((s.setPair d k x).die e).own = (s.die e).own := fun e => by
    unfold State.setPair
    rw [State.die_updDie]
    split
    next h => rw [h]; rfl
    next => rfl
  intro p hp
  cases p with
  | pairs => simp at hp
  | dies => exact hdie
  | _ => simp [Same, homeByte, State.setPair, State.team?_updDie]

theorem kept_charge {x k n : Nat} : Kept [.bytes, .counters] s (charge s x k n) := by
  unfold charge writeEnergy
  split
  · exact .refl s
  · split
    · intro p hp
      cases p with
      | counters => simp at hp
      | _ => simp [Same, homeByte, State.team?, State.pair, State.die]
    · exact kept_wrHomes.mono (by simp)

theorem kept_payIssue (c : Ctx) (n : Nat) : Kept [.pairs, .bytes, .counters] s (payIssue s c n) := by
  unfold payIssue
  split
  · exact .refl s
  · exact (kept_setPair.mono (by simp)).trans (kept_charge.mono (by simp))

/-! The unit. -/

variable {v : UnitOp} {i : Instr} {g g' : Group}

/-- A unit with W = 0 of a group alone passes its checks. -/
structure PassesAlone (i : Instr) (s : State) (c : Ctx) (v : UnitOp) : Prop where
  exec : exec i s = issue v s
  issuer : issuerCtx s v.h = some c
  may : mayPerform s c v.h v.w v.refs v.price v.ret = true
  single : v.w = false
  alone : c.alone = true
  row3 : v.row3 c s = none
  gate : v.gate c s = .go
  act : v.uniform = true → c.act ≠ 0

/-- It runs its effect from the state that its issue has begun, and its run ends. -/
theorem exec_alone (hu : PassesAlone i s c v) :
    exec i s = .next (endRun (v.effect (startUnit (payIssue s c v.price) v c) (begun v c (payIssue s c v.price))) c) := by
  obtain ⟨hi, hc, hm, hw, ha, hrow, hg, hact⟩ := hu
  obtain ⟨j, hj⟩ := issuerCtx_mk hc
  obtain ⟨hteam, hgroup, -⟩ := mkCtx_team hj
  have hrefresh : c.refresh (payIssue s c v.price) = c := refresh_eq ((payIssue_team? ..).trans hteam) hgroup
  have hdo : ¬(v.uniform = true ∧ c.act = 0) := fun h => hact h.1 h.2
  rw [hi, issue_alone hc hm ha hrow (.inr hg), hrefresh, complete_eq]
  simp only [if_neg hdo, hw, Bool.false_eq_true, if_false]

/-- The frame of a unit alone: its price, the issue, what its effect changes beside the group, and the end of its run. -/
theorem unitKept_alone (hpay : Kept (.teams :: .pairs :: xs) s p) (hteams : ∀ d h, p.team? d h = s.team? d h)
    (hq : Kept xs (begun v c p) q) (hx : StatePart.teams ∉ xs) (he : IssueKept c q e) : UnitKept xs s (endRun e c) c := by
  have hbegun : IssueKept c p (begun v c p) := issueKept_begun v
  have hend : IssueKept c q (endRun e c) := he.trans issueKept_endRun
  refine ⟨?_, fun d h k hk => ?_⟩
  · exact hpay.trans ((hbegun.kept.mono (by simp)).trans ((hq.mono (by simp)).trans (hend.kept.mono (by simp))))
  · calc (endRun e c).group? d h k = q.group? d h k := hend.others d h k hk
      _ = (begun v c p).group? d h k := State.group?_of_team (hq .teams hx d h)
      _ = p.group? d h k := hbegun.others d h k hk
      _ = s.group? d h k := State.group?_of_team (hteams d h)

/-- The issuing group as the effect begins, and after what it changes beside teams. -/
theorem group_begun (hc : issuerCtx s v.h = some c) (hteams : ∀ d h, p.team? d h = s.team? d h) (hq : Kept xs (begun v c p) q)
    (hx : StatePart.teams ∉ xs) : q.group? c.die c.handle c.grp = some (startUnit p v c).g := by
  obtain ⟨j, hj⟩ := issuerCtx_mk hc
  obtain ⟨hteam, -⟩ := mkCtx_team hj
  rw [State.group?_of_team (hq .teams hx c.die c.handle)]
  refine begun_group v ?_
  rw [hteams, hteam]
  rfl

theorem group_commit {k : Ctx} {x : Group} (f : Group → Group) (h : s.group? k.die k.handle k.grp = some x) :
    (k.commit s f).group? k.die k.handle k.grp = some (f k.g) := by
  have hteam : (s.team? k.die k.handle).isSome = true := by
    unfold State.group? at h
    cases ht : s.team? k.die k.handle with
    | none => rw [ht] at h; cases h
    | some _ => rfl
  exact (State.group?_setGroup ..).trans (if_pos ⟨rfl, rfl, rfl, hteam⟩)

/-- The group after the end of its run: as the effect left it, but for splits and latches. -/
theorem group_endRun (h : e.group? c.die c.handle c.grp = some g) :
    ∃ g', (endRun e c).group? c.die c.handle c.grp = some g' ∧ SplitsOnly g' (latchesClear g) := endRun_group h

theorem SplitsOnly.pendScalars {a b : Group} (h : SplitsOnly a b) : a.pendScalars = b.pendScalars := by
  unfold SplitsOnly at h
  rw [h]

theorem started_pendScalars (p : State) (v : UnitOp) (c : Ctx) : (startUnit p v c).g.pendScalars = c.g.pendScalars := by
  have hput : ∀ (g : Group) (x : Option Split), (g.putSlot c.slot x).pendScalars = g.pendScalars := fun g x =>
    (splitsOnly_putSlot g c.slot x).pendScalars
  unfold startUnit
  dsimp only
  rw [hput]
  split <;> rfl

/-- The run of a unit with W = 0 is over as its effect begins. -/
theorem started_run (hw : v.w = false) : (startUnit p v c).g.run = none := by
  unfold startUnit
  dsimp only
  rw [if_neg (by simp [hw])]

/-- A group whose registers the effect left. -/
theorem regsKept_alone (hw : v.w = false) (hg : SameRegs g (startUnit p v c).g) (hrun : g.run = (startUnit p v c).g.run)
    (h : SplitsOnly g' (latchesClear g)) : RegsKept c g' := by
  obtain ⟨⟨h1, h2, h3, h4, h5, h6⟩, -, hvalid, hrun'⟩ := h.regs
  obtain ⟨k1, k2, k3, k4, k5, k6⟩ := hg.trans (started_g p v c c.team).1
  exact ⟨h1.trans k1, h2.trans k2, h3.trans k3, ⟨h4.trans k4, h5.trans k5⟩, h6.trans k6,
    hrun'.trans (hrun.trans (started_run hw)), hvalid⟩

theorem getLsbD_setPending (g : Group) (r i : Nat) :
    (setPending g r).pendScalars.getLsbD i = (g.pendScalars.getLsbD i || (decide (i = r) && decide (i < 16))) := by
  have hpend : (setPending g r).pendScalars = g.pendScalars ||| (1#16 <<< r) := rfl
  rw [hpend, BitVec.getLsbD_or, BitVec.getLsbD_shiftLeft, BitVec.getLsbD_one]
  by_cases hi : i < 16
  · by_cases hr : i = r
    · simp [hr, hr ▸ hi]
    · by_cases hlt : i < r
      · simp [hr, hlt]
      · have : ¬i - r = 0 := by omega
        simp [hr, this]
  · simp [hi]

/-- A group with one more scalar pending and its registers as they were. -/
theorem pending_alone {r : Nat} (hw : v.w = false) (h : SplitsOnly g' (latchesClear (setPending (startUnit p v c).g r))) :
    RegsKept c g' ∧ PendingToo c g' r := by
  refine ⟨regsKept_alone (p := p) hw (g := setPending (startUnit p v c).g r) (.refl _) rfl h, fun i => ?_⟩
  have hpend : g'.pendScalars = (setPending (startUnit p v c).g r).pendScalars := h.pendScalars
  rw [hpend, getLsbD_setPending, started_pendScalars]

/-- A unit alone whose effect sets one scalar pending, beside what it changes outside teams. -/
theorem completes_pending {r : Nat} (hu : PassesAlone i s c v) (hprice : v.price = 0)
    (heffect : v.effect (startUnit s v c) (begun v c s) = (startUnit s v c).commit q (fun g => setPending g r))
    (hq : Kept xs (begun v c s) q) (hx : StatePart.teams ∉ xs) :
    ∃ t g', Completes i s t c g' ∧ RegsKept c g' ∧ PendingToo c g' r ∧ UnitKept xs s t c ∧ IssueKept c q t := by
  have hexec := exec_alone hu
  rw [hprice, payIssue_zero, heffect] at hexec
  have hcommit : IssueKept c q ((startUnit s v c).commit q (fun g => setPending g r)) := issueKept_commit _ rfl
  have hgroup := group_begun hu.issuer (fun _ _ => rfl) hq hx
  obtain ⟨g', hg', hsplits⟩ := group_endRun (c := c) (group_commit (k := startUnit s v c) (fun g => setPending g r) hgroup)
  obtain ⟨hregs, hpend⟩ := pending_alone hu.single hsplits
  exact ⟨_, g', ⟨hexec, hg'⟩, hregs, hpend, unitKept_alone (.refl s) (fun _ _ => rfl) hq hx hcommit, hcommit.trans issueKept_endRun⟩

end Sys2Proof.Machine
end

section
/-! An ownership instruction leaves for the table home with its scalar pending (R92, R227 to R229). -/
namespace Sys2Proof.Machine

variable {s : State} {c : Ctx}

/-- A step of an issue leaves the ownership operations, the counter of fresh names and the dies' clocks. -/
theorem IssueKept.nextId {t : State} (h : IssueKept c s t) : t.nextId = s.nextId := by
  obtain ⟨⟨heq, -⟩, -⟩ := h
  rw [heq]

theorem IssueKept.ownOps {t : State} (h : IssueKept c s t) : t.ownOps = s.ownOps := h.kept .ownOps (by decide)

theorem IssueKept.cycle {t : State} (h : IssueKept c s t) (d : Nat) : (t.die d).cycle = (s.die d).cycle := by
  have hown : (t.die d).own.cycle = (s.die d).own.cycle := congrArg Die.cycle (h.dies d).1
  exact hown

theorem kept_withNextId {n : Nat} : Kept [] s { s with nextId := n } := by
  intro p _
  cases p <;> simp [Same, homeByte, State.team?, State.pair, State.die]

/-- What an ownership instruction sends to the table home. -/
def ownSent (s : State) (c : Ctx) (k : OwnKind) (x : DopU) : OwnOp :=
  { id := s.nextId, kind := k, ctx := c.team.ctx, party := actor c x.team, die := c.die, handle := c.handle, grp := c.grp
    oid := (c.cap x.c).oid.toNat, base := (c.cap x.c).base.toNat + ownOff c x.a
    len := if k = .split ∨ k = .join then 0 else (c.cap x.c).len.toNat - ownOff c x.a
    target := readS c.g x.r % 2 ^ 32, reg := x.r, at_ := (s.die c.die).cycle + 1 }

/-- A state whose table homes have one operation more. -/
def withOwnSent (s : State) (o : OwnOp) : State := { s with nextId := s.nextId + 1, ownOps := s.ownOps ++ [o] }

theorem kept_withOwnSent {o : OwnOp} : Kept [.ownOps] s (withOwnSent s o) :=
  (kept_withNextId.mono (by simp)).trans (kept_withOwnOps (s := { s with nextId := s.nextId + 1 }))

theorem ownStart_eq (k : OwnKind) (x : DopU) (c : Ctx) (s : State) :
    ownStart k x c s = c.commit (withOwnSent s (ownSent s c k x)) (fun g => setPending g x.r) := by
  cases k <;> rfl

theorem started_offS (p : State) (v : UnitOp) (a : SSrc) (o40 : Bool) : (startUnit p v c).offS o40 a = c.offS o40 a := by
  cases a with
  | s i => exact congrArg (· % if o40 then 2 ^ 40 else 2 ^ 32) (started_readS p v c c.team i)
  | _ => rfl

/-- The start of the unit's run changes nothing that the operation names. -/
theorem ownSent_begun (v : UnitOp) (k : OwnKind) (x : DopU) : ownSent (begun v c s) (startUnit s v c) k x = ownSent s c k x := by
  have hissue : IssueKept c s (begun v c s) := issueKept_begun v
  have hcap : (startUnit s v c).cap x.c = c.cap x.c := started_cap s v c c.team x.c
  have hreg : readS (startUnit s v c).g x.r = readS c.g x.r := started_readS s v c c.team x.r
  have hoff : ownOff (startUnit s v c) x.a = ownOff c x.a := started_offS s v x.a true
  unfold ownSent
  rw [hissue.nextId, hissue.cycle, hcap, hreg, hoff]
  rfl

/-- Each mnemonic issues the unit of its kind. -/
theorem exec_own {e : OwnKind × (DopU → Instr)} (he : e ∈ ownMnemonics) (x : DopU) : exec (e.2 x) s = issue (ownUnit e.1 x) s := by
  simp only [ownMnemonics, List.mem_cons, List.not_mem_nil, or_false] at he
  rcases he with h | h | h | h | h | h | h | h | h | h <;> (subst h; rfl)

/-- An ownership unit that passes its checks. -/
theorem own_leaves {i : Instr} {k : OwnKind} {x : DopU} (hu : PassesAlone i s c (ownUnit k x)) :
    ∃ t g', Completes i s t c g' ∧ RegsKept c g' ∧ PendingToo c g' x.r ∧ UnitKept [.ownOps] s t c ∧
      t.ownOps = s.ownOps ++ [ownSent s c k x] := by
  have heffect : (ownUnit k x).effect (startUnit s (ownUnit k x) c) (begun (ownUnit k x) c s) =
      (startUnit s (ownUnit k x) c).commit (withOwnSent (begun (ownUnit k x) c s) (ownSent s c k x)) (fun g => setPending g x.r) :=
    (ownStart_eq ..).trans (by rw [ownSent_begun])
  obtain ⟨t, g', hdone, hregs, hpend, hkept, hissue⟩ :=
    completes_pending hu rfl heffect kept_withOwnSent (by decide)
  have hops : t.ownOps = (begun (ownUnit k x) c s).ownOps ++ [ownSent s c k x] := hissue.ownOps
  rw [(issueKept_begun (c := c) (s := s) _).ownOps] at hops
  exact ⟨t, g', hdone, hregs, hpend, hkept, hops⟩

/-- DQUERY.self writes the party at once. -/
theorem dquerySelf_done {x : DselfU} (hp : Performs s c x.h false (sName x.d) 0) :
    ScalarDone (.dquerySelf x) s c x.d (actor c x.team % 2 ^ 64) 0 :=
  uniUnit_done (v := fun c => actor c x.team) (fl := fun _ => 0) rfl (fun _ _ => (raise_zero _).symm) hp
    (fun _ _ _ => rfl) (fun _ _ _ => rfl)

/-- Settles O24: the issue's steps change neither the operands nor the table homes' list, so the operation that the unit appends
is the one its registers name. -/
theorem ownershipInstructionsLeave : Obligations.OwnershipInstructionsLeave := by
  unfold Obligations.OwnershipInstructionsLeave
  intro s c ha
  refine ⟨fun e he x hp hact hgo => ?_, fun x hp => dquerySelf_done hp⟩
  obtain ⟨hc, hm⟩ := hp
  exact own_leaves ⟨exec_own he x, hc, hm, rfl, ha, rfl, hgo, fun _ => hact⟩

end Sys2Proof.Machine
end

section
/-! Lends to engines (R97): the status of each lend, the regions of a range, and what a list of lends leaves. -/
namespace Sys2Proof.Machine

variable {s t q r : State} {d e : Deckle} {parties : List Nat} {rs : List (Deckle × Nat)}

/-! The bytes of a range that lie in no region. -/

def Deckle.covers (d : Deckle) (u : Nat) : Prop := d.base ≤ u ∧ u < d.base + d.len

/-- Regions that end beyond an offset: what a walk from it may still meet. -/
def endsBeyond (rs : List Deckle) (off : Nat) : List Deckle := rs.filter (fun d => decide (off < d.base + d.len))

/-- A walk that has passed a region meets fewer of them. -/
theorem endsBeyond_lt {rs : List Deckle} {off : Nat} (hd : d ∈ rs) (hc : d.covers off) :
    (endsBeyond rs (d.base + d.len)).length < (endsBeyond rs off).length := by
  obtain ⟨hlo, hhi⟩ := hc
  have hsub : endsBeyond rs (d.base + d.len) = (endsBeyond rs off).filter (fun x => decide (d.base + d.len < x.base + x.len)) := by
    unfold endsBeyond
    rw [List.filter_filter]
    refine List.filter_congr fun x _ => ?_
    rw [Bool.eq_iff_iff]
    simp only [Bool.and_eq_true, decide_eq_true_eq]
    omega
  rw [hsub]
  refine List.length_filter_lt_length_iff_exists.2 ⟨d, List.mem_filter.2 ⟨hd, by simpa using hhi⟩, by simp⟩

/-- With fuel for each region that the walk may meet, a hole is a byte of the range in no region. -/
theorem rangeHole_iff {rs : List Deckle} {end_ : Nat} : ∀ {n off : Nat}, (endsBeyond rs off).length < n →
    (rangeHole rs n off end_ = true ↔ ∃ u, off ≤ u ∧ u < end_ ∧ ∀ d ∈ rs, ¬d.covers u)
  | 0, _, h => absurd h (Nat.not_lt_zero _)
  | n + 1, off, h => by
    unfold rangeHole
    by_cases hend : end_ ≤ off
    · rw [if_pos hend]
      simp only [Bool.false_eq_true, false_iff]
      rintro ⟨u, hlo, hhi, -⟩
      omega
    rw [if_neg hend]
    cases hfind : rs.find? (fun d => decide (d.base ≤ off) && decide (off < d.base + d.len)) with
    | none =>
      refine iff_of_true rfl ⟨off, le_refl off, by omega, fun d hd hcov => ?_⟩
      have := List.find?_eq_none.1 hfind d hd
      simp only [Bool.and_eq_true, decide_eq_true_eq] at this
      exact this hcov
    | some d =>
      have hd := List.mem_of_find?_eq_some hfind
      have hcov : d.covers off := by simpa [Deckle.covers] using List.find?_some hfind
      have hfuel : (endsBeyond rs (d.base + d.len)).length < n := by have := endsBeyond_lt hd hcov; omega
      refine (rangeHole_iff hfuel).trans
        ⟨fun ⟨u, hlo, hhi, hnone⟩ => ⟨u, ?_, hhi, hnone⟩, fun ⟨u, hlo, hhi, hnone⟩ => ⟨u, ?_, hhi, hnone⟩⟩
      · obtain ⟨-, hlt⟩ := hcov
        omega
      · obtain ⟨hle, -⟩ := hcov
        have hpast : ¬d.covers u := hnone d hd
        unfold Deckle.covers at hpast
        omega

theorem rangeHole_full {rs : List Deckle} {off end_ : Nat} :
    rangeHole rs (rs.length + 1) off end_ = true ↔ ∃ u, off ≤ u ∧ u < end_ ∧ ∀ d ∈ rs, ¬d.covers u :=
  rangeHole_iff (Nat.lt_succ_of_le (List.length_filter_le ..))

/-! The lend of one region. -/

/-- The issuer holds a region. -/
def heldHere (parties : List Nat) (d : Deckle) : Prop := d.state = 1 ∧ d.holder ∈ parties

/-- The region as its engine has it. -/
def inFlight (d : Deckle) (p : Nat) : Deckle := { d with state := 4, holder := p, lend := d.lend ++ [d.holder] }

/-- The status of a region's lend. -/
def lendCode (parties : List Nat) (d : Deckle) : Nat :=
  if d.state = 5 then 7 else if !(decide (d.state = 1) && parties.contains d.holder) then 2 else if 4 ≤ d.lend.length then 4 else 0

theorem lendCode_zero : lendCode parties d = 0 ↔ heldHere parties d ∧ d.lend.length < 4 := by
  unfold lendCode heldHere
  by_cases hheld : d.state = 1 ∧ d.holder ∈ parties
  · simp [hheld]
  · by_cases h5 : d.state = 5
    · simp [h5]
    · rw [if_neg h5, if_pos (by simpa using not_and_or.1 hheld)]
      simp [hheld]

theorem lendCode_poisoned (h : lendCode parties d = 7) : d.state = 5 := by
  by_contra h5
  unfold lendCode at h
  rw [if_neg h5] at h
  split at h
  · cases h
  · split at h <;> cases h

theorem lendCode_notHeld (h : lendCode parties d = 2) : ¬heldHere parties d := fun hheld => by
  obtain ⟨hstate, hholder⟩ := hheld
  simp only [lendCode, hstate, hholder, List.contains_iff_mem.2, decide_true, Bool.and_self, Bool.not_true, Bool.false_eq_true,
    if_false, show (1 : Nat) ≠ 5 by decide] at h
  split at h <;> cases h

theorem lendCode_deep (h : lendCode parties d = 4) : 4 ≤ d.lend.length := by
  by_contra hlen
  unfold lendCode at h
  rw [if_neg hlen] at h
  split at h
  · cases h
  · split at h <;> cases h

theorem lendCode_range (parties : List Nat) (d : Deckle) : lendCode parties d = 0 ∨ lendCode parties d ∈ [7, 2, 4] := by
  unfold lendCode
  split
  · exact .inr (by decide)
  · split
    · exact .inr (by decide)
    · split
      · exact .inr (by decide)
      · exact .inl rfl

/-- The lend's status depends on the entry alone; a lend that fails changes nothing. -/
theorem lendEngine_code (s : State) (ctx : Nat) (parties : List Nat) (d : Deckle) (p : Nat) :
    (lendEngine s ctx parties d p).1 = lendCode parties d := by
  unfold lendEngine lendCode
  split
  · rfl
  · split
    · rfl
    · split <;> rfl

/-- A lend that succeeds: write-back, the hold's end, and the entry. -/
theorem lendEngine_done (s : State) (ctx p : Nat) (h : lendCode parties d = 0) : ∃ sc, (lendEngine s ctx parties d p).2 =
    putDeckle (dropHold (releaseRegion s d.holder sc ctx d.oid d.base d.len) ctx d.holder d.oid d.base) (inFlight d p) := by
  obtain ⟨⟨hstate, hholder⟩, hlen⟩ := lendCode_zero.1 h
  have h5 : d.state ≠ 5 := by omega
  refine ⟨if isFarObj s ctx d.oid then 8 else if partyKind p = 5 then 7 else 5, ?_⟩
  unfold lendEngine
  rw [if_neg h5, if_neg (by simp [hstate, hholder]), if_neg (Nat.not_le_of_lt hlen)]
  rfl

/-! Lends of several regions. -/

/-- Dirty bytes flow home, and the parts xs change. -/
structure EngineReady (xs : List StatePart) (s t : State) : Prop where
  kept : Kept (.bytes :: .lines :: xs) s t
  home : FlowsHome s t

variable {xs ys : List StatePart}

theorem EngineReady.refl (s : State) : EngineReady xs s s := ⟨.refl s, .refl s⟩

theorem EngineReady.mono (h : EngineReady xs s t) (hx : xs ⊆ ys) : EngineReady ys s t :=
  ⟨h.kept.mono (List.cons_subset_cons _ (List.cons_subset_cons _ hx)), h.home⟩

theorem EngineReady.deckles (h : EngineReady xs s t) (hx : .deckles ∉ xs) : t.deckles = s.deckles :=
  h.kept .deckles (by simpa using hx)

theorem EngineReady.release (h : EngineReady xs s t) (cores : List Nat) (depth : Nat) (p : CLine → Bool) :
    EngineReady xs s (releaseLines t cores depth p) :=
  ⟨h.kept.trans (kept_releaseLines.mono (by simp)), h.home.releaseLines cores depth p⟩

theorem EngineReady.andKept (h : EngineReady xs s t) (k : Kept ys t q) (hx : ys ⊆ xs) (hno : .lines ∉ ys ∧ .bytes ∉ ys) :
    EngineReady xs s q where
  kept := h.kept.trans (k.mono fun _ hp => List.mem_cons_of_mem _ (List.mem_cons_of_mem _ (hx hp)))
  home := h.home.kept k hno

theorem EngineReady.lend (h : EngineReady xs s t) (hx : [.deckles, .holds] ⊆ xs) (ctx p : Nat) (hcode : lendCode parties d = 0) :
    EngineReady xs s (lendEngine t ctx parties d p).2 := by
  obtain ⟨sc, hlent⟩ := lendEngine_done t ctx p hcode
  rw [hlent]
  refine ((h.release ..).andKept kept_dropHold ?_ (by decide)).andKept kept_putDeckle ?_ (by decide)
  · exact fun _ hp => hx (List.mem_cons_of_mem _ hp)
  · exact fun _ hp => hx (List.mem_cons.2 (.inl (List.mem_singleton.1 hp)))

/-- The table after a lend. -/
theorem mem_lendEngine (ctx p : Nat) (hcode : lendCode parties d = 0) : inFlight d p ∈ (lendEngine t ctx parties d p).2.deckles := by
  obtain ⟨sc, hlent⟩ := lendEngine_done t ctx p hcode
  rw [hlent]
  exact mem_putDeckle

theorem mem_lendEngine_of_other (ctx p : Nat) (hcode : lendCode parties d = 0) (he : e ∈ t.deckles) (hn : sameEntry d e = false) :
    e ∈ (lendEngine t ctx parties d p).2.deckles := by
  obtain ⟨sc, hlent⟩ := lendEngine_done t ctx p hcode
  rw [hlent]
  have hdeckles : (dropHold (releaseRegion t d.holder sc ctx d.oid d.base d.len) ctx d.holder d.oid d.base).deckles = t.deckles :=
    kept_releaseRegion .deckles (by decide)
  exact mem_putDeckle_of_other (hdeckles ▸ he) hn

/-- The state after the lends of a list. -/
def lendEach (s : State) (ctx : Nat) (parties : List Nat) (rs : List (Deckle × Nat)) : State :=
  rs.foldl (fun s d => (lendEngine s ctx parties d.1 d.2).2) s

theorem EngineReady.lendEach {ctx : Nat} (h : EngineReady xs s t) (hx : [.deckles, .holds] ⊆ xs)
    (hcode : ∀ x ∈ rs, lendCode parties x.1 = 0) : EngineReady xs s (lendEach t ctx parties rs) :=
  List.foldlRecOn _ _ h fun _ hq x hmem => hq.lend hx ctx x.2 (hcode x hmem)

theorem mem_lendEach_of_other {ctx : Nat} (hcode : ∀ x ∈ rs, lendCode parties x.1 = 0) (hn : ∀ x ∈ rs, sameEntry x.1 e = false)
    (he : e ∈ s.deckles) : e ∈ (lendEach s ctx parties rs).deckles :=
  List.foldlRecOn (motive := fun q : State => e ∈ q.deckles) rs _ he fun _ hq x hx => mem_lendEngine_of_other ctx x.2 (hcode x hx) hq (hn x hx)

/-- Regions that are not one entry are all in flight after their lends. -/
theorem inFlight_mem_lendEach {ctx : Nat} : ∀ {rs : List (Deckle × Nat)} {s : State}, (∀ x ∈ rs, lendCode parties x.1 = 0) →
    rs.Pairwise (fun x y => sameEntry y.1 x.1 = false) → ∀ x ∈ rs, inFlight x.1 x.2 ∈ (lendEach s ctx parties rs).deckles
  | [], _, _, _, _, hx => absurd hx (List.not_mem_nil)
  | y :: rs, s, hcode, hpair, x, hx => by
    obtain ⟨hother, hrest⟩ := List.pairwise_cons.1 hpair
    have hcode' : ∀ z ∈ rs, lendCode parties z.1 = 0 := fun z hz => hcode z (List.mem_cons_of_mem y hz)
    rcases List.mem_cons.1 hx with rfl | hx
    · have hhead : inFlight x.1 x.2 ∈ (lendEngine s ctx parties x.1 x.2).2.deckles := mem_lendEngine ctx x.2 (hcode x List.mem_cons_self)
      exact mem_lendEach_of_other (s := (lendEngine s ctx parties x.1 x.2).2) hcode' hother hhead
    · exact inFlight_mem_lendEach hcode' hrest x hx

/-- Every region of a list that can be lent is lent. -/
theorem lendAll_done {ctx : Nat} (hcode : ∀ x ∈ rs, lendCode parties x.1 = 0) :
    lendAll s ctx parties rs false = (0, lendEach s ctx parties rs) := by
  unfold lendAll
  dsimp only
  have hnone : [7, 2, 4].find? ((rs.map (fun d : Deckle × Nat => (lendEngine s ctx parties d.1 d.2).1) ++ if false then [2] else []).contains ·) =
      none := by
    refine List.find?_eq_none.2 fun k hk => ?_
    have hzero : k ∉ rs.map (fun d : Deckle × Nat => (lendEngine s ctx parties d.1 d.2).1) := fun hmem => by
      obtain ⟨x, hx, rfl⟩ := List.mem_map.1 hmem
      rw [lendEngine_code, hcode x hx] at hk
      simp at hk
    simpa using hzero
  rw [hnone]
  rfl

/-- Where one lend fails, or a byte lies in no region, nothing is lent; the status is that of a lend that fails. -/
theorem lendAll_fails {ctx : Nat} {hole : Bool} (h : (∃ x ∈ rs, lendCode parties x.1 ≠ 0) ∨ hole = true) :
    ∃ k, lendAll s ctx parties rs hole = (k + 1, s) ∧ (k + 1 = 7 ∧ (∃ x ∈ rs, x.1.state = 5) ∨
      k + 1 = 2 ∧ ((∃ x ∈ rs, ¬heldHere parties x.1) ∨ hole = true) ∨ k + 1 = 4 ∧ ∃ x ∈ rs, 4 ≤ x.1.lend.length) := by
  have hcodes : ∀ k, k ∈ rs.map (fun d : Deckle × Nat => (lendEngine s ctx parties d.1 d.2).1) ++ (if hole then [2] else []) ↔
      (∃ x ∈ rs, lendCode parties x.1 = k) ∨ hole = true ∧ k = 2 := fun k => by
    cases hole <;> simp [lendEngine_code]
  unfold lendAll
  dsimp only
  cases hfind : [7, 2, 4].find?
      ((rs.map (fun d : Deckle × Nat => (lendEngine s ctx parties d.1 d.2).1) ++ if hole then [2] else []).contains ·) with
  | none =>
    exfalso
    have hno : ∀ k ∈ [7, 2, 4], ¬((∃ x ∈ rs, lendCode parties x.1 = k) ∨ hole = true ∧ k = 2) := fun k hk hmem => by
      have := List.find?_eq_none.1 hfind k hk
      exact this (List.contains_iff_mem.2 ((hcodes k).2 hmem))
    rcases h with ⟨x, hx, hne⟩ | hhole
    · exact hno _ ((lendCode_range parties x.1).resolve_left hne) (.inl ⟨x, hx, rfl⟩)
    · exact hno 2 (by decide) (.inr ⟨hhole, rfl⟩)
  | some k =>
    have hmem := (hcodes k).1 (List.contains_iff_mem.1 (List.find?_some hfind))
    have hk : k = 7 ∨ k = 2 ∨ k = 4 := by simpa using List.mem_of_find?_eq_some hfind
    rcases hk with rfl | rfl | rfl
    · obtain ⟨x, hx, hcode⟩ := hmem.resolve_right (by simp)
      exact ⟨6, rfl, .inl ⟨rfl, x, hx, lendCode_poisoned hcode⟩⟩
    · exact ⟨1, rfl, .inr (.inl ⟨rfl, hmem.imp (fun ⟨x, hx, hcode⟩ => ⟨x, hx, lendCode_notHeld hcode⟩) And.left⟩)⟩
    · obtain ⟨x, hx, hcode⟩ := hmem.resolve_right (by simp)
      exact ⟨3, rfl, .inr (.inr ⟨rfl, x, hx, lendCode_deep hcode⟩)⟩

end Sys2Proof.Machine
end

section
/-! Operations that enter an engine: what a unit that sends one leaves (R97, R231, R233, R237, R243). -/
namespace Sys2Proof.Machine

variable {s t r q : State} {c : Ctx} {e : EngOp} {d : Deckle} {i : Instr} {v : UnitOp} {rs : List (Deckle × Nat)}
  {ctx oid : Nat} {ranges : List (Nat × Nat)} {run : Prop}

/-! The operation enters its engine. -/

theorem kept_withEngines {es : List EngOp} : Kept [.engines] s { s with engines := es } := by
  intro p hp
  cases p with
  | engines => simp at hp
  | _ => simp [Same, homeByte, State.team?, State.pair, State.die]

/-- The operation as its engine has it. -/
def entered (s : State) (c : Ctx) (e : EngOp) : EngOp :=
  { e with id := s.nextId, ctx := c.team.ctx, die := c.die, handle := c.handle, grp := c.grp, core := c.core }

/-- The engines have one operation more. -/
def withEngine (s : State) (c : Ctx) (e : EngOp) : State :=
  { s with nextId := s.nextId + 1, engines := s.engines ++ [entered s c e] }

theorem engineStart_eq (s : State) (c : Ctx) (e : EngOp) :
    engineStart s c e = c.commit (withEngine s c e) (fun g => setPending g e.reg) := rfl

theorem kept_withEngine : Kept [.engines] s (withEngine s c e) :=
  (kept_withNextId.mono (by simp)).trans (kept_withEngines (s := { s with nextId := s.nextId + 1 }))

theorem withEngine_started : withEngine s (startUnit r v c) e = withEngine s c e := by
  unfold withEngine entered
  rw [started_core]
  rfl

/-- What goes home from a unit's beginning goes home from before it. -/
theorem IssueKept.writtenBack {b : State} (h : IssueKept c s b) (k : WrittenBack b t) : WrittenBack s t := by
  have hlines : b.lines = s.lines := h.kept .lines (by decide)
  have hbytes : ∀ a, homeByte b a = homeByte s a := h.kept .bytes (by decide)
  intro a ha
  have := k a ha
  rwa [hlines, hbytes] at this

/-- A unit whose operation enters an engine. -/
theorem engine_leaves {Q : State → EngOp → Prop} {reg : Nat} (hu : PassesAlone i s c v) (hprice : v.price = 0)
    (heffect : v.effect (startUnit s v c) (begun v c s) = engineStart r (startUnit s v c) e)
    (hready : EngineReady [.deckles, .holds, .dies] (begun v c s) r)
    (hreg : e.reg = reg) (hflight : ∀ l ∈ e.lends, ∃ d ∈ r.deckles, d.ctx = c.team.ctx ∧ d.oid = l.1 ∧ d.base = l.2 ∧ d.state = 4)
    (hQ : ∀ t, t.deckles = r.deckles → Q t (entered r c e)) : EngineLeaves i s c reg Q := by
  subst hreg
  have hq : Kept [.engines, .deckles, .holds, .bytes, .lines, .dies] (begun v c s) (withEngine r c e) :=
    (hready.kept.mono (by simp)).trans (kept_withEngine.mono (by simp))
  rw [engineStart_eq, withEngine_started] at heffect
  obtain ⟨t, g', hdone, hregs, hpend, hkept, hissue⟩ :=
    completes_pending hu hprice heffect hq (by decide)
  have hbegun : IssueKept c s (begun v c s) := issueKept_begun v
  have hengines : t.engines = s.engines ++ [entered r c e] :=
    calc t.engines = r.engines ++ [entered r c e] := hissue.kept .engines (by decide)
      _ = (begun v c s).engines ++ [entered r c e] := congrArg (· ++ _) (hready.kept .engines (by decide))
      _ = s.engines ++ [entered r c e] := congrArg (· ++ _) (hbegun.kept .engines (by decide))
  have hdeckles : t.deckles = r.deckles := hissue.kept .deckles (by decide)
  have hhome : FlowsHome (begun v c s) t :=
    (hready.home.kept (kept_withEngine (c := c) (e := e)) (by simp)).kept hissue.kept (by simp)
  exact ⟨t, g', entered r c e, hdone, hregs, hpend, hengines, hQ t hdeckles, rfl, rfl, rfl, rfl, rfl, rfl,
    fun l hl => by rw [hdeckles]; exact hflight l hl, hbegun.writtenBack hhome.homes, hkept⟩

/-- A unit whose operation ends at once lends nothing. -/
theorem engine_ends {Q : State → EngOp → Prop} {reg : Nat} (hu : PassesAlone i s c v) (hprice : v.price = 0)
    (heffect : v.effect (startUnit s v c) (begun v c s) = engineStart (begun v c s) (startUnit s v c) e)
    (hreg : e.reg = reg) (hlends : e.lends = []) (hQ : ∀ t, Q t (entered (begun v c s) c e)) : EngineLeaves i s c reg Q :=
  engine_leaves hu hprice heffect (.refl _) hreg (fun l hl => by rw [hlends] at hl; cases hl) fun t _ => hQ t

/-! Regions of the ranges that an engine writes. -/

theorem mem_regionsIn {base len : Nat} :
    d ∈ regionsIn s ctx oid base len ↔ d ∈ s.deckles ∧ d.ctx = ctx ∧ d.oid = oid ∧ overlaps d.base d.len base len = true := by
  simp [regionsIn, and_assoc]

theorem mem_destRegions : d ∈ destRegions s ctx oid ranges ↔
    d ∈ s.deckles ∧ d.ctx = ctx ∧ d.oid = oid ∧ ∃ r ∈ ranges, 0 < r.2 ∧ overlaps d.base d.len r.1 r.2 = true := by
  simp [destRegions, and_assoc]

/-- The list names each region that the ranges meet, and no entry twice. -/
structure NamesRegions (s : State) (ctx oid : Nat) (ranges : List (Nat × Nat)) (rs : List (Deckle × Nat)) : Prop where
  regions : ∀ d, d ∈ destRegions s ctx oid ranges ↔ ∃ x ∈ rs, x.1 = d
  distinct : rs.Pairwise (fun x y => sameEntry y.1 x.1 = false)

/-- Some byte of the ranges lies in no region. -/
def RangesHole (s : State) (ctx oid : Nat) (ranges : List (Nat × Nat)) : Prop :=
  ∃ r ∈ ranges, ∃ u, r.1 ≤ u ∧ u < r.1 + r.2 ∧ ∀ d ∈ destRegions s ctx oid ranges, ¬d.covers u

theorem lends_done (hrs : NamesRegions s c.team.ctx oid ranges rs) (hcode : ∀ x ∈ rs, lendCode c.parties x.1 = 0)
    (hhole : ¬RangesHole s c.team.ctx oid ranges) (hrun : run) (hdstat : e.dstat = 0)
    (hlends : e.lends = rs.map (fun x => (x.1.oid, x.1.base))) (hflight : ∀ x ∈ rs, inFlight x.1 x.2 ∈ t.deckles) :
    Lends s t c e oid ranges run := by
  refine ⟨fun _ _ => ⟨hrun, hdstat, fun d hd => ?_⟩, fun hfail => ?_⟩
  · obtain ⟨x, hx, rfl⟩ := (hrs.regions d).1 hd
    exact ⟨hlends ▸ List.mem_map.2 ⟨x, hx, rfl⟩, x.2, hflight x hx⟩
  · rcases hfail with ⟨d, hd, hno⟩ | hhole'
    · obtain ⟨x, hx, rfl⟩ := (hrs.regions d).1 hd
      exact absurd (lendCode_zero.1 (hcode x hx)) hno
    · exact absurd hhole' hhole

theorem lends_refused (hrs : NamesRegions s c.team.ctx oid ranges rs)
    (hfail : (∃ x ∈ rs, lendCode c.parties x.1 ≠ 0) ∨ RangesHole s c.team.ctx oid ranges) (hstatus : e.status = some 1)
    (hdeckles : t.deckles = s.deckles) (hdstat : e.dstat = 7 ∧ (∃ x ∈ rs, x.1.state = 5) ∨
      e.dstat = 2 ∧ ((∃ x ∈ rs, ¬heldHere c.parties x.1) ∨ RangesHole s c.team.ctx oid ranges) ∨
      e.dstat = 4 ∧ ∃ x ∈ rs, 4 ≤ x.1.lend.length) : Lends s t c e oid ranges run := by
  have hregion : ∀ {P : Deckle → Prop}, (∃ x ∈ rs, P x.1) → ∃ d ∈ destRegions s c.team.ctx oid ranges, P d :=
    fun ⟨x, hx, hp⟩ => ⟨x.1, (hrs.regions _).2 ⟨x, hx, rfl⟩, hp⟩
  refine ⟨fun hall hno => ?_, fun _ => ⟨hstatus, hdeckles, ?_⟩⟩
  · rcases hfail with ⟨x, hx, hne⟩ | hhole
    · exact absurd (lendCode_zero.2 (hall x.1 ((hrs.regions _).2 ⟨x, hx, rfl⟩))) hne
    · exact absurd hhole hno
  · rcases hdstat with ⟨h7, h⟩ | ⟨h2, h⟩ | ⟨h4, h⟩
    · exact .inl ⟨h7, hregion h⟩
    · exact .inr (.inl ⟨h2, h.imp_left (hregion (P := fun d => ¬heldHere c.parties d))⟩)
    · exact .inr (.inr ⟨h4, hregion (P := fun d => 4 ≤ d.lend.length) h⟩)

/-- A unit that lends the regions of its ranges to its engine: f is what the issue does after the lends, e the operation that then
runs, and e' the one that a failed lend ends. -/
theorem engine_lends {Q : State → EngOp → Prop} {reg : Nat} {hole : Bool} {f : State → State} {e : State → EngOp} {e' : Nat → EngOp}
    (hu : PassesAlone i s c v) (hprice : v.price = 0) (hready : EngineReady [.deckles, .holds, .dies] (begun v c s) q)
    (hdeckles : q.deckles = s.deckles)
    (hrs : NamesRegions s c.team.ctx oid ranges rs) (hhole : hole = true ↔ RangesHole s c.team.ctx oid ranges)
    (hdone : ∀ u, lendAll q c.team.ctx c.parties rs hole = (0, u) →
      v.effect (startUnit s v c) (begun v c s) = engineStart (f u) (startUnit s v c) (e u))
    (hfail : ∀ k u, lendAll q c.team.ctx c.parties rs hole = (k + 1, u) →
      v.effect (startUnit s v c) (begun v c s) = engineStart u (startUnit s v c) (e' (k + 1)))
    (hf : ∀ u, Kept [.dies] u (f u))
    (he : ∀ u, (e u).reg = reg ∧ (e u).dstat = 0 ∧ (e u).lends = rs.map (fun x => (x.1.oid, x.1.base)))
    (he' : ∀ k, (e' k).reg = reg ∧ (e' k).dstat = k ∧ (e' k).lends = [] ∧ (e' k).status = some 1)
    (hQ : ∀ t u, Kept [.bytes, .lines, .deckles, .holds] q u →
      (∀ run : Prop, run → Lends s t c (entered (f u) c (e u)) oid ranges run) → Q t (entered (f u) c (e u)))
    (hQ' : ∀ t k, (∀ run, Lends s t c (entered q c (e' k)) oid ranges run) → Q t (entered q c (e' k))) :
    EngineLeaves i s c reg Q := by
  obtain ⟨hreg, hdstat, hlends⟩ := he (lendEach q c.team.ctx c.parties rs)
  by_cases hok : (∀ x ∈ rs, lendCode c.parties x.1 = 0) ∧ ¬RangesHole s c.team.ctx oid ranges
  · obtain ⟨hcode, hno⟩ := hok
    have hfalse : hole = false := Bool.eq_false_iff.2 fun h => hno (hhole.1 h)
    have hdies : Kept [.dies] (lendEach q c.team.ctx c.parties rs) (f (lendEach q c.team.ctx c.parties rs)) := hf _
    have hafter : (f (lendEach q c.team.ctx c.parties rs)).deckles = (lendEach q c.team.ctx c.parties rs).deckles :=
      hdies .deckles (by decide)
    have hflight : ∀ x ∈ rs, inFlight x.1 x.2 ∈ (f (lendEach q c.team.ctx c.parties rs)).deckles := by
      rw [hafter]
      exact inFlight_mem_lendEach hcode hrs.distinct
    have hent : EngineReady [.deckles, .holds] q (lendEach q c.team.ctx c.parties rs) :=
      (EngineReady.refl q).lendEach (List.Subset.refl _) hcode
    refine engine_leaves hu hprice (hdone _ (hfalse ▸ lendAll_done hcode)) ((hready.lendEach (by simp) hcode).andKept hdies (by simp) (by decide))
      hreg (fun l hl => ?_) fun t ht => hQ t _ hent.kept fun run hrun => ?_
    · rw [hlends] at hl
      obtain ⟨x, hx, rfl⟩ := List.mem_map.1 hl
      have hd := (hrs.regions x.1).2 ⟨x, hx, rfl⟩
      obtain ⟨-, hctx, -, -⟩ := mem_destRegions.1 hd
      exact ⟨_, hflight x hx, hctx, rfl, rfl, rfl⟩
    · exact lends_done hrs hcode hno hrun hdstat hlends fun x hx => ht ▸ hflight x hx
  · have hbad : (∃ x ∈ rs, lendCode c.parties x.1 ≠ 0) ∨ RangesHole s c.team.ctx oid ranges := by
      by_contra hnot
      push Not at hnot
      exact hok hnot
    obtain ⟨k, hall, hcause⟩ := lendAll_fails (s := q) (ctx := c.team.ctx) (hbad.imp_right hhole.2)
    obtain ⟨hreg', hdstat', hlends', hstatus'⟩ := he' (k + 1)
    refine engine_leaves hu hprice (hfail _ _ hall) hready hreg' (fun l hl => ?_) fun t ht => hQ' t _ fun run => ?_
    · rw [hlends'] at hl
      cases hl
    · refine lends_refused hrs hbad hstatus' (ht.trans hdeckles) ?_
      rw [hhole, ← hdstat'] at hcause
      exact hcause

end Sys2Proof.Machine
end

section
/-! What the engine instructions read, as their effect begins (R230, R231, R237, R243). -/
namespace Sys2Proof.Machine

variable {s b : State} {c : Ctx} (p : State) (v : UnitOp)

/-! A step of an issue leaves what an engine's start reads of the state. -/

theorem IssueKept.readObj (h : IssueKept c s b) : readObj b = readObj s := by
  obtain ⟨⟨heq, -⟩, -⟩ := h
  exact funext fun ctx => funext fun oid => readObj_congr (by rw [heq]) (by rw [heq]) ctx oid

theorem IssueKept.placeOf (h : IssueKept c s b) : placeOf b = placeOf s := by
  obtain ⟨⟨heq, -⟩, -⟩ := h
  exact funext fun o => funext fun off => placeOf_congr (by rw [heq]) o off

theorem IssueKept.absentPages (h : IssueKept c s b) : absentPages b = absentPages s := by
  funext o base len
  unfold Machine.absentPages residentAt
  rw [h.placeOf]

theorem IssueKept.grid? (h : IssueKept c s b) : b.grid? = s.grid? := by
  obtain ⟨⟨heq, -⟩, -⟩ := h
  rw [heq]
  rfl

theorem IssueKept.teamShape (h : IssueKept c s b) : teamShape b = teamShape s := by
  unfold Machine.teamShape teamLaunch
  rw [h.grid?]

/-! Of the dies only their own state is read. -/

theorem field_own {α : Type} (h : ∀ d, (b.die d).own = (s.die d).own) (f : Die → α) (hf : ∀ x : Die, f x.own = f x) (d : Nat) :
    f (b.die d) = f (s.die d) := (hf _).symm.trans ((congrArg f (h d)).trans (hf _))

theorem bondOf_own (h : ∀ d, (b.die d).own = (s.die d).own) : bondOf b = bondOf s := by
  funext d handle
  have hbonds : (b.die d).bonds = (s.die d).bonds := field_own h Die.bonds (fun _ => rfl) d
  unfold bondOf
  rw [hbonds]

theorem boot_own (h : ∀ d, (b.die d).own = (s.die d).own) (d : Nat) : (b.die d).boot = (s.die d).boot := field_own h Die.boot (fun _ => rfl) d

theorem xfer_own (h : ∀ d, (b.die d).own = (s.die d).own) (d : Nat) : (b.die d).xfer = (s.die d).xfer := field_own h Die.xfer (fun _ => rfl) d

theorem running_own (h : ∀ d, (b.die d).own = (s.die d).own) : b.running = s.running := by
  funext d
  unfold State.running
  rw [boot_own h]

theorem slotEntry_congr (h : ∀ d, (b.die d).cslots = (s.die d).cslots) : slotEntry b = slotEntry s := by
  funext d slot
  unfold slotEntry
  rw [h]

theorem memberFailed_congr (hboot : ∀ d, (b.die d).boot = (s.die d).boot) (hslots : ∀ d, (b.die d).cslots = (s.die d).cslots) :
    memberFailed b = memberFailed s := by
  funext slot
  unfold memberFailed
  simp only [hboot, slotEntry_congr hslots]

theorem gridBroken_congr (h : b.grids = s.grids) : gridBroken b = gridBroken s := by
  unfold gridBroken State.grid?
  rw [h]

theorem slotEntry_own (h : ∀ d, (b.die d).own = (s.die d).own) : slotEntry b = slotEntry s :=
  slotEntry_congr (field_own h Die.cslots fun _ => rfl)

theorem contributed_own (h : ∀ d, (b.die d).own = (s.die d).own) : contributed b = contributed s := by
  funext d slot seq
  have hdone : (b.die d).contributed = (s.die d).contributed := field_own h Die.contributed (fun _ => rfl) d
  unfold contributed
  rw [hdone]

theorem IssueKept.own (h : IssueKept c s b) (d : Nat) : (b.die d).own = (s.die d).own := (h.dies d).1

theorem IssueKept.cpycBad (h : IssueKept c s b) (r : CpycRec) : r.bad b = r.bad s := by
  funext die
  unfold CpycRec.bad
  rw [slotEntry_own h.own, contributed_own h.own]

theorem IssueKept.cpycMembers (h : IssueKept c s b) : cpycMembers b = cpycMembers s := by
  funext die r
  unfold Machine.cpycMembers
  rw [slotEntry_own h.own]

theorem IssueKept.nmAbsent (h : IssueKept c s b) : nmAbsent b = nmAbsent s := by
  funext ctx r
  unfold Machine.nmAbsent
  rw [h.readObj, h.absentPages]

theorem IssueKept.nmLost (h : IssueKept c s b) : nmLost b = nmLost s := by
  funext ctx r
  unfold Machine.nmLost
  rw [h.readObj, h.placeOf, running_own h.own]

/-! The context of a unit as it begins reads as before. -/

theorem startUnit_die : (startUnit p v c).g.die = c.g.die := by
  unfold startUnit Group.putSlot latchesClear
  dsimp only
  split <;> split <;> rfl

theorem startUnit_cap : (startUnit p v c).cap = c.cap := funext (started_cap p v c c.team)

theorem startUnit_sregLa (a : SSrc) : sregLa (startUnit p v c) a = sregLa c a :=
  congrArg (· % 2 ^ 32) (started_rdS p v c c.team false a)

theorem startUnit_cpyRecOf (x : CpyU) : cpyRecOf (startUnit p v c) x = cpyRecOf c x :=
  congrArg (recordAt c) (startUnit_sregLa p v x.a)

theorem startUnit_nmRecAt (x : NmU) : nmRecAt (startUnit p v c) x = nmRecAt c x :=
  congrArg (· % 2 ^ 32) (started_readS p v c c.team x.j)

theorem startUnit_nmEntries (x : NmU) : nmEntries (startUnit p v c) x = nmEntries c x := by
  show nmEntries (started p v c c.team) x = _
  unfold nmEntries
  rw [started_lanes]
  simp only [started_readReg, started_wb]

theorem startUnit_nmSource (d : NmDesc) (scat : Bool) : nmSource (startUnit p v c) d scat = nmSource c d scat := by
  unfold nmSource
  rw [startUnit_cap]

theorem startUnit_nmDest (d : NmDesc) (scat : Bool) : nmDest (startUnit p v c) d scat = nmDest c d scat := by
  unfold nmDest
  rw [startUnit_cap]

end Sys2Proof.Machine
end

section
/-! CPY leaves for its engine (R97, R237, R483). -/
namespace Sys2Proof.Machine

variable {s q u : State} {c : Ctx} {d : Deckle} {ctx base len : Nat} {x : CpyU}

/-! One range of one object, its regions and its holes. -/

theorem mem_lendTargets {k : Cap} : d ∈ lendTargets s ctx k base len ↔ d ∈ destRegions s ctx k.oid.toNat [(base, len)] := by
  unfold lendTargets
  rw [mem_destRegions]
  by_cases hlen : len = 0
  · simp [hlen]
  · simp [hlen, mem_regionsIn, Nat.pos_of_ne_zero hlen]

theorem lendTargets_congr (h : q.deckles = s.deckles) (k : Cap) : lendTargets q ctx k base len = lendTargets s ctx k base len := by
  unfold lendTargets regionsIn
  rw [h]

theorem sameEntry_comm (d e : Deckle) : sameEntry d e = sameEntry e d := by
  rw [Bool.eq_iff_iff, sameEntry_iff, sameEntry_iff]
  tauto

/-- The regions of one range, each with the engine's party. -/
theorem namesRegions_range (hpair : s.deckles.Pairwise (fun d e => sameEntry d e = false)) (k : Cap) (p : Nat) :
    NamesRegions s ctx k.oid.toNat [(base, len)] ((lendTargets s ctx k base len).map (fun d => (d, p))) where
  regions d := by simp [← mem_lendTargets]
  distinct := by
    have hsub : (lendTargets s ctx k base len).Sublist s.deckles := by
      unfold lendTargets
      split
      · exact List.nil_sublist _
      · exact List.filter_sublist
    refine List.pairwise_map.2 ((hpair.sublist hsub).imp fun {d e} h => ?_)
    rw [sameEntry_comm]
    exact h

theorem rangeHole_range (k : Cap) : rangeHole (lendTargets s ctx k base len) ((lendTargets s ctx k base len).length + 1) base (base + len) = true ↔
    RangesHole s ctx k.oid.toNat [(base, len)] := by
  rw [rangeHole_full]
  simp [RangesHole, mem_lendTargets]

theorem Gate.both_go {a b : Gate} (ha : a = .go) (hb : b = .go) : (a.both fun _ => b) = .go := by
  rw [ha]
  exact hb

/-! The instruction. -/

/-- The unit of CPY. -/
def cpyUnit (x : CpyU) : UnitOp :=
  { h := x.h, refs := refsOf [ssrcRefs x.a, sName x.r], uniform := true
    gate := fun c s =>
      (recordGate s c (sregLa c x.a)).both fun _ =>
        if (cpyRec (cpyRecOf c x)).bad c.team (teamShape s c.team) then .go else cpyChecks s c (cpyRec (cpyRecOf c x))
    effect := cpyEffect x }

theorem exec_cpy (x : CpyU) (s : State) : exec (.cpy x) s = issue (cpyUnit x) s := rfl

/-- The operation that a CPY sends. -/
def cpyOp (c : Ctx) (x : CpyU) : EngOp :=
  { kind := .cpy, reg := x.r, record := cpyRecOf c x, src := c.cap (cpyRec (cpyRecOf c x)).scap, dst := c.cap (cpyRec (cpyRecOf c x)).dcap }

/-- The same, with its transfer number, as it runs. -/
def cpySent (s : State) (c : Ctx) (x : CpyU) : EngOp := { cpyOp c x with party := copyParty c.g.die (s.die c.g.die).xfer }

/-- The bytes read, written back, and the transfer numbered. -/
def cpyFlushed (s : State) (c : Ctx) (x : CpyU) : State :=
  let r := cpyRec (cpyRecOf c x)
  let sc := c.cap r.scap
  let src := if r.loose then (sc.base.toNat, sc.len.toNat) else clipRange sc r.srcExtent.1 r.srcExtent.2.1
  if r.skind = 0 then flushSource (nextXfer s c.g.die).2 c sc.oid.toNat src.1 src.2 else (nextXfer s c.g.die).2

/-- The range that a CPY writes. -/
def cpyDest (c : Ctx) (x : CpyU) : Nat × Nat :=
  let r := cpyRec (cpyRecOf c x)
  clipRange (c.cap r.dcap) r.dstExtent.1 r.dstExtent.2.1

/-- The record is good, its feed leased, and its pages are resident. -/
structure CpyRuns (s : State) (c : Ctx) (x : CpyU) : Prop where
  good : (cpyRec (cpyRecOf c x)).bad c.team (teamShape s c.team) = false
  lease : cpyNoLease s c (cpyRec (cpyRecOf c x)) = false
  present : cpyAbsent s c (cpyRec (cpyRecOf c x)) = false

theorem cpyEffect_bad (h : (cpyRec (cpyRecOf c x)).bad c.team (teamShape s c.team) = true) :
    cpyEffect x c s = engineStart s c { cpyOp c x with status := some 3 } := if_pos h

theorem cpyEffect_noLease (hbad : (cpyRec (cpyRecOf c x)).bad c.team (teamShape s c.team) = false)
    (h : cpyNoLease s c (cpyRec (cpyRecOf c x)) = true) : cpyEffect x c s = engineStart s c { cpyOp c x with status := some 9 } :=
  (if_neg (by simp [hbad])).trans (if_pos h)

theorem cpyEffect_absent (hbad : (cpyRec (cpyRecOf c x)).bad c.team (teamShape s c.team) = false)
    (hlease : cpyNoLease s c (cpyRec (cpyRecOf c x)) = false) (h : cpyAbsent s c (cpyRec (cpyRecOf c x)) = true) :
    cpyEffect x c s = engineStart s c { cpyOp c x with status := some 2 } :=
  (if_neg (by simp [hbad])).trans ((if_neg (by simp [hlease])).trans (if_pos h))

/-- A CPY into a core's store or a feed lends nothing. -/
theorem CpyRuns.effect_local (h : CpyRuns s c x) (hd : ¬((cpyRec (cpyRecOf c x)).dkind = 0 ∨ (cpyRec (cpyRecOf c x)).dkind = 4)) :
    cpyEffect x c s = engineStart (cpyFlushed s c x) c (cpySent s c x) :=
  (if_neg (by simp [h.good])).trans ((if_neg (by simp [h.lease])).trans ((if_neg (by simp [h.present])).trans (if_neg hd)))

/-- The regions that a CPY into a global object meets, each with the transfer's party. -/
def cpyRegions (s : State) (c : Ctx) (x : CpyU) : List (Deckle × Nat) :=
  (lendTargets (cpyFlushed s c x) c.team.ctx (c.cap (cpyRec (cpyRecOf c x)).dcap) (cpyDest c x).1 (cpyDest c x).2).map
    (fun d => (d, (cpySent s c x).party))

/-- Whether a byte that it writes lies in none of them. -/
def cpyHole (s : State) (c : Ctx) (x : CpyU) : Bool :=
  let rs := lendTargets (cpyFlushed s c x) c.team.ctx (c.cap (cpyRec (cpyRecOf c x)).dcap) (cpyDest c x).1 (cpyDest c x).2
  rangeHole rs (rs.length + 1) (cpyDest c x).1 ((cpyDest c x).1 + (cpyDest c x).2)

theorem CpyRuns.effect_lent (h : CpyRuns s c x) (hd : (cpyRec (cpyRecOf c x)).dkind = 0 ∨ (cpyRec (cpyRecOf c x)).dkind = 4)
    (hl : lendAll (cpyFlushed s c x) c.team.ctx c.parties (cpyRegions s c x) (cpyHole s c x) = (0, u)) :
    cpyEffect x c s = engineStart u c { cpySent s c x with lends := (cpyRegions s c x).map (fun d => (d.1.oid, d.1.base)) } := by
  refine (if_neg (by simp [h.good])).trans ((if_neg (by simp [h.lease])).trans ((if_neg (by simp [h.present])).trans ((if_pos hd).trans ?_)))
  rw [cpyRegions, List.map_map]
  show (match lendAll (cpyFlushed s c x) c.team.ctx c.parties (cpyRegions s c x) (cpyHole s c x) with | (0, s) => _ | (k, s) => _) = _
  rw [hl]
  rfl

theorem CpyRuns.effect_unlent {k : Nat} (h : CpyRuns s c x) (hd : (cpyRec (cpyRecOf c x)).dkind = 0 ∨ (cpyRec (cpyRecOf c x)).dkind = 4)
    (hl : lendAll (cpyFlushed s c x) c.team.ctx c.parties (cpyRegions s c x) (cpyHole s c x) = (k + 1, u)) :
    cpyEffect x c s = engineStart u c { cpySent s c x with status := some 1, dstat := k + 1 } := by
  refine (if_neg (by simp [h.good])).trans ((if_neg (by simp [h.lease])).trans ((if_neg (by simp [h.present])).trans ((if_pos hd).trans ?_)))
  show (match lendAll (cpyFlushed s c x) c.team.ctx c.parties (cpyRegions s c x) (cpyHole s c x) with | (0, s) => _ | (k, s) => _) = _
  rw [hl]
  rfl

/-! At the unit's beginning. -/

section
variable (s) (v : UnitOp) (c) (x)

theorem cpyOp_startUnit : cpyOp (startUnit s v c) x = cpyOp c x := by
  unfold cpyOp
  rw [startUnit_cpyRecOf, startUnit_cap]

theorem cpyDest_startUnit : cpyDest (startUnit s v c) x = cpyDest c x := by
  unfold cpyDest
  rw [startUnit_cpyRecOf, startUnit_cap]

theorem cpySent_begun : cpySent (begun v c s) (startUnit s v c) x = cpySent s c x := by
  unfold cpySent
  rw [cpyOp_startUnit, startUnit_die, xfer_own (issueKept_begun (c := c) v).own]

theorem cpyNoLease_begun (r : CpyRec) : cpyNoLease (begun v c s) (startUnit s v c) r = cpyNoLease s c r := by
  unfold cpyNoLease
  rw [bondOf_own (issueKept_begun (c := c) v).own]
  rfl

theorem cpyAbsent_begun (r : CpyRec) : cpyAbsent (begun v c s) (startUnit s v c) r = cpyAbsent s c r := by
  unfold cpyAbsent
  rw [startUnit_cap, (issueKept_begun (c := c) v).absentPages, (issueKept_begun (c := c) v).readObj]
  rfl

theorem cpyBad_begun (r : CpyRec) : r.bad (startUnit s v c).team (teamShape (begun v c s) (startUnit s v c).team) =
    r.bad c.team (teamShape s c.team) := by
  rw [(issueKept_begun (c := c) v).teamShape]
  rfl

end

theorem CpyRuns.begun (h : CpyRuns s c x) (v : UnitOp) : CpyRuns (begun v c s) (startUnit s v c) x where
  good := by rw [startUnit_cpyRecOf, cpyBad_begun]; exact h.good
  lease := by rw [startUnit_cpyRecOf, cpyNoLease_begun]; exact h.lease
  present := by rw [startUnit_cpyRecOf, cpyAbsent_begun]; exact h.present

theorem kept_updDie {n : Nat} {f : Die → Die} (hteams : ∀ y, (f y).teams = y.teams) (hpairs : ∀ y, (f y).pairs = y.pairs) :
    Kept [.dies] s (s.updDie n f) := by
  intro p hp
  cases p with
  | dies => simp at hp
  | teams => exact fun d h => State.team?_updDie s n f (hteams _) d h
  | stores => exact fun d h => congrArg (Option.map Team.store) (State.team?_updDie s n f (hteams _) d h)
  | pairs =>
    intro d k
    unfold State.pair
    rw [State.die_updDie]
    split
    next h => rw [hpairs, h]
    next => rfl
  | _ => simp [Same, homeByte]

theorem engineReady_cpyFlushed (s : State) (c : Ctx) (x : CpyU) : EngineReady [.dies] s (cpyFlushed s c x) := by
  have hnumber : Kept [.dies] s (nextXfer s c.g.die).2 :=
    kept_updDie (f := fun y => { y with xfer := y.xfer + 1 }) (fun _ => rfl) fun _ => rfl
  have hready : EngineReady [.dies] s (nextXfer s c.g.die).2 := (EngineReady.refl s).andKept hnumber (by simp) (by decide)
  unfold cpyFlushed
  dsimp only
  split
  · exact hready.release ..
  · exact hready

theorem cpyFlushed_startUnit (s p : State) (v : UnitOp) (c : Ctx) (x : CpyU) : cpyFlushed s (startUnit p v c) x = cpyFlushed s c x := by
  unfold cpyFlushed
  rw [startUnit_cpyRecOf, startUnit_cap, startUnit_die]
  rfl

/-- The regions that a CPY meets as its effect begins are those of the state before. -/
theorem cpyRegions_begun (s : State) (v : UnitOp) (c : Ctx) (x : CpyU) : cpyRegions (begun v c s) (startUnit s v c) x =
    (lendTargets s c.team.ctx (c.cap (cpyRec (cpyRecOf c x)).dcap) (cpyDest c x).1 (cpyDest c x).2).map (fun d => (d, (cpySent s c x).party)) := by
  have hdeckles : (cpyFlushed (begun v c s) c x).deckles = s.deckles :=
    ((engineReady_cpyFlushed ..).deckles (by decide)).trans ((issueKept_begun (c := c) v).kept .deckles (by decide))
  unfold cpyRegions
  rw [cpyFlushed_startUnit, startUnit_cpyRecOf, startUnit_cap, cpyDest_startUnit, cpySent_begun, lendTargets_congr hdeckles]
  rfl

theorem cpyHole_begun (s : State) (v : UnitOp) (c : Ctx) (x : CpyU) : cpyHole (begun v c s) (startUnit s v c) x = true ↔
    RangesHole s c.team.ctx (c.cap (cpyRec (cpyRecOf c x)).dcap).oid.toNat [cpyDest c x] := by
  have hdeckles : (cpyFlushed (begun v c s) c x).deckles = s.deckles :=
    ((engineReady_cpyFlushed ..).deckles (by decide)).trans ((issueKept_begun (c := c) v).kept .deckles (by decide))
  unfold cpyHole
  rw [cpyFlushed_startUnit, startUnit_cpyRecOf, startUnit_cap, cpyDest_startUnit, lendTargets_congr hdeckles]
  exact rangeHole_range _

/-! The receipt. -/

variable {i : Instr}

/-- What a CPY leaves at its engine, by its record, its feed's lease and its pages. -/
def CpyReceipt (s : State) (c : Ctx) (x : CpyU) (t : State) (e : EngOp) : Prop :=
  let r := cpyRec (cpyRecOf c x)
  e.kind = .cpy ∧ e.record = cpyRecOf c x ∧
    (r.bad c.team (teamShape s c.team) = true → e.status = some 3) ∧
    (r.bad c.team (teamShape s c.team) = false → cpyNoLease s c r = true → e.status = some 9) ∧
    (r.bad c.team (teamShape s c.team) = false → cpyNoLease s c r = false → cpyAbsent s c r = true → e.status = some 2) ∧
    (r.bad c.team (teamShape s c.team) = false → cpyNoLease s c r = false → cpyAbsent s c r = false →
      Lends s t c e (c.cap r.dcap).oid.toNat (if r.dkind = 0 ∨ r.dkind = 4 then [cpyDest c x] else [])
        (e.status = none ∧ e.party = copyParty c.g.die (s.die c.g.die).xfer))

section
variable {t : State} {e : EngOp} (hkind : e.kind = .cpy) (hrecord : e.record = cpyRecOf c x)
include hkind hrecord

theorem cpyReceipt_bad (hbad : (cpyRec (cpyRecOf c x)).bad c.team (teamShape s c.team) = true) (hstatus : e.status = some 3) :
    CpyReceipt s c x t e := by simp [CpyReceipt, hkind, hrecord, hbad, hstatus]

theorem cpyReceipt_noLease (hbad : (cpyRec (cpyRecOf c x)).bad c.team (teamShape s c.team) = false)
    (hlease : cpyNoLease s c (cpyRec (cpyRecOf c x)) = true) (hstatus : e.status = some 9) : CpyReceipt s c x t e := by
  simp [CpyReceipt, hkind, hrecord, hbad, hlease, hstatus]

theorem cpyReceipt_absent (hbad : (cpyRec (cpyRecOf c x)).bad c.team (teamShape s c.team) = false)
    (hlease : cpyNoLease s c (cpyRec (cpyRecOf c x)) = false) (habsent : cpyAbsent s c (cpyRec (cpyRecOf c x)) = true)
    (hstatus : e.status = some 2) : CpyReceipt s c x t e := by
  simp [CpyReceipt, hkind, hrecord, hbad, hlease, habsent, hstatus]

theorem CpyRuns.receipt (h : CpyRuns s c x) (hl : Lends s t c e (c.cap (cpyRec (cpyRecOf c x)).dcap).oid.toNat
      (if (cpyRec (cpyRecOf c x)).dkind = 0 ∨ (cpyRec (cpyRecOf c x)).dkind = 4 then [cpyDest c x] else [])
      (e.status = none ∧ e.party = copyParty c.g.die (s.die c.g.die).xfer)) : CpyReceipt s c x t e :=
  ⟨hkind, hrecord, by simp [h.good], by simp [h.lease], by simp [h.present], fun _ _ _ => hl⟩

end

/-- The empty list of ranges lends nothing. -/
theorem lends_none {t : State} {e : EngOp} {oid : Nat} {run : Prop} (hrun : run) (hdstat : e.dstat = 0) (hlends : e.lends = []) :
    Lends s t c e oid [] run := by
  have hno : ∀ d, d ∉ destRegions s c.team.ctx oid [] := fun d hd => by simp [destRegions] at hd
  refine lends_done (rs := []) ⟨fun d => by simp [hno], .nil⟩ (by simp) ?_ hrun hdstat hlends (by simp)
  rintro ⟨r, hr, -⟩
  cases hr

theorem cpy_runs (hu : PassesAlone (.cpy x) s c (cpyUnit x)) (hpair : s.deckles.Pairwise (fun d e => sameEntry d e = false))
    (h : CpyRuns s c x) : EngineLeaves (.cpy x) s c x.r (CpyReceipt s c x) := by
  have hb : CpyRuns (begun (cpyUnit x) c s) (startUnit s (cpyUnit x) c) x := h.begun _
  have hready : EngineReady [.deckles, .holds, .dies] (begun (cpyUnit x) c s) (cpyFlushed (begun (cpyUnit x) c s) c x) :=
    (engineReady_cpyFlushed ..).mono (by simp)
  have hdeckles : (cpyFlushed (begun (cpyUnit x) c s) c x).deckles = s.deckles :=
    ((engineReady_cpyFlushed ..).deckles (by decide)).trans ((issueKept_begun (c := c) _).kept .deckles (by decide))
  by_cases hd : (cpyRec (cpyRecOf c x)).dkind = 0 ∨ (cpyRec (cpyRecOf c x)).dkind = 4
  · have hd' : (cpyRec (cpyRecOf (startUnit s (cpyUnit x) c) x)).dkind = 0 ∨ (cpyRec (cpyRecOf (startUnit s (cpyUnit x) c) x)).dkind = 4 := by
      rwa [startUnit_cpyRecOf]
    have hlent := fun u => hb.effect_lent (u := u) hd'
    have hunlent := fun k u => hb.effect_unlent (k := k) (u := u) hd'
    rw [cpyFlushed_startUnit, cpySent_begun, cpyRegions_begun] at hlent hunlent
    refine engine_lends (f := id) (e' := fun k => { cpySent s c x with status := some 1, dstat := k }) hu rfl hready hdeckles
      (namesRegions_range hpair _ _) (cpyHole_begun s (cpyUnit x) c x) hlent hunlent
      (fun u => .refl u) (fun _ => ⟨rfl, rfl, rfl⟩) (fun _ => ⟨rfl, rfl, rfl, rfl⟩) (fun t u _ hl => ?_) fun t k hl => ?_
    · refine h.receipt rfl rfl ?_
      rw [if_pos hd]
      exact hl _ ⟨rfl, rfl⟩
    · refine h.receipt rfl rfl ?_
      rw [if_pos hd]
      exact hl _
  · have heffect := hb.effect_local (by rwa [startUnit_cpyRecOf])
    rw [cpyFlushed_startUnit, cpySent_begun] at heffect
    refine engine_leaves hu rfl heffect hready rfl (fun l hl => nomatch hl) fun t _ => h.receipt rfl rfl ?_
    rw [if_neg hd]
    exact lends_none ⟨rfl, rfl⟩ rfl rfl

theorem cpy_leaves (hu : PassesAlone (.cpy x) s c (cpyUnit x)) (hpair : s.deckles.Pairwise (fun d e => sameEntry d e = false)) :
    EngineLeaves (.cpy x) s c x.r (CpyReceipt s c x) := by
  cases hbad : (cpyRec (cpyRecOf c x)).bad c.team (teamShape s c.team) with
  | true =>
    refine engine_ends (e := { cpyOp c x with status := some 3 }) hu rfl ?_ rfl rfl fun t => cpyReceipt_bad rfl rfl hbad rfl
    refine (cpyEffect_bad ?_).trans (by rw [cpyOp_startUnit])
    rw [startUnit_cpyRecOf, cpyBad_begun, hbad]
  | false =>
    cases hlease : cpyNoLease s c (cpyRec (cpyRecOf c x)) with
    | true =>
      refine engine_ends (e := { cpyOp c x with status := some 9 }) hu rfl ?_ rfl rfl fun t => cpyReceipt_noLease rfl rfl hbad hlease rfl
      refine (cpyEffect_noLease ?_ ?_).trans (by rw [cpyOp_startUnit])
      · rw [startUnit_cpyRecOf, cpyBad_begun, hbad]
      · rw [startUnit_cpyRecOf, cpyNoLease_begun, hlease]
    | false =>
      cases habsent : cpyAbsent s c (cpyRec (cpyRecOf c x)) with
      | true =>
        refine engine_ends (e := { cpyOp c x with status := some 2 }) hu rfl ?_ rfl rfl
          fun t => cpyReceipt_absent rfl rfl hbad hlease habsent rfl
        refine (cpyEffect_absent ?_ ?_ ?_).trans (by rw [cpyOp_startUnit])
        · rw [startUnit_cpyRecOf, cpyBad_begun, hbad]
        · rw [startUnit_cpyRecOf, cpyNoLease_begun, hlease]
        · rw [startUnit_cpyRecOf, cpyAbsent_begun, habsent]
      | false => exact cpy_runs hu hpair ⟨hbad, hlease, habsent⟩

end Sys2Proof.Machine
end

section
/-! CPYC leaves for its engine (R97, R243, R483). -/
namespace Sys2Proof.Machine

variable {s q u : State} {c : Ctx} {x : CpyU}

/-- The unit of CPYC. -/
def cpycUnit (x : CpyU) : UnitOp :=
  { h := x.h, refs := refsOf [ssrcRefs x.a, sName x.r], uniform := true
    gate := fun c s =>
      (recordGate s c (sregLa c x.a)).both fun _ =>
        if (cpycRec (cpyRecOf c x)).bad s c.g.die then .go else cpycChecks s c (cpycRec (cpyRecOf c x))
    effect := cpycEffect x }

theorem exec_cpyc (x : CpyU) (s : State) : exec (.cpyc x) s = issue (cpycUnit x) s := rfl

/-- The operation that a CPYC sends. -/
def cpycOp (c : Ctx) (x : CpyU) : EngOp :=
  { kind := .cpyc, reg := x.r, record := cpyRecOf c x, src := c.cap (cpycRec (cpyRecOf c x)).scap, dst := c.cap (cpycRec (cpyRecOf c x)).dcap }

/-- The same, with its transfer number. -/
def cpycSent (s : State) (c : Ctx) (x : CpyU) : EngOp := { cpycOp c x with party := copyParty c.g.die (s.die c.g.die).xfer }

/-- The ranges that a CPYC reads and writes. -/
def cpycRanges (s : State) (c : Ctx) (x : CpyU) : (Nat × Nat) × (Nat × Nat) :=
  let r := cpycRec (cpyRecOf c x)
  let n := cpycMembers s c.g.die r
  (clipRange (c.cap r.scap) (r.extents n).1.1 (r.extents n).1.2.1, clipRange (c.cap r.dcap) (r.extents n).2.1 (r.extents n).2.2.1)

/-- A page of them is not RESIDENT on this module. -/
def cpycAbsent (s : State) (c : Ctx) (x : CpyU) : Bool :=
  let r := cpycRec (cpyRecOf c x)
  let src := (cpycRanges s c x).1
  let dst := (cpycRanges s c x).2
  absentPages s (readObj s c.team.ctx (c.cap r.scap).oid.toNat) src.1 src.2 ||
    absentPages s (readObj s c.team.ctx (c.cap r.dcap).oid.toNat) dst.1 dst.2

/-- The bytes read, written back, and the transfer numbered. -/
def cpycFlushed (s : State) (c : Ctx) (x : CpyU) : State :=
  flushSource (nextXfer s c.g.die).2 c (c.cap (cpycRec (cpyRecOf c x)).scap).oid.toNat (cpycRanges s c x).1.1 (cpycRanges s c x).1.2

/-- The die has contributed. -/
def withContribution (c : Ctx) (x : CpyU) (s : State) : State :=
  let r := cpycRec (cpyRecOf c x)
  s.updDie c.g.die (fun y => { y with contributed := sIns y.contributed (65536 * r.cslot + r.seq) })

theorem kept_withContribution : Kept [.dies] s (withContribution c x s) := by
  unfold withContribution
  exact kept_updDie (fun _ => rfl) fun _ => rfl

/-- The regions that a CPYC meets, each with the transfer's party. -/
def cpycRegions (s : State) (c : Ctx) (x : CpyU) : List (Deckle × Nat) :=
  (lendTargets (cpycFlushed s c x) c.team.ctx (c.cap (cpycRec (cpyRecOf c x)).dcap) (cpycRanges s c x).2.1 (cpycRanges s c x).2.2).map
    (fun d => (d, (cpycSent s c x).party))

/-- Whether a byte that it writes lies in none of them. -/
def cpycHole (s : State) (c : Ctx) (x : CpyU) : Bool :=
  let dst := (cpycRanges s c x).2
  let rs := lendTargets (cpycFlushed s c x) c.team.ctx (c.cap (cpycRec (cpyRecOf c x)).dcap) dst.1 dst.2
  rangeHole rs (rs.length + 1) dst.1 (dst.1 + dst.2)

/-- The status of a collective whose destination is lent. -/
def cpycStatus (s : State) (c : Ctx) (x : CpyU) : Option Nat :=
  if gridBroken s c.team.grid || memberFailed s (cpycRec (cpyRecOf c x)).cslot then some 8 else none

theorem cpycEffect_bad (h : (cpycRec (cpyRecOf c x)).bad s c.g.die = true) :
    cpycEffect x c s = engineStart s c { cpycOp c x with status := some 3 } := if_pos h

theorem cpycEffect_absent (hbad : (cpycRec (cpyRecOf c x)).bad s c.g.die = false) (h : cpycAbsent s c x = true) :
    cpycEffect x c s = engineStart s c { cpycOp c x with status := some 2 } := (if_neg (by simp [hbad])).trans (if_pos h)

theorem cpycEffect_lent (hbad : (cpycRec (cpyRecOf c x)).bad s c.g.die = false) (h : cpycAbsent s c x = false)
    (hl : lendAll (cpycFlushed s c x) c.team.ctx c.parties (cpycRegions s c x) (cpycHole s c x) = (0, u)) :
    cpycEffect x c s = engineStart (withContribution c x u) c { cpycSent s c x with
      lends := (cpycRegions s c x).map (fun d => (d.1.oid, d.1.base)), status := cpycStatus (withContribution c x u) c x } := by
  refine (if_neg (by simp [hbad])).trans ((if_neg (Bool.eq_false_iff.1 h)).trans ?_)
  rw [cpycRegions, List.map_map]
  show (match lendAll (cpycFlushed s c x) c.team.ctx c.parties (cpycRegions s c x) (cpycHole s c x) with | (0, s) => _ | (k, s) => _) = _
  rw [hl]
  rfl

theorem cpycEffect_unlent {k : Nat} (hbad : (cpycRec (cpyRecOf c x)).bad s c.g.die = false) (h : cpycAbsent s c x = false)
    (hl : lendAll (cpycFlushed s c x) c.team.ctx c.parties (cpycRegions s c x) (cpycHole s c x) = (k + 1, u)) :
    cpycEffect x c s = engineStart u c { cpycSent s c x with status := some 1, dstat := k + 1 } := by
  refine (if_neg (by simp [hbad])).trans ((if_neg (Bool.eq_false_iff.1 h)).trans ?_)
  show (match lendAll (cpycFlushed s c x) c.team.ctx c.parties (cpycRegions s c x) (cpycHole s c x) with | (0, s) => _ | (k, s) => _) = _
  rw [hl]
  rfl

/-! At the unit's beginning. -/

section
variable (s) (v : UnitOp) (c) (x)

theorem cpycOp_startUnit : cpycOp (startUnit s v c) x = cpycOp c x := by
  unfold cpycOp
  rw [startUnit_cpyRecOf, startUnit_cap]

theorem cpycSent_begun : cpycSent (begun v c s) (startUnit s v c) x = cpycSent s c x := by
  unfold cpycSent
  rw [cpycOp_startUnit, startUnit_die, xfer_own (issueKept_begun (c := c) v).own]

theorem cpycRanges_begun : cpycRanges (begun v c s) (startUnit s v c) x = cpycRanges s c x := by
  unfold cpycRanges
  rw [startUnit_cpyRecOf, startUnit_cap, startUnit_die, (issueKept_begun (c := c) v).cpycMembers]

theorem cpycAbsent_begun : cpycAbsent (begun v c s) (startUnit s v c) x = cpycAbsent s c x := by
  unfold cpycAbsent
  rw [cpycRanges_begun, startUnit_cpyRecOf, startUnit_cap, (issueKept_begun (c := c) v).absentPages, (issueKept_begun (c := c) v).readObj]
  rfl

theorem cpycBad_begun (r : CpycRec) : r.bad (begun v c s) (startUnit s v c).g.die = r.bad s c.g.die := by
  rw [startUnit_die, (issueKept_begun (c := c) v).cpycBad]

theorem engineReady_cpycFlushed : EngineReady [.dies] s (cpycFlushed s c x) := by
  have hnumber : Kept [.dies] s (nextXfer s c.g.die).2 :=
    kept_updDie (f := fun y => { y with xfer := y.xfer + 1 }) (fun _ => rfl) fun _ => rfl
  unfold cpycFlushed flushSource
  exact ((EngineReady.refl s).andKept hnumber (List.Subset.refl _) (by decide)).release ..

theorem deckles_cpycFlushed_begun : (cpycFlushed (begun v c s) (startUnit s v c) x).deckles = s.deckles :=
  ((engineReady_cpycFlushed ..).deckles (by decide)).trans ((issueKept_begun (c := c) v).kept .deckles (by decide))

theorem cpycRegions_begun : cpycRegions (begun v c s) (startUnit s v c) x =
    (lendTargets s c.team.ctx (c.cap (cpycRec (cpyRecOf c x)).dcap) (cpycRanges s c x).2.1 (cpycRanges s c x).2.2).map
      (fun d => (d, (cpycSent s c x).party)) := by
  unfold cpycRegions
  rw [lendTargets_congr (deckles_cpycFlushed_begun s c x v), startUnit_cpyRecOf, startUnit_cap, cpycRanges_begun, cpycSent_begun]
  rfl

theorem cpycHole_begun : cpycHole (begun v c s) (startUnit s v c) x = true ↔
    RangesHole s c.team.ctx (c.cap (cpycRec (cpyRecOf c x)).dcap).oid.toNat [(cpycRanges s c x).2] := by
  unfold cpycHole
  dsimp only
  rw [lendTargets_congr (deckles_cpycFlushed_begun s c x v), startUnit_cpyRecOf, startUnit_cap, cpycRanges_begun]
  exact rangeHole_range _

end

theorem field_updDie {α : Type} {n : Nat} {f : Die → Die} (g : Die → α) (hg : ∀ y, g (f y) = g y) (d : Nat) :
    g ((s.updDie n f).die d) = g (s.die d) := by
  rw [State.die_updDie]
  split
  next h => rw [hg, h]
  next => rfl

/-- Of the dies the start of a CPYC changes the transfer number and the contributions only. -/
theorem field_withContribution {α : Type} (g : Die → α) (hown : ∀ y : Die, g y.own = g y) (hxfer : ∀ y n, g { y with xfer := n } = g y)
    (hdone : ∀ y l, g { y with contributed := l } = g y) (v : UnitOp)
    (hu : Kept [.bytes, .lines, .deckles, .holds] (cpycFlushed (begun v c s) (startUnit s v c) x) u) (d : Nat) :
    g ((withContribution (startUnit s v c) x u).die d) = g (s.die d) :=
  calc g ((withContribution (startUnit s v c) x u).die d) = g (u.die d) := field_updDie g (fun y => hdone y _) d
    _ = g ((cpycFlushed (begun v c s) (startUnit s v c) x).die d) := field_own (hu .dies (by decide)) g hown d
    _ = g ((nextXfer (begun v c s) (startUnit s v c).g.die).2.die d) := field_own (kept_releaseLines .dies (by decide)) g hown d
    _ = g ((begun v c s).die d) := field_updDie g (fun y => hxfer y _) d
    _ = g (s.die d) := field_own (issueKept_begun (c := c) v).own g hown d

theorem cpycStatus_lent (s : State) (v : UnitOp) (c : Ctx) (x : CpyU)
    (hu : Kept [.bytes, .lines, .deckles, .holds] (cpycFlushed (begun v c s) (startUnit s v c) x) u) :
    cpycStatus (withContribution (startUnit s v c) x u) (startUnit s v c) x = cpycStatus s c x := by
  have hgrids : (withContribution (startUnit s v c) x u).grids = s.grids :=
    calc (withContribution (startUnit s v c) x u).grids = u.grids := rfl
      _ = (cpycFlushed (begun v c s) (startUnit s v c) x).grids := hu .grids (by decide)
      _ = (begun v c s).grids := (engineReady_cpycFlushed ..).kept .grids (by decide)
      _ = s.grids := (issueKept_begun (c := c) v).kept .grids (by decide)
  have hboot := field_withContribution Die.boot (fun _ => rfl) (fun _ _ => rfl) (fun _ _ => rfl) v hu
  have hslots := field_withContribution Die.cslots (fun _ => rfl) (fun _ _ => rfl) (fun _ _ => rfl) v hu
  unfold cpycStatus
  rw [gridBroken_congr hgrids, memberFailed_congr hboot hslots, startUnit_cpyRecOf]
  rfl

/-! The receipt. -/

/-- What a CPYC leaves at its engine, by its record and its pages. -/
def CpycReceipt (s : State) (c : Ctx) (x : CpyU) (t : State) (e : EngOp) : Prop :=
  e.kind = .cpyc ∧ e.record = cpyRecOf c x ∧
    ((cpycRec (cpyRecOf c x)).bad s c.g.die = true → e.status = some 3) ∧
    ((cpycRec (cpyRecOf c x)).bad s c.g.die = false → cpycAbsent s c x = true → e.status = some 2) ∧
    ((cpycRec (cpyRecOf c x)).bad s c.g.die = false → cpycAbsent s c x = false →
      Lends s t c e (c.cap (cpycRec (cpyRecOf c x)).dcap).oid.toNat [(cpycRanges s c x).2] (e.status = cpycStatus s c x))

theorem cpyc_runs (hu : PassesAlone (.cpyc x) s c (cpycUnit x)) (hpair : s.deckles.Pairwise (fun d e => sameEntry d e = false))
    (hbad : (cpycRec (cpyRecOf c x)).bad s c.g.die = false) (habsent : cpycAbsent s c x = false) :
    EngineLeaves (.cpyc x) s c x.r (CpycReceipt s c x) := by
  have hbad' : (cpycRec (cpyRecOf (startUnit s (cpycUnit x) c) x)).bad (begun (cpycUnit x) c s) (startUnit s (cpycUnit x) c).g.die = false := by
    rw [startUnit_cpyRecOf, cpycBad_begun, hbad]
  have habsent' : cpycAbsent (begun (cpycUnit x) c s) (startUnit s (cpycUnit x) c) x = false := by rw [cpycAbsent_begun, habsent]
  have hlent := fun u => cpycEffect_lent (u := u) hbad' habsent'
  have hunlent := fun k u => cpycEffect_unlent (k := k) (u := u) hbad' habsent'
  rw [cpycSent_begun, cpycRegions_begun] at hlent hunlent
  refine engine_lends (f := withContribution (startUnit s (cpycUnit x) c) x)
    (e' := fun k => { cpycSent s c x with status := some 1, dstat := k }) hu rfl ((engineReady_cpycFlushed ..).mono (by simp))
    (deckles_cpycFlushed_begun ..) (namesRegions_range hpair _ _) (cpycHole_begun s c x (cpycUnit x)) hlent hunlent
    (fun _ => kept_withContribution) (fun _ => ⟨rfl, rfl, rfl⟩) (fun _ => ⟨rfl, rfl, rfl, rfl⟩)
    (fun t u hkept hl => ?_) fun t k hl => ?_
  · exact ⟨rfl, rfl, by simp [hbad], by simp [habsent], fun _ _ => hl _ (cpycStatus_lent s _ c x hkept)⟩
  · exact ⟨rfl, rfl, by simp [hbad], by simp [habsent], fun _ _ => hl _⟩

theorem cpyc_leaves (hu : PassesAlone (.cpyc x) s c (cpycUnit x)) (hpair : s.deckles.Pairwise (fun d e => sameEntry d e = false)) :
    EngineLeaves (.cpyc x) s c x.r (CpycReceipt s c x) := by
  cases hbad : (cpycRec (cpyRecOf c x)).bad s c.g.die with
  | true =>
    refine engine_ends (e := { cpycOp c x with status := some 3 }) hu rfl ?_ rfl rfl fun t => ?_
    · refine (cpycEffect_bad ?_).trans (by rw [cpycOp_startUnit])
      rw [startUnit_cpyRecOf, cpycBad_begun, hbad]
    · exact ⟨rfl, rfl, fun _ => rfl, by simp [hbad], by simp [hbad]⟩
  | false =>
    cases habsent : cpycAbsent s c x with
    | true =>
      refine engine_ends (e := { cpycOp c x with status := some 2 }) hu rfl ?_ rfl rfl fun t => ?_
      · refine (cpycEffect_absent ?_ ?_).trans (by rw [cpycOp_startUnit])
        · rw [startUnit_cpyRecOf, cpycBad_begun, hbad]
        · rw [cpycAbsent_begun, habsent]
      · exact ⟨rfl, rfl, by simp [hbad], fun _ _ => rfl, by simp [habsent]⟩
    | false => exact cpyc_runs hu hpair hbad habsent

end Sys2Proof.Machine
end

section
/-! NMRED and NMSCAT leave for the memory port, and the engine instructions together (R97, R231, R233, R235). -/
namespace Sys2Proof.Machine

variable {s q u : State} {c : Ctx} {x : NmU} {scat : Bool} {d e : Deckle} {all : List Deckle} {ctx : Nat} {r : NmRows}

/-! Regions of several ranges, each once. -/

/-- A region is appended when no entry of the list is it. -/
def addEntry (l : List Deckle) (d : Deckle) : List Deckle := if l.any (sameEntry d) then l else l ++ [d]

theorem addEntry_cases (l : List Deckle) (d : Deckle) :
    (addEntry l d = l ∧ ∃ e ∈ l, sameEntry d e = true) ∨ (addEntry l d = l ++ [d] ∧ ∀ e ∈ l, sameEntry d e = false) := by
  unfold addEntry
  split
  next h => exact .inl ⟨rfl, List.any_eq_true.1 h⟩
  next h => exact .inr ⟨rfl, fun e he => by simpa using List.any_eq_false.1 (Bool.eq_false_iff.2 h) e he⟩

/-- The list names every region once, where one entry is one region. -/
theorem mem_addEntries (hone : ∀ d e, d ∈ all → e ∈ all → sameEntry d e = true → d = e) :
    ∀ (rest l : List Deckle), rest ⊆ all → l ⊆ all → (d ∈ rest.foldl addEntry l ↔ d ∈ l ∨ d ∈ rest)
  | [], l, _, _ => by simp
  | y :: rest, l, hrest, hl => by
    have hy : y ∈ all := hrest List.mem_cons_self
    have htail : rest ⊆ all := fun z hz => hrest (List.mem_cons_of_mem y hz)
    rw [List.foldl_cons]
    rcases addEntry_cases l y with ⟨hadd, e, he, hsame⟩ | ⟨hadd, -⟩
    · obtain rfl := hone y e hy (hl he) hsame
      rw [hadd, mem_addEntries hone rest l htail hl, List.mem_cons]
      constructor
      · rintro (h | h) <;> simp [h]
      · rintro (h | rfl | h) <;> simp [*]
    · rw [hadd, mem_addEntries hone rest (l ++ [y]) htail (fun z hz => by
        rcases List.mem_append.1 hz with hz | hz
        · exact hl hz
        · exact List.mem_singleton.1 hz ▸ hy)]
      simp [or_assoc]

theorem pairwise_addEntries (rest : List Deckle) : (rest.foldl addEntry []).Pairwise (fun d e => sameEntry e d = false) := by
  refine List.foldlRecOn (motive := fun l : List Deckle => l.Pairwise fun d e => sameEntry e d = false) rest _ .nil fun l hl d _ => ?_
  rcases addEntry_cases l d with ⟨hadd, -⟩ | ⟨hadd, hno⟩
  · rwa [hadd]
  · rw [hadd]
    exact List.pairwise_append.2 ⟨hl, List.pairwise_singleton _ d, fun e he f hf => List.mem_singleton.1 hf ▸ hno e he⟩

/-- The ranges of the rows. -/
def rowRanges (r : NmRows) : List (Nat × Nat) := r.starts.map (fun b => (b, r.len))

/-- The regions that the rows meet, in their order. -/
def rowRegions (s : State) (ctx : Nat) (r : NmRows) : List Deckle :=
  r.starts.flatMap (fun b => if r.len = 0 then [] else regionsIn s ctx r.cap.oid.toNat b r.len)

theorem mem_rowRegions : d ∈ rowRegions s ctx r ↔ d ∈ destRegions s ctx r.cap.oid.toNat (rowRanges r) := by
  rw [mem_destRegions]
  unfold rowRegions rowRanges
  by_cases hlen : r.len = 0
  · simp [hlen]
  · have hpos : 0 < r.len := Nat.pos_of_ne_zero hlen
    simp only [hlen, if_false, List.mem_flatMap, mem_regionsIn, List.mem_map, exists_exists_and_eq_and, hpos, true_and]
    tauto

/-- The party of a region's engine. -/
def siloFor (s : State) (ctx : Nat) (r : NmRows) (d : Deckle) : Nat :=
  siloParty (stackOf ((placeOf s (readObj s ctx r.cap.oid.toNat)
    ((minBy id ((r.starts.filter (fun b => overlaps b r.len d.base d.len)).map (fun b => max b d.base))).getD d.base)).getD 0))

theorem nmTargets_eq : nmTargets s ctx r = ((rowRegions s ctx r).foldl addEntry []).map (fun d => (d, siloFor s ctx r d)) := rfl

theorem nmTargets_regions : (nmTargets s ctx r).map (·.1) = (rowRegions s ctx r).foldl addEntry [] := by
  rw [nmTargets_eq, List.map_map]
  exact List.map_id _

theorem rowRegions_congr (h : q.deckles = s.deckles) : rowRegions q ctx r = rowRegions s ctx r := by
  unfold rowRegions regionsIn
  rw [h]

section
variable (hpair : s.deckles.Pairwise (fun d e => sameEntry d e = false))
include hpair

theorem sameEntry_eq (hd : d ∈ s.deckles) (he : e ∈ s.deckles) (h : sameEntry d e = true) : d = e := by
  have hsymm : Std.Symm (fun d e => sameEntry d e = false) := ⟨fun x y hxy => (sameEntry_comm y x).trans hxy⟩
  by_contra hne
  have hother : sameEntry d e = false := hpair.forall hd he hne
  rw [h] at hother
  cases hother

theorem mem_nmTargets : d ∈ (rowRegions s ctx r).foldl addEntry [] ↔ d ∈ destRegions s ctx r.cap.oid.toNat (rowRanges r) := by
  have hin : ∀ e ∈ rowRegions s ctx r, e ∈ s.deckles := fun e he => (mem_destRegions.1 (mem_rowRegions.1 he)).1
  rw [mem_addEntries (fun d e hd he => sameEntry_eq hpair (hin d hd) (hin e he)) _ [] (List.Subset.refl _) (List.nil_subset _), mem_rowRegions]
  simp

theorem namesRegions_rows (hq : q.deckles = s.deckles) : NamesRegions s ctx r.cap.oid.toNat (rowRanges r) (nmTargets q ctx r) where
  regions d := by
    rw [nmTargets_eq, rowRegions_congr hq, ← mem_nmTargets hpair]
    simp
  distinct := by
    rw [nmTargets_eq]
    exact List.pairwise_map.2 (pairwise_addEntries _)

theorem rowsHole_iff (hq : q.deckles = s.deckles) :
    (r.starts.any (fun b => rangeHole ((nmTargets q ctx r).map (·.1)) ((nmTargets q ctx r).length + 1) b (b + r.len))) = true ↔
      RangesHole s ctx r.cap.oid.toNat (rowRanges r) := by
  have hlen : (nmTargets q ctx r).length = ((nmTargets q ctx r).map (·.1)).length := (List.length_map _).symm
  rw [hlen, nmTargets_regions, rowRegions_congr hq]
  simp only [List.any_eq_true, rangeHole_full, mem_nmTargets hpair]
  simp [RangesHole, rowRanges]

end

/-! The instructions. -/

theorem exec_nm (x : NmU) (scat : Bool) (s : State) : exec (if scat then .nmscat x else .nmred x) s = issue (nmUnit x scat) s := by
  cases scat <;> rfl

/-- The record of the issue. -/
def nmRecord (c : Ctx) (x : NmU) : BitVec 512 := recordAt c (nmRecAt c x)

/-- Rows read and rows written. -/
def nmFrom (c : Ctx) (x : NmU) (scat : Bool) : NmRows := nmSource c (nmDesc (nmRecord c x)) scat (nmEntries c x)
def nmInto (c : Ctx) (x : NmU) (scat : Bool) : NmRows := nmDest c (nmDesc (nmRecord c x)) scat (nmEntries c x)

/-- The operation that the issue sends. -/
def nmOp (s : State) (c : Ctx) (x : NmU) (scat : Bool) : EngOp :=
  { kind := if scat then .nmscat else .nmred, reg := x.r, record := nmRecord c x, src := c.cap (nmDesc (nmRecord c x)).icap
    dst := c.cap (nmDesc (nmRecord c x)).bcap, key := ((s.die c.g.die).cycle * 2048 + c.core) * 128 + c.g.slot + 1 }

def nmMissing (s : State) (c : Ctx) (x : NmU) (scat : Bool) : Bool :=
  nmAbsent s c.team.ctx (nmFrom c x scat) || nmAbsent s c.team.ctx (nmInto c x scat)

def nmDead (s : State) (c : Ctx) (x : NmU) (scat : Bool) : Bool :=
  nmLost s c.team.ctx (nmFrom c x scat) || nmLost s c.team.ctx (nmInto c x scat)

/-- The rows read, written back. -/
def nmFlushed (s : State) (c : Ctx) (x : NmU) (scat : Bool) : State :=
  (nmFrom c x scat).starts.foldl (fun s b => flushSource s c (nmFrom c x scat).cap.oid.toNat b (nmFrom c x scat).len) s

/-- The written regions, and whether a byte written lies in none of them. -/
def nmRegions (s : State) (c : Ctx) (x : NmU) (scat : Bool) : List (Deckle × Nat) :=
  nmTargets (nmFlushed s c x scat) c.team.ctx (nmInto c x scat)

def nmHole (s : State) (c : Ctx) (x : NmU) (scat : Bool) : Bool :=
  (nmInto c x scat).starts.any (fun b =>
    rangeHole ((nmRegions s c x scat).map (·.1)) ((nmRegions s c x scat).length + 1) b (b + (nmInto c x scat).len))

/-- The record is good, its pages are resident and on running dies. -/
structure NmRuns (s : State) (c : Ctx) (x : NmU) (scat : Bool) : Prop where
  good : (nmDesc (nmRecord c x)).bad scat = false
  present : nmMissing s c x scat = false
  alive : nmDead s c x scat = false

theorem nmEffect_bad (h : (nmDesc (nmRecord c x)).bad scat = true) :
    nmEffect x scat c s = engineStart s c { nmOp s c x scat with status := some 3 } := if_pos h

theorem nmEffect_absent (hbad : (nmDesc (nmRecord c x)).bad scat = false) (h : nmMissing s c x scat = true) :
    nmEffect x scat c s = engineStart s c { nmOp s c x scat with status := some 2 } :=
  (if_neg (Bool.eq_false_iff.1 hbad)).trans (if_pos h)

theorem nmEffect_dead (hbad : (nmDesc (nmRecord c x)).bad scat = false) (hm : nmMissing s c x scat = false) (h : nmDead s c x scat = true) :
    nmEffect x scat c s = engineStart s c { nmOp s c x scat with status := some 7 } :=
  (if_neg (Bool.eq_false_iff.1 hbad)).trans ((if_neg (Bool.eq_false_iff.1 hm)).trans (if_pos h))

theorem NmRuns.effect_lent (h : NmRuns s c x scat)
    (hl : lendAll (nmFlushed s c x scat) c.team.ctx c.parties (nmRegions s c x scat) (nmHole s c x scat) = (0, u)) :
    nmEffect x scat c s = engineStart { u with nextId := u.nextId + 1 } c { nmOp s c x scat with
      lends := (nmRegions s c x scat).map (fun d => (d.1.oid, d.1.base)), entries := nmEntries c x, count := (nmEntries c x).length
      ticket := u.nextId } := by
  refine (if_neg (Bool.eq_false_iff.1 h.good)).trans ((if_neg (Bool.eq_false_iff.1 h.present)).trans
    ((if_neg (Bool.eq_false_iff.1 h.alive)).trans ?_))
  show (match lendAll (nmFlushed s c x scat) c.team.ctx c.parties (nmRegions s c x scat) (nmHole s c x scat) with
    | (0, s) => _ | (k, s) => _) = _
  rw [hl]
  rfl

theorem NmRuns.effect_unlent {k : Nat} (h : NmRuns s c x scat)
    (hl : lendAll (nmFlushed s c x scat) c.team.ctx c.parties (nmRegions s c x scat) (nmHole s c x scat) = (k + 1, u)) :
    nmEffect x scat c s = engineStart u c { nmOp s c x scat with status := some 1, dstat := k + 1 } := by
  refine (if_neg (Bool.eq_false_iff.1 h.good)).trans ((if_neg (Bool.eq_false_iff.1 h.present)).trans
    ((if_neg (Bool.eq_false_iff.1 h.alive)).trans ?_))
  show (match lendAll (nmFlushed s c x scat) c.team.ctx c.parties (nmRegions s c x scat) (nmHole s c x scat) with
    | (0, s) => _ | (k, s) => _) = _
  rw [hl]
  rfl

/-! At the unit's beginning. -/

section
variable (s) (c) (x) (scat) (v : UnitOp)

theorem nmRecord_startUnit : nmRecord (startUnit s v c) x = nmRecord c x := congrArg (recordAt c) (startUnit_nmRecAt s v x)

theorem nmFrom_startUnit : nmFrom (startUnit s v c) x scat = nmFrom c x scat := by
  unfold nmFrom
  rw [nmRecord_startUnit, startUnit_nmEntries, startUnit_nmSource]

theorem nmInto_startUnit : nmInto (startUnit s v c) x scat = nmInto c x scat := by
  unfold nmInto
  rw [nmRecord_startUnit, startUnit_nmEntries, startUnit_nmDest]

theorem nmMissing_begun : nmMissing (begun v c s) (startUnit s v c) x scat = nmMissing s c x scat := by
  unfold nmMissing
  rw [nmFrom_startUnit, nmInto_startUnit, (issueKept_begun (c := c) v).nmAbsent]
  rfl

theorem nmDead_begun : nmDead (begun v c s) (startUnit s v c) x scat = nmDead s c x scat := by
  unfold nmDead
  rw [nmFrom_startUnit, nmInto_startUnit, (issueKept_begun (c := c) v).nmLost]
  rfl

theorem engineReady_nmFlushed : EngineReady [] s (nmFlushed s c x scat) :=
  List.foldlRecOn _ _ (EngineReady.refl s) fun _ ht _ _ => ht.release ..

theorem deckles_nmFlushed_begun : (nmFlushed (begun v c s) (startUnit s v c) x scat).deckles = s.deckles :=
  ((engineReady_nmFlushed ..).deckles (by decide)).trans ((issueKept_begun (c := c) v).kept .deckles (by decide))

end

/-! The receipt. -/

/-- What the issue leaves at the memory port, by its record and its pages. -/
def NmReceipt (s : State) (c : Ctx) (x : NmU) (scat : Bool) (t : State) (e : EngOp) : Prop :=
  let bad := (nmDesc (nmRecord c x)).bad scat
  e.kind = (if scat then .nmscat else .nmred) ∧ e.record = nmRecord c x ∧
    (bad = true → e.status = some 3) ∧ (bad = false → nmMissing s c x scat = true → e.status = some 2) ∧
    (bad = false → nmMissing s c x scat = false → nmDead s c x scat = true → e.status = some 7) ∧
    (bad = false → nmMissing s c x scat = false → nmDead s c x scat = false →
      Lends s t c e (nmInto c x scat).cap.oid.toNat (rowRanges (nmInto c x scat)) (e.status = none ∧ e.entries = nmEntries c x))

theorem nm_runs (hu : PassesAlone (if scat then .nmscat x else .nmred x) s c (nmUnit x scat))
    (hpair : s.deckles.Pairwise (fun d e => sameEntry d e = false)) (h : NmRuns s c x scat) :
    EngineLeaves (if scat then .nmscat x else .nmred x) s c x.r (NmReceipt s c x scat) := by
  have hb : NmRuns (begun (nmUnit x scat) c s) (startUnit s (nmUnit x scat) c) x scat :=
    ⟨by rw [nmRecord_startUnit, h.good], by rw [nmMissing_begun, h.present], by rw [nmDead_begun, h.alive]⟩
  have hdeckles := deckles_nmFlushed_begun s c x scat (nmUnit x scat)
  have hrs : NamesRegions s c.team.ctx (nmInto c x scat).cap.oid.toNat (rowRanges (nmInto c x scat))
      (nmRegions (begun (nmUnit x scat) c s) (startUnit s (nmUnit x scat) c) x scat) := by
    have := namesRegions_rows (ctx := c.team.ctx) (r := nmInto c x scat) hpair hdeckles
    unfold nmRegions
    rwa [nmInto_startUnit]
  have hhole : nmHole (begun (nmUnit x scat) c s) (startUnit s (nmUnit x scat) c) x scat = true ↔
      RangesHole s c.team.ctx (nmInto c x scat).cap.oid.toNat (rowRanges (nmInto c x scat)) := by
    unfold nmHole nmRegions
    rw [nmInto_startUnit]
    exact rowsHole_iff hpair hdeckles
  have hrecord := nmRecord_startUnit s c x (nmUnit x scat)
  have hentries : nmEntries (startUnit s (nmUnit x scat) c) x = nmEntries c x := startUnit_nmEntries ..
  refine engine_lends (f := fun u => { u with nextId := u.nextId + 1 })
    (e' := fun k => { nmOp (begun (nmUnit x scat) c s) (startUnit s (nmUnit x scat) c) x scat with status := some 1, dstat := k })
    hu rfl ((engineReady_nmFlushed ..).mono (by simp)) hdeckles hrs hhole (fun u => hb.effect_lent) (fun k u => hb.effect_unlent)
    (fun u => kept_withNextId.mono (by simp)) (fun _ => ⟨rfl, rfl, rfl⟩) (fun _ => ⟨rfl, rfl, rfl, rfl⟩) (fun t u _ hl => ?_) fun t k hl => ?_
  · exact ⟨rfl, hrecord, by simp [h.good], by simp [h.present], by simp [h.alive], fun _ _ _ => hl _ ⟨rfl, hentries⟩⟩
  · exact ⟨rfl, hrecord, by simp [h.good], by simp [h.present], by simp [h.alive], fun _ _ _ => hl _⟩

theorem nm_leaves (hu : PassesAlone (if scat then .nmscat x else .nmred x) s c (nmUnit x scat))
    (hpair : s.deckles.Pairwise (fun d e => sameEntry d e = false)) :
    EngineLeaves (if scat then .nmscat x else .nmred x) s c x.r (NmReceipt s c x scat) := by
  have hrecord := nmRecord_startUnit s c x (nmUnit x scat)
  have hmissing := nmMissing_begun s c x scat (nmUnit x scat)
  have hdead := nmDead_begun s c x scat (nmUnit x scat)
  cases hbad : (nmDesc (nmRecord c x)).bad scat with
  | true =>
    refine engine_ends hu rfl (nmEffect_bad (by rw [hrecord, hbad])) rfl rfl fun t => ?_
    exact ⟨rfl, hrecord, fun _ => rfl, by simp [hbad], by simp [hbad], by simp [hbad]⟩
  | false =>
    cases hm : nmMissing s c x scat with
    | true =>
      refine engine_ends hu rfl (nmEffect_absent (by rw [hrecord, hbad]) (by rw [hmissing, hm])) rfl rfl fun t => ?_
      exact ⟨rfl, hrecord, by simp [hbad], fun _ _ => rfl, by simp [hm], by simp [hm]⟩
    | false =>
      cases hd : nmDead s c x scat with
      | true =>
        refine engine_ends hu rfl (nmEffect_dead (by rw [hrecord, hbad]) (by rw [hmissing, hm]) (by rw [hdead, hd])) rfl rfl fun t => ?_
        exact ⟨rfl, hrecord, by simp [hbad], by simp [hm], fun _ _ _ => rfl, by simp [hd]⟩
      | false => exact nm_runs hu hpair ⟨hbad, hm, hd⟩

/-- Settles O26: each engine's effect, by the branches of its record, sends one operation; its lends are those of lendAll over the
regions of the written ranges. -/
theorem engineInstructionsLeave : Obligations.EngineInstructionsLeave := by
  unfold Obligations.EngineInstructionsLeave
  intro s c ha hact hpair
  refine ⟨fun x scat hp hgo => ?_, fun x hp hrec hchecks => ?_, fun x hp hrec hchecks => ?_⟩
  · obtain ⟨hc, hm⟩ := hp
    exact nm_leaves ⟨exec_nm x scat s, hc, hm, rfl, ha, rfl, hgo, fun _ => hact⟩ hpair
  · obtain ⟨hc, hm⟩ := hp
    refine cpy_leaves ⟨exec_cpy x s, hc, hm, rfl, ha, rfl, Gate.both_go hrec ?_, fun _ => hact⟩ hpair
    split
    next => rfl
    next h => exact hchecks (Bool.eq_false_iff.2 h)
  · obtain ⟨hc, hm⟩ := hp
    refine cpyc_leaves ⟨exec_cpyc x s, hc, hm, rfl, ha, rfl, Gate.both_go hrec ?_, fun _ => hact⟩ hpair
    split
    next => rfl
    next h => exact hchecks (Bool.eq_false_iff.2 h)

end Sys2Proof.Machine
end

section
/-! One atomic at its home (R105, R220). -/
namespace Sys2Proof.Machine

variable {s : State} {a n m v cmp : Nat}

/-! The bytes of a location. -/

theorem homeByte_wrHomes_inside (bs : List Byte) (s : State) (a i : Nat) (h : i < bs.length) :
    homeByte (wrHomes s a bs) (a + i) = bs[i] := by
  induction bs generalizing s a i with
  | nil => cases h
  | cons b bs ih =>
    rw [wrHomes]
    cases i with
    | zero => rw [homeByte_wrHomes _ _ _ _ (fun k _ => by omega), homeByte_wrHome, if_pos (Nat.add_zero a), List.getElem_cons_zero]
    | succ i =>
      have hnext : a + (i + 1) = a + 1 + i := by omega
      rw [hnext, ih, List.getElem_cons_succ]

/-- A location reads as the number written there. -/
theorem homeNat_wrHomeNat (s : State) (a n v : Nat) : homeNat (wrHomeNat s a n v) a n = v % 2 ^ (8 * n) := by
  have hbytes : (upto n).map (fun i => homeByte (wrHomeNat s a n v) (a + i)) = leBytes n v := by
    refine List.ext_getElem (by simp [upto]) fun i hi hj => ?_
    simp only [upto, List.getElem_map, List.getElem_range]
    exact homeByte_wrHomes_inside (leBytes n v) s a i hj
  rw [homeNat, hbytes, leNat_leBytes]

theorem leNat_lt : ∀ bs : List Byte, leNat bs < 2 ^ (8 * bs.length)
  | [] => by simp [leNat]
  | b :: bs => by
    have hrest := leNat_lt bs
    have hb : b.toNat < 256 := b.isLt
    rw [leNat, List.length_cons, Nat.mul_succ, Nat.pow_add]
    omega

theorem homeNat_lt (s : State) (a n : Nat) : homeNat s a n < 2 ^ (8 * n) := by
  have := leNat_lt ((upto n).map (fun i => homeByte s (a + i)))
  simpa [homeNat, upto] using this

/-! A sum delivered in f32 is a word. -/

theorem shiftNat_lt (m : Nat) (j : Int) : Fmt.shiftNat m j < 2 ^ ((Nat.log2 m : Int) + 1 + j).toNat := by
  have hlog : m < 2 ^ (Nat.log2 m + 1) := Nat.lt_log2_self
  unfold Fmt.shiftNat
  split
  next hj =>
    have hexp : ((Nat.log2 m : Int) + 1 + j).toNat = Nat.log2 m + 1 + j.toNat := by omega
    rw [hexp, Nat.pow_add]
    exact Nat.mul_lt_mul_of_pos_right hlog (Nat.two_pow_pos _)
  next hj =>
    refine Nat.div_lt_of_lt_mul (lt_of_lt_of_le hlog ?_)
    rw [← Nat.pow_add]
    exact Nat.pow_le_pow_right (by decide) (by omega)

/-- The grid of a value's spacing in f32, and its code on the grid without the sign. -/
def f32Grid (m : Nat) (e : Int) : Int := max ((Nat.log2 m : Int) + e - (Fmt.f32.prec : Int) + 1) Fmt.f32.qmin
def f32Mag (k : Nat) (q : Int) : Nat :=
  let ex := if k < 2 ^ (Fmt.f32.prec - 1) then 0 else (q - Fmt.f32.qmin + 1).toNat
  if ex = 0 then k else ex * 2 ^ (Fmt.f32.prec - 1) + (k - 2 ^ (Fmt.f32.prec - 1))

theorem encFin_f32_eq {neg : Bool} {e : Int} (hm : m ≠ 0) : Fmt.f32.encFin neg m e =
    (if neg then Fmt.f32.signBit else 0) + f32Mag (Fmt.shiftNat m (e - f32Grid m e)) (f32Grid m e) := if_neg hm

theorem f32Mag_lt {k : Nat} {q : Int} (hk : k < 2 ^ 24) (hq : q ≤ 104) : f32Mag k q < 2 ^ 31 := by
  have hprec : Fmt.f32.prec = 24 := rfl
  have hqmin : Fmt.f32.qmin = -149 := by decide
  unfold f32Mag
  rw [hprec, hqmin]
  dsimp only
  by_cases hsmall : k < 2 ^ (24 - 1)
  · rw [if_pos hsmall, if_pos rfl]
    omega
  · rw [if_neg hsmall]
    split <;> omega

/-- The code of a finite value within f32's range. -/
theorem encFin_f32_lt {neg : Bool} {e : Int} (h : m = 0 ∨ (Nat.log2 m : Int) + e ≤ 127) : Fmt.f32.encFin neg m e < 2 ^ 32 := by
  have hsign : (if neg then Fmt.f32.signBit else 0) ≤ 2 ^ 31 := by cases neg <;> decide
  by_cases hm : m = 0
  · have hzero : Fmt.f32.encFin neg m e = if neg then Fmt.f32.signBit else 0 := by simp [Fmt.encFin, hm, Fmt.isB8]
    omega
  · have hgrid : f32Grid m e = max ((Nat.log2 m : Int) + e - 23) (-149) := by
      have hqmin : Fmt.f32.qmin = -149 := by decide
      unfold f32Grid
      rw [hqmin]
      simp only [Fmt.prec]
      omega
    have hk : Fmt.shiftNat m (e - f32Grid m e) < 2 ^ 24 :=
      lt_of_lt_of_le (shiftNat_lt ..) (Nat.pow_le_pow_right (by decide) (by omega))
    have hmag := f32Mag_lt (q := f32Grid m e) hk (by have := h.resolve_left hm; omega)
    rw [encFin_f32_eq hm]
    omega

theorem exceeds_f32 {k : Nat} {q : Int} (h : exceeds .f32 k q = false) : k = 0 ∨ (Nat.log2 k : Int) + q ≤ 127 := by
  by_contra hno
  obtain ⟨hk, hq⟩ := not_or.1 hno
  have hmax : (Nat.log2 (Fmt.f32.magOf Fmt.f32.maxCode).1 : Int) + (Fmt.f32.magOf Fmt.f32.maxCode).2 = 127 := by decide +kernel
  unfold exceeds at h
  dsimp only at h
  rw [if_neg hk, hmax, if_pos (by omega)] at h
  cases h

theorem convQ_f32_lt (md : Rnd) (sb neg : Bool) (n d : Nat) (e : Int) : (convQ .f32 md sb neg n d e).1 < 2 ^ 32 := by
  unfold convQ
  dsimp only
  split
  · decide
  · split
    · split
      · cases neg <;> decide
      · cases neg <;> decide
    next h => exact encFin_f32_lt (exceeds_f32 (Bool.eq_false_iff.2 h))

theorem deliver_f32_lt (x : FVal) (md : Rnd) (sb : Bool) : (deliver x .f32 md sb).1 < 2 ^ 32 := by
  cases x with
  | nan => exact (by decide : Fmt.f32.nanCode < 2 ^ 32)
  | inf neg => exact (by cases neg <;> decide : Fmt.f32.infCode neg < 2 ^ 32)
  | fin neg m e => exact convQ_f32_lt ..

/-! The operations. -/

/-- The rules of R220 give the model's new values. -/
theorem atomNew_rule {e : AtomOp × (Nat → Nat → Nat → Nat → Nat)} (he : e ∈ atomicRules) (w m v cmp : Nat) :
    atomNew e.1 w m v cmp = e.2 w m v cmp := by
  simp only [atomicRules, List.mem_cons, List.not_mem_nil, or_false] at he
  rcases he with rfl | rfl | rfl | rfl | rfl | rfl | rfl | rfl | rfl | rfl | rfl | rfl | rfl
  case inr.inr.inr.inl =>
    show min m v = if v < m then v else m
    split <;> omega
  case inr.inr.inr.inr.inl =>
    show max m v = if m < v then v else m
    split <;> omega
  case inr.inr.inr.inr.inr.inr.inr.inr.inr.inr.inl =>
    show (deliver (fsum .ne [Fmt.f32.dec m, Fmt.f32.dec v]).1 .f32 .ne false).1 = _
    dsimp only
    generalize fsum .ne [Fmt.f32.dec m, Fmt.f32.dec v] = sum
    obtain ⟨y, flags⟩ := sum
    cases y <;> rfl
  all_goals rfl

/-- The new value fits the location. -/
theorem atomNew_lt (o : AtomOp) {w m v cmp : Nat} (hm : m < 2 ^ w) (hv : v < 2 ^ w) (hw : o = .fadd → w = 32) :
    atomNew o w m v cmp < 2 ^ w := by
  cases o with
  | add => exact Nat.mod_lt _ (Nat.two_pow_pos w)
  | nmin => exact lt_of_le_of_lt (Nat.min_le_left ..) hm
  | nmax => exact max_lt hm hv
  | and => exact Nat.and_lt_two_pow _ hv
  | or => exact Nat.or_lt_two_pow hm hv
  | xor => exact Nat.xor_lt_two_pow hm hv
  | exch => exact hv
  | fadd => rw [hw rfl]; exact deliver_f32_lt ..
  | inc =>
    show (if v ≤ m then 0 else m + 1) < 2 ^ w
    split <;> omega
  | dec =>
    show (if m = 0 ∨ v < m then v else m - 1) < 2 ^ w
    split <;> omega
  | min =>
    show (if sextN v w < sextN m w then v else m) < 2 ^ w
    split <;> assumption
  | max =>
    show (if sextN m w < sextN v w then v else m) < 2 ^ w
    split <;> assumption
  | cas =>
    show (if m = cmp then v else m) < 2 ^ w
    split <;> assumption

theorem atomicOperationResults : AtomicOperationResultsHold := by
  intro e he s n place v cmp hn hv hadd _
  have hm : homeNat s place n < 2 ^ (8 * n) := homeNat_lt ..
  have hnew : atomNew e.1 (8 * n) (homeNat s place n) v cmp < 2 ^ (8 * n) := atomNew_lt e.1 hm hv fun h => by rw [hadd h]
  refine ⟨rfl, ?_, fun b hb => homeByte_wrHomeNat s place n _ b fun k hk => by omega⟩
  exact (homeNat_wrHomeNat ..).trans ((Nat.mod_eq_of_lt hnew).trans (atomNew_rule he ..))

end Sys2Proof.Machine
end

section
/-! The caches' operations do not see what an issue begins: they commute with another state's dies, counts and path waits, where
the same dies run (R80, R82, R391). -/
namespace Sys2Proof.Machine

variable {s t x y : State} {c : Ctx}

/-- The state x with the dies, the count of issues and the path waits of y. -/
def beside (y x : State) : State := { x with dies := y.dies, issues := y.issues, paths := y.paths }

/-- The same dies run. -/
def SameBoots (y x : State) : Prop := ∀ d, (y.die d).boot = (x.die d).boot

theorem IssueKept.beside (h : IssueKept c s t) : t = beside t s := h.groups.1

theorem IssueKept.sameBoots (h : IssueKept c s t) : SameBoots t s := boot_own h.own

theorem SameBoots.kept {xs : List StatePart} (h : SameBoots y x) (k : Kept xs x t) (hx : .dies ∉ xs) : SameBoots y t := fun d =>
  (h d).trans (boot_own (k .dies hx) d).symm

theorem beside_foldl {α : Type} {f : State → α → State} {xs : List StatePart} (hx : StatePart.dies ∉ xs)
    (hf : ∀ x a, SameBoots y x → f (beside y x) a = beside y (f x a)) (hk : ∀ x a, Kept xs x (f x a)) (l : List α) :
    ∀ x, SameBoots y x → l.foldl f (beside y x) = beside y (l.foldl f x) := by
  induction l with
  | nil => exact fun _ _ => rfl
  | cons a l ih =>
    intro x h
    rw [List.foldl_cons, List.foldl_cons, hf x a h]
    exact ih (f x a) (h.kept (hk x a) hx)

/-! Bytes at home. -/

theorem beside_wrHome (a : Nat) (b : Byte) : wrHome (beside y x) a b = beside y (wrHome x a b) := by
  unfold wrHome
  split <;> rfl

theorem beside_wrHomes (bs : List Byte) (a : Nat) : wrHomes (beside y x) a bs = beside y (wrHomes x a bs) := by
  induction bs generalizing x a with
  | nil => rfl
  | cons b bs ih => rw [wrHomes, wrHomes, beside_wrHome, ih]

theorem beside_wrMarked (a : Nat) (b : Byte) (mark : Bool) : wrMarked (beside y x) a b mark = beside y (wrMarked x a b mark) := by
  unfold wrMarked
  rw [beside_wrHome]
  cases mark <;> rfl

theorem beside_toHome (k : CLine) : toHome (beside y x) k = beside y (toHome x k) := by
  have hfold : ∀ (l : List Nat) (x : State),
      l.foldl (fun s i => wrMarked s (128 * k.line + i) (tget k.data i 0) (mbit k.poison i)) (beside y x) =
        beside y (l.foldl (fun s i => wrMarked s (128 * k.line + i) (tget k.data i 0) (mbit k.poison i)) x) := fun l => by
    induction l with
    | nil => exact fun _ => rfl
    | cons i l ih => exact fun x => by rw [List.foldl_cons, List.foldl_cons, beside_wrMarked, ih]
  unfold toHome
  rw [hfold]
  rfl

/-! Lines. -/

theorem beside_keepLine (k : CLine) : keepLine (beside y x) k = beside y (keepLine x k) := by
  by_cases hempty : k.known = 0 ∧ k.dirty = 0 ∧ k.tagDirty = 0
  · unfold keepLine
    dsimp only
    rw [if_pos hempty, if_pos hempty]
    rfl
  · unfold keepLine
    dsimp only
    rw [if_neg hempty, if_neg hempty]
    rfl

theorem beside_reach (h : SameBoots y x) : reach (beside y x) = reach x := by
  have hrunning : (beside y x).running = x.running := by
    funext d
    exact congrArg (fun n => decide (n = 1)) (h d)
  funext die place
  unfold reach
  rw [hrunning]
  rfl

theorem beside_canLeave (h : SameBoots y x) : canLeave (beside y x) = canLeave x := by
  funext k
  unfold canLeave
  rw [beside_reach h]

theorem beside_putL2 (h : SameBoots y x) (k : CLine) : putL2 (beside y x) k = beside y (putL2 x k) := by
  have hout : outgoing (beside y x) k (canLeave (beside y x)) = outgoing x k (canLeave x) := by rw [beside_canLeave h]; rfl
  unfold putL2
  rw [hout]
  cases outgoing x k (canLeave x) with
  | none => exact beside_keepLine k
  | some z =>
    show keepLine (dropLine (toHome (beside y x) z) true z.unit z.line) k = _
    rw [beside_toHome]
    exact beside_keepLine (x := dropLine (toHome x z) true z.unit z.line) k

theorem beside_toL2 (h : SameBoots y x) (k : CLine) : toL2 (beside y x) k = beside y (toL2 x k) := beside_putL2 h _

theorem beside_putLine (h : SameBoots y x) (k : CLine) : putLine (beside y x) k = beside y (putLine x k) := by
  cases hl : k.l2 with
  | true =>
    unfold putLine
    rw [if_pos hl, if_pos hl]
    exact beside_putL2 h k
  | false =>
    have hout : outgoing (beside y x) k (fun _ => true) = outgoing x k (fun _ => true) := rfl
    unfold putLine
    rw [if_neg (by simp [hl]), if_neg (by simp [hl]), hout]
    cases outgoing x k (fun _ => true) with
    | none => exact beside_keepLine k
    | some z =>
      by_cases hclean : z.dirty = 0 ∧ z.tagDirty = 0
      · simp only [hclean, and_self, if_true]
        exact beside_keepLine (x := dropLine x false z.unit z.line) k
      · simp only [hclean, if_false]
        rw [beside_toL2 h]
        exact beside_keepLine (x := dropLine (toL2 x z) false z.unit z.line) k

theorem beside_writeBack (h : SameBoots y x) (k : CLine) : writeBack (beside y x) k = beside y (writeBack x k) := by
  by_cases hclean : k.dirty = 0 ∧ k.tagDirty = 0
  · unfold writeBack
    rw [if_pos hclean, if_pos hclean]
  · rw [writeBack_dirty hclean, writeBack_dirty hclean]
    by_cases hl : k.l2 = true
    · rw [if_pos hl, if_pos hl, beside_toHome]
      exact beside_putLine (h.kept kept_toHome (by decide)) _
    · rw [if_neg hl, if_neg hl, beside_toL2 h]
      exact beside_putLine (h.kept kept_toL2 (by decide)) _

theorem beside_releaseLines (h : SameBoots y x) (cores : List Nat) (depth : Nat) (p : CLine → Bool) :
    releaseLines (beside y x) cores depth p = beside y (releaseLines x cores depth p) := by
  have hfold : ∀ (l : List CLine) (x : State), SameBoots y x → l.foldl writeBack (beside y x) = beside y (l.foldl writeBack x) :=
    fun l => beside_foldl (xs := [.bytes, .lines]) (by decide) (fun _ k hx => beside_writeBack hx k) (fun _ _ => kept_writeBack) l
  have hkept : ∀ (l : List CLine) (x : State), Kept [.bytes, .lines] x (l.foldl writeBack x) := fun l x => kept_foldl fun _ _ => kept_writeBack
  have hfirst := hfold (x.lines.filter (fun c => !c.l2 && cores.contains c.unit && p c)) x h
  have hboots : SameBoots y ((x.lines.filter (fun c => !c.l2 && cores.contains c.unit && p c)).foldl writeBack x) :=
    h.kept (hkept _ _) (by decide)
  by_cases h0 : depth = 0
  · exact (if_pos h0).trans (congrArg (beside y) (if_pos h0).symm)
  refine (if_neg h0).trans (Eq.trans ?_ (congrArg (beside y) (if_neg h0).symm))
  by_cases h1 : depth = 1
  · exact (if_pos h1).trans (hfirst.trans (congrArg (beside y) (if_pos h1).symm))
  refine (if_neg h1).trans (Eq.trans ?_ (congrArg (beside y) (if_neg h1).symm))
  refine Eq.trans ?_ (hfold _ _ hboots)
  exact congrArg (fun z : State => (z.lines.filter (fun c => c.l2 && (cores.map l2Of).contains c.unit && p c)).foldl writeBack z) hfirst

/-! Atomics at their homes. -/

theorem beside_atomAt (o : AtomOp) (n place v cmp : Nat) :
    atomAt (beside y x) o n place v cmp = ((atomAt x o n place v cmp).1, beside y (atomAt x o n place v cmp).2) :=
  Prod.ext rfl (beside_wrHomes ..)

/-- One lane of an atomic instruction. -/
def atomOne (o : AtomOp) (n : Nat) (operand : Nat → Nat × Nat) (r : List (Nat × Nat) × State) (q : Nat × Nat × Nat) :
    List (Nat × Nat) × State :=
  (r.1 ++ [(q.1, (atomAt r.2 o n q.2.2 (operand q.1).1 (operand q.1).2).1)], (atomAt r.2 o n q.2.2 (operand q.1).1 (operand q.1).2).2)

theorem beside_atomOnes (o : AtomOp) (n : Nat) (operand : Nat → Nat × Nat) (qs : List (Nat × Nat × Nat)) (l : List (Nat × Nat)) :
    qs.foldl (atomOne o n operand) (l, beside y x) =
      ((qs.foldl (atomOne o n operand) (l, x)).1, beside y (qs.foldl (atomOne o n operand) (l, x)).2) := by
  induction qs generalizing l x with
  | nil => rfl
  | cons q qs ih =>
    have hone : atomOne o n operand (l, beside y x) q = ((atomOne o n operand (l, x) q).1, beside y (atomOne o n operand (l, x) q).2) := by
      unfold atomOne
      rw [beside_atomAt]
    rw [List.foldl_cons, List.foldl_cons, hone, ih]

theorem beside_atomics (ctx : Nat) (a : Access) (o : AtomOp) (operand : Nat → Nat × Nat) :
    atomics (beside y x) ctx a o operand = ((atomics x ctx a o operand).1, beside y (atomics x ctx a o operand).2) := beside_atomOnes ..

end Sys2Proof.Machine
end

section
/-! ATOM and RED (R220, R221): the release, every lane's operation, the page bits, the acquire. -/
namespace Sys2Proof.Machine

variable {s t p r : State} {c : Ctx} {a : Access}

/-! What follows the lanes' operations. -/

/-- The walker writes the page's entry or nothing. -/
theorem markPage_cases (s : State) (o : ObjEntry) (store : Bool) (off : Nat) :
    markPage s o store off = s ∨ ∃ e, markPage s o store off = wrHomeNat s (pageAddr o (off / 65536)) 8 e := by
  by_cases hfar : o.far = true
  · exact .inl (if_pos hfar)
  · generalize hwant : readPage s o (off / 65536) ||| 2 ^ 17 ||| (if store then 2 ^ 16 else 0) = want
    have hmark : markPage s o store off =
        if readPage s o (off / 65536) = want then s else wrHomeNat s (pageAddr o (off / 65536)) 8 want := by
      unfold markPage
      rw [if_neg hfar]
      dsimp only
      rw [hwant]
    rw [hmark]
    split
    · exact .inl rfl
    · exact .inr ⟨want, rfl⟩

theorem kept_markPage {o : ObjEntry} {store : Bool} {off : Nat} : Kept [.bytes] s (markPage s o store off) := by
  obtain h | ⟨e, h⟩ := markPage_cases s o store off
  · rw [h]
    exact .refl s
  · rw [h]
    exact kept_wrHomes

theorem homeByte_markPage_of_other {o : ObjEntry} {store : Bool} {off b : Nat} (h : ∀ k < 8, b ≠ pageAddr o (off / 65536) + k) :
    homeByte (markPage s o store off) b = homeByte s b := by
  obtain hmark | ⟨e, hmark⟩ := markPage_cases s o store off
  · rw [hmark]
  · rw [hmark]
    exact homeByte_wrHomeNat s _ 8 e b h

/-- The entries' use counts alone change. -/
theorem kept_touchCover {ctx : Nat} {parties : List Nat} {oid : Nat} {offs : List Nat} {n : Nat} {kinds : List Nat} :
    Kept [] s (touchCover s ctx parties oid offs n kinds) := by
  intro q _
  cases q with
  | holds =>
    show (updWhere _ _ s.holds).map _ = _
    unfold updWhere
    rw [List.map_map]
    refine List.map_congr_left fun h _ => ?_
    simp only [Function.comp_apply]
    split <;> rfl
  | _ => simp [Same, touchCover, homeByte, State.team?, State.pair, State.die]

theorem kept_markAccess {store : Bool} {kinds offs : List Nat} : Kept [.bytes] s (markAccess s c a store kinds offs) :=
  (kept_foldl fun _ _ => kept_markPage).trans (kept_touchCover.mono (by simp))

theorem homeByte_markAccess_of_other {store : Bool} {kinds offs : List Nat} {b : Nat}
    (h : ∀ off ∈ offs, ∀ k < 8, b ≠ pageAddr (readObj s c.team.ctx a.c.oid.toNat) (off / 65536) + k) :
    homeByte (markAccess s c a store kinds offs) b = homeByte s b := by
  have hpages : ∀ o : ObjEntry, (∀ off ∈ offs, ∀ k < 8, b ≠ pageAddr o (off / 65536) + k) →
      homeByte (offs.foldl (fun s off => markPage s o store off) s) b = homeByte s b := fun o ho =>
    List.foldlRecOn (motive := fun q : State => homeByte q b = homeByte s b) offs _ rfl fun _ hq off hoff =>
      (homeByte_markPage_of_other (ho off hoff)).trans hq
  exact (kept_touchCover .bytes (by simp) b).trans (hpages _ h)

/-- What an atomic instruction does after its lanes: page bits, the acquire, and the grids that wait for a counter. -/
def atomEnd (c : Ctx) (a : Access) (order scope : Nat) (offs : List Nat) (s : State) : State :=
  let marked := markAccess s c a true atomKinds offs
  releaseDeps (if hasAcquire order then acquireAll marked c scope else marked)

/-- The state from which the lanes act. -/
def atomBegin (c : Ctx) (order scope : Nat) (s : State) : State := if hasRelease order then releaseAll s c scope else s

theorem atomLanes_eq (s : State) (c : Ctx) (a : Access) (o : AtomOp) (order scope : Nat) (operand : Nat → Nat × Nat) :
    atomLanes s c a o order scope operand = ((atomics (atomBegin c order scope s) c.team.ctx a o operand).1,
      atomEnd c a order scope ((placed (atomBegin c order scope s) c.team.ctx a).map (·.2.1))
        (atomics (atomBegin c order scope s) c.team.ctx a o operand).2) := rfl

theorem kept_atomEnd {order scope : Nat} {offs : List Nat} : Kept [.bytes, .lines, .grids] s (atomEnd c a order scope offs s) := by
  have hmark : Kept [.bytes, .lines, .grids] s (markAccess s c a true atomKinds offs) := kept_markAccess.mono (by simp)
  unfold atomEnd
  dsimp only
  split
  · exact (hmark.trans (kept_acquireLines.mono (by simp))).trans (kept_releaseDeps.mono (by simp))
  · exact hmark.trans (kept_releaseDeps.mono (by simp))

theorem homeByte_atomEnd {order scope : Nat} {offs : List Nat} {b : Nat}
    (h : ∀ off ∈ offs, ∀ k < 8, b ≠ pageAddr (readObj s c.team.ctx a.c.oid.toNat) (off / 65536) + k) :
    homeByte (atomEnd c a order scope offs s) b = homeByte s b := by
  have hmark := homeByte_markAccess_of_other (store := true) (kinds := atomKinds) h
  unfold atomEnd
  dsimp only
  rw [kept_releaseDeps .bytes (by decide) b]
  split
  · exact (kept_acquireLines .bytes (by decide) b).trans hmark
  · exact hmark

theorem kept_atomics {ctx : Nat} {o : AtomOp} {operand : Nat → Nat × Nat} : Kept [.bytes] s (atomics s ctx a o operand).2 :=
  List.foldlRecOn (motive := fun r : List (Nat × Nat) × State => Kept [.bytes] s r.2) _ _ (.refl s) fun _ hr _ _ => hr.trans kept_wrHomes

theorem kept_atomBegin {order scope : Nat} : Kept [.bytes, .lines] s (atomBegin c order scope s) := by
  unfold atomBegin
  split
  · exact kept_releaseLines
  · exact .refl s

/-- An offset that the lanes touch is one that the access names. -/
theorem mem_placed_offs {ctx off : Nat} (h : off ∈ (placed s ctx a).map (·.2.1)) : ∃ q ∈ a.offs, off = a.objOff q.2 := by
  obtain ⟨x, hx, rfl⟩ := List.mem_map.1 h
  unfold placed at hx
  obtain ⟨q, hq, hsome⟩ := List.mem_filterMap.1 hx
  obtain ⟨_, -, rfl⟩ := Option.map_eq_some_iff.1 hsome
  exact ⟨q, hq, rfl⟩

/-! At the unit's beginning. -/

/-- The lanes' operations from the state that the issue has paid. -/
def atomDone (c : Ctx) (a : Access) (o : AtomOp) (order scope : Nat) (operand : Nat → Nat × Nat) (p : State) : List (Nat × Nat) × State :=
  atomics (atomBegin c order scope p) c.team.ctx a o operand

/-- The issue's own changes stand beside the lanes' operations. -/
theorem atomLanes_begun (p : State) (v : UnitOp) (c : Ctx) (a : Access) (o : AtomOp) (order scope : Nat) (operand : Nat → Nat × Nat) :
    ∃ e, atomLanes (begun v c p) (startUnit p v c) a o order scope operand = ((atomDone c a o order scope operand p).1, e) ∧
      Kept [.bytes, .lines, .grids] (begun v c p) e ∧
      BytesKept (atomDone c a o order scope operand p).2 e (entryByte (atomDone c a o order scope operand p).2 c.team.ctx a) := by
  have hissue : IssueKept c p (begun v c p) := issueKept_begun v
  have hbegin : atomBegin (startUnit p v c) order scope (begun v c p) = beside (begun v c p) (atomBegin c order scope p) := by
    have hcores : releaseAll (begun v c p) (startUnit p v c) scope = releaseAll (begun v c p) c scope := by
      unfold releaseAll
      rw [started_core]
      rfl
    unfold atomBegin
    rw [hcores]
    by_cases hrel : hasRelease order = true
    · rw [if_pos hrel, if_pos hrel]
      exact (congrArg (releaseAll · c scope) hissue.beside).trans (beside_releaseLines hissue.sameBoots ..)
    · rw [if_neg hrel, if_neg hrel]
      exact hissue.beside
  have hlanes := beside_atomics (y := begun v c p) (x := atomBegin c order scope p) c.team.ctx a o operand
  have hvalues : (atomics (beside (begun v c p) (atomBegin c order scope p)) c.team.ctx a o operand).1 =
      (atomDone c a o order scope operand p).1 := by
    rw [hlanes]
    rfl
  have hstate : (atomics (beside (begun v c p) (atomBegin c order scope p)) c.team.ctx a o operand).2 =
      beside (begun v c p) (atomDone c a o order scope operand p).2 := by
    rw [hlanes]
    rfl
  have hbytes : ∀ b, homeByte (atomics (beside (begun v c p) (atomBegin c order scope p)) c.team.ctx a o operand).2 b =
      homeByte (atomDone c a o order scope operand p).2 b := fun b => by
    rw [hstate]
    rfl
  have hobj : readObj (atomics (beside (begun v c p) (atomBegin c order scope p)) c.team.ctx a o operand).2 =
      readObj (atomDone c a o order scope operand p).2 := by
    rw [hstate]
    rfl
  have heq := atomLanes_eq (begun v c p) (startUnit p v c) a o order scope operand
  rw [hbegin] at heq
  refine ⟨_, heq.trans (congrArg (·, _) hvalues), ?_, fun b hb => ?_⟩
  · rw [← hbegin]
    exact (kept_atomBegin.mono (by simp)).trans ((kept_atomics.mono (by simp)).trans kept_atomEnd)
  · refine (homeByte_atomEnd fun off hoff k hk hbyte => hb ?_).trans (hbytes b)
    obtain ⟨q, hq, rfl⟩ := mem_placed_offs hoff
    refine ⟨q, hq, k, hk, hbyte.trans ?_⟩
    exact congrArg (fun f : Nat → Nat → ObjEntry => pageAddr (f c.team.ctx a.c.oid.toNat) (a.objOff q.2 / 65536) + k) hobj

end Sys2Proof.Machine
end

section
/-! ATOM and RED: operands, results, and what their issue leaves (R220, R221). -/
namespace Sys2Proof.Machine

variable {s p e q r : State} {c : Ctx} {i : Instr} {v : UnitOp} {g g' G : Group}

/-! Operands read as before the unit begins. -/

theorem startUnit_off (p : State) (v : UnitOp) {a : Src} (o40 : Bool) (l : Nat) (h : ∀ j, a = .y j → c.g.run.isSome = true) :
    (startUnit p v c).off o40 a l = c.off o40 a l := by
  have hrd : ∀ ek, (startUnit p v c).rd ek a l = c.rd ek a l := fun ek => started_rd p v c c.team ek l h
  show (started p v c c.team).off o40 a l = _
  cases a with
  | v j => simp only [Ctx.off, started_readReg, started_wb]
  | s j => simp only [Ctx.off, started_readS]
  | _ => exact hrd (.int 32)

theorem startUnit_accessOf (p : State) (v : UnitOp) (cap need sz acc : Nat) (o40 : Bool) {a : Src}
    (h : ∀ j, a = .y j → c.g.run.isSome = true) : accessOf (startUnit p v c) cap need sz acc o40 a = accessOf c cap need sz acc o40 a := by
  have hlanes : (startUnit p v c).lanes = c.lanes := started_lanes p v c c.team
  unfold accessOf
  rw [startUnit_cap, hlanes]
  simp only [startUnit_off p v o40 _ h]

theorem startUnit_regWord (p : State) (v : UnitOp) (i k l : Nat) : regWord (startUnit p v c) i k l = regWord c i k l := by
  show regWord (started p v c c.team) i k l = _
  unfold regWord
  simp only [started_readReg, started_wb]

theorem startUnit_storeBytesOf (p : State) (v : UnitOp) {d : Src} (sz l : Nat) (h : ∀ j, d = .y j → c.g.run.isSome = true) :
    storeBytesOf (startUnit p v c) d sz l = storeBytesOf c d sz l := by
  have hrd : ∀ sg, (startUnit p v c).rd64 sg d l = c.rd64 sg d l := fun sg => started_rd64 p v c c.team sg l h
  cases d with
  | v j =>
    show leBytes _ ((upto (regsOfSize sz)).foldl (fun w k =>
      w + 2 ^ (32 * k) * readReg (started p v c c.team).g ((started p v c c.team).g.wb + j + k) l) 0) = _
    simp only [started_readReg, started_wb]
    rfl
  | zero => rfl
  | y j =>
    have hlatch : readLatch (startUnit p v c).g j l = readLatch c.g j l := started_readLatch p v c c.team (h j rfl)
    unfold storeBytesOf storeBytes
    simp only [hrd, hlatch]
  | _ => exact congrArg (leBytes (2 ^ sz)) (hrd false)

theorem startUnit_redOperand (p : State) (v : UnitOp) (x : RedU) (l : Nat) (h : ∀ j, x.d = .y j → c.g.run.isSome = true) :
    redOperand (startUnit p v c) x l = redOperand c x l := by
  have hrd : ∀ ek, (startUnit p v c).rd ek x.d l = c.rd ek x.d l := fun ek => started_rd p v c c.team ek l h
  have hrd64 : ∀ sg, (startUnit p v c).rd64 sg x.d l = c.rd64 sg x.d l := fun sg => started_rd64 p v c c.team sg l h
  unfold redOperand
  rw [hrd, hrd64, startUnit_storeBytesOf p v x.sz l h]

/-! The end of the unit. -/

/-- A unit of price 3 whose effect ends with the state fin. -/
theorem atom_finishes {fin : State} {X : Nat → Prop} (hu : PassesAlone i s c v) (hprice : v.price = 3)
    (heffect : v.effect (startUnit (payIssue s c 3) v c) (begun v c (payIssue s c 3)) = fin)
    (hkept : Kept [.bytes, .lines, .grids] (begun v c (payIssue s c 3)) e) (hbytes : BytesKept r e X) (hfin : IssueKept c e fin)
    (hgroup : fin.group? c.die c.handle c.grp = some G) :
    ∃ t g', Completes i s t c g' ∧ SplitsOnly g' (latchesClear G) ∧ UnitKept [.bytes, .lines, .counters, .grids] s t c ∧ BytesKept r t X := by
  have hexec := exec_alone hu
  rw [hprice, heffect] at hexec
  obtain ⟨g', hg', hsplits⟩ := group_endRun hgroup
  have hpay : Kept (.teams :: .pairs :: [.bytes, .lines, .counters, .grids]) s (payIssue s c 3) := (kept_payIssue c 3).mono (by simp)
  have hunit := unitKept_alone hpay (payIssue_team? s c 3) (hkept.mono (by simp)) (by decide) hfin
  exact ⟨_, g', ⟨hexec, hg'⟩, hsplits, hunit, fun b hb =>
    ((hfin.trans issueKept_endRun).kept .bytes (by decide) b).trans (hbytes b hb)⟩

/-- The group as the effect of a unit of price 3 has it. -/
theorem group_atomBegun (hu : PassesAlone i s c v) (hkept : Kept [.bytes, .lines, .grids] (begun v c (payIssue s c 3)) e) :
    e.group? c.die c.handle c.grp = some (startUnit (payIssue s c 3) v c).g :=
  group_begun hu.issuer (payIssue_team? s c 3) hkept (by decide)

theorem group_startCommit {f : Group → Group} (h : e.group? c.die c.handle c.grp = some (startUnit p v c).g) :
    ((startUnit p v c).commit e f).group? c.die c.handle c.grp = some (f (startUnit p v c).g) :=
  group_commit (k := startUnit p v c) f h

/-! RED. -/

/-- The unit of RED. -/
def redUnit (x : RedU) : UnitOp :=
  { h := x.h, refs := refsOf [storeRefs x.d x.sz, offRefs x.a x.o40, cRead x.c], price := 3
    gate := fun c s => atomGate s c (accessOf c x.c rA x.sz 2 x.o40 x.a) (orderOf x.h).1 (orderOf x.h).2
    effect := fun c s =>
      (atomLanes s c (accessOf c x.c rA x.sz 2 x.o40 x.a) x.op (orderOf x.h).1 (orderOf x.h).2 (fun l => (redOperand c x l, 0))).2 }

theorem exec_red (x : RedU) (s : State) : exec (.red x) s = issue (redUnit x) s := rfl

/-- A latch that the address names stands in an open run. -/
theorem offRefs_open {a : Src} {o40 : Bool} {h : Hdr} {w ret : Bool} {refs : Refs} {n : Nat} (hm : mayPerform s c h w refs n ret = true)
    (hy : ∀ j ∈ (offRefs a o40).y, j ∈ refs.y) : ∀ j, a = .y j → c.g.run.isSome = true := by
  rintro j rfl
  exact latch_open hm (hy j (by simp [offRefs, srcRefs, upto]))

theorem storeRefs_open {d : Src} {sz : Nat} {h : Hdr} {w ret : Bool} {refs : Refs} {n : Nat} (hm : mayPerform s c h w refs n ret = true)
    (hy : ∀ j ∈ (storeRefs d sz).y, j ∈ refs.y) : ∀ j, d = .y j → c.g.run.isSome = true := by
  rintro j rfl
  refine latch_open hm (hy j ?_)
  unfold storeRefs
  dsimp only
  split <;> simp [srcRefs, upto]

theorem red_leaves {x : RedU} (hu : PassesAlone (.red x) s c (redUnit x)) :
    let a := accessOf c x.c rA x.sz 2 x.o40 x.a
    let r := (atomDone c a x.op (orderOf x.h).1 (orderOf x.h).2 (fun l => (redOperand c x l, 0)) (payIssue s c 3)).2
    ∃ t g', Completes (.red x) s t c g' ∧ RegsKept c g' ∧ UnitKept [.bytes, .lines, .counters, .grids] s t c ∧
      BytesKept r t (entryByte r c.team.ctx a) := by
  intro a r
  have hopenA : ∀ j, x.a = .y j → c.g.run.isSome = true := offRefs_open (o40 := x.o40) hu.may fun j hj => by simp [redUnit, refsOf, Refs.add, hj]
  have hopenD : ∀ j, x.d = .y j → c.g.run.isSome = true := storeRefs_open (sz := x.sz) hu.may fun j hj => by simp [redUnit, refsOf, Refs.add, hj]
  obtain ⟨e, hlanes, hkept, hbytes⟩ := atomLanes_begun (payIssue s c 3) (redUnit x) c a x.op (orderOf x.h).1 (orderOf x.h).2
    (fun l => (redOperand c x l, 0))
  have heffect : (redUnit x).effect (startUnit (payIssue s c 3) (redUnit x) c) (begun (redUnit x) c (payIssue s c 3)) = e := by
    have hoperand : (fun l => (redOperand (startUnit (payIssue s c 3) (redUnit x) c) x l, 0)) = fun l => (redOperand c x l, 0) :=
      funext fun l => congrArg (·, 0) (startUnit_redOperand _ _ x l hopenD)
    show (atomLanes _ _ (accessOf (startUnit (payIssue s c 3) (redUnit x) c) x.c rA x.sz 2 x.o40 x.a) _ _ _
      (fun l => (redOperand (startUnit (payIssue s c 3) (redUnit x) c) x l, 0))).2 = e
    rw [startUnit_accessOf _ _ _ _ _ _ _ hopenA, hoperand, hlanes]
  obtain ⟨t, g', hdone, hsplits, hunit, hhome⟩ := atom_finishes hu rfl heffect hkept hbytes (.refl e) (group_atomBegun hu hkept)
  exact ⟨t, g', hdone, regsKept_alone hu.single (.refl _) rfl hsplits, hunit, hhome⟩

/-! ATOM. -/

/-- The operands of an ATOM's lane: the value and, for CAS, what the location must hold. -/
def atomOperand (c : Ctx) (x : AtomU) (l : Nat) : Nat × Nat :=
  if x.op = .cas then (regWord c (x.d + regsOfSize x.sz) (regsOfSize x.sz) l, regWord c x.d (regsOfSize x.sz) l)
  else (regWord c x.d (regsOfSize x.sz) l, 0)

/-- A lane's old value. -/
def oldValue (ms : List (Nat × Nat)) (l : Nat) : Nat := ((ms.find? (fun m => m.1 == l)).map (·.2)).getD 0

/-- The unit of ATOM. -/
def atomUnit (x : AtomU) : UnitOp :=
  { h := x.h, refs := refsOf [vRead x.d (atomRegs x.op x.sz), offRefs x.a x.o40, cRead x.c], price := 3
    gate := fun c s => atomGate s c (accessOf c x.c rA x.sz 2 x.o40 x.a) (orderOf x.h).1 (orderOf x.h).2
    effect := fun c s =>
      let r := atomLanes s c (accessOf c x.c rA x.sz 2 x.o40 x.a) x.op (orderOf x.h).1 (orderOf x.h).2 (atomOperand c x)
      c.commit r.2 (putLoad c (.v x.d false) x.sz (oldValue r.1)) }

theorem exec_atom (x : AtomU) (s : State) : exec (.atom x) s = issue (atomUnit x) s := rfl

theorem atomUnit_effect (x : AtomU) (c : Ctx) (s : State) : (atomUnit x).effect c s =
    (let r := atomLanes s c (accessOf c x.c rA x.sz 2 x.o40 x.a) x.op (orderOf x.h).1 (orderOf x.h).2 (atomOperand c x)
     c.commit r.2 (putLoad c (.v x.d false) x.sz (oldValue r.1))) := rfl

theorem startUnit_atomOperand (p : State) (v : UnitOp) (x : AtomU) : atomOperand (startUnit p v c) x = atomOperand c x := by
  funext l
  unfold atomOperand
  simp only [startUnit_regWord]

/-- The registers after a result of n words in vector registers. -/
theorem vecResult_alone {d n : Nat} {f : Nat → Nat} (hw : v.w = false)
    (h : SplitsOnly g' (latchesClear ((startUnit p v c).put (.v d false) n f (startUnit p v c).g))) :
    (∀ l ∈ c.lanes, ∀ j < n, readReg g' (c.g.wb + d + j) l = f l / 2 ^ (32 * j) % 2 ^ 32) ∧
      VregsKept c g' (.v d false) n ∧ ScalarsKept c g' ∧ MasksKept c g' ∧ CapsKept c g' ∧ FlagsKept c g' ∧ RunEnds g' := by
  obtain ⟨⟨hv, hs, hmasks, hcaps, hwb, hflags⟩, -, hvalid, hrun⟩ := h.regs
  obtain ⟨hreg, -, -, hothers⟩ := put_spec (startUnit p v c) (.v d false) n f (startUnit p v c).g
  obtain ⟨kv, ks, kmasks, kcaps, kwb, kflags⟩ := (started_g p v c c.team).1
  have hlanes : (startUnit p v c).lanes = c.lanes := started_lanes p v c c.team
  have hread : ∀ k l, readReg g' k l = readReg ((startUnit p v c).put (.v d false) n f (startUnit p v c).g) k l := fun k l => by
    unfold readReg
    rw [hv]
    rfl
  have hwb' : (startUnit p v c).g.wb = c.g.wb := kwb
  rw [hwb', hlanes] at hreg
  refine ⟨fun l hl j hj => ?_, fun k l hl hno => ?_, ?_⟩
  · have hcovers : dstCovers (.v d false) c.g.wb n (c.g.wb + d + j) = true := by simp [dstCovers, hj]
    have hindex : dstIndex (.v d false) c.g.wb (c.g.wb + d + j) = j := by simp [dstIndex]
    rw [hread, hreg _ l (lane_lt hl), if_pos ⟨hcovers, hl⟩, hindex]
  · rw [hread, hreg k l hl, if_neg]
    · exact started_readReg p v c c.team k l
    · rintro ⟨hcovers, hmem⟩
      simp only [dstCovers, Bool.and_eq_true, decide_eq_true_eq] at hcovers
      obtain ⟨hle, hlt⟩ := hcovers
      exact hno d (k - (c.g.wb + d)) rfl hlt (by omega) hmem
  · exact ⟨hs.trans ((congrArg Group.scalars hothers).trans ks), hmasks.trans ((congrArg Group.masks hothers).trans kmasks),
      ⟨hcaps.trans ((congrArg Group.caps hothers).trans kcaps), hwb.trans ((congrArg Group.wb hothers).trans kwb)⟩,
      hflags.trans ((congrArg Group.fflags hothers).trans kflags),
      hrun.trans ((congrArg Group.run hothers).trans (started_run (p := p) hw)), hvalid⟩

theorem atom_leaves {x : AtomU} {a : Access} {r : List (Nat × Nat) × State} (hu : PassesAlone (.atom x) s c (atomUnit x))
    (ha : a = accessOf c x.c rA x.sz 2 x.o40 x.a)
    (hr : r = atomDone c a x.op (orderOf x.h).1 (orderOf x.h).2 (atomOperand c x) (payIssue s c 3)) :
    ∃ t g', Completes (.atom x) s t c g' ∧
      (∀ l ∈ c.lanes, ∀ j < regsOfSize x.sz, readReg g' (c.g.wb + x.d + j) l = oldValue r.1 l / 2 ^ (32 * j) % 2 ^ 32) ∧
      VregsKept c g' (.v x.d false) (regsOfSize x.sz) ∧ ScalarsKept c g' ∧ MasksKept c g' ∧ CapsKept c g' ∧ FlagsKept c g' ∧ RunEnds g' ∧
      UnitKept [.bytes, .lines, .counters, .grids] s t c ∧ BytesKept r.2 t (entryByte r.2 c.team.ctx a) := by
  have hopen : ∀ j, x.a = .y j → c.g.run.isSome = true :=
    offRefs_open (o40 := x.o40) hu.may fun j hj => by simp [atomUnit, refsOf, Refs.add, hj]
  obtain ⟨e, hlanes, hkept, hbytes⟩ := atomLanes_begun (payIssue s c 3) (atomUnit x) c a x.op (orderOf x.h).1 (orderOf x.h).2
    (atomOperand c x)
  rw [← hr] at hlanes hbytes
  have heffect : (atomUnit x).effect (startUnit (payIssue s c 3) (atomUnit x) c) (begun (atomUnit x) c (payIssue s c 3)) =
      (startUnit (payIssue s c 3) (atomUnit x) c).commit e
        (putLoad (startUnit (payIssue s c 3) (atomUnit x) c) (.v x.d false) x.sz (oldValue r.1)) := by
    rw [atomUnit_effect, startUnit_accessOf _ _ _ _ _ _ _ hopen, startUnit_atomOperand, ← ha, hlanes]
  obtain ⟨t, g', hdone, hsplits, hunit, hhome⟩ := atom_finishes hu rfl heffect hkept hbytes (issueKept_commit _ rfl)
    (group_startCommit (group_atomBegun hu hkept))
  obtain ⟨hwords, hvregs, hscalars, hmasks, hcaps, hflags, hrun⟩ :=
    vecResult_alone (p := payIssue s c 3) (d := x.d) (n := regsOfSize x.sz) (f := oldValue r.1) hu.single hsplits
  exact ⟨t, g', hdone, hwords, hvregs, hscalars, hmasks, hcaps, hflags, hrun, hunit, hhome⟩

theorem atomicInstructionResults : AtomicInstructionResultsHold := by
  intro s c ha
  refine ⟨fun x hp hgo => ?_, fun x hp hgo => ?_⟩
  · obtain ⟨hc, hm⟩ := hp
    exact atom_leaves ⟨exec_atom x s, hc, hm, rfl, ha, rfl, hgo, nofun⟩ rfl rfl
  · obtain ⟨hc, hm⟩ := hp
    exact red_leaves ⟨exec_red x s, hc, hm, rfl, ha, rfl, hgo, nofun⟩

/-- Settles O19: an operation at its home, and a unit's operations folded over its lanes; what the issue itself changes stands beside
the caches and the homes. -/
theorem atomicResults : Obligations.AtomicResults := ⟨atomicOperationResults, atomicInstructionResults⟩

end Sys2Proof.Machine
end
